-- ==== Sys2Proof/Word.lean ====
section
/-!
DEFINITION. Sys2Proof/Word.lean: the words of the machine and their plainest arithmetic.
Bits are numbered from 0 at the least significant bit (R3).
-/

namespace Sys2Proof

/-- A 64-bit register, pointer or scalar token value. -/
abbrev Word := BitVec 64

/-- One byte of memory. -/
abbrev Byte := BitVec 8

/-- A 16-bit parcel of the instruction stream (R34). -/
abbrev Parcel := BitVec 16

/-- The value of bit `i` of a natural number, as 0 or 1. -/
def natBit (n i : Nat) : Nat := n / 2 ^ i % 2

/-- Bits `[lo+len-1 : lo]` of a natural number. -/
def natBits (n lo len : Nat) : Nat := n / 2 ^ lo % 2 ^ len

/-- The signed value of the low `w` bits of `n`. -/
def natToInt (w n : Nat) : Int :=
  let x := n % 2 ^ w
  if 2 * x < 2 ^ w then (x : Int) else (x : Int) - (2 ^ w : Nat)

/-- The low `w` bits of an integer, as a natural number. -/
def intToNat (w : Nat) (v : Int) : Nat := (v % ((2 ^ w : Nat) : Int)).toNat

/-- Division rounded upward. -/
def ceilDiv (a b : Nat) : Nat := (a + b - 1) / b

/-- The least number `k ≤ fuel` with `n < 2 ^ k`, by counting halvings: the length of `n` in bits. -/
def bitLen : Nat → Nat → Nat
  | 0, _ => 0
  | fuel + 1, n => if n = 0 then 0 else bitLen fuel (n / 2) + 1

end Sys2Proof
end

