-- ==== Sys2Proof/Config.lean ====
section
/-!
DEFINITION. Sys2Proof/Config.lean: what an implementation fixes, the cause codes of the module
(0x00 to 0xBF, "How the manual is cut"), and the free values: constants without a body that stand
for every value the manual leaves open.
-/

namespace Sys2Proof

/-- A cause code (the chapter tables named at R33, R57, R114, R143, R163, R175, R232, R255, R309, R333,
R351, R395 and R416). -/
inductive Cause where
  | opcodeReserved | pmIllegal | targetInvalid | prefixInvalid | fieldInvalid | fieldReserved
  | scopeInvalid | prefixMismatch | lineFormat | branchTarget | headerFormat | pitchLimit
  | pitchCount | lsidConflict | tokenCollision | multiExit | pitchStall | tokenKind
  | undeclaredSlot | writeMapAlias | regIdInvalid | csrInvalid | noprogLoop | noprogStrip
  | descReserved | descFormat | scaleRange | widthRange | esIndex | loopState
  | fpeInvalid | fpeDivzero | fpeOverflow | fpeUnderflow | fpeInexact | loopRange
  | frameAccess | frameInvalid | transNotPresent | protection | spaceInvalid | misaligned
  | pointerTagOverflow | scratchBounds | refMisuse | refWrite | atomPath | refInvalid
  | refNull | refBounds | devregShape | remoteFailed | dataPoison | peerUnreachable
  | mxOrder | mxShape | mxOperand | mxPivot | esFull | cmdOperand
  | esState | spillFault | spillImage | cpyTrans | cpyProtection | cpyRecord
  | cpyScratch | cpyPoison | cpyAborted | cpyRemote | mxSlotNone | pairTimeout
  | pairPartnerFault | pairMismatch | barMismatch | barBroken | futureDoubleResolve | nestFormat
  | cardFormat | cardOperand | cardState | futureFormat | routerPoison | routerOperand
  | routerDecl | routerSet | routerStale | meshOperand | meshGen | meshCell
  | colConflict | meshFormat | meshResource | colOverflow | refColour | hpPin
  | hpPinned | hpFormat | dieSplitFenced | cdieReset | launchFormat | lbFormat
  | lbCapacity | fwVerify | hostAccess | linkLossOfLight | linkDegraded | linkDown
  | linkAuth | keyEpochRefused | keyExhausted | linkRestored | peerReset | invTimeout
  | fabNoroute | regattaOverrun | regattaFormat | regattaMismatch | uncorrectableSram | residueFail
  | watchdog | queueParity
  deriving DecidableEq, Repr

/-- The number of a cause code. -/
def Cause.code : Cause → Nat
  | .opcodeReserved => 0x00
  | .pmIllegal => 0x01
  | .targetInvalid => 0x02
  | .prefixInvalid => 0x03
  | .fieldInvalid => 0x04
  | .fieldReserved => 0x05
  | .scopeInvalid => 0x06
  | .prefixMismatch => 0x07
  | .lineFormat => 0x08
  | .branchTarget => 0x09
  | .headerFormat => 0x0A
  | .pitchLimit => 0x0B
  | .pitchCount => 0x0C
  | .lsidConflict => 0x0D
  | .tokenCollision => 0x10
  | .multiExit => 0x11
  | .pitchStall => 0x12
  | .tokenKind => 0x14
  | .undeclaredSlot => 0x15
  | .writeMapAlias => 0x16
  | .regIdInvalid => 0x17
  | .csrInvalid => 0x18
  | .noprogLoop => 0x20
  | .noprogStrip => 0x21
  | .descReserved => 0x22
  | .descFormat => 0x23
  | .scaleRange => 0x24
  | .widthRange => 0x25
  | .esIndex => 0x26
  | .loopState => 0x27
  | .fpeInvalid => 0x28
  | .fpeDivzero => 0x29
  | .fpeOverflow => 0x2A
  | .fpeUnderflow => 0x2B
  | .fpeInexact => 0x2C
  | .loopRange => 0x2D
  | .frameAccess => 0x2E
  | .frameInvalid => 0x2F
  | .transNotPresent => 0x40
  | .protection => 0x41
  | .spaceInvalid => 0x42
  | .misaligned => 0x43
  | .pointerTagOverflow => 0x44
  | .scratchBounds => 0x45
  | .refMisuse => 0x46
  | .refWrite => 0x47
  | .atomPath => 0x48
  | .refInvalid => 0x49
  | .refNull => 0x4A
  | .refBounds => 0x4B
  | .devregShape => 0x4C
  | .remoteFailed => 0x4D
  | .dataPoison => 0x4E
  | .peerUnreachable => 0x4F
  | .mxOrder => 0x60
  | .mxShape => 0x61
  | .mxOperand => 0x62
  | .mxPivot => 0x63
  | .esFull => 0x64
  | .cmdOperand => 0x65
  | .esState => 0x66
  | .spillFault => 0x68
  | .spillImage => 0x69
  | .cpyTrans => 0x70
  | .cpyProtection => 0x71
  | .cpyRecord => 0x72
  | .cpyScratch => 0x73
  | .cpyPoison => 0x74
  | .cpyAborted => 0x75
  | .cpyRemote => 0x76
  | .mxSlotNone => 0x7E
  | .pairTimeout => 0x80
  | .pairPartnerFault => 0x81
  | .pairMismatch => 0x82
  | .barMismatch => 0x84
  | .barBroken => 0x85
  | .futureDoubleResolve => 0x88
  | .nestFormat => 0x89
  | .cardFormat => 0x8A
  | .cardOperand => 0x8B
  | .cardState => 0x8C
  | .futureFormat => 0x8D
  | .routerPoison => 0x90
  | .routerOperand => 0x91
  | .routerDecl => 0x92
  | .routerSet => 0x93
  | .routerStale => 0x94
  | .meshOperand => 0x95
  | .meshGen => 0x96
  | .meshCell => 0x97
  | .colConflict => 0x98
  | .meshFormat => 0x99
  | .meshResource => 0x9A
  | .colOverflow => 0x9B
  | .refColour => 0x9C
  | .hpPin => 0x9D
  | .hpPinned => 0x9E
  | .hpFormat => 0x9F
  | .dieSplitFenced => 0xA0
  | .cdieReset => 0xA1
  | .launchFormat => 0xA2
  | .lbFormat => 0xA3
  | .lbCapacity => 0xA4
  | .fwVerify => 0xA5
  | .hostAccess => 0xA6
  | .linkLossOfLight => 0xA8
  | .linkDegraded => 0xA9
  | .linkDown => 0xAA
  | .linkAuth => 0xAB
  | .keyEpochRefused => 0xAC
  | .keyExhausted => 0xAD
  | .linkRestored => 0xAE
  | .peerReset => 0xB0
  | .invTimeout => 0xB2
  | .fabNoroute => 0xB3
  | .regattaOverrun => 0xB4
  | .regattaFormat => 0xB5
  | .regattaMismatch => 0xB6
  | .uncorrectableSram => 0xB8
  | .residueFail => 0xB9
  | .watchdog => 0xBA
  | .queueParity => 0xBB

/-- The free values: what the manual leaves open is this constant applied to a counter of the state, so
no statement can rest on which value it is. -/
opaque Config.freeNat : Nat → Nat

/-- A free word (see `Config.freeNat`). -/
opaque Config.freeWord : Nat → Word

/-- A free byte (see `Config.freeNat`). -/
opaque Config.freeByte : Nat → Byte

/-- A free choice (see `Config.freeNat`). -/
opaque Config.freeBool : Nat → Bool

/-- What a byte of memory reads as while nothing has written it (a DESIGN CHOICE of log entry 2). -/
def Config.emptyByte : Byte := 0

end Sys2Proof
end

