-- ==== Sys2Proof/Syntax.lean ====
section
/-!
DEFINITION. Sys2Proof/Syntax.lean: the operations and events of the machine as data, one constructor of
`Instr` per row of the opcode table. Instructions carry the decoded fields of their words (R43, R46,
R48, R49 and the payload layouts of the prefixed families); events carry what names them (a strand
context, a queued request, a core, a die, or what arrives from outside the module).
-/

namespace Sys2Proof

/-- Predicate mode (R43). -/
inductive Pm where
  | always | onTrue | onFalse
  deriving DecidableEq, Repr

/-- Integer shape (R43). -/
inductive Shape where
  | s64 | s32 | v | vss | vsu | vw
  deriving DecidableEq, Repr

/-- The kind of a target field (R44). -/
inductive TKind where
  | left | right | pred | write
  deriving DecidableEq, Repr

/-- A target field of nine bits (R44). -/
structure Target where
  kind  : TKind
  index : BitVec 7
  deriving DecidableEq, Repr

/-- The target 0x1FF, which delivers nothing (R44). -/
def Target.none : Target := ⟨.write, 127⟩

/-- The extra targets of a kind-1 prefix (R53). -/
structure Fan where
  t2 : Target
  t3 : Target
  deriving DecidableEq, Repr

/-- What may precede an immediate form or a load: nothing, a kind-0 prefix with its IMM26, or a kind-1
prefix (R51). -/
inductive Pre where
  | bare
  | imm (v : BitVec 26)
  | fan (f : Fan)
  deriving DecidableEq, Repr

/-- Integer forms with two token operands or one (R94). -/
structure IntArgs where
  pm    : Pm
  shape : Shape
  t1    : Target
  t0    : Target
  fan   : Option Fan
  deriving DecidableEq, Repr

/-- addi and andi (R45, R95). -/
structure ImmArgs where
  pm    : Pm
  shape : Shape
  imm9  : BitVec 9
  t0    : Target
  pre   : Pre
  deriving DecidableEq, Repr

/-- slli, srli and srai: IMM9[5:0] is the amount (R45). -/
structure ShiftArgs where
  pm    : Pm
  shape : Shape
  sh    : BitVec 6
  t0    : Target
  fan   : Option Fan
  deriving DecidableEq, Repr

/-- The pointer field a tagged-pointer instruction selects (R97). -/
inductive PtrField where
  | space | offset | place
  deriving DecidableEq, Repr

/-- padd, pset and pget (R98). -/
structure PtrArgs where
  pm    : Pm
  field : PtrField
  t1    : Target
  t0    : Target
  fan   : Option Fan
  deriving DecidableEq, Repr

/-- Floating-point, conversion and reduction forms: `d` is the index of the descriptor register (R43). -/
structure FpArgs where
  pm  : Pm
  d   : BitVec 3
  t1  : Target
  t0  : Target
  fan : Option Fan
  deriving DecidableEq, Repr

/-- Conditions of cmp and cmpi (R106). -/
inductive Cond where
  | eq | ne | lt | ge | ltu | geu
  deriving DecidableEq, Repr

/-- cmp (R106). -/
structure CmpArgs where
  pm   : Pm
  cond : Cond
  t1   : Target
  t0   : Target
  fan  : Option Fan
  deriving DecidableEq, Repr

/-- cmpi (R106). -/
structure CmpiArgs where
  pm   : Pm
  cond : Cond
  imm9 : BitVec 9
  t0   : Target
  pre  : Pre
  deriving DecidableEq, Repr

/-- Forms whose AUX must be 0: sel, vins, mpop, viota, vcomp (R108, R110, R113). -/
structure PlainArgs where
  pm  : Pm
  t1  : Target
  t0  : Target
  fan : Option Fan
  deriving DecidableEq, Repr

/-- The sub-operations of vperm (R109). -/
inductive PermOp where
  | gather | up | dn | rev | bc
  deriving DecidableEq, Repr

/-- vperm (R109). -/
structure PermArgs where
  pm  : Pm
  op  : PermOp
  t1  : Target
  t0  : Target
  fan : Option Fan
  deriving DecidableEq, Repr

/-- vext and mrange: AUX bit 0 is `flag` (sign extension, R110; the sb form, R113). -/
structure FlagArgs where
  pm   : Pm
  flag : Bool
  t1   : Target
  t0   : Target
  fan  : Option Fan
  deriving DecidableEq, Repr

/-- mlog: AUX is the truth-table number of R111. -/
structure MlogArgs where
  pm  : Pm
  op  : BitVec 3
  t1  : Target
  t0  : Target
  fan : Option Fan
  deriving DecidableEq, Repr

/-- The sub-operations of mfirst (R112). -/
inductive FirstOp where
  | idx | sbf | sif | sof
  deriving DecidableEq, Repr

/-- mfirst (R112). -/
structure FirstArgs where
  pm  : Pm
  op  : FirstOp
  t1  : Target
  t0  : Target
  fan : Option Fan
  deriving DecidableEq, Repr

/-- WS values (R46). -/
inductive MemW where
  | b | h | w | d | x | m | s
  deriving DecidableEq, Repr

/-- Scopes 0 to 11 in encoding order (R61, R266). -/
inductive Scope where
  | strand | engine | crew | cluster | rope | die | home | package | host | group | fabric | system
  deriving DecidableEq, Repr

/-- The ordering of an atomic (R46). -/
inductive AmoOrd where
  | rlx | acq | rel | ar | sc
  deriving DecidableEq, Repr

/-- Loads whose WS is a field (R125). -/
structure LoadArgs where
  pm   : Pm
  lsid : BitVec 5
  cls  : BitVec 4
  ws   : MemW
  t0   : Target
  pre  : Pre
  deriving DecidableEq, Repr

/-- Loads of one WS: ldx, ldm, ldref, ldref.h; and waitv (R125, R135). -/
structure LoadXArgs where
  pm   : Pm
  lsid : BitVec 5
  cls  : BitVec 4
  t0   : Target
  pre  : Pre
  deriving DecidableEq, Repr

/-- lda (R132). -/
structure LdaArgs where
  pm    : Pm
  lsid  : BitVec 5
  scope : Scope
  t0    : Target
  pre   : Pre
  deriving DecidableEq, Repr

/-- Stores whose WS is a field (R129); `imm` is the IMM26 of a kind-0 prefix. -/
structure StoreArgs where
  pm   : Pm
  lsid : BitVec 5
  cls  : BitVec 4
  ws   : MemW
  ofs5 : BitVec 5
  imm  : Option (BitVec 26)
  deriving DecidableEq, Repr

/-- Stores of one WS: stx, stm, stref (R129). -/
structure StoreXArgs where
  pm   : Pm
  lsid : BitVec 5
  cls  : BitVec 4
  ofs5 : BitVec 5
  imm  : Option (BitVec 26)
  deriving DecidableEq, Repr

/-- stl (R132). -/
structure StlArgs where
  pm    : Pm
  lsid  : BitVec 5
  scope : Scope
  ofs5  : BitVec 5
  imm   : Option (BitVec 26)
  deriving DecidableEq, Repr

/-- fence: the class mask of its kind-0 prefix, if it has one (R52, R133). -/
structure FenceArgs where
  pm    : Pm
  lsid  : BitVec 5
  scope : Scope
  mask  : Option (BitVec 16)
  deriving DecidableEq, Repr

/-- The four counts of waitc (R52). -/
structure WaitCounts where
  loads  : BitVec 6
  stores : BitVec 6
  copies : BitVec 6
  tiles  : BitVec 6
  deriving DecidableEq, Repr

/-- waitc (R134). -/
structure WaitcArgs where
  pm     : Pm
  cls    : BitVec 4
  counts : Option WaitCounts
  deriving DecidableEq, Repr

/-- Atomics (R136). -/
structure AtomicArgs where
  pm    : Pm
  lsid  : BitVec 5
  scope : Scope
  ord   : AmoOrd
  t0    : Target
  fan   : Option Fan
  deriving DecidableEq, Repr

/-- br, br.call and br.es (R48). -/
structure BrArgs where
  pm  : Pm
  f   : Bool
  off : BitVec 17
  deriving DecidableEq, Repr

/-- br.ind and br.ret (R48). -/
structure BrIndArgs where
  pm : Pm
  f  : Bool
  deriving DecidableEq, Repr

/-- br.strip and setrecov (R48). -/
structure OffArgs where
  pm  : Pm
  off : BitVec 17
  deriving DecidableEq, Repr

/-- loop (R48). -/
structure LoopArgs where
  pm  : Pm
  lvl : Fin 6
  f   : Bool
  off : BitVec 17
  deriving DecidableEq, Repr

/-- loopc and loopw: `trip` is the IMM26 of a kind-0 prefix (R52). -/
structure LoopSetArgs where
  pm   : Pm
  lvl  : Fin 6
  xreg : BitVec 5
  off  : BitVec 12
  trip : Option (BitVec 26)
  deriving DecidableEq, Repr

/-- csrr (R49). -/
structure CsrrArgs where
  pm  : Pm
  csr : BitVec 12
  t0  : Target
  fan : Option Fan
  deriving DecidableEq, Repr

/-- csrw (R49). -/
structure CsrwArgs where
  pm  : Pm
  csr : BitVec 12
  t0  : Target
  deriving DecidableEq, Repr

/-- tz, ldt and stt (R198). -/
structure TileArgs where
  pm   : Pm
  td   : BitVec 3
  pair : Bool
  deriving DecidableEq, Repr

/-- opa (R198). -/
structure OpaArgs where
  pm  : Pm
  td  : BitVec 3
  ds  : BitVec 3
  neg : Bool
  deriving DecidableEq, Repr

/-- mvvt and mvtv (R198); `t0` is the target of mvtv, and `Target.none` for mvvt (R197). -/
structure TileMoveArgs where
  pm   : Pm
  td   : BitVec 3
  pair : Bool
  col  : Bool
  idx  : BitVec 5
  t0   : Target
  deriving DecidableEq, Repr

/-- The element format of scld (R203). -/
inductive ScaleFmt where
  | s9 | e8 | f32
  deriving DecidableEq, Repr

/-- scld (R198): `cnt` is the count less one. -/
structure ScldArgs where
  pm  : Pm
  e0  : BitVec 8
  cnt : BitVec 6
  sf  : ScaleFmt
  deriving DecidableEq, Repr

/-- ASRC and BSRC of gemm.t (R198). -/
inductive PanelSrc where
  | ptr | tile | mcast
  deriving DecidableEq, Repr

/-- gemm.t and gemm.t.pair (R198): `nstep` is the step count less one. -/
structure GemmArgs where
  pm    : Pm
  td    : BitVec 3
  ds    : BitVec 3
  asrc  : PanelSrc
  bsrc  : PanelSrc
  ta    : BitVec 3
  tb    : BitVec 3
  nstep : BitVec 10
  deriving DecidableEq, Repr

/-- chol.t, trsm.t, syrk.t and qr.t (R198). -/
structure BlockArgs where
  pm : Pm
  td : BitVec 3
  ds : BitVec 3
  bd : BitVec 4
  ts : BitVec 3
  bs : BitVec 4
  f1 : Bool
  f2 : Bool
  deriving DecidableEq, Repr

/-- Inline cpy (R220). -/
structure CpyArgs where
  pm  : Pm
  pri : BitVec 2
  len : BitVec 20
  t0  : Target
  deriving DecidableEq, Repr

/-- Engine commands with a priority and a result target (R220, R319, R344, R390, R414). -/
structure CmdArgs where
  pm  : Pm
  pri : BitVec 2
  t0  : Target
  deriving DecidableEq, Repr

/-- Forms with a predicate mode and no other field. -/
structure BareArgs where
  pm : Pm
  deriving DecidableEq, Repr

/-- esack, which keeps the PRI field of its payload (R220). -/
structure EsackArgs where
  pm  : Pm
  pri : BitVec 2
  deriving DecidableEq, Repr

/-- Forms with a result target and no other field. -/
structure ResArgs where
  pm : Pm
  t0 : Target
  deriving DecidableEq, Repr

/-- rt.push (R243). -/
structure RtSetArgs where
  pm  : Pm
  set : BitVec 2
  deriving DecidableEq, Repr

/-- rt.take (R243). -/
structure RtTakeArgs where
  pm     : Pm
  set    : BitVec 2
  poison : Bool
  t0     : Target
  deriving DecidableEq, Repr

/-- rt.drain (R243). -/
structure RtDrainArgs where
  pm  : Pm
  set : BitVec 2
  t0  : Target
  deriving DecidableEq, Repr

/-- rt.stat (R243); its SET names the set whose window CLOSE closes (R250). -/
structure RtStatArgs where
  pm    : Pm
  close : Bool
  t0    : Target
  deriving DecidableEq, Repr

/-- fut.set (R296). -/
structure FutSetArgs where
  pm   : Pm
  fail : Bool
  t0   : Target
  deriving DecidableEq, Repr

/-- The scope of a bar (R236). -/
inductive BarScope where
  | crew | cluster | rope
  deriving DecidableEq, Repr

/-- bar (R236): `cnt` is the participant count less one. -/
structure BarArgs where
  pm  : Pm
  bs  : BarScope
  bid : BitVec 4
  cnt : BitVec 10
  deriving DecidableEq, Repr

/-- nbr.ld (R319). -/
structure NbrArgs where
  pm   : Pm
  face : BitVec 3
  t0   : Target
  deriving DecidableEq, Repr

/-- nbr.ld2 (R319): `q` is Q, 0 or 1. -/
structure Nbr2Args where
  pm   : Pm
  face : BitVec 3
  q    : Bool
  t0   : Target
  deriving DecidableEq, Repr

/-- vsadd.col (R319). -/
structure VsaddArgs where
  pm : Pm
  ds : BitVec 3
  deriving DecidableEq, Repr

/-- hp.make (R344). -/
structure HpMakeArgs where
  pm     : Pm
  size16 : BitVec 20
  deriving DecidableEq, Repr

/-- Compressed forms with a target (R54). -/
structure CArgs where
  t0 : Target
  deriving DecidableEq, Repr

/-- c.li: `n` is COP − 0x10, so the value is n − 8 (R54). -/
structure CliArgs where
  n  : BitVec 4
  t0 : Target
  deriving DecidableEq, Repr

/-- What the host does through BAR2 (R386): a read or a write of at most 8 bytes at a window offset. -/
structure HostAccess where
  off   : Nat
  bytes : Nat
  wdata : Option Word
  deriving DecidableEq, Repr

/-- A PCIe AtomicOp from the host (R379). -/
inductive HostAtomicOp where
  | fetchAdd | swap | cas
  deriving DecidableEq, Repr

/-- A host AtomicOp through BAR2 (R379). -/
structure HostAtomic where
  off   : Nat
  bytes : Nat
  op    : HostAtomicOp
  y     : BitVec 128
  z     : BitVec 128
  deriving DecidableEq, Repr

/-- The TYPE of a flit, in encoding order (R402). -/
inductive FlitType where
  | req | resp | engine | mcast | ack | keyRetire | lane | idle
  deriving DecidableEq, Repr

/-- What a flit carries. The manual gives the layout of no payload (R402); these are the meanings its rules give them: a request of a
peer (a sector read, a masked write, an atomic, a future operation, a batch of posts: R306, R408) with the number that its answer
repeats, an invalidation and its acknowledgement (R408), an answer with the code of a failure, the flits of a cross-chip copy (R411)
and of a multicast (R412), where `org` is the chip whose command it is and `user` tells a command or strand in user mode, an ACK or
NAK (R404) and the working mask of a port (R406). -/
inductive Pay where
  | none
  | read (id : Nat) (addr : Word) (user : Bool)
  | write (id : Nat) (addr : Word) (user : Bool) (data : List (Byte × Byte))
  | amo (id : Nat) (addr : Word) (user : Bool) (op w y z : Nat)
  | futWait (id : Nat) (fut card : Word) (user : Bool)
  | futSet (id : Nat) (fut val : Word) (fail user : Bool)
  | posts (id : Nat) (l : List (Word × Nat × Nat))
  | inval (sector : Nat)
  | invAck (sector : Nat)
  | answer (id code : Nat) (data : List Byte)
  | openWrite (cmd : Nat) (dst : Word) (len : Nat) (user : Bool)
  | openRead (cmd : Nat) (src : Word) (len : Nat) (user : Bool)
  | data (org cmd : Nat) (bytes : List Byte)
  | done (cmd code : Nat) (addr : Word) (detail : Nat)
  | mcast (org cmd : Nat) (dst : Word) (len : Nat) (members : List Nat) (user : Bool)
  | ack (next : Nat) (nak : Bool)
  | lane (mask : Nat)
  deriving DecidableEq, Repr

/-- A flit: the header fields that the rules read, what it carries, and, as it arrives, whether its CRC and its tag check
(R402, R404). -/
structure FlitIn where
  seq   : Nat
  epoch : Bool
  type  : FlitType
  inc   : Nat
  dst   : Nat
  src   : Nat
  hops  : Nat
  pay   : Pay
  crc   : Bool
  tag   : Bool
  deriving DecidableEq, Repr

/-- The operations and events of the opcode table, one constructor per row. -/
inductive Instr where
  /-- R94: Adds the left and right operands under the integer shape in AUX, wrapping or saturating as the shape says. -/
  | add (o : IntArgs)
  /-- R94: Subtracts the right operand from the left under the integer shape. -/
  | sub (o : IntArgs)
  /-- R94: Bitwise AND of the two operands. -/
  | and (o : IntArgs)
  /-- R94: Bitwise OR of the two operands. -/
  | or (o : IntArgs)
  /-- R94: Bitwise XOR of the two operands. -/
  | xor (o : IntArgs)
  /-- R94: Left operand AND NOT right operand. -/
  | andn (o : IntArgs)
  /-- R95: Shifts left by the right operand taken modulo the width. -/
  | sll (o : IntArgs)
  /-- R95: Logical right shift by the right operand modulo the width. -/
  | srl (o : IntArgs)
  /-- R95: Arithmetic right shift by the right operand modulo the width. -/
  | sra (o : IntArgs)
  /-- R94: Signed minimum of the two operands. -/
  | min (o : IntArgs)
  /-- R94: Signed maximum of the two operands. -/
  | max (o : IntArgs)
  /-- R94: Unsigned minimum of the two operands. -/
  | minu (o : IntArgs)
  /-- R94: Unsigned maximum of the two operands. -/
  | maxu (o : IntArgs)
  /-- R95: Adds the sign-extended IMM9 to the left operand under the shape. -/
  | addi (o : ImmArgs)
  /-- R95: ANDs the sign-extended IMM9 into the left operand. -/
  | andi (o : ImmArgs)
  /-- R95: Shifts left by IMM9[5:0] modulo the width. -/
  | slli (o : ShiftArgs)
  /-- R94: Multiplies the operands under the shape, keeping the low, widened or clamped product. -/
  | mul (o : IntArgs)
  /-- R94: High half of the signed product. -/
  | mulh (o : IntArgs)
  /-- R94: High half of the unsigned product. -/
  | mulhu (o : IntArgs)
  /-- R96: Signed division truncated toward zero, with fixed results for a zero divisor and overflow. -/
  | div (o : IntArgs)
  /-- R96: Unsigned division, all ones for a zero divisor. -/
  | divu (o : IntArgs)
  /-- R96: Signed remainder with the sign of the dividend. -/
  | rem (o : IntArgs)
  /-- R96: Unsigned remainder. -/
  | remu (o : IntArgs)
  /-- R95: Logical right shift by IMM9[5:0]. -/
  | srli (o : ShiftArgs)
  /-- R95: Arithmetic right shift by IMM9[5:0]. -/
  | srai (o : ShiftArgs)
  /-- R94: Counts leading zero bits within the width. -/
  | clz (o : IntArgs)
  /-- R94: Counts trailing zero bits within the width. -/
  | ctz (o : IntArgs)
  /-- R94: Counts one bits within the width. -/
  | popc (o : IntArgs)
  /-- R96: Extracts a bit field described by the right operand, zero- or sign-extended. -/
  | bfx (o : IntArgs)
  /-- R98: Adds a signed value to a selected field of a tagged pointer, faulting on overflow. -/
  | padd (o : PtrArgs)
  /-- R98: Replaces a selected field of a tagged pointer. -/
  | pset (o : PtrArgs)
  /-- R98: Delivers a selected field of a tagged pointer, zero-extended. -/
  | pget (o : PtrArgs)
  /-- R100: Floating-point addition under the descriptor. -/
  | vfadd (o : FpArgs)
  /-- R100: Floating-point subtraction. -/
  | vfsub (o : FpArgs)
  /-- R100: Floating-point multiplication. -/
  | vfmul (o : FpArgs)
  /-- R100: Correctly rounded floating-point division. -/
  | vfdiv (o : FpArgs)
  /-- R100: Correctly rounded square root. -/
  | vfsqrt (o : FpArgs)
  /-- R101: Floating-point minimum with the NaN rules of R101. -/
  | vfmin (o : FpArgs)
  /-- R101: Floating-point maximum with the NaN rules of R101. -/
  | vfmax (o : FpArgs)
  /-- R100: Clears the sign, exactly. -/
  | vfabs (o : FpArgs)
  /-- R100: Inverts the sign, exactly. -/
  | vfneg (o : FpArgs)
  /-- R100: Fused a times b plus c with one rounding. -/
  | vfma (o : FpArgs)
  /-- R100: Fused a times b minus c with one rounding. -/
  | vfms (o : FpArgs)
  /-- R100: Fused minus a times b plus c with one rounding. -/
  | vfnma (o : FpArgs)
  /-- R100: Fused minus a times b minus c with one rounding. -/
  | vfnms (o : FpArgs)
  /-- R100: Correctly rounded reciprocal. -/
  | vfrcp (o : FpArgs)
  /-- R100: Correctly rounded reciprocal square root. -/
  | vfrsq (o : FpArgs)
  /-- R100: Magnitude of a with the sign of b. -/
  | vfsgn (o : FpArgs)
  /-- R102: Delivers a one-hot class mask of the operand. -/
  | vfclass (o : FpArgs)
  /-- R100: Multiplies a by two to the integer power b with one rounding. -/
  | vfscale (o : FpArgs)
  /-- R100: Delivers the binary exponent of the operand. -/
  | vflogb (o : FpArgs)
  /-- R100: Rounds to an integral value in its own format under RM. -/
  | vfrnd (o : FpArgs)
  /-- R103: Converts each element from FA to FD, optionally applying S9 block scales. -/
  | vcvt (o : FpArgs)
  /-- R104: Quantises elements to a block format by dividing by their S9 scale. -/
  | vcvtb (o : FpArgs)
  /-- R87: Ordered reduction sum of a vector into an initial scalar. -/
  | vsumO (o : FpArgs)
  /-- R87: Tree reduction sum of a vector into an initial scalar. -/
  | vsumT (o : FpArgs)
  /-- R105: Least of the initial value and the non-null elements. -/
  | vminR (o : FpArgs)
  /-- R105: Greatest of the initial value and the non-null elements. -/
  | vmaxR (o : FpArgs)
  /-- R105: AND reduction of the initial value and the non-null elements. -/
  | vandR (o : FpArgs)
  /-- R105: OR reduction of the initial value and the non-null elements. -/
  | vorR (o : FpArgs)
  /-- R106: Compares two operands under the condition in AUX, delivering a mask or scalar 0/1. -/
  | cmp (o : CmpArgs)
  /-- R106: Compares the left operand with IMM9 under the condition in AUX. -/
  | cmpi (o : CmpiArgs)
  /-- R107: Floating-point equality comparison. -/
  | vfeq (o : FpArgs)
  /-- R107: Floating-point less-than comparison. -/
  | vflt (o : FpArgs)
  /-- R107: Floating-point less-or-equal comparison. -/
  | vfle (o : FpArgs)
  /-- R107: Unordered test: 1 where either operand is NaN. -/
  | vfun (o : FpArgs)
  /-- R108: Selects a or b per element under a condition mask or scalar. -/
  | sel (o : PlainArgs)
  /-- R109: Permutes, shifts, reverses or broadcasts vector elements as AUX selects. -/
  | vperm (o : PermArgs)
  /-- R110: Extracts one vector element as a scalar, zero- or sign-extended. -/
  | vext (o : FlagArgs)
  /-- R110: Delivers a vector with one element replaced by a scalar. -/
  | vins (o : PlainArgs)
  /-- R111: Combines two masks bit by bit with the logic operation in AUX. -/
  | mlog (o : MlogArgs)
  /-- R112: Finds the first set mask bit, delivering its index or a derived mask. -/
  | mfirst (o : FirstArgs)
  /-- R113: Counts the set, non-null bits of a mask. -/
  | mpop (o : PlainArgs)
  /-- R113: Delivers for each element the count of set mask bits below it. -/
  | viota (o : PlainArgs)
  /-- R113: Packs the mask-selected elements of a vector to the front. -/
  | vcomp (o : PlainArgs)
  /-- R113: Delivers a mask of element positions within a range. -/
  | mrange (o : FlagArgs)
  /-- R125: Unit-stride vector load. -/
  | ld (o : LoadArgs)
  /-- R125: Strided vector load. -/
  | lds (o : LoadArgs)
  /-- R126: Gather load through the miss engine. -/
  | ldg (o : LoadArgs)
  /-- R127: Unit-stride first-fault load that suppresses faults above the first element and lowers vl. -/
  | ldff (o : LoadArgs)
  /-- R127: First-fault gather load. -/
  | ldgff (o : LoadArgs)
  /-- R125: Scalar 64-bit load. -/
  | ldx (o : LoadXArgs)
  /-- R125: Mask load. -/
  | ldm (o : LoadXArgs)
  /-- R125: Loads one element and broadcasts it to vl elements. -/
  | ldb (o : LoadArgs)
  /-- R140: Loads a reference word and passes it through the barrier. -/
  | ldref (o : LoadXArgs)
  /-- R140: Loads a reference through the barrier and heals the word by compare-and-swap at the belay. -/
  | ldrefH (o : LoadXArgs)
  /-- R141: Loads bytes of a heap object through its reference. -/
  | ldk (o : LoadArgs)
  /-- R132: Scalar acquire load at SCOPE. -/
  | lda (o : LdaArgs)
  /-- R129: Unit-stride vector store, probed at firing and written at the belay. -/
  | st (o : StoreArgs)
  /-- R129: Strided vector store. -/
  | sts (o : StoreArgs)
  /-- R129: Scatter store. -/
  | stg (o : StoreArgs)
  /-- R129: Scalar 64-bit store. -/
  | stx (o : StoreXArgs)
  /-- R129: Mask store, merging null bits by read-modify-write. -/
  | stm (o : StoreXArgs)
  /-- R142: Stores a reference or 0 to an address or object field. -/
  | stref (o : StoreXArgs)
  /-- R141: Stores bytes into a heap object through its reference. -/
  | stk (o : StoreArgs)
  /-- R132: Scalar release store at SCOPE. -/
  | stl (o : StlArgs)
  /-- R133: Orders the strand's accesses of the class mask at SCOPE. -/
  | fence (o : FenceArgs)
  /-- R134: After the belay, blocks the strand until its load, store, copy and tile counters fall to the given counts. -/
  | waitc (o : WaitcArgs)
  /-- R135: Reads a word at its owner and delivers it once it differs from the expected value or the timeout expires. -/
  | waitv (o : LoadXArgs)
  /-- R136: Atomic add at the home, returning the old value. -/
  | amoAdd (o : AtomicArgs)
  /-- R136: Atomic AND at the home. -/
  | amoAnd (o : AtomicArgs)
  /-- R136: Atomic OR at the home. -/
  | amoOr (o : AtomicArgs)
  /-- R136: Atomic XOR at the home. -/
  | amoXor (o : AtomicArgs)
  /-- R136: Atomic signed minimum at the home. -/
  | amoMin (o : AtomicArgs)
  /-- R136: Atomic signed maximum at the home. -/
  | amoMax (o : AtomicArgs)
  /-- R136: Atomic swap at the home. -/
  | amoSwap (o : AtomicArgs)
  /-- R136: Atomic compare-and-swap at the home. -/
  | amoCas (o : AtomicArgs)
  /-- R147: Exit to pc plus a line offset, optionally conditional. -/
  | br (o : BrArgs)
  /-- R147: As br, also pushing the fall-through on the return predictor. -/
  | brCall (o : BrArgs)
  /-- R147: Exit to a target address taken from a token. -/
  | brInd (o : BrIndArgs)
  /-- R147: As br.ind, also popping the return predictor. -/
  | brRet (o : BrIndArgs)
  /-- R152: Ends a strip, advancing sb and sn and returning to the strip head or falling through. -/
  | brStrip (o : OffArgs)
  /-- R154: Snapshots an es slot and exits to the target on DONE or FAULT. -/
  | brEs (o : BrArgs)
  /-- R149: Closes one iteration of a hardware loop level, returning to the head or leaving. -/
  | loop (o : LoopArgs)
  /-- R148: Sets up a counted hardware loop level. -/
  | loopc (o : LoopSetArgs)
  /-- R148: Sets up a while hardware loop level with a maximum trip. -/
  | loopw (o : LoopSetArgs)
  /-- R155: Records at the belay that the nest iteration has triggered its successors. -/
  | trigger (o : BareArgs)
  /-- R157: Exits to fall-through and offers the strand's slot. -/
  | yield (o : BareArgs)
  /-- R156: Sets the recovery pitch address fr at the belay. -/
  | setrecov (o : OffArgs)
  /-- R159: Leaves supervisor mode and resumes the trapped pitch from the replay frame. -/
  | rtp (o : BareArgs)
  /-- R160: Exit with no destination; the strand stops fetching and retires. -/
  | fin (o : BareArgs)
  /-- R161: Reads a control and status register. -/
  | csrr (o : CsrrArgs)
  /-- R161: Writes a control and status register at the belay and delivers its prior value. -/
  | csrw (o : CsrwArgs)
  /-- R54: Passes the left token unchanged. -/
  | cMov (o : CArgs)
  /-- R54: Delivers the left token to T0 and to the left slot of the next index. -/
  | cFan (o : CArgs)
  /-- R54: Delivers vl as a scalar. -/
  | cVl (o : CArgs)
  /-- R54: Delivers sb as a scalar. -/
  | cSb (o : CArgs)
  /-- R54: Delivers sn as a scalar. -/
  | cSn (o : CArgs)
  /-- R54: Delivers a vector whose element e equals e. -/
  | cEidx (o : CArgs)
  /-- R54: Delivers a small signed constant from -8 to 7. -/
  | cLi (o : CliArgs)
  /-- R54: Negates the operand. -/
  | cNeg (o : CArgs)
  /-- R54: Bitwise NOT. -/
  | cNot (o : CArgs)
  /-- R54: Adds one. -/
  | cInc (o : CArgs)
  /-- R54: Subtracts one. -/
  | cDec (o : CArgs)
  /-- R54: Shifts left by one. -/
  | cShl1 (o : CArgs)
  /-- R54: Logical right shift by one. -/
  | cShr1 (o : CArgs)
  /-- R54: Arithmetic right shift by one. -/
  | cSar1 (o : CArgs)
  /-- R54: Sign-extends the low 32 bits of a scalar. -/
  | cSext32 (o : CArgs)
  /-- R54: Zero-extends the low 32 bits of a scalar. -/
  | cZext32 (o : CArgs)
  /-- R54: 1 where the operand is zero. -/
  | cIsz (o : CArgs)
  /-- R54: 1 where the operand is non-zero. -/
  | cNez (o : CArgs)
  /-- R54: Wrapping addition. -/
  | cAdd (o : CArgs)
  /-- R54: Wrapping subtraction. -/
  | cSub (o : CArgs)
  /-- R54: Bitwise AND, masks accepted. -/
  | cAnd (o : CArgs)
  /-- R54: Bitwise OR, masks accepted. -/
  | cOr (o : CArgs)
  /-- R54: Bitwise XOR, masks accepted. -/
  | cXor (o : CArgs)
  /-- R54: Delivers a null scalar. -/
  | cNull (o : CArgs)
  /-- R54: Delivers a vector of vl null elements. -/
  | cNullv (o : CArgs)
  /-- R54: Delivers a mask of vl null bits. -/
  | cNullm (o : CArgs)
  /-- R54: Nulls elements whose mask bit is 1 or null. -/
  | cNullif (o : CArgs)
  /-- R54: Nulls elements whose mask bit is 0 or null. -/
  | cKeepif (o : CArgs)
  /-- R54: Turns null elements into non-null zeros. -/
  | cZfill (o : CArgs)
  /-- R54: Delivers a mask of the null elements of the operand. -/
  | cIsnull (o : CArgs)
  /-- R199: Zeroes a tile or tile pair in the working image. -/
  | tz (o : TileArgs)
  /-- R205: One outer-product accumulate step into a tile accumulator. -/
  | opa (o : OpaArgs)
  /-- R200: Writes a vector into a tile row or column. -/
  | mvvt (o : TileMoveArgs)
  /-- R200: Reads a tile row or column out as a vector token. -/
  | mvtv (o : TileMoveArgs)
  /-- R201: Loads 32 rows from memory into a tile. -/
  | ldt (o : TileArgs)
  /-- R201: Copies a tile into the tile store buffer for release to memory at the belay. -/
  | stt (o : TileArgs)
  /-- R203: Fills entries of the scale register file from memory. -/
  | scld (o : ScldArgs)
  /-- R207: Tile matrix product C += A x B over NSTEP steps. -/
  | gemmT (o : GemmArgs)
  /-- R238: Roped-pair matrix product sharing the lead's A operand with the partner. -/
  | gemmTPair (o : GemmArgs)
  /-- R214: In-place Cholesky factor of an 8x8 FP64 block. -/
  | cholT (o : BlockArgs)
  /-- R215: Triangular solve of an 8x8 block with a lower triangular block. -/
  | trsmT (o : BlockArgs)
  /-- R216: Symmetric rank update of an 8x8 block. -/
  | syrkT (o : BlockArgs)
  /-- R217: Householder QR of a 32x8 panel. -/
  | qrT (o : BlockArgs)
  /-- R220: Inline copy command issued to a copy engine at the belay. -/
  | cpy (o : CpyArgs)
  /-- R222: Record-form copy command. -/
  | cpyRec (o : CmdArgs)
  /-- R222: Two-dimensional copy command. -/
  | cpy2 (o : CmdArgs)
  /-- R222: Three-dimensional copy command. -/
  | cpy3 (o : CmdArgs)
  /-- R222: Gather copy command over a granule list. -/
  | cpyg (o : CmdArgs)
  /-- R328: Remap copy command applying remap records to field arrays. -/
  | cpyr (o : CmdArgs)
  /-- R411: Cross-chip copy command run by the fabric engines. -/
  | cpyx (o : CmdArgs)
  /-- R226: Returns a DONE or FAULT es slot to IDLE at the belay. -/
  | esack (o : EsackArgs)
  /-- R243: Issues a stage-set declaration to the cluster's router. -/
  | rtDecl (o : BareArgs)
  /-- R243: Issues a record push to a router stage set. -/
  | rtPush (o : RtSetArgs)
  /-- R246: Requests a queued record from the router as a take token. -/
  | rtTake (o : RtTakeArgs)
  /-- R247: Reports the outcome of one stage of a taken record. -/
  | rtDone (o : BareArgs)
  /-- R250: Reads one router statistic, optionally closing the window first. -/
  | rtStat (o : RtStatArgs)
  /-- R250: Drains a stage set and delivers the count of records that left it. -/
  | rtDrain (o : RtDrainArgs)
  /-- R250: Sets the router's lottery state. -/
  | rtSeed (o : BareArgs)
  /-- R236: Arrives at a CREW, CLUSTER or ROPE barrier entry at the belay. -/
  | bar (o : BarArgs)
  /-- R297: Posts a card with count 0 to a named card queue. -/
  | cardPost (o : BareArgs)
  /-- R297: Signals a card, decrementing its count. -/
  | cardSig (o : BareArgs)
  /-- R298: Registers a card quarter as a waiter on a future. -/
  | futWait (o : ResArgs)
  /-- R298: Resolves or fails a future and signals its waiters. -/
  | futSet (o : FutSetArgs)
  /-- R307: Delivers the package sum of queued and in-transit cards of a job. -/
  | jobq (o : ResArgs)
  /-- R320: Issues a mesh build command to the mesh's topology engine. -/
  | meshInit (o : CmdArgs)
  /-- R320: Issues a mesh adaptation command. -/
  | meshAdapt (o : CmdArgs)
  /-- R323: Issues a command that writes neighbour entries of a cell range. -/
  | nbrStream (o : CmdArgs)
  /-- R329: Issues a colouring command to the colouring unit. -/
  | colBuild (o : CmdArgs)
  /-- R317: Issues a command returning a READY mesh to UNINIT. -/
  | meshFree (o : CmdArgs)
  /-- R318: Registers a reader of the current generation and delivers a handle. -/
  | meshOpen (o : ResArgs)
  /-- R318: Removes one open of the generation a handle names. -/
  | meshClose (o : BareArgs)
  /-- R322: Neighbour query delivering one neighbour word per cell for a face. -/
  | nbrLd (o : NbrArgs)
  /-- R321: Neighbour query delivering a pair of sub-neighbours per cell. -/
  | nbrLd2 (o : Nbr2Args)
  /-- R330: Adds a strip of values into distinct memory words at the belay. -/
  | vsaddCol (o : VsaddArgs)
  /-- R345: Pins a heap object and delivers its raw pin-view address. -/
  | pin (o : ResArgs)
  /-- R345: Decrements a heap object's pin count. -/
  | unpin (o : BareArgs)
  /-- R346: Delivers 1 when two references name one object. -/
  | refeq (o : ResArgs)
  /-- R347: Creates a heap object header and stores its reference. -/
  | hpMake (o : HpMakeArgs)
  /-- R348: Issues a relocation of a heap object to the relocation engine. -/
  | hpRelocate (o : CmdArgs)
  /-- R342: Issues a heap epoch advance command (supervisor only). -/
  | hpEpoch (o : CmdArgs)
  /-- R414: Issues installation of a regatta table (supervisor only). -/
  | rgLoad (o : CmdArgs)
  /-- R412: Issues a multicast copy to the members of a chip string. -/
  | mcx (o : CmdArgs)
  /-- R391: Issues a load-balancer cut computation. -/
  | lbCut (o : CmdArgs)
  /-- R392: Issues a load-balancer migration of owned and ghost elements. -/
  | lbMigrate (o : CmdArgs)
  /-- R392: Issues a rewrite of ghost slots from their owners. -/
  | ghostSync (o : CmdArgs)
  /-- R58: The strand enters a pitch: fetches its lines, decodes it in order and delivers the read map. -/
  | pitchEntry (c : Nat)
  /-- R29: The strand begins the predicted next pitch speculatively. -/
  | speculativeStart (c : Nat)
  /-- R124: A load's data returns and its token is delivered, or a response fault is raised. -/
  | loadResponse (m : Nat)
  /-- R27: An atomic's response returns and the pitch's write slots become architectural. -/
  | atomicResponse (m : Nat)
  /-- R27: A router, card, future, mesh or heap response returns and its result joins the write slots. -/
  | commandResultReturn (m : Nat)
  /-- R164: The pitch reaches quiescence and its end is decided by rank: belay, trap or discard. -/
  | pitchQuiescence (c : Nat)
  /-- R27: The pitch commits its stores, atomics, commands and write slots as one indivisible step. -/
  | belay (c : Nat)
  /-- R160: Once releases are acknowledged and no es slot is BUSY, the strand's slot is released. -/
  | strandRetire (c : Nat)
  /-- R191: A fired matrix instruction is applied to the working image in index order. -/
  | matrixApply (c k : Nat)
  /-- R194: One granted step of a matrix sequence runs to completion. -/
  | matrixStep (c : Nat)
  /-- R191: When nothing can fire, unfired matrix instructions are passed over. -/
  | matrixPassOver (c k : Nat)
  /-- R239: A HALF pair channel's timer expires and the waiting side raises PAIR_TIMEOUT. -/
  | pairTimerExpire (ch : Nat)
  /-- R134: The waitc counters fall to their counts and the strand continues, as an acquire when counts required. -/
  | waitcComplete (c : Nat)
  /-- R135: The watched word takes a value other than X and waitv delivers it. -/
  | waitvValueChange (m : Nat)
  /-- R135: The waitv timeout expires and waitv delivers X. -/
  | waitvTimeout (m : Nat)
  /-- R227: An active context and its bivouac bank are exchanged in 24 ac. -/
  | contextSwap (core slot : Nat)
  /-- R228: A spill of a bivouac context is requested and waits until the context is eligible. -/
  | spillRequest (c : Nat)
  /-- R229: An eligible context begins spilling, clearing applied matrix instructions and dropping probes. -/
  | spillStart (c : Nat)
  /-- R228: The last spill byte is acknowledged and the bank and tiles are released. -/
  | spillComplete (c : Nat)
  /-- R228: A spill write or fill read faults and the context retires in error. -/
  | spillAccessFault (c : Nat)
  /-- R228: A spilled context is filled into a free bank with its tiles. -/
  | fillStart (c : Nat)
  /-- R230: The fill's image check passes or fails; on pass the context is in bivouac. -/
  | fillComplete (c : Nat)
  /-- R302: At each 50 us boundary the core swaps eligible contexts of equal or higher priority. -/
  | quantumBoundary (core : Nat)
  /-- R283: The cox places the next iteration of its die on its core when a position and tiles are free. -/
  | coxPlace (die launch : Nat)
  /-- R293: A core dispatches the head card of its highest queue into a free position. -/
  | cardDispatch (core : Nat)
  /-- R281: A command processor checks a nest record and starts the walk or rejects it. -/
  | nestLaunch (launch : Nat)
  /-- R293: A signal decrements a card's count at its home and makes it READY at zero. -/
  | cardSignalAtHome (m : Nat)
  /-- R293: A post makes a PREPARED card with count 0 READY in the named queue. -/
  | cardPostAtHome (m : Nat)
  /-- R294: A RUNNING card's work ends; STATE, successor signal and cairn are written. -/
  | cardComplete (card : Nat)
  /-- R298: The future's home registers a waiter quarter or signals it at once. -/
  | futWaitAtHome (m : Nat)
  /-- R298: The future's home resolves it and signals each listed waiter, or refuses a double resolve. -/
  | futSetAtHome (m : Nat)
  /-- R306: A proxy queue sends its batched remote posts when full, aged 1 us or flushed. -/
  | proxyBatchSend (die chip : Nat)
  /-- R308: A flush round collects every die's job counters and may write JOBDONE. -/
  | jobFlushRound (job : Nat)
  /-- R223: A copy command arrives at its M-die queue and starts in priority order. -/
  | copyCommandStart (m : Nat)
  /-- R223: Every granule is written; the slot shows DONE and the completion action runs. -/
  | copyComplete (cmd : Nat)
  /-- R224: An engine stops a command on a fault, sets FAULT and posts a fault record. -/
  | engineFault (cmd : Nat)
  /-- R224: The command processor resumes a faulted engine command. -/
  | commandResume (cmd : Nat)
  /-- R224: The command processor aborts a command, running its completion with the error bit. -/
  | commandAbort (cmd : Nat)
  /-- R291: A released write meets a response error after the belay and a fault-queue record is posted. -/
  | storeResponseError (m : Nat)
  /-- R328: The engine applies remap records to old and new field arrays under the merge rule. -/
  | cpyrRun (cmd : Nat)
  /-- R324: The topology engine checks and builds generation 0 of a mesh. -/
  | meshInitRun (cmd : Nat)
  /-- R325: The topology engine refines and coarsens a mesh into a new generation. -/
  | meshAdaptRun (cmd : Nat)
  /-- R317: The topology engine returns a READY mesh's nodes and zeroes its root array. -/
  | meshFreeRun (cmd : Nat)
  /-- R323: The topology engine writes neighbour entries for a cell range. -/
  | nbrStreamRun (cmd : Nat)
  /-- R329: The colouring unit colours index-list entries and writes COLOR, OFFS and ORDER. -/
  | colBuildRun (cmd : Nat)
  /-- R318: The home registers an open of the current generation and returns a handle. -/
  | meshOpenAtHome (m : Nat)
  /-- R318: The home removes an open and releases GEN-1 when its last open closes. -/
  | meshCloseAtHome (m : Nat)
  /-- R322: The home answers a neighbour query from the named generation. -/
  | nbrQueryAtHome (m : Nat)
  /-- R276: A home performs a queued request to a sector in arrival order. -/
  | homeRequest (m : Nat)
  /-- R409: A sharer silent for 1 ms is dropped and its chip recorded as failed. -/
  | sharerAckTimeout (m : Nat)
  /-- R340: The relocation engine accepts a relocation and starts COPYING, or refuses it. -/
  | hpRelocateRun (cmd : Nat)
  /-- R340: The copy completes; the object becomes FORWARDED and waiting stores and pins are served. -/
  | relocationCopyDone (cmd : Nat)
  /-- R340: A fault during copying deletes the entry and returns the object to IDLE. -/
  | relocationCopyFault (cmd : Nat)
  /-- R342: The heap epoch advances on every M-die and old forwarding entries are freed. -/
  | hpEpochRun (cmd : Nat)
  /-- R391: The load balancer computes the weighted cut array. -/
  | lbCutRun (cmd : Nat)
  /-- R392: The load balancer moves owned and ghost elements to the new parts. -/
  | lbMigrateRun (cmd : Nat)
  /-- R392: The load balancer rewrites ghost slots from their owners. -/
  | ghostSyncRun (cmd : Nat)
  /-- R411: A fabric engine sends an open flit and data flits of a cross-chip copy. -/
  | cpyxRun (cmd : Nat)
  /-- R411: The completion flit arrives and the local cpyx becomes DONE or faults. -/
  | cpyxCompletion (cmd : Nat)
  /-- R412: A fabric engine sends a multicast descriptor and data flits. -/
  | mcxRun (cmd : Nat)
  /-- R412: A switch splits a multicast descriptor over the ports that reach its members. -/
  | mcastSplit (m : Nat)
  /-- R399: The X-die checks a regatta table and waits for its boundary. -/
  | rgLoadRun (cmd : Nat)
  /-- R399: At an eligible rotation boundary the new table's heat 0 begins and link blocks are reassigned. -/
  | regattaSwitch
  /-- R245: The router accepts a declaration and opens the set, or rejects it. -/
  | routerCmdDecl (m : Nat)
  /-- R245: The router accepts a pushed record and routes it, or rejects or delays it. -/
  | routerCmdPush (m : Nat)
  /-- R245: A delayed push is accepted when room appears in the record table or window. -/
  | routerPushAdmit (m : Nat)
  /-- R246: The router delivers the oldest routed record of the masked stages, or queues the take. -/
  | routerCmdTake (m : Nat)
  /-- R246: A waiting take is served when a matching record is queued or its set goes IDLE. -/
  | routerTakeServe (m : Nat)
  /-- R247: The router applies a stage outcome to a taken record. -/
  | routerCmdDone (m : Nat)
  /-- R242: A set's TWIN window time expires and its window closes. -/
  | routerWindowTimer (cl set : Nat)
  /-- R250: The router delivers one statistic, closing the window first with CLOSE. -/
  | routerCmdStat (m : Nat)
  /-- R250: The router makes a set DRAINING and answers when it is empty. -/
  | routerCmdDrain (m : Nat)
  /-- R250: The router sets RTLFSR to the seed. -/
  | routerCmdSeed (m : Nat)
  /-- R235: A write of RTLFSR acts as an rt.seed in arrival order. -/
  | rtlfsrWrite (off : Nat) (val : Word)
  /-- R181: A write of 1 to CCTL.SCINV invalidates the core's sector cache. -/
  | scinvWrite (off : Nat) (val : Word)
  /-- R188: A write to MEUSE.PEAK resets it to the current count. -/
  | meusePeakClear (off : Nat) (val : Word)
  /-- R187: A write of MXSLOT or MXCFG.STRICT goes to the pending table. -/
  | mxslotWrite (off : Nat) (val : Word)
  /-- R187: At rotation wrap the pending slot table takes effect. -/
  | slotTableSwitch (core : Nat)
  /-- R4: A write to a device register without behaviour of its own updates its writable fields. -/
  | registerWrite (off : Nat) (val : Word)
  /-- R377: A write of GO to DRST resets a C-die. -/
  | drstWrite (off : Nat) (val : Word)
  /-- R377: The reset C-die returns to RUN and re-places or errors its nests and cards. -/
  | cdieResetRecover (die : Nat)
  /-- R394: 1 ms without progress aborts the command or resets the C-die. -/
  | watchdogExpire (die unit : Nat)
  /-- R394: The 64 ms scrub corrects single-bit errors and poisons double-bit errors. -/
  | scrubPass (a : Nat) (dbl : Bool)
  /-- R394: A parity error in a queue entry aborts its work with ERR. -/
  | queueParityError (m : Nat)
  /-- R374: A die-to-die link fails and traffic is routed around it. -/
  | dieLinkFailure (link : Nat)
  /-- R380: A host write to LQTAIL rings a launch queue. -/
  | launchDoorbell (off : Nat) (val : Word)
  /-- R380: The X-die hands the next launch packet of a queue to the command processor. -/
  | launchPacketTake (q : Nat)
  /-- R375: A write of v to MSITRIG raises MSI-X vector v. -/
  | msitrigWrite (off : Nat) (val : Word)
  /-- R381: A COMMIT write fixes the negotiated feature bits. -/
  | featureCommit (off : Nat) (val : Word)
  /-- R383: TLBCMD WRITE installs an entry, or is refused with ERR. -/
  | tlbWrite (off : Nat) (val : Word)
  /-- R383: TLBCMD READ copies an entry into TLBVA and TLBPA. -/
  | tlbRead (off : Nat) (val : Word)
  /-- R384: TLBCMD INVAL invalidates one entry or all entries. -/
  | tlbInval (off : Nat) (val : Word)
  /-- R384: BUSY clears once every request translated by the old entry has performed. -/
  | tlbCmdDrain (mdie : Nat)
  /-- R386: A write places the BAR2 window, or is ignored when invalid. -/
  | bar2mapWrite (off : Nat) (val : Word)
  /-- R386: A host access through BAR2 is translated and performed, or fails with HOST_ACCESS. -/
  | hostBar2Access (a : HostAccess)
  /-- R379: A host AtomicOp through BAR2 executes at the home LLC. -/
  | hostAtomicop (a : HostAtomic)
  /-- R388: A write of ISLAND MAX stores the clamped ceiling. -/
  | islandMaxWrite (off : Nat) (val : Word)
  /-- R388: Every 10 us Hital sets island multipliers to hold module power. -/
  | powerManagerTick
  /-- R393: Hital verifies and runs firmware, or posts FW_VERIFY. -/
  | hitalBoot (ok : Bool)
  /-- R405: Hital starts a key rollover of a link direction, or it is refused. -/
  | keyRollover (link : Nat) (dir : Bool)
  /-- R398: A heat's DUR begins and its mapped ports carry flits. -/
  | heatStart
  /-- R400: DUR ends; queued flits wait and REGATTA_OVERRUN is posted. -/
  | heatDurEnd
  /-- R404: A flit arrives and is accepted or dropped by sequence, CRC and tag. -/
  | flitReceive (link : Nat) (f : FlitIn)
  /-- R422: A receiver sends an ACK 200 ns after an uncovered acceptance. -/
  | ackTimer (link : Nat)
  /-- R404: An ACK or NAK arrives and the sender frees or resends flits. -/
  | ackReceive (link : Nat) (f : FlitIn)
  /-- R404: 4 us of mapped time without ACK progress resends from the oldest flit. -/
  | resendTimeout (link : Nat)
  /-- R406: A receive monitor detects lost wavelengths and sends LANE. -/
  | lossOfLightDetect (link : Nat) (lost : BitVec 16)
  /-- R406: The sender adopts the new working set, sends IDLE and replays. -/
  | laneReceive (link : Nat) (f : FlitIn)
  /-- R406: A wavelength steady for 1 ms rejoins at the next mapping heat. -/
  | wavelengthRejoin (link w : Nat)
  /-- R407: After 10 ms down, waiting requests fail and fabric copies fault. -/
  | linkDownTimeout (link : Nat)
  /-- R405: The receiver accepts KEY_RETIRE and discards the old key. -/
  | keyRetireReceive (link : Nat) (f : FlitIn)
  /-- R410: A peer appears with a new incarnation and its old state is purged. -/
  | peerIncarnationChange (chip inc : Nat)
  /-- R400: During DUR a port begins the next flit of a link's send queues in rotation, assigning its sequence, encrypting it under the transmit key and keeping it for replay. -/
  | flitSend (link : Nat)
  /-- R415: An external laser of a port fails, its four wavelengths go dark, and PLIGHT.LASER reports the fault at the sending chip. -/
  | laserFault (port : Nat)
  /-- R381: The PCI Express host link goes down, ending the feature commit latch and allowing a module reset in which fenced dies rejoin and FABCTL may change. -/
  | hostLinkDown
  /-- R386: The host resizes BAR2 through the Resizable BAR capability, to a power of two from 1 GiB to 512 GiB, subject to feature bit 2. -/
  | bar2Resize (size : Nat)
  deriving DecidableEq, Repr

end Sys2Proof
end

