-- ==== Sys2Proof/WellFormed.lean ====
section
/-!
DEFINITION. Sys2Proof/WellFormed.lean: which field values the encoding tables admit for each instruction
(R43 to R54, R94, R125, R129, R197, R220, R243, R296, R319, R344, R390, R414). Events carry no encoding:
they are well formed as they stand.
-/

namespace Sys2Proof

/-- Shapes 000 to 101 (R94). -/
def Shape.full (_ : Shape) : Bool := true

/-- Shapes 000 to 100, as addi takes them (R94). -/
def Shape.noWide : Shape → Bool
  | .vw => false
  | _ => true

/-- Shapes 000, 001 and 010 (R94). -/
def Shape.basic : Shape → Bool
  | .s64 | .s32 | .v => true
  | _ => false

/-- WS .b .h .w .d (R125). -/
def MemW.vec : MemW → Bool
  | .b | .h | .w | .d => true
  | _ => false

/-- WS .b .h .w .d .s (R125). -/
def MemW.vecS : MemW → Bool
  | .s => true
  | ws => ws.vec

/-- WS .b .h .w .d .x (R125). -/
def MemW.vecX : MemW → Bool
  | .x => true
  | ws => ws.vec

/-- The kind-0 prefix value of an immediate form has IMM26[24:23] below 0b10 (R52). -/
def Pre.immOk : Pre → Bool
  | .imm v => !v.getLsbD 24
  | _ => true

/-- A target that names a write slot or nothing (R27, R46). -/
def Target.slotOnly (t : Target) : Bool := t.kind == .write

/-- The targets of a kind-1 prefix before an atomic (R53, R46). -/
def Fan.slotOnly : Option Fan → Bool
  | none => true
  | some f => f.t2.slotOnly && f.t3.slotOnly

/-- A store's OFS5 is 0 under a kind-0 prefix (R52). -/
def storeOfsOk (ofs5 : BitVec 5) : Option (BitVec 26) → Bool
  | none => true
  | some _ => ofs5 == 0

/-- The timeout of waitv is not 0 (R52). -/
def Pre.timeoutOk : Pre → Bool
  | .imm v => v != 0
  | _ => true

/-- The instruction's fields hold values that some word encodes. -/
def Instr.wf : Instr → Bool
  | .add o | .sub o | .mul o => o.shape.full
  | .and o | .or o | .xor o | .andn o | .sll o | .srl o | .sra o | .min o | .max o | .minu o | .maxu o => o.shape.basic
  | .mulh o | .mulhu o | .div o | .divu o | .rem o | .remu o | .clz o | .ctz o | .popc o | .bfx o => o.shape.basic
  | .addi o => o.shape.noWide && o.pre.immOk
  | .andi o => o.shape.basic && o.pre.immOk
  | .slli o | .srli o | .srai o => o.shape.basic
  | .padd o => o.field != .space
  | .cmpi o => o.pre.immOk
  | .ld o | .lds o | .ldff o | .ldb o => o.ws.vec
  | .ldg o | .ldgff o => o.ws.vecS
  | .ldk o => o.ws.vecX
  | .st o | .sts o => o.ws.vec && storeOfsOk o.ofs5 o.imm
  | .stg o => o.ws.vecS && storeOfsOk o.ofs5 o.imm
  | .stk o => o.ws.vecX && storeOfsOk o.ofs5 o.imm
  | .stx o | .stm o | .stref o => storeOfsOk o.ofs5 o.imm
  | .stl o => storeOfsOk o.ofs5 o.imm
  | .waitv o => o.pre.timeoutOk
  | .amoAdd o | .amoAnd o | .amoOr o | .amoXor o | .amoMin o | .amoMax o | .amoSwap o | .amoCas o =>
      o.t0.slotOnly && Fan.slotOnly o.fan
  | .mvvt o => o.t0 == Target.none
  | .cholT o => o.ts == 0 && o.bs == 0 && !o.f2
  | .syrkT o => !o.f2
  | .qrT o => !o.f1 && !o.f2 && o.bd.extractLsb' 2 2 == 0
  | .rtTake o => o.t0.slotOnly
  | .rtDrain o => o.t0.slotOnly
  | .rtStat o => o.t0.slotOnly
  | .futSet o => o.t0.slotOnly
  | .futWait o | .jobq o | .meshOpen o | .pin o | .refeq o => o.t0.slotOnly
  | .hpRelocate o | .hpEpoch o => o.t0.slotOnly
  | _ => true

end Sys2Proof
end

