-- ==== Sys2Proof/Decode.lean ====
section
/-!
DEFINITION. Sys2Proof/Decode.lean: the decoder of one instruction from its parcels and the encoder of a
well-formed one. The decoder makes the checks of R58 step 6 that the instruction's own bits decide, in
the order R58 gives: length and prefix word, opcode, PM, prefix kind, reserved bits, field values, scope,
then the target kinds a form forbids. Index ranges, receivers, LSIDs, CSR access and tile reservations
need the pitch or the strand: Machine/PitchDecode.lean makes them.
-/

namespace Sys2Proof

/-- Why a word is no instruction: the cause code, its DETAIL (R175) and how many parcels into the
instruction the offending parcel stands (R56). -/
structure DecErr where
  cause  : Cause
  detail : Nat
  at_    : Nat
  deriving DecidableEq, Repr

/-- Bits `[lo+len-1 : lo]` of a word. -/
def fld {n : Nat} (w : BitVec n) (lo len : Nat) : BitVec len := w.extractLsb' lo len

/-- The target a 9-bit field names (R44). -/
def decTarget (t : BitVec 9) : Target :=
  ⟨if t.getLsbD 8 then (if t.getLsbD 7 then .write else .pred) else (if t.getLsbD 7 then .right else .left), t.extractLsb' 0 7⟩

/-- The 2-bit code of a target kind (R44). -/
def TKind.enc : TKind → BitVec 2
  | .left => 0 | .right => 1 | .pred => 2 | .write => 3

/-- The 9-bit field of a target (R44). -/
def Target.enc (t : Target) : BitVec 9 := t.kind.enc ++ t.index

/-- PM from its two bits (R43). -/
def decPm (b : BitVec 2) : Option Pm :=
  match b with
  | 0 => some .always | 1 => some .onTrue | 2 => some .onFalse | _ => none

/-- The two bits of PM (R43). -/
def Pm.enc : Pm → BitVec 2
  | .always => 0 | .onTrue => 1 | .onFalse => 2

/-- The integer shape from AUX (R43). -/
def decShape (b : BitVec 3) : Option Shape :=
  match b with
  | 0 => some .s64 | 1 => some .s32 | 2 => some .v | 3 => some .vss | 4 => some .vsu | 5 => some .vw | _ => none

/-- AUX of an integer shape (R43). -/
def Shape.enc : Shape → BitVec 3
  | .s64 => 0 | .s32 => 1 | .v => 2 | .vss => 3 | .vsu => 4 | .vw => 5

/-- WS from its three bits; 0b111 is reserved (R46). -/
def decWs (b : BitVec 3) : Option MemW :=
  match b with
  | 0 => some .b | 1 => some .h | 2 => some .w | 3 => some .d | 4 => some .x | 5 => some .m | 6 => some .s | _ => none

/-- The bits of WS (R46). -/
def MemW.enc : MemW → BitVec 3
  | .b => 0 | .h => 1 | .w => 2 | .d => 3 | .x => 4 | .m => 5 | .s => 6

/-- A scope value; 12 to 15 are invalid (R46). -/
def decScope (b : BitVec 4) : Option Scope :=
  match b with
  | 0 => some .strand | 1 => some .engine | 2 => some .crew | 3 => some .cluster | 4 => some .rope | 5 => some .die
  | 6 => some .home | 7 => some .package | 8 => some .host | 9 => some .group | 10 => some .fabric | 11 => some .system
  | _ => none

/-- The bits of a scope (R46). -/
def Scope.enc : Scope → BitVec 4
  | .strand => 0 | .engine => 1 | .crew => 2 | .cluster => 3 | .rope => 4 | .die => 5
  | .home => 6 | .package => 7 | .host => 8 | .group => 9 | .fabric => 10 | .system => 11

/-- The ordering of an atomic (R46). -/
def decAmoOrd (b : BitVec 3) : Option AmoOrd :=
  match b with
  | 0 => some .rlx | 1 => some .acq | 2 => some .rel | 3 => some .ar | 4 => some .sc | _ => none

/-- The bits of an atomic's ordering (R46). -/
def AmoOrd.enc : AmoOrd → BitVec 3
  | .rlx => 0 | .acq => 1 | .rel => 2 | .ar => 3 | .sc => 4

/-- The condition of cmp from AUX (R106). -/
def decCond (b : BitVec 3) : Option Cond :=
  match b with
  | 0 => some .eq | 1 => some .ne | 2 => some .lt | 3 => some .ge | 4 => some .ltu | 5 => some .geu | _ => none

/-- AUX of a condition (R106). -/
def Cond.enc : Cond → BitVec 3
  | .eq => 0 | .ne => 1 | .lt => 2 | .ge => 3 | .ltu => 4 | .geu => 5

/-- The sub-operation of vperm from AUX (R109). -/
def decPerm (b : BitVec 3) : Option PermOp :=
  match b with
  | 0 => some .gather | 1 => some .up | 2 => some .dn | 3 => some .rev | 4 => some .bc | _ => none

/-- AUX of a sub-operation of vperm (R109). -/
def PermOp.enc : PermOp → BitVec 3
  | .gather => 0 | .up => 1 | .dn => 2 | .rev => 3 | .bc => 4

/-- The sub-operation of mfirst from AUX (R112). -/
def decFirst (b : BitVec 3) : Option FirstOp :=
  match b with
  | 0 => some .idx | 1 => some .sbf | 2 => some .sif | 3 => some .sof | _ => none

/-- AUX of a sub-operation of mfirst (R112). -/
def FirstOp.enc : FirstOp → BitVec 3
  | .idx => 0 | .sbf => 1 | .sif => 2 | .sof => 3

/-- The pointer field from AUX (R97). -/
def decPtrField (b : BitVec 3) : Option PtrField :=
  match b with
  | 0 => some .space | 1 => some .offset | 2 => some .place | _ => none

/-- AUX of a pointer field (R97). -/
def PtrField.enc : PtrField → BitVec 3
  | .space => 0 | .offset => 1 | .place => 2

/-- A loop level from AUX; 6 and 7 are invalid (R48). -/
def decLvl (b : BitVec 3) : Option (Fin 6) :=
  if h : b.toNat < 6 then some ⟨b.toNat, h⟩ else none

/-- AUX of a loop level (R48). -/
def encLvl (l : Fin 6) : BitVec 3 := BitVec.ofNat 3 l.val

/-- The element format of scld (R203). -/
def decSf (b : BitVec 2) : Option ScaleFmt :=
  match b with
  | 0 => some .s9 | 1 => some .e8 | 2 => some .f32 | _ => none

/-- The bits of an element format (R203). -/
def ScaleFmt.enc : ScaleFmt → BitVec 2
  | .s9 => 0 | .e8 => 1 | .f32 => 2

/-- ASRC or BSRC (R198). -/
def decSrc (b : BitVec 2) : Option PanelSrc :=
  match b with
  | 0 => some .ptr | 1 => some .tile | 2 => some .mcast | _ => none

/-- The bits of ASRC or BSRC (R198). -/
def PanelSrc.enc : PanelSrc → BitVec 2
  | .ptr => 0 | .tile => 1 | .mcast => 2

/-- The scope of a bar (R236). -/
def decBs (b : BitVec 2) : Option BarScope :=
  match b with
  | 0 => some .crew | 1 => some .cluster | 2 => some .rope | _ => none

/-- The bits of the scope of a bar (R236). -/
def BarScope.enc : BarScope → BitVec 2
  | .crew => 0 | .cluster => 1 | .rope => 2

/-- A prefix word: its kind and payload (R51). -/
structure PrefixWord where
  kind    : BitVec 4
  payload : BitVec 26
  deriving DecidableEq, Repr

/-- The extra targets of a kind-1 payload (R51). -/
def decFan (p : BitVec 26) : Fan := ⟨decTarget (fld p 17 9), decTarget (fld p 8 9)⟩

/-- The kind-1 payload of extra targets (R51). -/
def Fan.enc (f : Fan) : BitVec 26 := (f.t2.enc ++ f.t3.enc) ++ 0#8

/-- The form of a base word: which prefix kinds it accepts (R51). -/
inductive PreClass where
  | fanOnly | immOrFan | immOnly | nothing | family
  deriving DecidableEq, Repr

/-- Prefix kinds a base opcode accepts (R51, R52). R52 says that the shift forms 0x0F, 0x17 and 0x18 accept no prefix, R51 that kind 1 precedes
every base word with T0: the model reads R52, whose rows are those of kind 0, as refusing them kind 0 alone (DEDUCED, log 115). -/
def preClass (op : Nat) : PreClass :=
  if op = 0x0D ∨ op = 0x0E ∨ op = 0x41 ∨ (0x50 ≤ op ∧ op ≤ 0x5B) ∨ op = 0x6F then .immOrFan
  else if op ≤ 0x4F ∨ (0x70 ≤ op ∧ op ≤ 0x77) ∨ op = 0x7C then .fanOnly
  else if (0x60 ≤ op ∧ op ≤ 0x67) ∨ op = 0x6D ∨ op = 0x6E ∨ op = 0x7A then .immOnly
  else if op = 0x7E then .family
  else .nothing

/-- The opcodes that R55 assigns. -/
def opAssigned (op : Nat) : Bool :=
  op ≤ 0x33 || (0x38 ≤ op && op ≤ 0x5B) || (0x60 ≤ op && op ≤ 0x67) || (0x6D ≤ op && op ≤ 0x7E)

/-- The prefix kind is one the base word accepts (R51). -/
def preAccepted (op : Nat) (fam : BitVec 4) : Option PrefixWord → Bool
  | none => true
  | some p =>
    match preClass op with
    | .fanOnly => p.kind == 1
    | .immOrFan => p.kind == 0 || p.kind == 1
    | .immOnly => p.kind == 0
    | .nothing => false
    | .family => p.kind == fam

/-- The extra targets an accepted kind-1 prefix gives. -/
def fanOf : Option PrefixWord → Option Fan
  | some p => if p.kind = 1 then some (decFan p.payload) else none
  | none => none

/-- What an accepted prefix gives an immediate form or a load. -/
def preOf : Option PrefixWord → Pre
  | some p => if p.kind = 1 then .fan (decFan p.payload) else .imm p.payload
  | none => .bare

/-- The IMM26 of an accepted kind-0 prefix. -/
def immOf : Option PrefixWord → Option (BitVec 26)
  | some p => some p.payload
  | none => none

/-- Reserved bits of a kind-1 prefix are zero (R53). -/
def fanResOk : Option PrefixWord → Bool
  | some p => p.kind != 1 || fld p.payload 0 8 == 0
  | none => true

/-- The decoding of one base word's own fields: an instruction, or the first failing check in the order
of R58, its DETAIL and whether the offending parcel is the prefix word's. -/
abbrev BaseDec := Except (Cause × Nat × Bool) Instr

/-- A reserved bit that is not zero (R57). -/
def errResv (inPre : Bool) : BaseDec := .error (.fieldReserved, 0, inPre)

/-- A field value the opcode does not accept (R57). -/
def errField : BaseDec := .error (.fieldInvalid, 0, false)

/-- A field value of a payload that the form does not accept (R57). -/
def errFieldPre : BaseDec := .error (.fieldInvalid, 0, true)

/-- A scope value 12 to 15 (R57). -/
def errScope (v : BitVec 4) : BaseDec := .error (.scopeInvalid, v.toNat, false)

/-- A target the form forbids (R44, R46). -/
def errTarget (v : BitVec 9) : BaseDec := .error (.targetInvalid, v.toNat, false)

/-- Integer forms of R94 with AUX in `ok`. -/
def decInt (mk : IntArgs → Instr) (ok : Shape → Bool) (pm : Pm) (pre : Option PrefixWord) (w : BitVec 32) : BaseDec :=
  if !fanResOk pre then errResv true else
  match decShape (fld w 18 3) with
  | some s => if ok s then .ok (mk ⟨pm, s, decTarget (fld w 9 9), decTarget (fld w 0 9), fanOf pre⟩) else errField
  | none => errField

/-- addi and andi. -/
def decImm (mk : ImmArgs → Instr) (ok : Shape → Bool) (pm : Pm) (pre : Option PrefixWord) (w : BitVec 32) : BaseDec :=
  if !(fanResOk pre && (preOf pre).immOk) then errResv true else
  match decShape (fld w 18 3) with
  | some s => if ok s then .ok (mk ⟨pm, s, fld w 9 9, decTarget (fld w 0 9), preOf pre⟩) else errField
  | none => errField

/-- slli, srli and srai. -/
def decShift (mk : ShiftArgs → Instr) (pm : Pm) (pre : Option PrefixWord) (w : BitVec 32) : BaseDec :=
  if !fanResOk pre then errResv true else
  if fld w 15 3 ≠ 0 then errResv false else
  match decShape (fld w 18 3) with
  | some s => if s.basic then .ok (mk ⟨pm, s, fld w 9 6, decTarget (fld w 0 9), fanOf pre⟩) else errField
  | none => errField

/-- padd, pset and pget. -/
def decPtr (mk : PtrArgs → Instr) (ok : PtrField → Bool) (pm : Pm) (pre : Option PrefixWord) (w : BitVec 32) : BaseDec :=
  if !fanResOk pre then errResv true else
  match decPtrField (fld w 18 3) with
  | some f => if ok f then .ok (mk ⟨pm, f, decTarget (fld w 9 9), decTarget (fld w 0 9), fanOf pre⟩) else errField
  | none => errField

/-- Forms whose AUX is a descriptor index. -/
def decFp (mk : FpArgs → Instr) (pm : Pm) (pre : Option PrefixWord) (w : BitVec 32) : BaseDec :=
  if !fanResOk pre then errResv true else
  .ok (mk ⟨pm, fld w 18 3, decTarget (fld w 9 9), decTarget (fld w 0 9), fanOf pre⟩)

/-- Forms whose AUX is 0. -/
def decPlain (mk : PlainArgs → Instr) (pm : Pm) (pre : Option PrefixWord) (w : BitVec 32) : BaseDec :=
  if !fanResOk pre then errResv true else
  if fld w 18 3 ≠ 0 then errField else
  .ok (mk ⟨pm, decTarget (fld w 9 9), decTarget (fld w 0 9), fanOf pre⟩)

/-- Forms whose AUX is 0 or 1. -/
def decFlag (mk : FlagArgs → Instr) (pm : Pm) (pre : Option PrefixWord) (w : BitVec 32) : BaseDec :=
  if !fanResOk pre then errResv true else
  if fld w 19 2 ≠ 0 then errField else
  .ok (mk ⟨pm, w.getLsbD 18, decTarget (fld w 9 9), decTarget (fld w 0 9), fanOf pre⟩)

/-- Loads whose WS must be in `ok` (R125). -/
def decLoad (mk : LoadArgs → Instr) (ok : MemW → Bool) (pm : Pm) (pre : Option PrefixWord) (w : BitVec 32) : BaseDec :=
  if !fanResOk pre then errResv true else
  match decWs (fld w 9 3) with
  | none => errResv false
  | some ws => if ok ws then .ok (mk ⟨pm, fld w 16 5, fld w 12 4, ws, decTarget (fld w 0 9), preOf pre⟩) else errField

/-- Loads of one WS (R125). -/
def decLoadX (mk : LoadXArgs → Instr) (ws0 : MemW) (pm : Pm) (pre : Option PrefixWord) (w : BitVec 32) : BaseDec :=
  if !fanResOk pre then errResv true else
  match decWs (fld w 9 3) with
  | none => errResv false
  | some ws => if ws = ws0 then .ok (mk ⟨pm, fld w 16 5, fld w 12 4, decTarget (fld w 0 9), preOf pre⟩) else errField

/-- lda (R132). -/
def decLda (pm : Pm) (pre : Option PrefixWord) (w : BitVec 32) : BaseDec :=
  if !fanResOk pre then errResv true else
  match decWs (fld w 9 3) with
  | none => errResv false
  | some ws =>
    if ws ≠ .x then errField else
    match decScope (fld w 12 4) with
    | none => errScope (fld w 12 4)
    | some sc => .ok (.lda ⟨pm, fld w 16 5, sc, decTarget (fld w 0 9), preOf pre⟩)

/-- waitv (R52, R135). -/
def decWaitv (pm : Pm) (pre : Option PrefixWord) (w : BitVec 32) : BaseDec :=
  if !fanResOk pre then errResv true else
  match decWs (fld w 9 3) with
  | none => errResv false
  | some ws =>
    if ws ≠ .x then errField else
    if !(preOf pre).timeoutOk then errFieldPre else
    .ok (.waitv ⟨pm, fld w 16 5, fld w 12 4, decTarget (fld w 0 9), preOf pre⟩)

/-- Stores whose WS must be in `ok` (R129); SCOPE must be 0 (R46). -/
def decStore (mk : StoreArgs → Instr) (ok : MemW → Bool) (pm : Pm) (pre : Option PrefixWord) (w : BitVec 32) : BaseDec :=
  match decWs (fld w 9 3) with
  | none => errResv false
  | some ws =>
    if !storeOfsOk (fld w 0 5) (immOf pre) then errResv false else
    if !(ok ws) then errField else
    if fld w 5 4 ≠ 0 then (if (fld w 5 4).toNat < 12 then errField else errField) else
    .ok (mk ⟨pm, fld w 16 5, fld w 12 4, ws, fld w 0 5, immOf pre⟩)

/-- Stores of one WS (R129). -/
def decStoreX (mk : StoreXArgs → Instr) (ws0 : MemW) (pm : Pm) (pre : Option PrefixWord) (w : BitVec 32) : BaseDec :=
  match decWs (fld w 9 3) with
  | none => errResv false
  | some ws =>
    if !storeOfsOk (fld w 0 5) (immOf pre) then errResv false else
    if ws ≠ ws0 ∨ fld w 5 4 ≠ 0 then errField else
    .ok (mk ⟨pm, fld w 16 5, fld w 12 4, fld w 0 5, immOf pre⟩)

/-- stl (R129, R132). -/
def decStl (pm : Pm) (pre : Option PrefixWord) (w : BitVec 32) : BaseDec :=
  match decWs (fld w 9 3) with
  | none => errResv false
  | some ws =>
    if !storeOfsOk (fld w 0 5) (immOf pre) then errResv false else
    if ws ≠ .x ∨ fld w 12 4 ≠ 15 then errField else
    match decScope (fld w 5 4) with
    | none => errScope (fld w 5 4)
    | some sc => .ok (.stl ⟨pm, fld w 16 5, sc, fld w 0 5, immOf pre⟩)

/-- fence (R46, R52, R133). No rule names the code of bits [8:0] other than 0x1FF: the model gives FIELD_RESERVED (DESIGN CHOICE, log 115). -/
def decFence (pm : Pm) (pre : Option PrefixWord) (w : BitVec 32) : BaseDec :=
  let pay := (immOf pre).getD 0
  if fld pay 16 10 ≠ 0 then errResv true else
  if fld w 9 3 ≠ 0 ∨ fld w 0 9 ≠ 0x1FF then errResv false else
  match decScope (fld w 12 4) with
  | none => errScope (fld w 12 4)
  | some sc => .ok (.fence ⟨pm, fld w 16 5, sc, (immOf pre).map (fun p => fld p 0 16)⟩)

/-- waitc (R46, R52, R134), with FIELD_RESERVED for bits [8:0] other than 0x1FF, as for fence (DESIGN CHOICE, log 115). -/
def decWaitc (pm : Pm) (pre : Option PrefixWord) (w : BitVec 32) : BaseDec :=
  let pay := (immOf pre).getD 0
  if fld pay 24 2 ≠ 0 then errResv true else
  if fld w 16 5 ≠ 0 ∨ fld w 9 3 ≠ 0 ∨ fld w 0 9 ≠ 0x1FF then errResv false else
  .ok (.waitc ⟨pm, fld w 12 4, (immOf pre).map (fun p => ⟨fld p 18 6, fld p 12 6, fld p 6 6, fld p 0 6⟩)⟩)

/-- Atomics (R46, R137). -/
def decAtomic (mk : AtomicArgs → Instr) (pm : Pm) (pre : Option PrefixWord) (w : BitVec 32) : BaseDec :=
  if !fanResOk pre then errResv true else
  match decAmoOrd (fld w 9 3) with
  | none => errField
  | some ord =>
    match decScope (fld w 12 4) with
    | none => errScope (fld w 12 4)
    | some sc =>
      if !(decTarget (fld w 0 9)).slotOnly then errTarget (fld w 0 9) else
      match fanOf pre with
      | none => .ok (mk ⟨pm, fld w 16 5, sc, ord, decTarget (fld w 0 9), none⟩)
      | some f =>
        if !f.t2.slotOnly then errTarget f.t2.enc else
        if !f.t3.slotOnly then errTarget f.t3.enc else
        .ok (mk ⟨pm, fld w 16 5, sc, ord, decTarget (fld w 0 9), some f⟩)

/-- Opcode 0x78: the br family (R48). -/
def decBr (pm : Pm) (w : BitVec 32) : BaseDec :=
  let f := w.getLsbD 17
  let off : BitVec 17 := fld w 0 17
  match fld w 18 3 with
  | 0 => .ok (.br ⟨pm, f, off⟩)
  | 1 => .ok (.brCall ⟨pm, f, off⟩)
  | 2 => if off ≠ 0 then errResv false else .ok (.brInd ⟨pm, f⟩)
  | 3 => if off ≠ 0 then errResv false else .ok (.brRet ⟨pm, f⟩)
  | 4 => if f then errResv false else .ok (.brStrip ⟨pm, off⟩)
  | 5 => .ok (.brEs ⟨pm, f, off⟩)
  | _ => errField

/-- Opcode 0x7B: strand control (R48). -/
def decControl (pm : Pm) (w : BitVec 32) : BaseDec :=
  let z := fld w 0 18
  match fld w 18 3 with
  | 0 => if z ≠ 0 then errResv false else .ok (.trigger ⟨pm⟩)
  | 1 => if z ≠ 0 then errResv false else .ok (.yield ⟨pm⟩)
  | 2 => if w.getLsbD 17 then errResv false else .ok (.setrecov ⟨pm, fld w 0 17⟩)
  | 3 => if z ≠ 0 then errResv false else .ok (.rtp ⟨pm⟩)
  | 4 => if z ≠ 0 then errResv false else .ok (.fin ⟨pm⟩)
  | _ => errField

/-- Opcode 0x79 (R48). -/
def decLoop (pm : Pm) (w : BitVec 32) : BaseDec :=
  match decLvl (fld w 18 3) with
  | none => errField
  | some l => .ok (.loop ⟨pm, l, w.getLsbD 17, fld w 0 17⟩)

/-- Opcode 0x7A (R48, R52). -/
def decLoopSet (pm : Pm) (pre : Option PrefixWord) (w : BitVec 32) : BaseDec :=
  match decLvl (fld w 18 3) with
  | none => errField
  | some l =>
    let a : LoopSetArgs := ⟨pm, l, fld w 12 5, fld w 0 12, immOf pre⟩
    .ok (if w.getLsbD 17 then .loopw a else .loopc a)

/-- A form that delivers no result requires T0 0x1FF. -/
def noRes (t0 : BitVec 9) (i : Instr) : BaseDec := if t0 = 0x1FF then .ok i else errTarget t0

/-- A form that delivers only to a write slot or to no target. -/
def slotRes (t0 : BitVec 9) (i : Instr) : BaseDec := if (decTarget t0).slotOnly then .ok i else errTarget t0

/-- Family 2: tile and matrix (R197, R198). -/
def decFam2 (pm : Pm) (p : BitVec 26) (sub : Nat) (t0 : BitVec 9) : BaseDec :=
  let td : BitVec 3 := fld p 23 3
  let ds : BitVec 3 := fld p 20 3
  let pair := p.getLsbD 22
  match sub with
  | 0x00 => if fld p 0 22 ≠ 0 then errResv true else noRes t0 (.tz ⟨pm, td, pair⟩)
  | 0x01 => if fld p 0 19 ≠ 0 then errResv true else noRes t0 (.opa ⟨pm, td, ds, p.getLsbD 19⟩)
  | 0x02 => if fld p 0 16 ≠ 0 then errResv true
            else noRes t0 (.mvvt ⟨pm, td, pair, p.getLsbD 21, fld p 16 5, Target.none⟩)
  | 0x03 => if fld p 0 16 ≠ 0 then errResv true
            else .ok (.mvtv ⟨pm, td, pair, p.getLsbD 21, fld p 16 5, decTarget t0⟩)
  | 0x04 => if fld p 0 22 ≠ 0 then errResv true else noRes t0 (.ldt ⟨pm, td, pair⟩)
  | 0x05 => if fld p 0 22 ≠ 0 then errResv true else noRes t0 (.stt ⟨pm, td, pair⟩)
  | 0x06 => if fld p 0 10 ≠ 0 then errResv true else
            match decSf (fld p 10 2) with
            | none => errFieldPre
            | some sf => noRes t0 (.scld ⟨pm, fld p 18 8, fld p 12 6, sf⟩)
  | 0x10 => match decSrc (fld p 18 2), decSrc (fld p 16 2) with
            | some a, some b => noRes t0 (.gemmT ⟨pm, td, ds, a, b, fld p 13 3, fld p 10 3, fld p 0 10⟩)
            | _, _ => errFieldPre
  | 0x11 => match decSrc (fld p 18 2), decSrc (fld p 16 2) with
            | some a, some b => noRes t0 (.gemmTPair ⟨pm, td, ds, a, b, fld p 13 3, fld p 10 3, fld p 0 10⟩)
            | _, _ => errFieldPre
  | 0x18 => if fld p 0 8 ≠ 0 ∨ fld p 9 7 ≠ 0 then errResv true
            else noRes t0 (.cholT ⟨pm, td, ds, fld p 16 4, 0, 0, p.getLsbD 8, false⟩)
  | 0x19 => if fld p 0 7 ≠ 0 then errResv true
            else noRes t0 (.trsmT ⟨pm, td, ds, fld p 16 4, fld p 13 3, fld p 9 4, p.getLsbD 8, p.getLsbD 7⟩)
  | 0x1A => if fld p 0 8 ≠ 0 then errResv true
            else noRes t0 (.syrkT ⟨pm, td, ds, fld p 16 4, fld p 13 3, fld p 9 4, p.getLsbD 8, false⟩)
  | 0x1B => if fld p 0 9 ≠ 0 ∨ fld p 18 2 ≠ 0 then errResv true
            else noRes t0 (.qrT ⟨pm, td, ds, fld p 16 4, fld p 13 3, fld p 9 4, false, false⟩)
  | _ => errField

/-- Family 3: the copy engine (R220); REC, LEN and bits [22:20] must be zero under a SUB that the table does not list, too, and are checked
before it (R58). -/
def decFam3 (pm : Pm) (p : BitVec 26) (sub : Nat) (t0 : BitVec 9) : BaseDec :=
  let a : CmdArgs := ⟨pm, fld p 23 2, decTarget t0⟩
  let recOnly (i : Instr) : BaseDec :=
    if p.getLsbD 25 ∨ fld p 20 3 ≠ 0 ∨ fld p 0 20 ≠ 0 then errResv true else .ok i
  match sub with
  | 0x00 => if fld p 20 3 ≠ 0 then errResv true else
            if p.getLsbD 25 then (if fld p 0 20 ≠ 0 then errResv true else .ok (.cpyRec a))
            else .ok (.cpy ⟨pm, fld p 23 2, fld p 0 20, decTarget t0⟩)
  | 0x01 => recOnly (.cpy2 a)
  | 0x02 => recOnly (.cpy3 a)
  | 0x03 => recOnly (.cpyg a)
  | 0x04 => recOnly (.cpyr a)
  | 0x05 => recOnly (.cpyx a)
  | 0x08 => if p.getLsbD 25 ∨ fld p 20 3 ≠ 0 ∨ fld p 0 20 ≠ 0 then errResv true else noRes t0 (.esack ⟨pm, fld p 23 2⟩)
  | _ => if p.getLsbD 25 ∨ fld p 20 3 ≠ 0 ∨ fld p 0 20 ≠ 0 then errResv true else errField

/-- Family 4: the stage router (R243). -/
def decFam4 (pm : Pm) (p : BitVec 26) (sub : Nat) (t0 : BitVec 9) : BaseDec :=
  let set : BitVec 2 := fld p 24 2
  match sub with
  | 0x00 => if p ≠ 0 then errResv true else noRes t0 (.rtDecl ⟨pm⟩)
  | 0x01 => if fld p 0 24 ≠ 0 then errResv true else noRes t0 (.rtPush ⟨pm, set⟩)
  | 0x02 => if fld p 0 23 ≠ 0 then errResv true else slotRes t0 (.rtTake ⟨pm, set, p.getLsbD 23, decTarget t0⟩)
  | 0x03 => if p ≠ 0 then errResv true else noRes t0 (.rtDone ⟨pm⟩)
  | 0x04 => if fld p 0 22 ≠ 0 ∨ fld p 23 3 ≠ 0 then errResv true
            else slotRes t0 (.rtStat ⟨pm, p.getLsbD 22, decTarget t0⟩)
  | 0x05 => if fld p 0 24 ≠ 0 then errResv true else slotRes t0 (.rtDrain ⟨pm, set, decTarget t0⟩)
  | 0x06 => if p ≠ 0 then errResv true else noRes t0 (.rtSeed ⟨pm⟩)
  | _ => errField

/-- Family 5: cards, futures, jobs and barriers (R236, R296). -/
def decFam5 (pm : Pm) (p : BitVec 26) (sub : Nat) (t0 : BitVec 9) : BaseDec :=
  match sub with
  | 0x00 => if p ≠ 0 then errResv true else noRes t0 (.cardPost ⟨pm⟩)
  | 0x01 => if p ≠ 0 then errResv true else noRes t0 (.cardSig ⟨pm⟩)
  | 0x02 => if p ≠ 0 then errResv true else slotRes t0 (.futWait ⟨pm, decTarget t0⟩)
  | 0x03 => if fld p 0 25 ≠ 0 then errResv true else slotRes t0 (.futSet ⟨pm, p.getLsbD 25, decTarget t0⟩)
  | 0x04 => if p ≠ 0 then errResv true else slotRes t0 (.jobq ⟨pm, decTarget t0⟩)
  | 0x20 => if fld p 0 10 ≠ 0 then errResv true else
            match decBs (fld p 24 2) with
            | none => errFieldPre
            | some bs => noRes t0 (.bar ⟨pm, bs, fld p 20 4, fld p 10 10⟩)
  | _ => errField

/-- Family 6: the mesh (R319). -/
def decFam6 (pm : Pm) (p : BitVec 26) (sub : Nat) (t0 : BitVec 9) : BaseDec :=
  let a : CmdArgs := ⟨pm, fld p 23 2, decTarget t0⟩
  let priOnly := fld p 0 23 == 0 && !p.getLsbD 25
  match sub with
  | 0x00 => if priOnly then .ok (.meshInit a) else errResv true
  | 0x01 => if priOnly then .ok (.meshAdapt a) else errResv true
  | 0x02 => if priOnly then .ok (.nbrStream a) else errResv true
  | 0x03 => if priOnly then .ok (.colBuild a) else errResv true
  | 0x04 => if priOnly then .ok (.meshFree a) else errResv true
  | 0x10 => if p ≠ 0 then errResv true else slotRes t0 (.meshOpen ⟨pm, decTarget t0⟩)
  | 0x11 => if p ≠ 0 then errResv true else noRes t0 (.meshClose ⟨pm⟩)
  | 0x18 => if fld p 0 20 ≠ 0 ∨ fld p 23 3 ≠ 0 then errResv true else .ok (.nbrLd ⟨pm, fld p 20 3, decTarget t0⟩)
  | 0x19 => if fld p 0 18 ≠ 0 ∨ fld p 23 3 ≠ 0 then errResv true else
            if p.getLsbD 19 then errFieldPre else .ok (.nbrLd2 ⟨pm, fld p 20 3, p.getLsbD 18, decTarget t0⟩)
  | 0x1A => if fld p 0 20 ≠ 0 ∨ fld p 23 3 ≠ 0 then errResv true else noRes t0 (.vsaddCol ⟨pm, fld p 20 3⟩)
  | _ => errField

/-- Family 7: the heap (R344). -/
def decFam7 (pm : Pm) (p : BitVec 26) (sub : Nat) (t0 : BitVec 9) : BaseDec :=
  let priOnly := fld p 0 23 == 0 && !p.getLsbD 25
  match sub with
  | 0x00 => if p ≠ 0 then errResv true else slotRes t0 (.pin ⟨pm, decTarget t0⟩)
  | 0x01 => if p ≠ 0 then errResv true else noRes t0 (.unpin ⟨pm⟩)
  | 0x02 => if p ≠ 0 then errResv true else slotRes t0 (.refeq ⟨pm, decTarget t0⟩)
  | 0x03 => if fld p 20 6 ≠ 0 then errResv true else noRes t0 (.hpMake ⟨pm, fld p 0 20⟩)
  | 0x04 => if priOnly then slotRes t0 (.hpRelocate ⟨pm, fld p 23 2, decTarget t0⟩) else errResv true
  | 0x05 => if priOnly then slotRes t0 (.hpEpoch ⟨pm, fld p 23 2, decTarget t0⟩) else errResv true
  | _ => errField

/-- Family 8: the fabric and the load balancer (R390, R414). -/
def decFam8 (pm : Pm) (p : BitVec 26) (sub : Nat) (t0 : BitVec 9) : BaseDec :=
  let a : CmdArgs := ⟨pm, fld p 23 2, decTarget t0⟩
  let priOnly := fld p 0 23 == 0 && !p.getLsbD 25
  match sub with
  | 0x00 => if priOnly then .ok (.rgLoad a) else errResv true
  | 0x01 => if priOnly then .ok (.mcx a) else errResv true
  | 0x40 => if priOnly then .ok (.lbCut a) else errResv true
  | 0x41 => if priOnly then .ok (.lbMigrate a) else errResv true
  | 0x42 => if priOnly then .ok (.ghostSync a) else errResv true
  | _ => errField

/-- A SUB of a family that its chapter lists (R50). -/
def decFamily (pm : Pm) (pre : Option PrefixWord) (w : BitVec 32) : BaseDec :=
  let p : BitVec 26 := (immOf pre).getD 0
  let sub := (fld w 9 8).toNat
  let t0 : BitVec 9 := fld w 0 9
  match (fld w 17 4).toNat with
  | 2 => decFam2 pm p sub t0
  | 3 => decFam3 pm p sub t0
  | 4 => decFam4 pm p sub t0
  | 5 => decFam5 pm p sub t0
  | 6 => decFam6 pm p sub t0
  | 7 => decFam7 pm p sub t0
  | _ => decFam8 pm p sub t0

/-- Opcodes 0x00 to 0x1F: integer and pointer forms (R94, R98). -/
def decOps0 (op : Nat) (pm : Pm) (pre : Option PrefixWord) (w : BitVec 32) : BaseDec :=
  match op with
  | 0x00 => decInt .add Shape.full pm pre w
  | 0x01 => decInt .sub Shape.full pm pre w
  | 0x02 => decInt .and Shape.basic pm pre w
  | 0x03 => decInt .or Shape.basic pm pre w
  | 0x04 => decInt .xor Shape.basic pm pre w
  | 0x05 => decInt .andn Shape.basic pm pre w
  | 0x06 => decInt .sll Shape.basic pm pre w
  | 0x07 => decInt .srl Shape.basic pm pre w
  | 0x08 => decInt .sra Shape.basic pm pre w
  | 0x09 => decInt .min Shape.basic pm pre w
  | 0x0A => decInt .max Shape.basic pm pre w
  | 0x0B => decInt .minu Shape.basic pm pre w
  | 0x0C => decInt .maxu Shape.basic pm pre w
  | 0x0D => decImm .addi Shape.noWide pm pre w
  | 0x0E => decImm .andi Shape.basic pm pre w
  | 0x0F => decShift .slli pm pre w
  | 0x10 => decInt .mul Shape.full pm pre w
  | 0x11 => decInt .mulh Shape.basic pm pre w
  | 0x12 => decInt .mulhu Shape.basic pm pre w
  | 0x13 => decInt .div Shape.basic pm pre w
  | 0x14 => decInt .divu Shape.basic pm pre w
  | 0x15 => decInt .rem Shape.basic pm pre w
  | 0x16 => decInt .remu Shape.basic pm pre w
  | 0x17 => decShift .srli pm pre w
  | 0x18 => decShift .srai pm pre w
  | 0x19 => decInt .clz Shape.basic pm pre w
  | 0x1A => decInt .ctz Shape.basic pm pre w
  | 0x1B => decInt .popc Shape.basic pm pre w
  | 0x1C => decInt .bfx Shape.basic pm pre w
  | 0x1D => decPtr .padd (fun f => f != .space) pm pre w
  | 0x1E => decPtr .pset (fun _ => true) pm pre w
  | _ => decPtr .pget (fun _ => true) pm pre w

/-- Opcodes 0x20 to 0x3F: floating-point, conversion and reduction forms (R100, R103 to R105). -/
def decOps1 (op : Nat) (pm : Pm) (pre : Option PrefixWord) (w : BitVec 32) : BaseDec :=
  match op with
  | 0x20 => decFp .vfadd pm pre w
  | 0x21 => decFp .vfsub pm pre w
  | 0x22 => decFp .vfmul pm pre w
  | 0x23 => decFp .vfdiv pm pre w
  | 0x24 => decFp .vfsqrt pm pre w
  | 0x25 => decFp .vfmin pm pre w
  | 0x26 => decFp .vfmax pm pre w
  | 0x27 => decFp .vfabs pm pre w
  | 0x28 => decFp .vfneg pm pre w
  | 0x29 => decFp .vfma pm pre w
  | 0x2A => decFp .vfms pm pre w
  | 0x2B => decFp .vfnma pm pre w
  | 0x2C => decFp .vfnms pm pre w
  | 0x2D => decFp .vfrcp pm pre w
  | 0x2E => decFp .vfrsq pm pre w
  | 0x2F => decFp .vfsgn pm pre w
  | 0x30 => decFp .vfclass pm pre w
  | 0x31 => decFp .vfscale pm pre w
  | 0x32 => decFp .vflogb pm pre w
  | 0x33 => decFp .vfrnd pm pre w
  | 0x38 => decFp .vcvt pm pre w
  | 0x39 => decFp .vcvtb pm pre w
  | 0x3A => decFp .vsumO pm pre w
  | 0x3B => decFp .vsumT pm pre w
  | 0x3C => decFp .vminR pm pre w
  | 0x3D => decFp .vmaxR pm pre w
  | 0x3E => decFp .vandR pm pre w
  | _ => decFp .vorR pm pre w

/-- Opcodes 0x40 to 0x4F: comparison, selection and mask forms (R106 to R113). -/
def decOps2 (op : Nat) (pm : Pm) (pre : Option PrefixWord) (w : BitVec 32) : BaseDec :=
  let t1 := decTarget (fld w 9 9)
  let t0 := decTarget (fld w 0 9)
  match op with
  | 0x40 => if !fanResOk pre then errResv true else
            match decCond (fld w 18 3) with
            | some c => .ok (.cmp ⟨pm, c, t1, t0, fanOf pre⟩)
            | none => errField
  | 0x41 => if !(fanResOk pre && (preOf pre).immOk) then errResv true else
            match decCond (fld w 18 3) with
            | some c => .ok (.cmpi ⟨pm, c, fld w 9 9, t0, preOf pre⟩)
            | none => errField
  | 0x42 => decFp .vfeq pm pre w
  | 0x43 => decFp .vflt pm pre w
  | 0x44 => decFp .vfle pm pre w
  | 0x45 => decFp .vfun pm pre w
  | 0x46 => decPlain .sel pm pre w
  | 0x47 => if !fanResOk pre then errResv true else
            match decPerm (fld w 18 3) with
            | some c => .ok (.vperm ⟨pm, c, t1, t0, fanOf pre⟩)
            | none => errField
  | 0x48 => decFlag .vext pm pre w
  | 0x49 => decPlain .vins pm pre w
  | 0x4A => if !fanResOk pre then errResv true else .ok (.mlog ⟨pm, fld w 18 3, t1, t0, fanOf pre⟩)
  | 0x4B => if !fanResOk pre then errResv true else
            match decFirst (fld w 18 3) with
            | some c => .ok (.mfirst ⟨pm, c, t1, t0, fanOf pre⟩)
            | none => errField
  | 0x4C => decPlain .mpop pm pre w
  | 0x4D => decPlain .viota pm pre w
  | 0x4E => decPlain .vcomp pm pre w
  | _ => decFlag .mrange pm pre w

/-- Opcodes 0x50 to 0x77: memory forms (R125, R129, R133 to R137). -/
def decOps3 (op : Nat) (pm : Pm) (pre : Option PrefixWord) (w : BitVec 32) : BaseDec :=
  match op with
  | 0x50 => decLoad .ld MemW.vec pm pre w
  | 0x51 => decLoad .lds MemW.vec pm pre w
  | 0x52 => decLoad .ldg MemW.vecS pm pre w
  | 0x53 => decLoad .ldff MemW.vec pm pre w
  | 0x54 => decLoad .ldgff MemW.vecS pm pre w
  | 0x55 => decLoadX .ldx .x pm pre w
  | 0x56 => decLoadX .ldm .m pm pre w
  | 0x57 => decLoad .ldb MemW.vec pm pre w
  | 0x58 => decLoadX .ldref .x pm pre w
  | 0x59 => decLoadX .ldrefH .x pm pre w
  | 0x5A => decLoad .ldk MemW.vecX pm pre w
  | 0x5B => decLda pm pre w
  | 0x60 => decStore .st MemW.vec pm pre w
  | 0x61 => decStore .sts MemW.vec pm pre w
  | 0x62 => decStore .stg MemW.vecS pm pre w
  | 0x63 => decStoreX .stx .x pm pre w
  | 0x64 => decStoreX .stm .m pm pre w
  | 0x65 => decStoreX .stref .x pm pre w
  | 0x66 => decStore .stk MemW.vecX pm pre w
  | 0x67 => decStl pm pre w
  | 0x6D => decFence pm pre w
  | 0x6E => decWaitc pm pre w
  | 0x6F => decWaitv pm pre w
  | 0x70 => decAtomic .amoAdd pm pre w
  | 0x71 => decAtomic .amoAnd pm pre w
  | 0x72 => decAtomic .amoOr pm pre w
  | 0x73 => decAtomic .amoXor pm pre w
  | 0x74 => decAtomic .amoMin pm pre w
  | 0x75 => decAtomic .amoMax pm pre w
  | 0x76 => decAtomic .amoSwap pm pre w
  | _ => decAtomic .amoCas pm pre w

/-- Opcodes 0x78 to 0x7E: exits, control, CSR and the families (R48 to R50). -/
def decOps4 (op : Nat) (pm : Pm) (pre : Option PrefixWord) (w : BitVec 32) : BaseDec :=
  match op with
  | 0x78 => decBr pm w
  | 0x79 => decLoop pm w
  | 0x7A => decLoopSet pm pre w
  | 0x7B => decControl pm w
  | 0x7C => if !fanResOk pre then errResv true else .ok (.csrr ⟨pm, fld w 9 12, decTarget (fld w 0 9), fanOf pre⟩)
  | 0x7D => .ok (.csrw ⟨pm, fld w 9 12, decTarget (fld w 0 9)⟩)
  | _ => decFamily pm pre w

/-- A base word after an optional prefix word, in the order of checks of R58. -/
def decBase (pre : Option PrefixWord) (w : BitVec 32) : BaseDec :=
  let op := (fld w 23 7).toNat
  let fam : BitVec 4 := fld w 17 4
  if op = 0x7E ∧ (fam.toNat < 2 ∨ 8 < fam.toNat) then .error (.prefixInvalid, 0, false) else
  if !opAssigned op then .error (.opcodeReserved, 0, false) else
  match decPm (fld w 21 2) with
  | none => .error (.pmIllegal, 0, false)
  | some pm =>
    if !preAccepted op fam pre then .error (.prefixMismatch, (match pre with | some p => p.kind.toNat | none => 0), true) else
    if op < 0x20 then decOps0 op pm pre w
    else if op < 0x40 then decOps1 op pm pre w
    else if op < 0x50 then decOps2 op pm pre w
    else if op < 0x78 then decOps3 op pm pre w
    else decOps4 op pm pre w

/-- A compressed form (R54). -/
def decCompressed (p : Parcel) : Except Cause Instr :=
  let a : CArgs := ⟨decTarget (fld p 0 9)⟩
  match (fld p 9 6).toNat with
  | 0x00 => .ok (.cMov a)
  | 0x01 => .ok (.cFan a)
  | 0x02 => .ok (.cVl a)
  | 0x03 => .ok (.cSb a)
  | 0x04 => .ok (.cSn a)
  | 0x05 => .ok (.cEidx a)
  | 0x20 => .ok (.cNeg a)
  | 0x21 => .ok (.cNot a)
  | 0x22 => .ok (.cInc a)
  | 0x23 => .ok (.cDec a)
  | 0x24 => .ok (.cShl1 a)
  | 0x25 => .ok (.cShr1 a)
  | 0x26 => .ok (.cSar1 a)
  | 0x27 => .ok (.cSext32 a)
  | 0x28 => .ok (.cZext32 a)
  | 0x29 => .ok (.cIsz a)
  | 0x2A => .ok (.cNez a)
  | 0x2B => .ok (.cAdd a)
  | 0x2C => .ok (.cSub a)
  | 0x2D => .ok (.cAnd a)
  | 0x2E => .ok (.cOr a)
  | 0x2F => .ok (.cXor a)
  | 0x30 => .ok (.cNull a)
  | 0x31 => .ok (.cNullv a)
  | 0x32 => .ok (.cNullm a)
  | 0x33 => .ok (.cNullif a)
  | 0x34 => .ok (.cKeepif a)
  | 0x35 => .ok (.cZfill a)
  | 0x36 => .ok (.cIsnull a)
  | n => if 0x10 ≤ n ∧ n ≤ 0x1F then .ok (.cLi ⟨fld p 9 4, a.t0⟩) else .error .opcodeReserved

/-- The length in parcels that the first parcel gives (R34). -/
def parcelLen (p : Parcel) : Nat :=
  if !p.getLsbD 15 then 1 else if p.getLsbD 14 then 2 else 4

/-- The result of a base word, with its offending parcel counted from the start of the instruction. -/
def baseResult (n pre : Nat) : BaseDec → Except DecErr (Instr × Nat)
  | .ok i => .ok (i, n)
  | .error (c, d, inPre) => .error ⟨c, d, if inPre then 0 else pre⟩

/-- One instruction from the parcels that remain in its line: the instruction and the parcels it takes,
or the first failing check. An instruction that runs past the content of its line is LINE_FORMAT (R36); no rule orders that against R34's
PREFIX_INVALID for a prefix word with fewer than two further parcels, and the model gives LINE_FORMAT (DESIGN CHOICE, log 115). -/
def decInstr (ps : List Parcel) : Except DecErr (Instr × Nat) :=
  match ps with
  | [] => .error ⟨.lineFormat, 0, 0⟩
  | p :: rest =>
    match parcelLen p with
    | 1 =>
      match decCompressed p with
      | .ok i => .ok (i, 1)
      | .error c => .error ⟨c, 0, 0⟩
    | 2 =>
      match rest with
      | q :: _ => baseResult 2 0 (decBase none (p ++ q))
      | [] => .error ⟨.lineFormat, 0, 0⟩
    | _ =>
      match rest with
      | q :: a :: b :: _ =>
        let pw : BitVec 32 := p ++ q
        let k : BitVec 4 := fld pw 26 4
        if 8 < k.toNat then .error ⟨.prefixInvalid, 0, 0⟩
        else if fld a 14 2 ≠ 3 then .error ⟨.prefixInvalid, 0, 0⟩
        else baseResult 4 2 (decBase (some ⟨k, fld pw 0 26⟩) (a ++ b))
      | _ => .error ⟨.lineFormat, 0, 0⟩

/-- The instruction that a table row's bits decode to: 16 bits are one parcel, and 32 bits two parcels
of which the first forms the high half (R3, R34). -/
def decodeTableWord (nbits w : Nat) : Option Instr :=
  let ps : List Parcel := if nbits ≤ 16 then [BitVec.ofNat 16 w] else [BitVec.ofNat 16 (w / 2 ^ 16), BitVec.ofNat 16 w]
  match decInstr ps with
  | .ok (i, _) => some i
  | .error _ => none

/-! ### The encoder -/

/-- A base word of the general layout (R43). -/
def encBase (op : BitVec 7) (pm : Pm) (aux : BitVec 3) (t1 t0 : BitVec 9) : BitVec 32 :=
  3#2 ++ (op ++ (pm.enc ++ (aux ++ (t1 ++ t0))))

/-- A base word of the memory layout (R46). -/
def encMem (op : BitVec 7) (pm : Pm) (lsid : BitVec 5) (cls : BitVec 4) (ws : BitVec 3) (t0 : BitVec 9) : BitVec 32 :=
  3#2 ++ (op ++ (pm.enc ++ (lsid ++ (cls ++ (ws ++ t0)))))

/-- A base word of the control layout (R48). -/
def encCtl (op : BitVec 7) (pm : Pm) (aux : BitVec 3) (f : Bool) (off : BitVec 17) : BitVec 32 :=
  3#2 ++ (op ++ (pm.enc ++ (aux ++ (BitVec.ofBool f ++ off))))

/-- A base word of the CSR layout (R49). -/
def encCsr (op : BitVec 7) (pm : Pm) (csr : BitVec 12) (t0 : BitVec 9) : BitVec 32 :=
  3#2 ++ (op ++ (pm.enc ++ (csr ++ t0)))

/-- A base word of a family short form (R50). -/
def encFam (pm : Pm) (fam : BitVec 4) (sub : BitVec 8) (t0 : BitVec 9) : BitVec 32 :=
  3#2 ++ (0x7E#7 ++ (pm.enc ++ (fam ++ (sub ++ t0))))

/-- The two parcels of a word, the high half first (R3). -/
def wordParcels (w : BitVec 32) : List Parcel := [fld w 16 16, fld w 0 16]

/-- A base word and its optional prefix as parcels (R51). -/
def withPre (pre : Option PrefixWord) (w : BitVec 32) : List Parcel :=
  match pre with
  | none => wordParcels w
  | some p => wordParcels (2#2 ++ (p.kind ++ p.payload)) ++ wordParcels w

/-- The prefix of extra targets. -/
def encFan (f : Option Fan) : Option PrefixWord := f.map (fun f => ⟨1, f.enc⟩)

/-- The prefix of an immediate form or a load. -/
def encPre : Pre → Option PrefixWord
  | .bare => none
  | .imm v => some ⟨0, v⟩
  | .fan f => some ⟨1, f.enc⟩

/-- The kind-0 prefix of a value. -/
def encImm (v : Option (BitVec 26)) : Option PrefixWord := v.map (fun v => ⟨0, v⟩)

/-- A family form: the assembler omits a prefix whose payload is 0 (R197). -/
def famParcels (pm : Pm) (fam : BitVec 4) (sub : BitVec 8) (payload : BitVec 26) (t0 : BitVec 9) : List Parcel :=
  withPre (if payload = 0 then none else some ⟨fam, payload⟩) (encFam pm fam sub t0)

/-- An integer form. -/
def encInt (op : BitVec 7) (o : IntArgs) : List Parcel :=
  withPre (encFan o.fan) (encBase op o.pm o.shape.enc o.t1.enc o.t0.enc)

/-- addi and andi. -/
def encImmForm (op : BitVec 7) (o : ImmArgs) : List Parcel :=
  withPre (encPre o.pre) (encBase op o.pm o.shape.enc o.imm9 o.t0.enc)

/-- slli, srli and srai. -/
def encShift (op : BitVec 7) (o : ShiftArgs) : List Parcel :=
  withPre (encFan o.fan) (encBase op o.pm o.shape.enc (0#3 ++ o.sh) o.t0.enc)

/-- padd, pset and pget. -/
def encPtr (op : BitVec 7) (o : PtrArgs) : List Parcel :=
  withPre (encFan o.fan) (encBase op o.pm o.field.enc o.t1.enc o.t0.enc)

/-- Forms with a descriptor. -/
def encFp (op : BitVec 7) (o : FpArgs) : List Parcel :=
  withPre (encFan o.fan) (encBase op o.pm o.d o.t1.enc o.t0.enc)

/-- Forms with AUX 0. -/
def encPlain (op : BitVec 7) (o : PlainArgs) : List Parcel :=
  withPre (encFan o.fan) (encBase op o.pm 0 o.t1.enc o.t0.enc)

/-- Forms with AUX 0 or 1. -/
def encFlag (op : BitVec 7) (o : FlagArgs) : List Parcel :=
  withPre (encFan o.fan) (encBase op o.pm (0#2 ++ BitVec.ofBool o.flag) o.t1.enc o.t0.enc)

/-- Loads. -/
def encLoad (op : BitVec 7) (o : LoadArgs) : List Parcel :=
  withPre (encPre o.pre) (encMem op o.pm o.lsid o.cls o.ws.enc o.t0.enc)

/-- Loads of one WS. -/
def encLoadX (op : BitVec 7) (ws : MemW) (o : LoadXArgs) : List Parcel :=
  withPre (encPre o.pre) (encMem op o.pm o.lsid o.cls ws.enc o.t0.enc)

/-- Stores. -/
def encStore (op : BitVec 7) (o : StoreArgs) : List Parcel :=
  withPre (encImm o.imm) (encMem op o.pm o.lsid o.cls o.ws.enc (0#4 ++ o.ofs5))

/-- Stores of one WS. -/
def encStoreX (op : BitVec 7) (ws : MemW) (o : StoreXArgs) : List Parcel :=
  withPre (encImm o.imm) (encMem op o.pm o.lsid o.cls ws.enc (0#4 ++ o.ofs5))

/-- Atomics. -/
def encAtomic (op : BitVec 7) (o : AtomicArgs) : List Parcel :=
  withPre (encFan o.fan) (encMem op o.pm o.lsid o.scope.enc o.ord.enc o.t0.enc)

/-- Compressed forms. -/
def encC (cop : BitVec 6) (o : CArgs) : List Parcel := [0#1 ++ (cop ++ o.t0.enc)]

/-- gemm.t and gemm.t.pair. -/
def encGemm (sub : BitVec 8) (o : GemmArgs) : List Parcel :=
  famParcels o.pm 2 sub
    (o.td ++ (o.ds ++ (o.asrc.enc ++ (o.bsrc.enc ++ (o.ta ++ (o.tb ++ o.nstep)))))) 0x1FF

/-- The block solvers. -/
def encBlock (sub : BitVec 8) (o : BlockArgs) : List Parcel :=
  famParcels o.pm 2 sub
    (o.td ++ (o.ds ++ (o.bd ++ (o.ts ++ (o.bs ++ (BitVec.ofBool o.f1 ++ (BitVec.ofBool o.f2 ++ 0#7))))))) 0x1FF

/-- The payload of forms with only a PRI. -/
def priPayload (pri : BitVec 2) : BitVec 26 := 0#1 ++ (pri ++ 0#23)

/-- Engine commands. -/
def encCmd (fam : BitVec 4) (sub : BitVec 8) (o : CmdArgs) : List Parcel :=
  famParcels o.pm fam sub (priPayload o.pri) o.t0.enc

/-- Forms without a result. -/
def encBare (fam : BitVec 4) (sub : BitVec 8) (o : BareArgs) : List Parcel := famParcels o.pm fam sub 0 0x1FF

/-- Forms with a result and no payload. -/
def encRes (fam : BitVec 4) (sub : BitVec 8) (o : ResArgs) : List Parcel := famParcels o.pm fam sub 0 o.t0.enc

/-- The parcels of an instruction; an event has none. -/
def encode : Instr → List Parcel
  | .add o => encInt 0x00 o
  | .sub o => encInt 0x01 o
  | .and o => encInt 0x02 o
  | .or o => encInt 0x03 o
  | .xor o => encInt 0x04 o
  | .andn o => encInt 0x05 o
  | .sll o => encInt 0x06 o
  | .srl o => encInt 0x07 o
  | .sra o => encInt 0x08 o
  | .min o => encInt 0x09 o
  | .max o => encInt 0x0A o
  | .minu o => encInt 0x0B o
  | .maxu o => encInt 0x0C o
  | .addi o => encImmForm 0x0D o
  | .andi o => encImmForm 0x0E o
  | .slli o => encShift 0x0F o
  | .mul o => encInt 0x10 o
  | .mulh o => encInt 0x11 o
  | .mulhu o => encInt 0x12 o
  | .div o => encInt 0x13 o
  | .divu o => encInt 0x14 o
  | .rem o => encInt 0x15 o
  | .remu o => encInt 0x16 o
  | .srli o => encShift 0x17 o
  | .srai o => encShift 0x18 o
  | .clz o => encInt 0x19 o
  | .ctz o => encInt 0x1A o
  | .popc o => encInt 0x1B o
  | .bfx o => encInt 0x1C o
  | .padd o => encPtr 0x1D o
  | .pset o => encPtr 0x1E o
  | .pget o => encPtr 0x1F o
  | .vfadd o => encFp 0x20 o
  | .vfsub o => encFp 0x21 o
  | .vfmul o => encFp 0x22 o
  | .vfdiv o => encFp 0x23 o
  | .vfsqrt o => encFp 0x24 o
  | .vfmin o => encFp 0x25 o
  | .vfmax o => encFp 0x26 o
  | .vfabs o => encFp 0x27 o
  | .vfneg o => encFp 0x28 o
  | .vfma o => encFp 0x29 o
  | .vfms o => encFp 0x2A o
  | .vfnma o => encFp 0x2B o
  | .vfnms o => encFp 0x2C o
  | .vfrcp o => encFp 0x2D o
  | .vfrsq o => encFp 0x2E o
  | .vfsgn o => encFp 0x2F o
  | .vfclass o => encFp 0x30 o
  | .vfscale o => encFp 0x31 o
  | .vflogb o => encFp 0x32 o
  | .vfrnd o => encFp 0x33 o
  | .vcvt o => encFp 0x38 o
  | .vcvtb o => encFp 0x39 o
  | .vsumO o => encFp 0x3A o
  | .vsumT o => encFp 0x3B o
  | .vminR o => encFp 0x3C o
  | .vmaxR o => encFp 0x3D o
  | .vandR o => encFp 0x3E o
  | .vorR o => encFp 0x3F o
  | .cmp o => withPre (encFan o.fan) (encBase 0x40 o.pm o.cond.enc o.t1.enc o.t0.enc)
  | .cmpi o => withPre (encPre o.pre) (encBase 0x41 o.pm o.cond.enc o.imm9 o.t0.enc)
  | .vfeq o => encFp 0x42 o
  | .vflt o => encFp 0x43 o
  | .vfle o => encFp 0x44 o
  | .vfun o => encFp 0x45 o
  | .sel o => encPlain 0x46 o
  | .vperm o => withPre (encFan o.fan) (encBase 0x47 o.pm o.op.enc o.t1.enc o.t0.enc)
  | .vext o => encFlag 0x48 o
  | .vins o => encPlain 0x49 o
  | .mlog o => withPre (encFan o.fan) (encBase 0x4A o.pm o.op o.t1.enc o.t0.enc)
  | .mfirst o => withPre (encFan o.fan) (encBase 0x4B o.pm o.op.enc o.t1.enc o.t0.enc)
  | .mpop o => encPlain 0x4C o
  | .viota o => encPlain 0x4D o
  | .vcomp o => encPlain 0x4E o
  | .mrange o => encFlag 0x4F o
  | .ld o => encLoad 0x50 o
  | .lds o => encLoad 0x51 o
  | .ldg o => encLoad 0x52 o
  | .ldff o => encLoad 0x53 o
  | .ldgff o => encLoad 0x54 o
  | .ldx o => encLoadX 0x55 .x o
  | .ldm o => encLoadX 0x56 .m o
  | .ldb o => encLoad 0x57 o
  | .ldref o => encLoadX 0x58 .x o
  | .ldrefH o => encLoadX 0x59 .x o
  | .ldk o => encLoad 0x5A o
  | .lda o => withPre (encPre o.pre) (encMem 0x5B o.pm o.lsid o.scope.enc 4 o.t0.enc)
  | .st o => encStore 0x60 o
  | .sts o => encStore 0x61 o
  | .stg o => encStore 0x62 o
  | .stx o => encStoreX 0x63 .x o
  | .stm o => encStoreX 0x64 .m o
  | .stref o => encStoreX 0x65 .x o
  | .stk o => encStore 0x66 o
  | .stl o => withPre (encImm o.imm) (encMem 0x67 o.pm o.lsid 15 4 (o.scope.enc ++ o.ofs5))
  | .fence o =>
      withPre (o.mask.map (fun m => ⟨0, 0#10 ++ m⟩)) (encMem 0x6D o.pm o.lsid o.scope.enc 0 0x1FF)
  | .waitc o =>
      withPre (o.counts.map (fun c => ⟨0, 0#2 ++ (c.loads ++ (c.stores ++ (c.copies ++ c.tiles)))⟩))
        (encMem 0x6E o.pm 0 o.cls 0 0x1FF)
  | .waitv o => encLoadX 0x6F .x o
  | .amoAdd o => encAtomic 0x70 o
  | .amoAnd o => encAtomic 0x71 o
  | .amoOr o => encAtomic 0x72 o
  | .amoXor o => encAtomic 0x73 o
  | .amoMin o => encAtomic 0x74 o
  | .amoMax o => encAtomic 0x75 o
  | .amoSwap o => encAtomic 0x76 o
  | .amoCas o => encAtomic 0x77 o
  | .br o => wordParcels (encCtl 0x78 o.pm 0 o.f o.off)
  | .brCall o => wordParcels (encCtl 0x78 o.pm 1 o.f o.off)
  | .brInd o => wordParcels (encCtl 0x78 o.pm 2 o.f 0)
  | .brRet o => wordParcels (encCtl 0x78 o.pm 3 o.f 0)
  | .brStrip o => wordParcels (encCtl 0x78 o.pm 4 false o.off)
  | .brEs o => wordParcels (encCtl 0x78 o.pm 5 o.f o.off)
  | .loop o => wordParcels (encCtl 0x79 o.pm (encLvl o.lvl) o.f o.off)
  | .loopc o => withPre (encImm o.trip) (encCtl 0x7A o.pm (encLvl o.lvl) false (o.xreg ++ o.off))
  | .loopw o => withPre (encImm o.trip) (encCtl 0x7A o.pm (encLvl o.lvl) true (o.xreg ++ o.off))
  | .trigger o => wordParcels (encCtl 0x7B o.pm 0 false 0)
  | .yield o => wordParcels (encCtl 0x7B o.pm 1 false 0)
  | .setrecov o => wordParcels (encCtl 0x7B o.pm 2 false o.off)
  | .rtp o => wordParcels (encCtl 0x7B o.pm 3 false 0)
  | .fin o => wordParcels (encCtl 0x7B o.pm 4 false 0)
  | .csrr o => withPre (encFan o.fan) (encCsr 0x7C o.pm o.csr o.t0.enc)
  | .csrw o => wordParcels (encCsr 0x7D o.pm o.csr o.t0.enc)
  | .cMov o => encC 0x00 o
  | .cFan o => encC 0x01 o
  | .cVl o => encC 0x02 o
  | .cSb o => encC 0x03 o
  | .cSn o => encC 0x04 o
  | .cEidx o => encC 0x05 o
  | .cLi o => [0#1 ++ ((1#2 ++ o.n) ++ o.t0.enc)]
  | .cNeg o => encC 0x20 o
  | .cNot o => encC 0x21 o
  | .cInc o => encC 0x22 o
  | .cDec o => encC 0x23 o
  | .cShl1 o => encC 0x24 o
  | .cShr1 o => encC 0x25 o
  | .cSar1 o => encC 0x26 o
  | .cSext32 o => encC 0x27 o
  | .cZext32 o => encC 0x28 o
  | .cIsz o => encC 0x29 o
  | .cNez o => encC 0x2A o
  | .cAdd o => encC 0x2B o
  | .cSub o => encC 0x2C o
  | .cAnd o => encC 0x2D o
  | .cOr o => encC 0x2E o
  | .cXor o => encC 0x2F o
  | .cNull o => encC 0x30 o
  | .cNullv o => encC 0x31 o
  | .cNullm o => encC 0x32 o
  | .cNullif o => encC 0x33 o
  | .cKeepif o => encC 0x34 o
  | .cZfill o => encC 0x35 o
  | .cIsnull o => encC 0x36 o
  | .tz o => famParcels o.pm 2 0x00 (o.td ++ (BitVec.ofBool o.pair ++ 0#22)) 0x1FF
  | .opa o => famParcels o.pm 2 0x01 (o.td ++ (o.ds ++ (BitVec.ofBool o.neg ++ 0#19))) 0x1FF
  | .mvvt o =>
      famParcels o.pm 2 0x02 (o.td ++ (BitVec.ofBool o.pair ++ (BitVec.ofBool o.col ++ (o.idx ++ 0#16)))) 0x1FF
  | .mvtv o =>
      famParcels o.pm 2 0x03 (o.td ++ (BitVec.ofBool o.pair ++ (BitVec.ofBool o.col ++ (o.idx ++ 0#16)))) o.t0.enc
  | .ldt o => famParcels o.pm 2 0x04 (o.td ++ (BitVec.ofBool o.pair ++ 0#22)) 0x1FF
  | .stt o => famParcels o.pm 2 0x05 (o.td ++ (BitVec.ofBool o.pair ++ 0#22)) 0x1FF
  | .scld o => famParcels o.pm 2 0x06 (o.e0 ++ (o.cnt ++ (o.sf.enc ++ 0#10))) 0x1FF
  | .gemmT o => encGemm 0x10 o
  | .gemmTPair o => encGemm 0x11 o
  | .cholT o => encBlock 0x18 o
  | .trsmT o => encBlock 0x19 o
  | .syrkT o => encBlock 0x1A o
  | .qrT o => encBlock 0x1B o
  | .cpy o => famParcels o.pm 3 0x00 (0#1 ++ (o.pri ++ (0#3 ++ o.len))) o.t0.enc
  | .cpyRec o => famParcels o.pm 3 0x00 (1#1 ++ (o.pri ++ 0#23)) o.t0.enc
  | .cpy2 o => encCmd 3 0x01 o
  | .cpy3 o => encCmd 3 0x02 o
  | .cpyg o => encCmd 3 0x03 o
  | .cpyr o => encCmd 3 0x04 o
  | .cpyx o => encCmd 3 0x05 o
  | .esack o => famParcels o.pm 3 0x08 (priPayload o.pri) 0x1FF
  | .rtDecl o => encBare 4 0x00 o
  | .rtPush o => famParcels o.pm 4 0x01 (o.set ++ 0#24) 0x1FF
  | .rtTake o => famParcels o.pm 4 0x02 (o.set ++ (BitVec.ofBool o.poison ++ 0#23)) o.t0.enc
  | .rtDone o => encBare 4 0x03 o
  | .rtStat o => famParcels o.pm 4 0x04 (0#3 ++ (BitVec.ofBool o.close ++ 0#22)) o.t0.enc
  | .rtDrain o => famParcels o.pm 4 0x05 (o.set ++ 0#24) o.t0.enc
  | .rtSeed o => encBare 4 0x06 o
  | .bar o => famParcels o.pm 5 0x20 (o.bs.enc ++ (o.bid ++ (o.cnt ++ 0#10))) 0x1FF
  | .cardPost o => encBare 5 0x00 o
  | .cardSig o => encBare 5 0x01 o
  | .futWait o => encRes 5 0x02 o
  | .futSet o => famParcels o.pm 5 0x03 (BitVec.ofBool o.fail ++ 0#25) o.t0.enc
  | .jobq o => encRes 5 0x04 o
  | .meshInit o => encCmd 6 0x00 o
  | .meshAdapt o => encCmd 6 0x01 o
  | .nbrStream o => encCmd 6 0x02 o
  | .colBuild o => encCmd 6 0x03 o
  | .meshFree o => encCmd 6 0x04 o
  | .meshOpen o => encRes 6 0x10 o
  | .meshClose o => encBare 6 0x11 o
  | .nbrLd o => famParcels o.pm 6 0x18 (0#3 ++ (o.face ++ 0#20)) o.t0.enc
  | .nbrLd2 o => famParcels o.pm 6 0x19 (0#3 ++ (o.face ++ (0#1 ++ (BitVec.ofBool o.q ++ 0#18)))) o.t0.enc
  | .vsaddCol o => famParcels o.pm 6 0x1A (0#3 ++ (o.ds ++ 0#20)) 0x1FF
  | .pin o => encRes 7 0x00 o
  | .unpin o => encBare 7 0x01 o
  | .refeq o => encRes 7 0x02 o
  | .hpMake o => famParcels o.pm 7 0x03 (0#6 ++ o.size16) 0x1FF
  | .hpRelocate o => encCmd 7 0x04 o
  | .hpEpoch o => encCmd 7 0x05 o
  | .rgLoad o => encCmd 8 0x00 o
  | .mcx o => encCmd 8 0x01 o
  | .lbCut o => encCmd 8 0x40 o
  | .lbMigrate o => encCmd 8 0x41 o
  | .ghostSync o => encCmd 8 0x42 o
  | _ => []

/-- The row is an instruction of a pitch, not an event of the machine. -/
def Instr.isWord (i : Instr) : Bool := !(encode i).isEmpty

end Sys2Proof
end

