-- ==== Sys2Proof/Machine/State.lean ====
section
/-!
DEFINITION. Sys2Proof/Machine/State.lean: everything the manual gives the machine, as plain data, and the
machine right after reset. Sparse tables (contexts, cores, homes, queues) are lists keyed by a number; an
absent key stands for the unit's reset value.
-/

namespace Sys2Proof.Machine

/-! ### Tokens and pitches -/

/-- The three kinds of token (R16). -/
inductive TokKind where
  | scalar | vec | mask
  deriving DecidableEq, Repr

/-- A token: its kind, log2 of its element width (0 for a mask), its bits, its null map and its reference
mark (R16, R90, R139, R167). -/
structure Token where
  kind : TokKind
  lw   : Nat
  bits : BitVec 2048
  null : BitVec 256
  ref  : Bool
  deriving DecidableEq, Repr

/-- A condition that a pitch execution raised: what fc and fa record of it (R166). -/
structure FaultRec where
  cause  : Cause
  fa     : Word
  detail : Nat
  elem   : Option Nat
  idx    : Option Nat
  recov  : Bool
  deriving DecidableEq, Repr

/-- The translation a probe holds (R384): M-die, entry and the M-die's command count at the probe. -/
structure Hold where
  mdie  : Nat
  entry : Nat
  stamp : Nat
  deriving DecidableEq, Repr

/-- Where an element lies once checked: the key of its first byte in the memory list, or the peer chip and
offset that serve it (R115). -/
structure Place where
  key  : Nat
  peer : Option Nat
  hold : Option Hold
  deriving DecidableEq, Repr

/-- One element of a buffered store: its number, pointer, place, and for each byte its value and the bits
that are written (R128, R129). -/
structure StElem where
  e     : Nat
  ptr   : Word
  place : Place
  data  : List (Byte × Byte)
  deriving DecidableEq, Repr

/-- The operation of an atomic (R136). -/
inductive AmoOp where
  | add | and | or | xor | min | max | swap | cas
  deriving DecidableEq, Repr

/-- One element of an atomic. -/
structure AmElem where
  e     : Nat
  ptr   : Word
  place : Place
  y     : Nat
  z     : Nat
  deriving DecidableEq, Repr

/-- An access inside a heap object: the reference, the offset, and the bytes a store puts there (R141, R142). -/
structure RefElem where
  e    : Nat
  ref  : Word
  off  : Int
  hold : Option Hold
  data : List Byte
  deriving DecidableEq, Repr

/-- The units an engine command goes to (R223, R320, R344, R390, R411, R414). -/
inductive CmdKind where
  | cpyInline | cpy | cpy2 | cpy3 | cpyg | cpyr | cpyx
  | meshInit | meshAdapt | nbrStream | colBuild | meshFree
  | hpRelocate | hpEpoch | rgLoad | mcx | lbCut | lbMigrate | ghostSync
  deriving DecidableEq, Repr

/-- An engine command as the strand forms it. -/
structure CmdReq where
  kind : CmdKind
  pri  : Nat
  p0   : Word
  p1   : Word
  len  : Nat
  es   : Nat
  user : Bool
  deriving DecidableEq, Repr

/-- A router command as the strand forms it (R243). -/
inductive RtReq where
  | decl (p : Word)
  | push (set : Nat) (p : Word) (tag : Nat)
  | take (set : Nat) (poison : Bool) (mask : Nat)
  | done (p : Word) (stage outcome : Nat)
  | stat (sel : Nat) (close : Bool)
  | drain (set : Nat)
  | seed (v : Nat)
  deriving DecidableEq, Repr

/-- A card, future, job, mesh or heap operation as the strand forms it (R296, R319, R344). -/
inductive OpReq where
  | cardPost (card : Word) (sel : Nat)
  | cardSig (card : Word)
  | futWait (fut card : Word) (place : Place)
  | futSet (fut val : Word) (fail : Bool) (place : Place)
  | jobq (j : Nat)
  | meshOpen (mesh : Word)
  | meshClose (h : Word)
  | pin (r : Word)
  | unpin (r : Word)
  | refeq (a b : Word)
  | hpMake (w h : Word) (wplace : Place) (size : Nat)
  | nbr (h : Word) (face : Nat) (two : Bool) (q : Nat) (cells : List (Nat × Nat))
  deriving DecidableEq, Repr

/-- What a fired instruction has buffered for the belay (R27, R146). -/
inductive Effect where
  | store (lsid cls : Nat) (rel : Option Scope) (els : List StElem)
  | atomic (lsid : Nat) (op : AmoOp) (w : Nat) (scope : Scope) (ord : AmoOrd) (vec : Bool) (els : List AmElem)
  | refStore (lsid cls : Nat) (w : Nat) (els : List RefElem)
  | heal (lsid cls : Nat) (ptr : Word) (viaRef : Bool) (off : Int) (place : Place) (old new : Word)
  | fence (lsid : Nat) (scope : Scope) (mask : BitVec 16)
  | waitc (cls loads stores copies tiles : Nat)
  | csrw (csr : Nat) (val : Word)
  | cmd (c : CmdReq)
  | esack (slot : Nat)
  | router (r : RtReq)
  | op (r : OpReq) (holds : List Hold)
  | bar (bs : BarScope) (bid cnt : Nat)
  | vsadd (els : List StElem)
  | trigger
  | setrecov (a : Word)
  deriving DecidableEq, Repr

/-- What a taken exit does at the belay (R145). -/
inductive ExitFx where
  | goto (a : Word)
  | call (a : Word)
  | ret (a : Word)
  | fall
  | strip (off : Int)
  | loopClose (lvl : Nat) (leave : Bool) (off : Int)
  | loopSet (lvl : Nat) (isWhile : Bool) (xreg : Nat) (trip : Nat) (stride : Word) (off : Int)
  | yield
  | rtp
  | fin
  deriving DecidableEq, Repr

/-- What the checks of R131 need to know of a load: it needs WR too, it may reach device registers, it is a waitv, it
may use the sector cache (R120), it is a first-fault form (R127), one element is broadcast
(ldb), it is a gather (R126), and its alignment. -/
structure LoadReq where
  wr    : Bool := false
  dev   : Bool := false
  waitv : Bool := false
  cache : Bool := false
  ff    : Bool := false
  bcast : Bool := false
  gather : Bool := false
  w     : Nat
  deriving DecidableEq, Repr

/-- The kinds of load: plain, first-fault, acquire, through a reference operand (ldk; or ldref, whose word is itself run
through the barrier), ldref through a pointer, waitv, and the reads of matrix, mesh and vsadd.col instructions. -/
inductive LoadKind where
  | plain | first | acquire (s : Scope) | refObj (word heal : Bool) | refWord (heal : Bool) | watch (x : Word) (timeout : Nat)
  | matrix | nbr | vsadd
  deriving DecidableEq, Repr

/-- One element of a fired load: base pointer (or reference) and Δ (R116), bytes, its place once sent, and its bytes
once returned. -/
structure LdElem where
  e     : Nat
  base  : Word
  delta : Int
  n     : Nat
  place : Option Place
  val   : Option (List Byte)
  deriving DecidableEq, Repr

/-- A fired load that has not delivered its token. -/
structure LoadRec where
  idx   : Nat
  req   : LoadReq
  deliver : Bool
  lsid  : Nat
  cls   : Nat
  kind  : LoadKind
  w     : Nat
  shape : TokKind
  null  : BitVec 256
  els   : List LdElem
  sent  : Bool
  deriving DecidableEq, Repr

/-- The header of a pitch (R39 to R41). -/
structure Header where
  icnt  : Nat
  rcnt  : Nat
  wcnt  : Nat
  lkind : Nat
  llvl  : Nat
  indep : Bool
  smask : BitVec 32
  rmap  : List (Nat × Target × Target)
  wmap  : List Nat
  deriving DecidableEq, Repr

/-- The strand values a pitch runs on, as they stood at its start (R92, R162, R167). -/
structure Image where
  sb : BitVec 48
  sn : BitVec 48
  vl : Nat
  sc : Word
  sl : Word
  fr : Word
  fx : Word
  fe : Word
  lp : Vector (BitVec 48) 6
  lm : Vector (BitVec 48) 6
  ls : Vector Word 6
  lc : Vector Word 6
  d  : Vector Word 8
  sid : Nat
  deriving DecidableEq, Repr

/-- The matrix instruction that the sequencer runs (R194): the steps completed and their number, the partial sums of an open
promotion run (R209) and the blocks of the tile panels copied as it was applied (R211). -/
structure MxSeq where
  idx   : Nat
  step  : Nat
  total : Nat
  acc   : List Nat
  bufA  : List Nat
  bufB  : List Nat
  deriving DecidableEq, Repr

/-- The matrix part of a pitch execution (R191): which instructions have been applied or passed over, the
working image of the tiles and of the scale file, the sequencer, and the step that a trapped instruction had reached (R167). -/
structure MxWork where
  applied : BitVec 64
  passed  : BitVec 64
  step    : Nat
  tiles   : List (Nat × BitVec 32768)
  scale   : List (Nat × BitVec 32)
  stt     : List (Nat × List StElem)
  seq     : Option MxSeq
  flags   : BitVec 6
  deriving DecidableEq, Repr

/-- One register effect of a belayed pitch that waits for responses (R27). -/
inductive RegWrite where
  | slot (reg : Nat) (t : Token) (vl : Nat) (lsew : Nat)
  | addX (reg : Nat) (v : Word)
  deriving DecidableEq, Repr

/-- One execution of a pitch (R19 to R30); `serial` tells one execution from another. `reserved` are the write slots (slot,
register, instruction) that a response returning after the belay will fill (R27); `decided` says that the pitch has reached
quiescence and is to belay (R23). `heldReads` are the read-map entries of a speculative pitch that wait for its predecessor's write
slots, and `adds` the stride that it predicts (R30, R149). -/
structure Exec where
  serial  : Nat
  pc      : Word
  nlines  : Nat
  hdr     : Header
  code    : List (Nat × Word × List Parcel)
  img     : Image
  user    : Bool
  toks    : List (Nat × TKind × Token)
  wslots  : List (Nat × Nat × Token)
  fired   : BitVec 64
  trapped : BitVec 64
  taken   : List (Nat × ExitFx)
  bufs    : List (Nat × Effect)
  loads   : List LoadRec
  faults  : List FaultRec
  pages   : List (Nat × Nat × Word)
  ffmin   : Option Nat
  flags   : BitVec 6
  esAlloc : List (Nat × Nat)
  mx      : MxWork
  fetchTrap : Option FaultRec
  resumed : BitVec 64
  multi   : Bool
  heldReads : List Nat
  adds    : List RegWrite
  reserved : List (Nat × Nat × Nat)
  decided : Bool
  deriving DecidableEq, Repr

/-! ### Strand contexts -/

/-- The state of an es slot (R219). -/
inductive EsState where
  | idle | busy | done | fault
  deriving DecidableEq, Repr

/-- Where a context stands (R176, R227, R228). -/
inductive Where where
  | active | bank | spilling | spilled | filling
  deriving DecidableEq, Repr

/-- A scratchpad window: LO, SIZE and REACH (0 core, 1 cluster, 2 die) of R287, and the linear core of the strand
it was granted to. -/
structure ScrWindow where
  core  : Nat
  lo    : Nat
  size  : Nat
  reach : Nat
  deriving DecidableEq, Repr

/-- What a strand was created for (R283, R293). -/
inductive Job where
  | nest (launch ordinal : Nat)
  | card (card : Nat)
  | none
  deriving DecidableEq, Repr

/-- What a strand waits for between a belay and its next pitch (R134, R236, R123, R157). -/
inductive Wait where
  | counts (cls loads stores copies tiles : Nat) (acq : Bool)
  | msgs (ids : List Nat)
  | barrier (bs : BarScope) (unit entry : Nat)
  | acq (s : Scope) (epoch : Nat)
  deriving DecidableEq, Repr

/-- A belayed pitch whose responses have not all returned: the requests it waits for with the write slots
each fills, its register effects, those of later pitches on the same registers, and the data needed to fill a slot (R27). -/
structure PendPitch where
  awaits : List (Nat × Nat × List Nat)
  writes : List RegWrite
  later  : List RegWrite
  vl     : Nat
  lsew   : Nat
  wmap   : List Nat
  deriving DecidableEq, Repr

/-- The state of one strand (R7, R10, R32, R72, R151); `esAt` is es as it stood at the preceding belay (R219, R226); `stts` are the
released stt instructions that are not acknowledged: how many images of the tile store buffer each holds, and its stores
in flight (R201, R202). `fillTo` is the slot that has selected the context (R303, R305, R369), `blockSeen` that its present block in waitv or by yield
has made its choice (R305), `fresh` that it has never been active,
`refill` that its buffered effects are to be formed again (R230), `saved` its tiles while it is spilled, and `image` the number of
the free bytes that its spill wrote (R229, R230); `mismatch` that its pitch has met a residue mismatch (R394). -/
structure Ctx where
  id     : Nat
  core   : Nat
  slot   : Nat
  place  : Where
  job    : Job
  ctxno  : Nat
  pri    : Nat
  tiles  : List Nat
  frame  : Word
  te     : Word
  spill  : Word
  wins   : List ScrWindow
  x      : Vector Word 32
  v      : Vector (BitVec 2048) 32
  m      : Vector (BitVec 256) 8
  d      : Vector Word 8
  k      : Vector Word 16
  scale  : Vector (BitVec 32) 256
  sb     : BitVec 48
  sn     : BitVec 48
  vl     : Nat
  sc     : Word
  lp     : Vector (BitVec 48) 6
  lm     : Vector (BitVec 48) 6
  ls     : Vector Word 6
  lc     : Vector Word 6
  fc     : Word
  fa     : Word
  fb     : BitVec 48
  ff     : Word
  fr     : Word
  es     : Vector EsState 8
  esAt   : Vector EsState 8
  fx     : Word
  fe     : Word
  sl     : Word
  sup    : Bool
  intrap : Bool
  pc     : Word
  sq     : Nat
  sk     : Nat
  acqEpoch : Nat
  next   : Option Word
  waits  : List Wait
  retiring : Option Bool
  cur    : Option Exec
  spec   : Option Exec
  pend   : List PendPitch
  stts   : List (Nat × List Nat)
  charged : List FaultRec
  retStack : List Word
  triggered : Bool
  offered : Bool
  activeSince : Nat
  wantSpill : Bool
  fillTo : Option Nat
  blockSeen : Bool
  fresh  : Bool
  refill : Bool
  saved  : List (BitVec 32768)
  image  : Option Nat
  mismatch : Bool
  deriving DecidableEq, Repr

/-! ### Requests in flight and homes -/

/-- The strand that made a signal, post or resolution: its core, die, sid, launch record, its rights and windows as they stood at the
belay (R293), and the index of the instruction in its pitch. -/
structure SigSrc where
  core   : Nat
  die    : Nat
  sid    : Nat
  launch : Word
  user   : Bool
  wins   : List ScrWindow
  idx    : Nat
  deriving DecidableEq, Repr

/-- Who issued a request (R262). -/
inductive Src where
  | ctx (c : Nat)
  | cmd (id : Nat)
  | host
  | unit (die : Nat)
  deriving DecidableEq, Repr

/-- What a home answers. -/
inductive Resp where
  | data (b : List Byte)
  | val (v : Option Word)
  | err (c : Cause) (detail : Nat)
  deriving DecidableEq, Repr

/-- The part of an element that one request of a load serves: the element, and its bytes in the request's answer (R126). -/
structure LdPart where
  e   : Nat
  off : Nat
  n   : Nat
  deriving DecidableEq, Repr

/-- What a cairn or future completes (R288, R294, R428): the address that its record names as LAUNCH and the SID, the request that goes
before it, the running card whose work it ends with its error, and the job that counts the card until then. -/
structure DoneWork where
  launch : Word
  sid    : Nat
  after  : Option Nat
  card   : Option (Nat × Bool)
  job    : Nat
  deriving DecidableEq, Repr

/-- The body of a request in flight (R276): element loads and stores, atomic elements, heals, watched words,
accesses to heap objects, engine granules and commands, the operations of the other units, the early trigger of a nest
iteration (R290), and the write of a cairn or a future by a unit (R288, R298). -/
inductive Body where
  | load (serial idx : Nat) (els : List LdPart) (ptr : Word) (place : Place) (n : Nat) (cache : Bool) (acq : Option Scope)
  | refLoad (serial idx e : Nat) (ref : Word) (off : Int) (n : Nat) (user : Bool)
  | watch (serial idx : Nat) (place : Place) (x : Word) (deadline : Nat) (seen : Bool)
  | store (place : Place) (data : List (Byte × Byte)) (rel : Option Scope) (ptr : Word)
  | refStore (ref : Word) (off : Int) (data : List Byte) (user : Bool)
  | heal (ptr : Word) (viaRef : Bool) (off : Int) (place : Place) (old new : Word) (user : Bool)
  | atomic (e : Nat) (op : AmoOp) (w : Nat) (place : Place) (y z : Nat) (scope : Scope) (ord : AmoOrd) (ptr : Word)
  | fence (scope : Scope) (mask : BitVec 16)
  | gran (cmd : Nat) (src : Word) (sd : Int) (dst : Word) (dd : Int) (data : Option (List Byte))
  | cmd (id : Nat)
  | router (r : RtReq) (cluster : Nat) (user : Bool)
  | op (r : OpReq) (src : SigSrc)
  | opRead (serial idx e : Nat) (r : OpReq)
  | signal (card : Word) (err : Bool) (src : Option SigSrc) (job die : Nat)
  | post (card : Word) (core : Nat) (src : Option SigSrc) (job die : Nat)
  | trigger (launch ord : Nat)
  | done (place : Place) (ptr : Word) (fut : Bool) (val : Word) (fail : Bool) (work : DoneWork)
  deriving DecidableEq, Repr

/-- One request in flight, in the order of the list; `resp` is the answer that is on its way back. `grp` is the first request of the
same instruction, `ep` the epoch of the strand's core as the request was sent, and `merge` the outstanding read of the same
sector that the request has merged with (R183). -/
structure Msg where
  id   : Nat
  src  : Src
  cls  : Nat
  body : Body
  resp : Option Resp
  grp  : Nat
  ep   : Nat
  merge : Option Nat
  deriving DecidableEq, Repr

/-- Where an engine command stands (R219, R224). -/
inductive CmdPhase where
  | queued | running | stopped | finished
  deriving DecidableEq, Repr

/-- An engine command at its M-die (R222 to R224): the strand or the running card it belongs to, its record, the fault that
stopped it, and what its engine keeps (`aux`). -/
structure Cmd where
  id     : Nat
  req    : CmdReq
  ctx    : Option Nat
  card   : Option Nat
  sid    : Nat
  core   : Nat
  mdie   : Nat
  wins   : List ScrWindow
  phase  : CmdPhase
  words  : List Word
  fault  : Option FaultRec
  posted : Bool
  slotFault : Bool
  attached  : Bool
  aux    : List Nat
  deriving DecidableEq, Repr

/-- A card in a queue: its address, priority, when it entered the queue, the strand that made it
READY and its job (R293, R300, R307). -/
structure QEntry where
  card    : Word
  pri     : Nat
  entered : Nat
  src     : Option SigSrc
  job     : Nat
  deriving DecidableEq, Repr

/-- A RUNNING card (R293): where it was dispatched, its error so far, whether its work has ended, and memory as it stood at the dispatch,
from which its strand may fetch (R38). -/
structure RunCard where
  id    : Nat
  card  : Word
  core  : Nat
  job   : Nat
  err   : Bool
  ended : Bool
  code  : List Host.Cell
  deriving DecidableEq, Repr

/-- A launch of a nest (R281 to R290): its host packet's fields (R380) or none, its record and argument words as the command processor read them, the card that
launched it, the cox walk of each die (the next ordinal and when the walk reached it, R301), what has been placed, counted and retired,
and memory as it stood at the launch, from which its strands may fetch (R38). -/
structure Launch where
  id      : Nat
  ptr     : Word
  packet  : List Word
  card    : Option Nat
  die     : Nat
  started : Bool
  words   : List Word
  args    : List (Nat × Word)
  walks   : List (Nat × Nat × Nat)
  placed  : Nat
  retired : List Nat
  counted : List Nat
  err     : Bool
  signalled : Bool
  code    : List Host.Cell
  deriving DecidableEq, Repr

/-- A remote post that waits in a proxy queue (R306), with the strand that made it and the number of its next request: it is ordered
after the strand's requests below that (R296). -/
structure ProxyPost where
  chip : Nat
  card : Word
  queue : Nat
  job  : Nat
  at_  : Nat
  ctx  : Nat
  upto : Nat
  deriving DecidableEq, Repr

/-- The job counters of a die (R307). -/
structure JobCount where
  qc  : Nat
  tc  : Nat
  inc : Nat
  deriving DecidableEq, Repr

/-- The scheduling state of a C-die (R300, R306, R307). -/
structure DieSched where
  overflow : List (Nat × QEntry)
  jobs     : List (Nat × JobCount)
  proxy    : List ProxyPost
  deriving DecidableEq, Repr

/-- A die right after reset. -/
def DieSched.reset : DieSched := { overflow := [], jobs := [], proxy := [] }

/-- The flush rounds of a job (R308): when the last round ran, the INC of every die it read, when it read all zero, and whether the
job's cairn has been written. -/
structure FlushRound where
  at_  : Nat
  incs : Option (List Nat)
  made : Bool
  deriving DecidableEq, Repr

/-- One sector of a core's sector cache: the sector number of its global pointer and of its memory, fill epoch and bytes (R120,
R180). -/
structure CacheLine where
  sector : Nat
  home  : Nat
  epoch : Nat
  data  : List Byte
  deriving DecidableEq, Repr

/-- An access that a core has sent while one of its global reads is outstanding (R183): the strand, the request, its class, whether it
is a load, and the bytes it touches. -/
structure SentAcc where
  ctx   : Nat
  id    : Nat
  cls   : Nat
  load  : Bool
  bytes : List (Option Nat × Nat × Nat)
  deriving DecidableEq, Repr

/-- A release whose value, or an atomic's after it, stands in memory (R265, R270): its bytes, the strand, its scope, and the acquire
epoch that the strand held at the release. -/
structure RelMark where
  key   : Nat
  n     : Nat
  ctx   : Nat
  scope : Scope
  epoch : Nat
  deriving DecidableEq, Repr

/-- A barrier entry (R236): `none` is FREE. -/
structure BarEntry where
  launch  : Nat
  cnt     : Nat
  arr     : Nat
  waiters : List Nat
  members : List Nat
  epoch   : Nat
  deriving DecidableEq, Repr

/-- A base cell of a mesh (R315): its rank, vertex ids and boundary tags. -/
structure BaseCell where
  rank : Nat
  vert : List Nat
  btag : List Nat
  deriving DecidableEq, Repr

/-- The states of a mesh (R317). -/
inductive MeshPhase where
  | building | ready | adapting | two
  deriving DecidableEq, Repr

/-- A mesh at its home (R314 to R318); one that is not listed is UNINIT. `cur` and `old` are the leaves of the live
generations as keys (rank, child path), in key order; `opens` are the readers, each with its launch and generation;
`busyBy` is the command whose memory fault holds the mesh in BUILDING or ADAPTING. -/
structure MeshHome where
  ptr   : Word
  phase : MeshPhase
  kind  : Nat
  maxd  : Nat
  maxc  : Nat
  rootp : Word
  base  : List BaseCell
  nfree : Word
  ncnt  : Nat
  gen   : Nat
  cur   : List (Nat × List Nat)
  old   : Option (List (Nat × List Nat))
  opens : List (Nat × Nat)
  busyBy : Option Nat
  deriving DecidableEq, Repr

/-- One stage of a stage set (R242, R249): its kind (0 FILTER, 1 MAP, 2 EFFECT), HWM, failure fraction, cost and window
counters. -/
structure RtStage where
  kind : Nat
  hwm  : Nat
  f    : Nat
  c    : Nat
  n    : Nat
  pass : Nat
  csum : Nat
  deriving DecidableEq, Repr

/-- The states of a stage set (R251). -/
inductive RtState where
  | idle | open_ | draining
  deriving DecidableEq, Repr

/-- A stage set (R242, R245, R250): `drains` are the requests that wait for it to become IDLE. -/
structure RtSet where
  state   : RtState
  ordered : Bool
  rsz     : Nat
  logw    : Nat
  twin    : Nat
  stages  : List RtStage
  seq     : Nat
  left    : Nat
  wcount  : Nat
  poisoned : Nat
  wstart  : Nat
  drains  : List Nat
  deriving DecidableEq, Repr

/-- A stage set right after reset. -/
def RtSet.reset : RtSet :=
  { state := .idle, ordered := false, rsz := 64, logw := 8, twin := 0, stages := [], seq := 0, left := 0, wcount := 0
    poisoned := 0, wstart := 0, drains := [] }

/-- Where a record in flight stands (R251): queued at a stage, waiting for its effects' turn, or taken by a context at a
stage since a time. -/
inductive RtWhere where
  | queued (stage : Nat)
  | waitfx
  | taken (ctx sid stage since : Nat)
  deriving DecidableEq, Repr

/-- A record in flight (R241). The list of them is in the order in which they were last routed. -/
structure RtRec where
  ptr  : Word
  set  : Nat
  seq  : Nat
  tag  : Nat
  sid  : Nat
  done : Nat
  drop : Bool
  fcnt : Nat
  fstg : Nat
  at_  : RtWhere
  deriving DecidableEq, Repr

/-- A cluster (R234 to R240): the router's lottery state, selector, sets, records, poison queue and waiting takes and pushes;
the multicast masks; and the barrier entries of the cluster and, in an even cluster, of its rope. -/
structure ClusterSt where
  lfsr   : BitVec 32
  sel    : Nat
  povf   : Bool
  mcgrp  : List (Nat × Nat)
  sets   : List (Nat × RtSet)
  recs   : List RtRec
  poison : List Word
  takes  : List Nat
  held   : List Nat
  bars   : List (Nat × BarEntry)
  ropeBars : List (Nat × BarEntry)
  deriving DecidableEq, Repr

/-- A cluster right after reset (R235). -/
def ClusterSt.reset : ClusterSt :=
  { lfsr := 1, sel := 0, povf := false, mcgrp := [], sets := [], recs := [], poison := [], takes := [], held := []
    bars := [], ropeBars := [] }

/-- The state of one core (R176, R180, R186 to R188, R236). `pendAt` and `resetAt` are counts of its matrix array's island (R389);
`kept` is the slot whose bank is freed for a card, and the card (R303). -/
structure CoreSt where
  cache   : List CacheLine
  epoch   : Nat
  sent    : List SentAcc
  rels    : List RelMark
  mxslot  : Word
  strict  : Bool
  pendSlot   : Word
  pendStrict : Bool
  pendAt  : Option Nat
  resetAt : Nat
  peak    : Nat
  corr    : Nat
  unc     : Bool
  tiles   : List (Nat × BitVec 32768)
  bars    : List (Nat × BarEntry)
  spilling : Option Nat
  spillQ  : List (Nat × Bool)
  quantumAt : Nat
  queue   : List QEntry
  kept    : Option (Nat × Word)
  deriving DecidableEq, Repr

/-- A core right after reset (R188). -/
def CoreSt.reset : CoreSt :=
  { cache := [], epoch := 0, sent := [], rels := [], mxslot := 0x8888888888888888, strict := true, pendSlot := 0x8888888888888888
    pendStrict := true, pendAt := none, resetAt := 0, peak := 0, corr := 0, unc := false, tiles := [], bars := []
    spilling := none, spillQ := [], quantumAt := 100000, queue := [], kept := none }

/-- The states of a pair channel beside FREE (R239); it is HELD while it is in `run` and a side is not active. -/
inductive PairStage where
  | half | run | reissue | late
  deriving DecidableEq, Repr

/-- One side's request of a pair channel (R239): its strand, whether it is the lead's side, what must match, and whether its pitch has
belayed since its last step. -/
structure PairSide where
  ctx    : Nat
  lead   : Bool
  launch : Nat
  nstep  : Nat
  asrc   : Nat
  desc   : Word
  belayed : Bool
  deriving DecidableEq, Repr

/-- A pair channel that is not FREE (R238, R239), numbered by the lead's core and slot: the sides that have posted, the count of the matrix
island when the timer started, the A blocks the lead has sent and the follower has not used, the sides that have completed their last
step, the side that posted first, and in REISSUE the two strands. -/
structure PairCh where
  id     : Nat
  stage  : PairStage
  sides  : List PairSide
  since  : Nat
  blocks : List (Nat × Nat)
  ended  : List Nat
  first  : PairSide
  party  : List Nat
  deriving DecidableEq, Repr

/-- A command of the translation block that is in progress (R384). -/
structure TlbBusy where
  entries : Option Nat
  stamp   : Nat
  deriving DecidableEq, Repr

/-- The memory-side translation of one M-die (R382, R383). -/
structure Tlb where
  entries : List (Nat × Word × Word)
  sel     : Nat
  va      : Word
  pa      : Word
  err     : Bool
  busy    : Option TlbBusy
  stamp   : Nat
  deriving DecidableEq, Repr

/-- A translation block right after reset (R383). -/
def Tlb.reset : Tlb := { entries := [], sel := 0, va := 0, pa := 0, err := false, busy := none, stamp := 0 }

/-- The registers every die has (R376): DSTATE is 0 RUN, 1 RESET, 2 FENCED. -/
structure DieRegs where
  fqbase : Word
  logn   : Nat
  head   : Nat
  tail   : Nat
  lost   : Nat
  dstate : Nat
  resetAt : Nat
  cause  : Nat
  deriving DecidableEq, Repr

/-- A die's registers right after reset (R376). -/
def DieRegs.reset : DieRegs :=
  { fqbase := 0, logn := 0, head := 0, tail := 0, lost := 0, dstate := 0, resetAt := 0, cause := 0 }

/-- An entry of a forwarding table (R339): COPYING until the copy completes, then FORWARDED; `waiting` are the requests
that wait at the home, in arrival order (R280). -/
structure FwdEntry where
  old     : Nat
  new     : Nat
  size    : Nat
  nhome   : Nat
  epoch   : Nat
  copying : Bool
  cmd     : Nat
  waiting : List Nat
  deriving DecidableEq, Repr

/-- The heap side of an M-die (R337, R339, R350): its copy of the epoch number, the forwarding table and the count of
relocations completed. -/
structure HeapHome where
  epoch : Nat
  trans : Bool
  fwd   : List FwdEntry
  done  : Nat
  deriving DecidableEq, Repr

/-- A heap home right after reset (R350). -/
def HeapHome.reset : HeapHome := { epoch := 0, trans := false, fwd := [], done := 0 }

/-! ### The package -/

/-- A launch queue (R380): its registers, and the launch that was handed on and that no command processor has accepted. -/
structure LaunchQ where
  base : Word
  logn : Nat
  en   : Bool
  irq  : Bool
  tail : Nat
  head : Nat
  busy : Option Nat
  deriving DecidableEq, Repr

/-- A launch queue right after reset (R380). -/
def LaunchQ.reset : LaunchQ := { base := 0, logn := 0, en := false, irq := false, tail := 0, head := 0, busy := none }

/-- The clock of an island (R387, R388): MAX and MUL, and its count, in sixteenths of an ac, at the tick when MUL last changed. -/
structure Island where
  max  : Nat
  mul  : Nat
  base : Nat
  at_  : Nat
  deriving DecidableEq, Repr

/-- An island right after reset (R388). -/
def Island.reset : Island := { max := 16, mul := 16, base := 0, at_ := 0 }

/-- The X-die beside the fabric: launch queues and the one served next (R380), features (R381), the islands (R388) and
when the power manager last ran, BAR2 (R386), whether Hital runs verified firmware (R393), and the failed die-to-die links
(R374). -/
structure XDie where
  lqs     : List (Nat × LaunchQ)
  lqNext  : Nat
  featEn  : Vector Word 4
  featNeg : Vector Word 4
  featDone : Bool
  islands : List (Nat × Island)
  powerAt : Nat
  bar2    : Word
  bar2Size : Nat
  firmware : Bool
  deadLinks : List Nat
  deriving DecidableEq, Repr

/-- The X-die right after reset (R381, R386). -/
def XDie.reset : XDie :=
  { lqs := [], lqNext := 0, featEn := Vector.replicate 4 0, featNeg := Vector.replicate 4 0, featDone := false, islands := [], powerAt := 0
    bar2 := 0x0C00000000000000, bar2Size := 2 ^ 36, firmware := true, deadLinks := [] }

/-! ### The fabric -/

/-- A heat of a regatta table (R398): DUR and GUARD in ns, the mapped peer of each mapped port, and the reached chips of each
port. -/
structure Heat where
  dur   : Nat
  guard : Nat
  pmap  : List (Nat × Nat)
  reach : List (Nat × BitVec 1024)
  deriving DecidableEq, Repr

/-- A rollover of the transmit key (R405): the new key is installed and used; KEY_RETIRE is queued or sent. -/
inductive Roll where
  | idle | rolling | retiring
  deriving DecidableEq, Repr

/-- How a transfer came out (R225, R411): the code of the engine fault met (0 for none), its faulting address, and its DETAIL. -/
structure Ending where
  code   : Nat
  addr   : Word
  detail : Nat
  deriving DecidableEq, Repr

/-- A transfer without a fault. -/
def Ending.ok : Ending := { code := 0, addr := 0, detail := 0 }

/-- A transfer whose bytes this chip writes (R411, R412): the chip whose command it is and that command's number, where the next byte
goes, how many are still to come, how it has come out so far, and the rights. -/
structure RxCopy where
  org  : Nat
  cmd  : Nat
  at_  : Word
  left : Nat
  fin  : Ending
  user : Bool
  deriving DecidableEq, Repr

/-- A read that a peer's cpyx asked of this chip (R411): the peer's command, the next byte, how many are still to go, and bytes read
that no flit has carried yet. -/
structure RdCopy where
  cmd  : Nat
  at_  : Word
  left : Nat
  buf  : List Byte
  user : Bool
  deriving DecidableEq, Repr

/-- A multicast descriptor at this switch (R412, R413): the links its copies went to once it is split, the bytes still to pass, and at
its source the members that have not acknowledged. -/
structure McDesc where
  org  : Nat
  cmd  : Nat
  dst  : Word
  len  : Nat
  members : List Nat
  links : Option (List Nat)
  left : Nat
  ask  : List Nat
  user : Bool
  deriving DecidableEq, Repr

/-- A request of this chip that waits for a peer's answer (R408): the message, the peer, and the number the answer repeats. -/
structure PeerReq where
  msg  : Nat
  chip : Nat
  rid  : Nat
  deriving DecidableEq, Repr

/-- A request of a peer that a home of this chip serves: the message, the peer, and the number of the answer or, for a transfer, of the
command (R408, R411). -/
structure Served where
  msg  : Nat
  chip : Nat
  rid  : Nat
  xfer : Bool
  deriving DecidableEq, Repr

/-- A peer's sector that this chip's LLC keeps (R408). -/
structure Held where
  chip   : Nat
  sector : Nat
  data   : List Byte
  deriving DecidableEq, Repr

/-- An entry of the directory of copies that other chips hold (R408): the sector in memory, the chip, the sector of its global VA, and
the chip's incarnation. -/
structure PeerCopy where
  sector : Nat
  chip   : Nat
  va     : Nat
  inc    : Nat
  deriving DecidableEq, Repr

/-- A link of the fabric (R397, R400, R404 to R407, R410, R415): its block's counters, the four send queues, the replay buffer and
how far a replay has come, the working wavelengths of each port, what its timers have seen, the transfer that holds its engine
channel, and the reads its peer has asked for. -/
structure LinkSt where
  peer   : Nat
  up     : Bool
  pinc   : Option Nat
  rxnext : Nat
  acked  : Nat
  txnext : Nat
  kcnt   : Nat
  roll   : Roll
  rxprev : Bool
  rxep   : Bool
  txep   : Bool
  rxw    : List (Nat × Nat)
  txw    : List (Nat × Nat)
  ltx    : Nat
  lrx    : Nat
  lreplay : Nat
  lcrc   : Nat
  lauth  : Nat
  lstale : Nat
  queues : List (Nat × FlitIn)
  buffer : List FlitIn
  replay : List FlitIn
  turn   : Nat
  resends : Nat
  ackAt  : Nat
  pausedAt : Option Nat
  accepted : Nat
  firstAt : Option Nat
  nakSent : Bool
  authRun : Nat
  align  : Bool
  steady : List (Nat × Nat × Nat)
  downAt : Option Nat
  chan   : Option (Nat × Nat)
  reads  : List RdCopy
  deriving DecidableEq, Repr

/-- A link as it takes a block (R415). -/
def LinkSt.start (peer now : Nat) : LinkSt :=
  { peer := peer, up := false, pinc := none, rxnext := 0, acked := 0, txnext := 0, kcnt := 0, roll := .idle, rxprev := false, rxep := false
    txep := false, rxw := [], txw := [], ltx := 0, lrx := 0, lreplay := 0, lcrc := 0, lauth := 0, lstale := 0, queues := [], buffer := []
    replay := [], turn := 0, resends := 0, ackAt := now, pausedAt := some now, accepted := 0, firstAt := none, nakSent := false, authRun := 0, align := false
    steady := [], downAt := none, chan := none
    reads := [] }

/-- A table that waits for its rotation boundary (R399). -/
structure RgPending where
  cmd   : Nat
  heats : List Heat
  start : Nat
  deriving DecidableEq, Repr

/-- A write of a sector that waits for a chip to acknowledge the invalidation of its copy (R408, R409). -/
structure Inval where
  msg    : Nat
  sector : Nat
  chip   : Nat
  va     : Nat
  since  : Nat
  deriving DecidableEq, Repr

/-- The fabric side of the X-die (R396 to R415): FABCTL, the table in effect and where its rotation stands, the pending table, the
mismatches already posted, link blocks, failed lasers, the directory of copies that other chips hold, the invalidations
that are not acknowledged, the chips that are refused with the incarnation that failed, peers' sectors kept here, requests to and
from peers in progress, transfers, multicasts, and how the peers' ends of this chip's copies came out. -/
structure Fabric where
  en     : Bool
  inc    : Nat
  heats  : List Heat
  heat   : Nat
  running : Bool
  since  : Nat
  pending : Option RgPending
  paired : List (Nat × Nat)
  mism   : List (Nat × Nat)
  links  : List (Nat × LinkSt)
  lasers : List Nat
  copies : List PeerCopy
  invals : List Inval
  refused : List (Nat × Nat)
  held   : List Held
  out    : List PeerReq
  served : List Served
  rx     : List RxCopy
  mcasts : List McDesc
  dones  : List (Nat × Ending)
  deriving DecidableEq, Repr

/-- The fabric right after reset (R415). -/
def Fabric.reset : Fabric :=
  { en := false, inc := 0, heats := [], heat := 0, running := false, since := 0, pending := none, paired := [], mism := [], links := []
    lasers := [], copies := [], invals := [], refused := [], held := [], out := [], served := [], rx := [], mcasts := [], dones := [] }

/-! ### The machine -/

/-- Which instruction of which context is firing; `reform` when its buffered effect is formed again (R171, R230). -/
structure Firing where
  c      : Nat
  spec   : Bool
  idx    : Nat
  reform : Bool
  deriving DecidableEq, Repr

/-- What the schedule asks for next: an event or a firing (R20 fixes no order among ready instructions). -/
inductive Act where
  | event (i : Instr)
  | fire (c : Nat) (spec : Bool) (idx : Nat)
  deriving DecidableEq, Repr

/-- An access that has performed before accesses of its strand that precede it only toward the agents of some scopes' instances (R263):
the strand, its core and launch, the bytes, whether it writes, and the requests it passed with the scopes that order them. The agents
of those instances do not reach the bytes until the requests have performed. -/
structure Early where
  id    : Nat
  ctx   : Nat
  core  : Nat
  launch : Nat
  bytes : List (Option Nat × Nat × Nat)
  wr    : Bool
  passed : List (Nat × List Scope)
  deriving DecidableEq, Repr

/-- An agent (R262): a strand, an engine that runs a command of a strand, another unit of a die, the host, or another chip. -/
inductive Agent where
  | strand (ctx core launch : Nat)
  | engine (die : Nat) (ctx : Option Nat)
  | unit (die : Nat)
  | host
  | peer (chip : Nat)
  deriving DecidableEq, Repr

/-- What stays of a strand that has retired, for the command processor to read (R174). -/
structure Gone where
  sid    : Nat
  core   : Nat
  launch : Word
  err    : Bool
  fc     : Word
  fa     : Word
  fb     : BitVec 48
  ff     : Word
  deriving DecidableEq, Repr

/-- The whole machine. -/
structure State where
  chip   : Nat
  now    : Nat
  nextId : Nat
  free   : Nat
  agenda : List Act
  firing : Option Firing
  ctxs   : List Ctx
  gone   : List Gone
  cores  : List (Nat × CoreSt)
  net    : List Msg
  early  : List Early
  cmds   : List Cmd
  mem    : List Host.Cell
  poison : List Nat
  tlbs   : List (Nat × Tlb)
  dies   : List (Nat × DieRegs)
  msix   : List Nat
  heaps  : List (Nat × HeapHome)
  heapE  : Nat
  launches : List Launch
  running  : List RunCard
  sched    : List (Nat × DieSched)
  rounds   : List (Nat × FlushRound)
  jcairns  : List (Nat × Word × Word)
  clusters : List (Nat × ClusterSt)
  meshes   : List MeshHome
  pairs    : List PairCh
  xdie     : XDie
  fab      : Fabric
  deriving DecidableEq, Repr

/-- The machine right after reset. -/
def State.reset : State :=
  { chip := 0, now := 0, nextId := 0, free := 0, agenda := [], firing := none, ctxs := [], gone := [], cores := [], net := [], early := [], cmds := []
    mem := [], poison := [], tlbs := [], dies := [], msix := [], heaps := [], heapE := 0
    launches := [], running := [], sched := [], rounds := [], jcairns := [], clusters := [], meshes := [], pairs := [], xdie := XDie.reset, fab := Fabric.reset }

/-- Why the machine stops. -/
inductive Fault where
  /-- An instruction of a pitch was asked to run while no strand is firing it: raised by every meaning of an
  instruction of a pitch. Safe: the hardware never does this, so no behaviour of it is left out. -/
  | noStrand
  /-- An event was asked for whose condition does not hold (R58 to R430 name each event's condition): raised by
  every meaning of an event. Safe: the machine stops where the hardware takes no such step. -/
  | notEnabled (event : String)
  /-- An instruction of a pitch was asked to fire while a slot it uses holds no token, or after it has fired, or
  while its context is not running (R20, R32): raised by every meaning of an instruction of a pitch. Safe: the
  hardware does not fire it then. -/
  | notReady
  /-- The bytes of the instruction asked to fire are no instruction, or are an event: raised by the step. Safe:
  decoding has refused them before any instruction of the pitch fires (R56). -/
  | badWord
  deriving DecidableEq, Repr

/-- Why the model gives no meaning. -/
inductive Refusal where
  /-- An instruction without a meaning yet: raised by its arm of `exec`. Safe: nothing is claimed of it. -/
  | notModelled (mnemonic : String)
  deriving DecidableEq, Repr

/-- What a meaning answers. -/
abbrev Out := Host.Outcome State Fault Refusal

end Sys2Proof.Machine
end

