-- ==== Sys2Proof/Machine/Memory.lean ====
section
/-!
DEFINITION. Sys2Proof/Machine/Memory.lean: the bytes of the machine in one canonical list, pointers and their spaces
(R97, R115, R116), the memory-side translation and its permissions (R382 to R385), and the checks of one element
access in their order (R131).
-/

namespace Sys2Proof.Machine

/-! ### The list of bytes -/

/-- The byte at key `a`. -/
def memRead : List Host.Cell → Nat → Byte
  | [], _ => Config.emptyByte
  | (k, b) :: m, a => if a = k then b else if a < k then Config.emptyByte else memRead m a

/-- Put `b` at key `a`; a byte equal to what an unlisted key reads as is not listed. -/
def memWrite : List Host.Cell → Nat → Byte → List Host.Cell
  | [], a, b => if b = Config.emptyByte then [] else [(a, b)]
  | (k, c) :: m, a, b =>
    if a = k then (if b = Config.emptyByte then m else (a, b) :: m)
    else if a < k then (if b = Config.emptyByte then (k, c) :: m else (a, b) :: (k, c) :: m)
    else (k, c) :: memWrite m a b

/-- The keys of a list rise strictly and lie at or above `lo`, and no byte listed is the unlisted one. -/
def memWfFrom : Nat → List Host.Cell → Bool
  | _, [] => true
  | lo, (k, b) :: m => decide (lo ≤ k) && b != Config.emptyByte && memWfFrom (k + 1) m

/-- The canonical form of memory. -/
def Memory.wf (m : List Host.Cell) : Bool := memWfFrom 0 m

/-- `n` bytes from key `a`. -/
def memReadN (m : List Host.Cell) (a : Nat) : Nat → List Byte
  | 0 => []
  | n + 1 => memRead m a :: memReadN m (a + 1) n

/-- Write bytes with bit masks from key `a`: bits outside a mask keep their value (R129). -/
def memMergeN (m : List Host.Cell) (a : Nat) : List (Byte × Byte) → List Host.Cell
  | [] => m
  | (b, k) :: bs => memMergeN (memWrite m a ((b &&& k) ||| (memRead m a &&& ~~~k))) (a + 1) bs

/-- Little-endian value of bytes (R3). -/
def leNat : List Byte → Nat
  | [] => 0
  | b :: bs => b.toNat + 256 * leNat bs

/-- `n` little-endian bytes of a number. -/
def natLe : Nat → Nat → List Byte
  | 0, _ => []
  | n + 1, v => BitVec.ofNat 8 v :: natLe n (v / 256)

/-- A value's bytes, all bits written. -/
def fullBytes (n v : Nat) : List (Byte × Byte) := (natLe n v).map (fun b => (b, 255))

/-- A value read from memory. -/
def State.peek (s : State) (key n : Nat) : Nat := leNat (memReadN s.mem key n)

/-- Drop the poison of the sectors that keys `a` to `a + n − 1` touch: they are written again (R394). -/
def unpoison (p : List Nat) (a n : Nat) : List Nat := p.filter (fun q => !(decide (0 < n) && a / 32 ≤ q && q ≤ (a + n - 1) / 32))

/-- A sector of the keys is poisoned (R394). -/
def State.isPoisoned (s : State) (a n : Nat) : Bool := s.poison.any (fun q => a / 32 ≤ q && q ≤ (a + n - 1) / 32)

/-- A write of masked bytes. -/
def State.store (s : State) (a : Nat) (bs : List (Byte × Byte)) : State :=
  { s with mem := memMergeN s.mem a bs, poison := unpoison s.poison a bs.length }

/-- A write of a value. -/
def State.poke (s : State) (a n v : Nat) : State := s.store a (fullBytes n v)

/-! ### Keys of memory -/

/-- The key of HBM byte `phys` of M-die `j` (8 to 11). -/
def keyHbm (j phys : Nat) : Nat := (j - 8) * 2 ^ 37 + phys

/-- The key of offset `off` of the scratchpad slice of linear core `core` (R178). -/
def keyScratch (core off : Nat) : Nat := 2 ^ 40 + core * 2 ^ 19 + off

/-- The key of a host bus address. -/
def keyHost (a : Nat) : Nat := 2 ^ 61 + a

/-- The key that stands for a device-register offset. -/
def keyDev (off : Nat) : Nat := 2 ^ 62 + off

/-! ### Pointers -/

/-- The SPACE field of a pointer (R97). -/
def spaceOf (p : Word) : Nat := natBits p.toNat 60 4

/-- Width of the OFFSET field in a space, where it has one (R97). -/
def offsetWidth : Nat → Option Nat
  | 0 => some 56
  | 1 => some 19
  | 3 => some 60
  | 4 => some 48
  | 6 => some 60
  | _ => none

/-- The OFFSET field of a pointer. -/
def offsetOf (p : Word) : Nat :=
  match offsetWidth (spaceOf p) with
  | some w => natBits p.toNat 0 w
  | none => 0

/-- A pointer with bits `[lo+len-1 : lo]` replaced. -/
def setField (p : Word) (lo len v : Nat) : Word :=
  BitVec.ofNat 64 (p.toNat - natBits p.toNat lo len * 2 ^ lo + v % 2 ^ len * 2 ^ lo)

/-- A pointer with its OFFSET field replaced by OFFSET + Δ, and whether that lies in the field (R116). -/
def addOffset (p : Word) (d : Int) : Word × Bool :=
  match offsetWidth (spaceOf p) with
  | none => (p, true)
  | some w =>
    let v : Int := (offsetOf p : Int) + d
    (setField p 0 w (intToNat w v), decide (0 ≤ v) && decide (v < ((2 ^ w : Nat) : Int)))

/-- Owner M-die of a global pointer and whether it is the direct form; `none` for an invalid form (R115). -/
def globalOwner (p : Word) : Option (Nat × Bool) :=
  let n := p.toNat
  match natBits n 58 2 with
  | 0 => some (8 + natBits n 56 2, true)
  | 3 => if natBits n 56 2 = 0 then some (8 + natBits n 12 2, false) else none
  | _ => none

/-- Linear core number of a scratchpad pointer (R97). -/
def scratchCore (p : Word) : Nat := natBits p.toNat 48 9

/-! ### Translation -/

/-- The translation block of an M-die. -/
def State.tlb (s : State) (j : Nat) : Tlb := ((s.tlbs.find? (fun t => t.1 = j)).map (·.2)).getD Tlb.reset

/-- Replace the translation block of an M-die. -/
def State.setTlb (s : State) (j : Nat) (t : Tlb) : State :=
  { s with tlbs := (j, t) :: s.tlbs.filter (fun u => u.1 ≠ j) }

/-- log2 of a page size (R382). -/
def pageLog : Nat → Nat
  | 0 => 12
  | 1 => 16
  | 2 => 21
  | 3 => 25
  | _ => 30

/-- An entry matches VA at M-die `j`; `heap` for a heap request, `direct` for the direct form (R382). -/
def entryMatches (j : Nat) (heap direct : Bool) (va : Nat) (tva : Word) : Bool :=
  let n := tva.toNat
  let base := natBits n 12 44 * 4096
  let isHeap := natBit n 6 = 1
  natBit n 7 = 1 && decide (base ≤ va) && decide (va < base + 2 ^ pageLog (natBits n 0 3))
    && (if heap then isHeap else !isHeap || direct)
    && (natBit n 5 = 0 || natBits va 12 2 = j - 8)

/-- The lowest-numbered matching entry of a list. -/
def lowestEntry (j : Nat) (heap direct : Bool) (va : Nat) :
    List (Nat × Word × Word) → Option (Nat × Word × Word) → Option (Nat × Word × Word)
  | [], best => best
  | e :: es, best =>
    let better := match best with | none => true | some b => decide (e.1 < b.1)
    lowestEntry j heap direct va es (if entryMatches j heap direct va e.2.1 && better then some e else best)

/-- What a request needs of an entry (R385). -/
structure Need where
  rd  : Bool := false
  wr  : Bool := false
  ex  : Bool := false
  usr : Bool := false
  rmt : Bool := false
  hst : Bool := false
  deriving DecidableEq, Repr

/-- An entry gives everything needed. -/
def permOk (need : Need) (tpa : Word) : Bool :=
  let on (i : Nat) : Bool := natBit tpa.toNat i = 1
  (!need.rd || on 2) && (!need.wr || on 3) && (!need.ex || on 4) && (!need.usr || on 5) && (!need.rmt || on 6)
    && (!need.hst || on 7)

/-- The physical address an entry gives (R382). -/
def physOf (va : Nat) (tva tpa : Word) : Nat :=
  let base := natBits tva.toNat 12 44 * 4096
  let pfn := natBits tpa.toNat 12 25 * 4096
  if natBit tva.toNat 5 = 0 then pfn + (va - base) else pfn + (va - base) / 2 ^ 14 * 4096 + natBits va 0 12

/-- Why a translation fails: no entry (0x40), or a permission, with whether RD is among those missing (0x41). -/
inductive XErr where
  | absent
  | denied (rdMissing : Bool)
  deriving DecidableEq, Repr

/-- Translate a VA at an M-die. -/
def State.xlate (s : State) (j : Nat) (heap direct : Bool) (va : Nat) (need : Need) : Except XErr (Nat × Hold) :=
  match lowestEntry j heap direct va (s.tlb j).entries none with
  | none => .error .absent
  | some (i, tva, tpa) =>
    if permOk need tpa then .ok (keyHbm j (physOf va tva tpa), ⟨j, i, (s.tlb j).stamp⟩)
    else .error (.denied (need.rd && natBit tpa.toNat 2 = 0))

/-- Translate a global pointer at its owner. -/
def State.xlatePtr (s : State) (p : Word) (need : Need) : Except XErr (Nat × Hold) :=
  match globalOwner p with
  | none => .error .absent
  | some (j, direct) => s.xlate j false direct (offsetOf p) need

/-! ### The check of one element -/

/-- What an access is, for the checks of R131; `asWrite` says that an absent page is recorded as a write, whatever the probed bytes
themselves need (R168). -/
structure AccReq where
  need : Need
  asWrite : Bool := false
  atom : Bool := false
  hostOp : Bool := true
  dev  : Bool := false
  waitv : Bool := false
  w    : Nat
  n    : Nat
  user : Bool
  deriving DecidableEq, Repr

/-- Why an element faults: cause, DETAIL, fa, and for a recoverable trap the page-list access of R168. -/
structure ElemFault where
  cause  : Cause
  detail : Nat
  fa     : Word
  access : Option Nat
  deriving DecidableEq, Repr

/-- Fields that no space names must be zero (R115): the space of an element and its form are legal. -/
def spaceLegal (p : Word) : Bool :=
  let n := p.toNat
  match spaceOf p with
  | 0 => (globalOwner p).isSome
  | 1 => natBits n 57 3 = 0 && natBits n 19 29 = 0
  | 3 => true
  | 4 => true
  | 6 => true
  | _ => false

/-- The chip a peer pointer names. -/
def chipOf (p : Word) : Nat := natBits p.toNat 48 12

/-- Bits [11:10] of a chip id name its connected optical group (R396). -/
def groupOf (chip : Nat) : Nat := natBits chip 10 2

/-- The striped global pointer that a peer offset is taken as (R115). -/
def stripedPtr (off : Nat) : Word := BitVec.ofNat 64 (3 * 2 ^ 58 + off)

/-- A scratchpad access lies wholly within one window (R118, R287). -/
def inWindow (ws : List ScrWindow) (core off n : Nat) : Bool :=
  let unit (r : Nat) : Nat := match r with | 0 => 1 | 1 => 16 | _ => 64
  ws.any (fun w => core / unit w.reach = w.core / unit w.reach && decide (w.lo ≤ off)
    && decide (off + n ≤ w.lo + w.size))

/-- The trap of a failed translation of `p` (R168, R175). -/
def xErrFault (r : AccReq) (p : Word) : XErr → ElemFault
  | .absent => ⟨.transNotPresent, if r.need.wr || r.asWrite then 1 else 0, p, some (if r.need.wr || r.asWrite then 1 else 0)⟩
  | .denied rdMissing => ⟨.protection, 0, p, some (if rdMissing then 2 else if r.need.wr then 3 else 2)⟩

/-- One checked piece of an element, which lies in one page. -/
structure Part where
  ptr   : Word
  n     : Nat
  place : Place
  deriving DecidableEq, Repr

/-- Steps 8 and 9 of R131 for the `n` bytes at `p`, which lie in one page; what a peer's translation answers is a
free choice of index `f`, since the peer's table is no part of this machine. -/
def State.placePart (s : State) (r : AccReq) (f : Nat) (p : Word) (n : Nat) : Except ElemFault Part :=
  let glob (q : Word) : Except ElemFault Part :=
    match s.xlatePtr q { r.need with usr := r.user } with
    | .ok (key, h) => .ok ⟨p, n, ⟨key, none, some h⟩⟩
    | .error x => .error (xErrFault r p x)
  match spaceOf p with
  | 0 => glob p
  | 1 => .ok ⟨p, n, ⟨keyScratch (scratchCore p) (offsetOf p), none, none⟩⟩
  | 3 => .ok ⟨p, n, ⟨keyHost (offsetOf p), none, none⟩⟩
  | 4 =>
    if chipOf p = s.chip then glob (stripedPtr (offsetOf p))
    else
      match Config.freeNat f % 4 with
      | 0 => .error (xErrFault r p .absent)
      | 1 => .error (xErrFault r p (.denied r.need.rd))
      | _ => .ok ⟨p, n, ⟨offsetOf p, some (chipOf p), none⟩⟩
  | _ => .ok ⟨p, n, ⟨keyDev (offsetOf p), none, none⟩⟩

/-- The checks of one element at base pointer and Δ, in the order of R131; an access that crosses a sector boundary
(only .m can) gives two parts, the lower first (R117). -/
def State.checkElem (s : State) (wins : List ScrWindow) (r : AccReq) (f : Nat) (base : Word) (d : Int) :
    Except ElemFault (List Part) := do
  let (p, inField) := addOffset base d
  let off := offsetOf p
  let fail (c : Cause) (detail : Nat) : Except ElemFault (List Part) := .error ⟨c, detail, p, none⟩
  let sp := spaceOf p
  if r.atom && (sp = 2 || sp = 6 || (sp = 3 && !r.hostOp)) then fail .atomPath 0
  else if !spaceLegal p || (r.waitv && sp = 6) then fail .spaceInvalid 0
  else if !inField then .error ⟨.pointerTagOverflow, 0, base, none⟩
  else if off % r.w ≠ 0 then fail .misaligned r.w
  else if sp = 6 && !r.dev then fail .devregShape 0
  else if sp = 6 && r.user then .error ⟨.protection, 0, p, some (if r.need.wr then 3 else 2)⟩
  else if sp = 4 && groupOf (chipOf p) ≠ groupOf s.chip then
    (if r.atom then fail .atomPath 0 else fail .peerUnreachable (chipOf p))
  else if sp = 1 && !inWindow wins (scratchCore p) off r.n then fail .scratchBounds 0
  else
    let n1 := min r.n (32 - off % 32)
    let a ← s.placePart r f p n1
    if n1 = r.n then .ok [a]
    else
      let b ← s.placePart r (f + 1) (p + BitVec.ofNat 64 n1) (r.n - n1)
      .ok [a, b]

end Sys2Proof.Machine
end

