-- ==== Sys2Proof/Machine/Fp.lean ====
section
/-!
DEFINITION. Sys2Proof/Machine/Fp.lean: number formats, descriptors and rounding (chapter "Number formats and
arithmetic rules", R64 to R82). A finite value is a sign, a natural significand and an integer exponent:
(-1)^s × m × 2^e. An inexact quotient or root is held with at least 80 significant bits and a last bit that
is 1 when bits below were dropped, which rounds as the exact value does.
-/

namespace Sys2Proof.Machine

/-- Flags in the layout of fx: NX 0, UF 1, OF 2, DZ 3, NV 4, SA 5 (R82). -/
abbrev Flags := BitVec 6

/-- No flag. -/
def flNone : Flags := 0
/-- Inexact. -/
def flNX : Flags := 1
/-- Underflow. -/
def flUF : Flags := 2
/-- Overflow. -/
def flOF : Flags := 4
/-- Divide by zero. -/
def flDZ : Flags := 8
/-- Invalid. -/
def flNV : Flags := 16
/-- Saturated. -/
def flSA : Flags := 32

/-- The width in bits of a format code 0 to 14 (R64). -/
def fmtWidth (f : Nat) : Nat :=
  match f with
  | 0 | 1 | 12 | 13 => 8
  | 2 | 3 | 10 | 11 => 16
  | 4 | 5 | 9 => 32
  | 14 => 4
  | _ => 64

/-- log2 of a format's width. -/
def fmtLw (f : Nat) : Nat :=
  match fmtWidth f with
  | 4 => 2 | 8 => 3 | 16 => 4 | 32 => 5 | _ => 6

/-- An integer format (R64). -/
def fmtIsInt (f : Nat) : Bool := f < 8

/-- A signed integer format (R64). -/
def fmtSigned (f : Nat) : Bool := f < 8 && f % 2 == 0

/-- One of FP64, FP32, BF16 and FP16. -/
def fmtIsWide (f : Nat) : Bool := 8 ≤ f && f ≤ 11

/-- A floating-point format (R64). -/
def fmtIsFloat (f : Nat) : Bool := 8 ≤ f && f ≤ 14

/-- Mantissa bits of a floating-point format (R66). -/
def fmtMan (f : Nat) : Nat :=
  match f with
  | 8 => 52 | 9 => 23 | 10 => 7 | 11 => 10 | 12 => 3 | 13 => 2 | _ => 1

/-- Exponent bits of a floating-point format (R66). -/
def fmtExp (f : Nat) : Nat :=
  match f with
  | 8 => 11 | 9 => 8 | 10 => 8 | 11 => 5 | 12 => 4 | 13 => 5 | _ => 2

/-- The bias of a floating-point format (R66). -/
def fmtBias (f : Nat) : Int :=
  match f with
  | 8 => 1023 | 9 => 127 | 10 => 127 | 11 => 15 | 12 => 7 | 13 => 15 | _ => 1

/-- The format has infinities (R66). -/
def fmtHasInf (f : Nat) : Bool := f != 12 && f != 14

/-- The pattern of the largest finite magnitude (R66). -/
def fmtMaxBits (f : Nat) : Nat :=
  match f with
  | 8 => 0x7FEFFFFFFFFFFFFF | 9 => 0x7F7FFFFF | 10 => 0x7F7F | 11 => 0x7BFF | 12 => 0x7E | 13 => 0x7B | _ => 7

/-- The pattern of positive infinity, in a format that has one (R66). -/
def fmtInfBits (f : Nat) : Nat := (2 ^ fmtExp f - 1) * 2 ^ fmtMan f

/-- The canonical NaN, in a format that has NaNs (R66, R67). -/
def fmtNanBits (f : Nat) : Nat :=
  match f with
  | 8 => 0x7FF8000000000000 | 9 => 0x7FC00000 | 10 => 0x7FC0 | 11 => 0x7E00 | 12 => 0x7F | 13 => 0x7E | _ => 0

/-- A floating-point or integer value. -/
inductive FVal where
  | nan (signalling : Bool)
  | inf (neg : Bool)
  | fin (neg : Bool) (m : Nat) (e : Int)
  deriving DecidableEq, Repr

/-- The least exponent of a normal number. -/
def fmtEmin (f : Nat) : Int := 1 - fmtBias f

/-- The value of a pattern of a floating-point format, subnormals kept (R66, R67). -/
def fpDecode (f b : Nat) : FVal :=
  let mw := fmtMan f
  let ew := fmtExp f
  let neg := natBit b (mw + ew) == 1
  let e := natBits b mw ew
  let m := natBits b 0 mw
  if e = 0 then .fin neg m (fmtEmin f - mw)
  else if e = 2 ^ ew - 1 ∧ f = 12 ∧ m = 7 then .nan false
  else if e = 2 ^ ew - 1 ∧ fmtHasInf f then
    if m = 0 then .inf neg else .nan (natBit m (mw - 1) == 0)
  else .fin neg (2 ^ mw + m) ((e : Int) - fmtBias f - mw)

/-- The value of a pattern of an integer format (R65). -/
def intDecode (f b : Nat) : FVal :=
  let v : Int := if fmtSigned f then natToInt (fmtWidth f) b else ((b % 2 ^ fmtWidth f : Nat) : Int)
  .fin (v < 0) v.natAbs 0

/-- The value of a pattern of any format, before flushing. -/
def valDecode (f b : Nat) : FVal := if fmtIsInt f then intDecode f b else fpDecode f b

/-- A finite value is subnormal in format `f`: it is non-zero and below the smallest normal number. -/
def isSubnormal (f m : Nat) (e : Int) : Bool :=
  m != 0 && decide ((bitLen 4400 m : Int) - 1 + e < fmtEmin f)

/-- Reading an operand: a subnormal of the wide formats reads as zero under FTZ (R77). -/
def fpRead (f : Nat) (ftz : Bool) (b : Nat) : FVal :=
  match valDecode f b with
  | .fin s m e => if ftz && fmtIsWide f && isSubnormal f m e then .fin s 0 0 else .fin s m e
  | v => v

/-- The integer multiple of 2^q that a value m × 2^e rounds to, and whether it is inexact (R75, R76). `d` is
the draw of stochastic rounding. -/
def roundQ (rm : Nat) (d : Nat) (neg : Bool) (m : Nat) (e q : Int) : Nat × Bool :=
  if q ≤ e then (m * 2 ^ (e - q).toNat, false) else
  let sh0 := (q - e).toNat
  let sh := min sh0 (bitLen 70000 m + 40)
  let lo := m / 2 ^ sh
  let rem := m % 2 ^ sh
  if rem = 0 ∧ (sh = sh0 ∨ m = 0) then (lo, false) else
  let half := 2 ^ sh
  let up : Bool :=
    match rm with
    | 0 => decide (half < 2 * rem) || (2 * rem == half && lo % 2 == 1)
    | 1 => false
    | 2 => !neg
    | 3 => neg
    | 4 => decide (half ≤ 2 * rem)
    | _ => decide (d * 2 ^ sh < rem * 2 ^ 32)
  (if up then lo + 1 else lo, true)

/-- A NaN delivered to format `f` (R67, R79): E2M1 has none and receives +0 with NV. -/
def deliverNan (f : Nat) (fl : Flags) : Nat × Flags :=
  if f = 14 then (0, fl ||| flNV) else (fmtNanBits f, fl)

/-- The sign bit of format `f`. -/
def signBit (f : Nat) (neg : Bool) : Nat := if neg then 2 ^ (fmtWidth f - 1) else 0

/-- The modes that round toward zero for this sign (R79). -/
def towardZero (rm : Nat) (neg : Bool) : Bool := rm == 1 || (rm == 3 && !neg) || (rm == 2 && neg)

/-- An infinity delivered to a floating-point format (R79). -/
def deliverInf (f : Nat) (sat neg : Bool) : Nat × Flags :=
  if f = 14 then (signBit f neg + fmtMaxBits f, flNV ||| flSA)
  else if sat then (signBit f neg + fmtMaxBits f, flSA)
  else if f = 12 then (0x7F, flNV)
  else (signBit f neg + fmtInfBits f, flNone)

/-- A finite value delivered to a floating-point format: one rounding, then overflow, tininess and flushing
(R75 to R79). R79 calls E5M2 to FP16 exact and R77 flushes a result that is subnormal in FP16: the model flushes it under FTZ 1, with UF
and NX (DESIGN CHOICE, log 114). -/
def deliverFin (f rm : Nat) (ftz sat : Bool) (d : Nat) (neg : Bool) (m : Nat) (e : Int) : Nat × Flags :=
  if m = 0 then (signBit f neg, flNone) else
  let mw := fmtMan f
  let top : Int := (bitLen 70000 m : Int) - 1 + e
  let q := max (top - mw) (fmtEmin f - mw)
  let (n, inex) := roundQ rm d neg m e q
  let maxv := fmtMaxBits f
  let maxM := 2 ^ mw + maxv % 2 ^ mw
  let maxE : Int := ((maxv / 2 ^ mw : Nat) : Int) - fmtBias f - mw
  let beyond : Bool := decide (maxE < q) || (q == maxE && decide (maxM < n)) || (q == maxE - 1 && decide (2 * maxM < n))
  if n ≠ 0 ∧ beyond = true then
    if sat then (signBit f neg + maxv, flOF ||| flNX ||| (if towardZero rm neg then flNone else flSA))
    else if f = 14 ∨ towardZero rm neg then (signBit f neg + maxv, flOF ||| flNX)
    else if f = 12 then (0x7F, flOF ||| flNX)
    else (signBit f neg + fmtInfBits f, flOF ||| flNX)
  else
    let fl := if inex then flNX else flNone
    let tiny : Bool :=
      decide (top < fmtEmin f) &&
        (let (u, _) := roundQ rm d neg m e (top - mw)
         u != 0 && decide ((bitLen 128 u : Int) - 1 + (top - mw) < fmtEmin f))
    let fl := if tiny && inex then fl ||| flUF else fl
    if n = 0 then (signBit f neg, fl)
    else if n < 2 ^ mw then
      if ftz && fmtIsWide f then (signBit f neg, fl ||| flUF ||| flNX) else (signBit f neg + n, fl)
    else
      let (n, q) := if 2 ^ (mw + 1) ≤ n then (n / 2, q + 1) else (n, q)
      let ex := (q + mw + fmtBias f).toNat
      (signBit f neg + ex * 2 ^ mw + (n - 2 ^ mw), fl)

/-- The bounds of an integer format (R65). -/
def intBounds (f : Nat) : Int × Int :=
  if fmtSigned f then (-((2 ^ (fmtWidth f - 1) : Nat) : Int), ((2 ^ (fmtWidth f - 1) : Nat) : Int) - 1)
  else (0, ((2 ^ fmtWidth f : Nat) : Int) - 1)

/-- A finite value converted to an integer format from a floating-point source (R80). -/
def deliverInt (f rm d : Nat) (neg : Bool) (m : Nat) (e : Int) : Nat × Flags :=
  let w := fmtWidth f
  let (lo, hi) := intBounds f
  if m ≠ 0 ∧ 70 < (bitLen 70000 m : Int) + e then (intToNat w (if neg then lo else hi), flNV) else
  let (n, inex) := roundQ rm d neg m e 0
  let v : Int := if neg then -(n : Int) else n
  if v < lo then (intToNat w lo, flNV)
  else if hi < v then (intToNat w hi, flNV)
  else (intToNat w v, if inex then flNX else flNone)

/-- An integer value delivered to an integer format (R80): a narrower destination takes the low bits, or the
nearer bound with SA under SAT; another destination takes the nearer bound with NV. -/
def intToIntFmt (fa fd : Nat) (sat : Bool) (v : Int) : Nat × Flags :=
  let w := fmtWidth fd
  let (lo, hi) := intBounds fd
  if lo ≤ v ∧ v ≤ hi then (intToNat w v, flNone)
  else if fmtWidth fd < fmtWidth fa ∧ !sat then (intToNat w v, flNone)
  else (intToNat w (if v < lo then lo else hi), if fmtWidth fd < fmtWidth fa then flSA else flNV)

/-- The signed value of a finite FVal with exponent 0. -/
def finInt (neg : Bool) (m : Nat) : Int := if neg then -(m : Int) else m

/-- A value converted from format `fa` to format `fd` (R79, R80). -/
def convert (fa fd rm : Nat) (ftz sat : Bool) (d : Nat) (v : FVal) : Nat × Flags :=
  if fmtIsInt fd then
    match v with
    | .nan _ => (0, flNV)
    | .inf neg => (intToNat (fmtWidth fd) (if neg then (intBounds fd).1 else (intBounds fd).2), flNV)
    | .fin neg m e =>
      if fmtIsInt fa then intToIntFmt fa fd sat (finInt neg m) else deliverInt fd rm d neg m e
  else
    match v with
    | .nan sig => deliverNan fd (if sig then flNV else flNone)
    | .inf neg => deliverInf fd sat neg
    | .fin neg m e => deliverFin fd rm ftz sat d neg m e

/-- An arithmetic result delivered to its format: overflow follows the SAT 0 column (R81). -/
def deliver (fd rm : Nat) (ftz : Bool) (v : FVal) (fl : Flags) : Nat × Flags :=
  match v with
  | .nan _ => deliverNan fd fl
  | .inf neg => if fd = 12 then (0x7F, fl ||| flNV) else (signBit fd neg + fmtInfBits fd, fl)
  | .fin neg m e =>
    let (b, g) := deliverFin fd rm ftz false 0 neg m e
    (b, fl ||| g)

/-! ### Exact operations -/

/-- Align two signed significands to one exponent and add them. -/
def addExact (s1 : Bool) (m1 : Nat) (e1 : Int) (s2 : Bool) (m2 : Nat) (e2 : Int) : Int × Int :=
  let e := min e1 e2
  let a : Int := finInt s1 (m1 * 2 ^ (e1 - e).toNat)
  let b : Int := finInt s2 (m2 * 2 ^ (e2 - e).toNat)
  (a + b, e)

/-- The sum of two values: an exact zero of opposite signs is −0 only in mode down (R75); ∞ − ∞ is NaN with
NV (R81). -/
def fAdd (rm : Nat) (a b : FVal) : FVal × Flags :=
  match a, b with
  | .nan p, .nan q => (.nan false, if p || q then flNV else flNone)
  | .nan p, _ => (.nan false, if p then flNV else flNone)
  | _, .nan q => (.nan false, if q then flNV else flNone)
  | .inf s, .inf t => if s = t then (.inf s, flNone) else (.nan false, flNV)
  | .inf s, _ => (.inf s, flNone)
  | _, .inf t => (.inf t, flNone)
  | .fin s m e, .fin t n g =>
    if m = 0 ∧ n = 0 then (.fin (if s = t then s else rm == 3) 0 0, flNone)
    else
      let (v, ex) := addExact s m e t n g
      if v = 0 then (.fin (rm == 3) 0 0, flNone) else (.fin (v < 0) v.natAbs ex, flNone)

/-- A value with its sign inverted. -/
def fNeg : FVal → FVal
  | .nan s => .nan s
  | .inf s => .inf (!s)
  | .fin s m e => .fin (!s) m e

/-- The product of two values; 0 × ∞ is NaN with NV (R81). -/
def fMul (a b : FVal) : FVal × Flags :=
  match a, b with
  | .nan p, .nan q => (.nan false, if p || q then flNV else flNone)
  | .nan p, _ => (.nan false, if p then flNV else flNone)
  | _, .nan q => (.nan false, if q then flNV else flNone)
  | .inf s, .inf t => (.inf (s != t), flNone)
  | .inf s, .fin t n _ => if n = 0 then (.nan false, flNV) else (.inf (s != t), flNone)
  | .fin s m _, .inf t => if m = 0 then (.nan false, flNV) else (.inf (s != t), flNone)
  | .fin s m e, .fin t n g => (.fin (s != t) (m * n) (e + g), flNone)

/-- a × b + c with one rounding to come; 0 × ∞ raises NV even with a quiet NaN addend (R81, R85). -/
def fFma (rm : Nat) (a b c : FVal) : FVal × Flags :=
  let (p, f1) := fMul a b
  let (r, f2) := fAdd rm p c
  (r, f1 ||| f2)

/-- A quotient of naturals with at least 80 significant bits and a sticky last bit, with its exponent. -/
def divSticky (m n : Nat) : Nat × Int :=
  let k := 90 + bitLen 4400 n
  let x := m * 2 ^ k
  let q := x / n
  (2 * q + (if x % n = 0 then 0 else 1), -(k : Int) - 1)

/-- The quotient of two values (R81, R85). -/
def fDiv (a b : FVal) : FVal × Flags :=
  match a, b with
  | .nan p, .nan q => (.nan false, if p || q then flNV else flNone)
  | .nan p, _ => (.nan false, if p then flNV else flNone)
  | _, .nan q => (.nan false, if q then flNV else flNone)
  | .inf _, .inf _ => (.nan false, flNV)
  | .inf s, .fin t _ _ => (.inf (s != t), flNone)
  | .fin s _ _, .inf t => (.fin (s != t) 0 0, flNone)
  | .fin s m e, .fin t n g =>
    if n = 0 then (if m = 0 then (.nan false, flNV) else (.inf (s != t), flDZ))
    else if m = 0 then (.fin (s != t) 0 0, flNone)
    else
      let (q, x) := divSticky m n
      (.fin (s != t) q (e - g + x), flNone)

/-- The bits of an integer square root, from bit `k − 1` down. -/
def isqrtGo : Nat → Nat → Nat → Nat
  | 0, _, r => r
  | k + 1, n, r => isqrtGo k n (if (r + 2 ^ k) * (r + 2 ^ k) ≤ n then r + 2 ^ k else r)

/-- The integer square root of `n`. -/
def isqrt (n : Nat) : Nat := isqrtGo (bitLen 9000 n / 2 + 1) n 0

/-- m × 2^e with an even exponent. -/
def evenExp (m : Nat) (e : Int) : Nat × Int := if e % 2 = 0 then (m, e) else (2 * m, e - 1)

/-- The square root of a value; −0 gives −0 (R81, R100). -/
def fSqrt (a : FVal) : FVal × Flags :=
  match a with
  | .nan p => (.nan false, if p then flNV else flNone)
  | .inf s => if s then (.nan false, flNV) else (.inf false, flNone)
  | .fin s m e =>
    if m = 0 then (.fin s 0 0, flNone)
    else if s then (.nan false, flNV)
    else
      let (m, e) := evenExp m e
      let x := m * 2 ^ 180
      let r := isqrt x
      (.fin false (2 * r + (if r * r = x then 0 else 1)) (e / 2 - 90 - 1), flNone)

/-- The reciprocal (R100). -/
def fRcp (a : FVal) : FVal × Flags := fDiv (.fin false 1 0) a

/-- The reciprocal square root; a zero gives an infinity of its sign with DZ (R100). -/
def fRsq (a : FVal) : FVal × Flags :=
  match a with
  | .nan p => (.nan false, if p then flNV else flNone)
  | .inf s => if s then (.nan false, flNV) else (.fin false 0 0, flNone)
  | .fin s m e =>
    if m = 0 then (.inf s, flDZ)
    else if s then (.nan false, flNV)
    else
      let (m, e) := evenExp m e
      let k := 100 + bitLen 4400 m
      let x := 2 ^ (2 * k)
      let t := x / m
      let r := isqrt t
      (.fin false (2 * r + (if r * r * m = x then 0 else 1)) (-(e / 2) - (k : Int) - 1), flNone)

/-- a < b, for values that are not NaN. -/
def fLt (a b : FVal) : Bool :=
  match a, b with
  | .nan _, _ => false
  | _, .nan _ => false
  | .inf s, .inf t => s && !t
  | .inf s, _ => s
  | _, .inf t => !t
  | .fin s m e, .fin t n g => decide ((addExact s m e (!t) n g).1 < 0)

/-- a = b, with +0 = −0, for values that are not NaN. -/
def fEq (a b : FVal) : Bool :=
  match a, b with
  | .nan _, _ => false
  | _, .nan _ => false
  | .inf s, .inf t => s == t
  | .inf _, _ => false
  | _, .inf _ => false
  | .fin s m e, .fin t n g => (addExact s m e (!t) n g).1 == 0

/-- The value is a NaN. -/
def FVal.isNan : FVal → Bool
  | .nan _ => true
  | _ => false

/-- The value is a signalling NaN. -/
def FVal.isSig : FVal → Bool
  | .nan s => s
  | _ => false

/-- The sign of a value that is not NaN. -/
def FVal.sign : FVal → Bool
  | .nan _ => false
  | .inf s => s
  | .fin s _ _ => s

/-- −0 below +0 and otherwise the numeric order (R101). -/
def fBelow (a b : FVal) : Bool :=
  if fEq a b then a.sign && !b.sign else fLt a b

/-- vfmin and vfmax (R101): `wantMax` selects the greater. -/
def fMinMax (wantMax : Bool) (a b : FVal) : FVal × Flags :=
  if a.isSig || b.isSig then (.nan false, flNV)
  else if a.isNan && b.isNan then (.nan false, flNone)
  else if a.isNan then (b, flNone)
  else if b.isNan then (a, flNone)
  else if wantMax then (if fBelow a b then b else a, flNone)
  else (if fBelow b a then b else a, flNone)

/-! ### Scales and descriptors -/

/-- The value of an S9 scale, `none` for a NaN scale (R69): significand and exponent. -/
def s9 (entry : Nat) : Option (Nat × Int) :=
  let e := natBits entry 1 8
  if e = 255 then none else some (2 + natBit entry 0, (e : Int) - 127 - 1)

/-- One step of the LFSR sl (R76). -/
def lfsrStep (s : Nat) : Nat :=
  let b := (natBit s 63 + natBit s 62 + natBit s 60 + natBit s 59) % 2
  (2 * s) % 2 ^ 64 + b

/-- The LFSR stepped `n` times. -/
def lfsrSteps : Nat → Nat → Nat
  | 0, s => s
  | n + 1, s => lfsrSteps n (lfsrStep s)

/-- The fields of a descriptor (R73). -/
structure Desc where
  fa  : Nat
  fb  : Nat
  fd  : Nat
  rm  : Nat
  ftz : Bool
  sat : Bool
  blk : Nat
  scl : Nat
  sba : Nat
  sbb : Nat
  resv : Bool
  deriving DecidableEq, Repr

/-- A descriptor register read by its fields (R73). -/
def Desc.ofWord (d : Word) : Desc :=
  let n := d.toNat
  { fa := natBits n 0 4, fb := natBits n 4 4, fd := natBits n 8 4, rm := natBits n 12 3, ftz := natBit n 15 == 1
    sat := natBit n 16 == 1, blk := natBits n 18 3, scl := natBits n 21 2, sba := natBits n 24 8, sbb := natBits n 32 8
    resv := natBit n 17 != 0 || natBit n 23 != 0 || natBits n 40 24 != 0 }

/-- DESC_RESERVED: a reserved bit, format 15 in a field that is read, RM 0b110 or 0b111 where RM is read, or SCL 0b11
where SCL is read (R74). -/
def Desc.reservedBad (d : Desc) (rdA rdB rdD rdRm rdScl : Bool) : Bool :=
  d.resv || (rdA && d.fa == 15) || (rdB && d.fb == 15) || (rdD && d.fd == 15) || (rdRm && 6 ≤ d.rm) || (rdScl && d.scl == 3)

end Sys2Proof.Machine
end

