-- ==== Sys2Proof/Machine/Operands.lean ====
section
/-!
DEFINITION. Sys2Proof/Machine/Operands.lean: tokens as operands. Reading and building elements, predicates and
null maps (R16, R17, R90, R91, R427), the widths an operand needs, and the element loop every element-wise
instruction runs.
-/

namespace Sys2Proof.Machine

/-- A fault an instruction raises as it computes: its cause, DETAIL, element and, where it is not pc, fa. -/
structure Raw where
  cause  : Cause
  detail : Nat
  elem   : Option Nat
  fa     : Option Word
  deriving DecidableEq, Repr

/-- A fault of the whole instruction. -/
def Raw.of (c : Cause) (detail : Nat := 0) : Raw := ⟨c, detail, none, none⟩

/-- What an instruction delivers: its token and the flags it holds for the belay (R83). -/
structure OpRes where
  tok   : Token
  flags : Flags
  deriving DecidableEq, Repr

/-- The outcome of an instruction's computation. -/
abbrev OpOut := Except Raw OpRes

/-- What an instruction reads beside its tokens, as it stood at pitch start (R74, R76, R92). -/
structure Env where
  vl    : Nat
  lsew  : Nat
  sb    : Nat
  sl    : Nat
  fe    : Nat
  d     : Vector Word 8
  scale : Vector (BitVec 32) 256
  draws : Nat
  deriving DecidableEq, Repr

/-- log2 of the element width that sc.SEW names (R11). -/
def lsewOf (sc : Word) : Nat := 3 + natBits sc.toNat 0 2

/-- SLMAX for an element width of 2^lw (R14). -/
def slmax (lw : Nat) : Nat := 2048 / 2 ^ lw

/-- The strip length granted from sn and sc (R14). -/
def grantVl (sn : BitVec 48) (sc : Word) : Nat :=
  let g := min sn.toNat (slmax (lsewOf sc))
  let cap := natBits sc.toNat 8 8
  if cap = 0 then g else min g cap

/-! ### Building and reading tokens -/

/-- A scalar token. -/
def Token.scalar (v : Nat) : Token := ⟨.scalar, 6, BitVec.ofNat 2048 (v % 2 ^ 64), 0, false⟩

/-- A null scalar. -/
def Token.nullScalar : Token := ⟨.scalar, 6, 0, 1, false⟩

/-- A scalar token that may be null. -/
def Token.scalarOpt : Option Nat → Token
  | some v => Token.scalar v
  | none => Token.nullScalar

/-- Elements packed from element 0 upward, each 2^lw bits; a missing element is 0. -/
def packElems (lw : Nat) : List (Option Nat) → Nat
  | [] => 0
  | x :: xs => packElems lw xs * 2 ^ (2 ^ lw) + (x.getD 0) % 2 ^ (2 ^ lw)

/-- The null map of a list of elements. -/
def packNulls : List (Option Nat) → Nat
  | [] => 0
  | x :: xs => 2 * packNulls xs + (if x.isNone then 1 else 0)

/-- A vector token of elements of width 2^lw. -/
def Token.vector (lw : Nat) (l : List (Option Nat)) : Token :=
  ⟨.vec, lw, BitVec.ofNat 2048 (packElems lw l), BitVec.ofNat 256 (packNulls l), false⟩

/-- A mask token. -/
def Token.mask (l : List (Option Nat)) : Token :=
  ⟨.mask, 0, BitVec.ofNat 2048 (packElems 0 l), BitVec.ofNat 256 (packNulls l), false⟩

/-- The token is not a scalar. -/
def Token.wide (t : Token) : Bool := t.kind != .scalar

/-- The null bit of element `e`; a scalar's only element answers for every `e` (R16). -/
def Token.nullAt (t : Token) (e : Nat) : Bool := t.null.getLsbD (if t.kind = .scalar then 0 else e)

/-- A scalar token is null. -/
def Token.isNull (t : Token) : Bool := t.null.getLsbD 0

/-- The 64-bit value of a scalar token. -/
def Token.val (t : Token) : Nat := t.bits.toNat % 2 ^ 64

/-- A scalar token's value as a word. -/
def Token.word (t : Token) : Word := BitVec.ofNat 64 t.bits.toNat

/-- The bits of element `e` read at width 2^lw: a scalar is broadcast and gives its low bits (R91), a vector
gives its element at its own width. -/
def Token.elem (t : Token) (lw e : Nat) : Nat :=
  match t.kind with
  | .scalar => t.bits.toNat % 2 ^ (2 ^ lw)
  | .vec => natBits t.bits.toNat (2 ^ t.lw * e) (2 ^ t.lw)
  | .mask => natBit t.bits.toNat e

/-- Element `e`, or `none` when it is null. -/
def Token.elem? (t : Token) (lw e : Nat) : Option Nat := if t.nullAt e then none else some (t.elem lw e)

/-! ### Predicates -/

/-- A predicate as an instruction uses it: whether the mode is on-true, and the token; `none` in mode always. -/
abbrev Pred := Option (Bool × Token)

/-- Element `e` of the result is not made null by the predicate (R17). -/
def predOpen (p : Pred) (e : Nat) : Bool :=
  match p with
  | none => true
  | some (onTrue, t) =>
    !t.nullAt e && (match t.kind with
      | .mask => (natBit t.bits.toNat e == 1) == onTrue
      | _ => (t.val != 0) == onTrue)

/-- The predicate is a mask, which counts as a consumed mask operand (R427). -/
def predWide : Pred → Bool
  | some (_, t) => t.wide
  | none => false

/-- A vector at a predicate slot is no predicate token (R427). -/
def predKindOk : Pred → Bool
  | some (_, t) => t.kind != .vec
  | none => true

/-- An instruction that acts as one whole takes a scalar predicate (R427). -/
def predScalarOk : Pred → Bool
  | some (_, t) => t.kind == .scalar
  | none => true

/-! ### Kind and width checks -/

/-- A token kind that the receiving operand does not take (R16, R90, R91). -/
def tokenKind : Raw := Raw.of .tokenKind

/-- A vector operand has the stated width; scalars pass; masks do not. -/
def okVec (lw : Nat) (t : Token) : Bool := t.kind == .scalar || (t.kind == .vec && t.lw == lw)

/-- A scalar operand. -/
def okScalar (t : Token) : Bool := t.kind == .scalar

/-- A mask operand; a scalar is broadcast. -/
def okMask (t : Token) : Bool := t.kind != .vec

/-- Guard in an instruction's computation. -/
def need (b : Bool) (r : Raw) : Except Raw Unit := if b then .ok () else .error r

/-! ### The element loop -/

/-- The trap an element's flags raise under the enables fe, first in the order NV, DZ, OF, UF, NX (R84). -/
def fpTrap (fe : Nat) (fl : Flags) : Option Cause :=
  let on (i : Nat) : Bool := fl.getLsbD i && natBit fe i == 1
  if on 4 then some .fpeInvalid else if on 3 then some .fpeDivzero else if on 2 then some .fpeOverflow
  else if on 1 then some .fpeUnderflow else if on 0 then some .fpeInexact else none

/-- Elements in ascending order; the lowest-numbered faulting element is reported (R92). -/
def loopElems (f : Nat → Except Raw (Option Nat × Flags)) : List Nat → Except Raw (List (Option Nat) × Flags)
  | [] => .ok ([], 0)
  | e :: es =>
    match f e with
    | .error r => .error r
    | .ok (v, fl) =>
      match loopElems f es with
      | .error r => .error r
      | .ok (vs, g) => .ok (v :: vs, fl ||| g)

/-- The kind of the result elements: a vector of width 2^lw or a mask (R91, R106). -/
inductive ResKind where
  | vec (lw : Nat)
  | mask
  deriving DecidableEq, Repr

/-- The token of a list of result elements. -/
def ResKind.build (k : ResKind) (wide : Bool) (l : List (Option Nat)) : Token :=
  if wide then (match k with | .vec lw => Token.vector lw l | .mask => Token.mask l)
  else Token.scalarOpt (l.headD none)

/-- WIDTH_RANGE: a vector result of vl elements needs more than 2048 bits (R90). -/
def widthOk (k : ResKind) (wide : Bool) (vl : Nat) : Except Raw Unit :=
  match k with
  | .vec lw => need (!wide || vl * 2 ^ lw ≤ 2048) (Raw.of .widthRange (vl * 2 ^ lw))
  | .mask => .ok ()

/-- An element-wise instruction: `ops` with the log2 width each is read at, `f` from element number and operand
bits to a result and its flags. Null and closed elements are not computed (R17). -/
def elementwise (env : Env) (p : Pred) (ops : List (Token × Nat)) (k : ResKind)
    (f : Nat → List Nat → Except Raw (Nat × Flags)) : OpOut := do
  need (predKindOk p) tokenKind
  let wide := predWide p || ops.any (fun o => o.1.wide)
  widthOk k wide env.vl
  let n := if wide then env.vl else 1
  let step (e : Nat) : Except Raw (Option Nat × Flags) :=
    if predOpen p e && ops.all (fun o => !o.1.nullAt e) then
      match f e (ops.map (fun o => o.1.elem o.2 e)) with
      | .ok (v, fl) => .ok (some v, fl)
      | .error r => .error { r with elem := some e }
    else .ok (none, 0)
  let (l, fl) ← loopElems step (List.range n)
  .ok ⟨k.build wide l, fl⟩

/-- A result without flags. -/
def okTok (t : Token) : OpOut := .ok ⟨t, 0⟩

end Sys2Proof.Machine
end

