-- ==== Sys2Proof/Machine/Slots.lean ====
section
/-!
DEFINITION. Sys2Proof/Machine/Slots.lean: which operand slots, targets, LSID and ordering class each instruction has
(R19, R42 to R54 and the form tables of the families), as the decoder's checks and the firing rule read them.
-/

namespace Sys2Proof.Machine

/-- The operand slots an instruction uses and the targets it delivers to (R19, R44). -/
structure Slots where
  pm   : Pm
  l    : Bool
  r    : Bool
  t    : Bool
  outs : List Target
  deriving DecidableEq, Repr

/-- The targets of a kind-1 prefix (R53). -/
def fanOuts : Option Fan → List Target
  | some f => [f.t2, f.t3]
  | none => []

/-- The extra targets of an immediate form or load. -/
def preOuts : Pre → List Target
  | .fan f => [f.t2, f.t3]
  | _ => []

/-- The slots of every instruction; an event has none. -/
def slotsOf : Instr → Slots
  | .add o | .sub o | .and o | .or o | .xor o | .andn o | .sll o | .srl o | .sra o | .min o | .max o
  | .minu o | .maxu o | .mul o | .mulh o | .mulhu o | .div o | .divu o | .rem o | .remu o | .bfx o => ⟨o.pm, true, true, false, [o.t0, o.t1] ++ fanOuts o.fan⟩
  | .clz o | .ctz o | .popc o => ⟨o.pm, true, false, false, [o.t0, o.t1] ++ fanOuts o.fan⟩
  | .addi o | .andi o => ⟨o.pm, true, false, false, [o.t0] ++ preOuts o.pre⟩
  | .slli o | .srli o | .srai o => ⟨o.pm, true, false, false, [o.t0] ++ fanOuts o.fan⟩
  | .padd o | .pset o => ⟨o.pm, true, true, false, [o.t0, o.t1] ++ fanOuts o.fan⟩
  | .pget o => ⟨o.pm, true, false, false, [o.t0, o.t1] ++ fanOuts o.fan⟩
  | .vfadd o | .vfsub o | .vfmul o | .vfdiv o | .vfmin o | .vfmax o | .vfsgn o | .vfscale o | .vsumO o
  | .vsumT o | .vminR o | .vmaxR o | .vandR o | .vorR o | .vfeq o | .vflt o | .vfle o | .vfun o => ⟨o.pm, true, true, false, [o.t0, o.t1] ++ fanOuts o.fan⟩
  | .vfsqrt o | .vfabs o | .vfneg o | .vfrcp o | .vfrsq o | .vfclass o | .vflogb o | .vfrnd o | .vcvt o
  | .vcvtb o => ⟨o.pm, true, false, false, [o.t0, o.t1] ++ fanOuts o.fan⟩
  | .vfma o | .vfms o | .vfnma o | .vfnms o => ⟨o.pm, true, true, true, [o.t0, o.t1] ++ fanOuts o.fan⟩
  | .cmp o => ⟨o.pm, true, true, false, [o.t0, o.t1] ++ fanOuts o.fan⟩
  | .cmpi o => ⟨o.pm, true, false, false, [o.t0] ++ preOuts o.pre⟩
  | .sel o | .vins o => ⟨o.pm, true, true, true, [o.t0, o.t1] ++ fanOuts o.fan⟩
  | .mpop o | .viota o => ⟨o.pm, true, false, false, [o.t0, o.t1] ++ fanOuts o.fan⟩
  | .vcomp o => ⟨o.pm, true, true, false, [o.t0, o.t1] ++ fanOuts o.fan⟩
  | .vperm o => ⟨o.pm, true, o.op != .rev, false, [o.t0, o.t1] ++ fanOuts o.fan⟩
  | .vext o | .mrange o => ⟨o.pm, true, true, false, [o.t0, o.t1] ++ fanOuts o.fan⟩
  | .mlog o => ⟨o.pm, true, true, false, [o.t0, o.t1] ++ fanOuts o.fan⟩
  | .mfirst o => ⟨o.pm, true, false, false, [o.t0, o.t1] ++ fanOuts o.fan⟩
  | .ld o | .ldff o | .ldb o | .ldk o => ⟨o.pm, true, false, false, [o.t0] ++ preOuts o.pre⟩
  | .lds o | .ldg o | .ldgff o => ⟨o.pm, true, true, false, [o.t0] ++ preOuts o.pre⟩
  | .ldx o | .ldm o | .ldref o | .ldrefH o => ⟨o.pm, true, false, false, [o.t0] ++ preOuts o.pre⟩
  | .waitv o => ⟨o.pm, true, true, false, [o.t0] ++ preOuts o.pre⟩
  | .lda o => ⟨o.pm, true, false, false, [o.t0] ++ preOuts o.pre⟩
  | .st o | .stk o => ⟨o.pm, true, true, false, []⟩
  | .sts o | .stg o => ⟨o.pm, true, true, true, []⟩
  | .stx o | .stm o | .stref o => ⟨o.pm, true, true, false, []⟩
  | .stl o => ⟨o.pm, true, true, false, []⟩
  | .fence o => ⟨o.pm, false, false, false, []⟩
  | .waitc o => ⟨o.pm, false, false, false, []⟩
  | .amoAdd o | .amoAnd o | .amoOr o | .amoXor o | .amoMin o | .amoMax o | .amoSwap o => ⟨o.pm, true, true, false, [o.t0] ++ fanOuts o.fan⟩
  | .amoCas o => ⟨o.pm, true, true, true, [o.t0] ++ fanOuts o.fan⟩
  | .br o | .brCall o => ⟨o.pm, o.f, false, false, []⟩
  | .brEs o => ⟨o.pm, true, false, false, []⟩
  | .brInd o | .brRet o => ⟨o.pm, true, o.f, false, []⟩
  | .brStrip o | .setrecov o => ⟨o.pm, false, false, false, []⟩
  | .loop o => ⟨o.pm, o.f, false, false, []⟩
  | .loopc o | .loopw o => ⟨o.pm, o.trip.isNone, true, false, []⟩
  | .trigger o | .yield o | .rtp o | .fin o => ⟨o.pm, false, false, false, []⟩
  | .rtDecl o | .rtSeed o | .cardSig o | .meshClose o | .unpin o => ⟨o.pm, true, false, false, []⟩
  | .rtDone o | .cardPost o => ⟨o.pm, true, true, false, []⟩
  | .csrr o => ⟨o.pm, false, false, false, [o.t0] ++ fanOuts o.fan⟩
  | .csrw o => ⟨o.pm, true, false, false, [o.t0]⟩
  | .cMov o | .cFan o | .cNeg o | .cNot o | .cInc o | .cDec o | .cShl1 o | .cShr1 o | .cSar1 o | .cSext32 o
  | .cZext32 o | .cIsz o | .cNez o | .cZfill o | .cIsnull o => ⟨.always, true, false, false, [o.t0]⟩
  | .cVl o | .cSb o | .cSn o | .cEidx o | .cNull o | .cNullv o | .cNullm o => ⟨.always, false, false, false, [o.t0]⟩
  | .cAdd o | .cSub o | .cAnd o | .cOr o | .cXor o | .cNullif o | .cKeepif o => ⟨.always, true, true, false, [o.t0]⟩
  | .cLi o => ⟨.always, false, false, false, [o.t0]⟩
  | .tz o => ⟨o.pm, false, false, false, []⟩
  | .ldt o | .stt o => ⟨o.pm, true, true, false, []⟩
  | .opa o => ⟨o.pm, true, true, false, []⟩
  | .mvvt o => ⟨o.pm, true, false, false, [o.t0]⟩
  | .mvtv o => ⟨o.pm, false, false, false, [o.t0]⟩
  | .scld o => ⟨o.pm, true, true, false, []⟩
  | .gemmT o | .gemmTPair o => ⟨o.pm, o.asrc != .tile, o.bsrc != .tile, false, []⟩
  | .cholT o | .trsmT o | .syrkT o | .qrT o => ⟨o.pm, false, false, false, []⟩
  | .cpy o => ⟨o.pm, true, true, false, [o.t0]⟩
  | .cpyRec o | .cpy2 o | .cpy3 o | .cpyg o | .cpyr o | .cpyx o | .meshInit o | .meshAdapt o | .nbrStream o
  | .colBuild o | .meshFree o | .rgLoad o | .mcx o | .lbCut o | .lbMigrate o | .ghostSync o => ⟨o.pm, true, false, false, [o.t0]⟩
  | .hpRelocate o => ⟨o.pm, true, true, false, [o.t0]⟩
  | .hpEpoch o => ⟨o.pm, false, false, false, [o.t0]⟩
  | .esack o => ⟨o.pm, true, false, false, []⟩
  | .rtPush o => ⟨o.pm, true, true, false, []⟩
  | .rtTake o => ⟨o.pm, true, false, false, [o.t0]⟩
  | .rtStat o => ⟨o.pm, true, false, false, [o.t0]⟩
  | .rtDrain o => ⟨o.pm, false, false, false, [o.t0]⟩
  | .bar o => ⟨o.pm, false, false, false, []⟩
  | .futWait o | .refeq o => ⟨o.pm, true, true, false, [o.t0]⟩
  | .jobq o | .meshOpen o | .pin o => ⟨o.pm, true, false, false, [o.t0]⟩
  | .futSet o => ⟨o.pm, true, true, false, [o.t0]⟩
  | .nbrLd o => ⟨o.pm, true, true, false, [o.t0]⟩
  | .nbrLd2 o => ⟨o.pm, true, true, false, [o.t0]⟩
  | .vsaddCol o => ⟨o.pm, true, true, false, []⟩
  | .hpMake o => ⟨o.pm, true, true, false, []⟩
  | .pitchEntry _ | .speculativeStart _ | .loadResponse _ | .atomicResponse _ | .commandResultReturn _
  | .pitchQuiescence _ | .belay _ | .strandRetire _ | .matrixApply _ _ | .matrixStep _ | .matrixPassOver _ _
  | .pairTimerExpire _ | .waitcComplete _ | .waitvValueChange _ | .waitvTimeout _ | .contextSwap _ _
  | .spillRequest _ | .spillStart _ | .spillComplete _ | .spillAccessFault _ | .fillStart _ | .fillComplete _
  | .quantumBoundary _ | .coxPlace _ _ | .cardDispatch _ | .nestLaunch _ | .cardSignalAtHome _
  | .cardPostAtHome _ | .cardComplete _ | .futWaitAtHome _ | .futSetAtHome _ | .proxyBatchSend _ _
  | .jobFlushRound _ | .copyCommandStart _ | .copyComplete _ | .engineFault _ | .commandResume _
  | .commandAbort _ | .storeResponseError _ | .cpyrRun _ | .meshInitRun _ | .meshAdaptRun _ | .meshFreeRun _
  | .nbrStreamRun _ | .colBuildRun _ | .meshOpenAtHome _ | .meshCloseAtHome _ | .nbrQueryAtHome _
  | .homeRequest _ | .sharerAckTimeout _ | .hpRelocateRun _ | .relocationCopyDone _ | .relocationCopyFault _
  | .hpEpochRun _ | .lbCutRun _ | .lbMigrateRun _ | .ghostSyncRun _ | .cpyxRun _ | .cpyxCompletion _
  | .mcxRun _ | .mcastSplit _ | .rgLoadRun _ | .regattaSwitch | .routerCmdDecl _ | .routerCmdPush _
  | .routerPushAdmit _ | .routerCmdTake _ | .routerTakeServe _ | .routerCmdDone _ | .routerWindowTimer _ _
  | .routerCmdStat _ | .routerCmdDrain _ | .routerCmdSeed _ | .rtlfsrWrite _ _ | .scinvWrite _ _
  | .meusePeakClear _ _ | .mxslotWrite _ _ | .slotTableSwitch _ | .registerWrite _ _ | .drstWrite _ _
  | .cdieResetRecover _ | .watchdogExpire _ _ | .scrubPass _ _ | .queueParityError _ | .dieLinkFailure _
  | .launchDoorbell _ _ | .launchPacketTake _ | .msitrigWrite _ _ | .featureCommit _ _ | .tlbWrite _ _
  | .tlbRead _ _ | .tlbInval _ _ | .tlbCmdDrain _ | .bar2mapWrite _ _ | .hostBar2Access _ | .hostAtomicop _
  | .islandMaxWrite _ _ | .powerManagerTick | .hitalBoot _ | .keyRollover _ _ | .heatStart | .heatDurEnd
  | .flitReceive _ _ | .ackTimer _ | .ackReceive _ _ | .resendTimeout _ | .lossOfLightDetect _ _
  | .laneReceive _ _ | .wavelengthRejoin _ _ | .linkDownTimeout _ | .keyRetireReceive _ _
  | .peerIncarnationChange _ _ | .flitSend _ | .laserFault _ | .hostLinkDown | .bar2Resize _ => ⟨.always, false, false, false, []⟩

/-- All targets of the instruction at index n: c.fan also names the left slot of n+1 (R54). An index of 64 or more is out of range in every
pitch, and 126 stands for all those that seven bits do not hold. -/
def outsAt (n : Nat) (i : Instr) : List Target :=
  match i with
  | .cFan _ => (slotsOf i).outs ++ [⟨.left, BitVec.ofNat 7 (min (n + 1) 126)⟩]
  | _ => (slotsOf i).outs

/-- What a reference mark may do at an operand slot (R139): none but plain tokens; a marked token or scalar 0;
either kind; or a token that is passed on with its mark. -/
inductive MarkRule where
  | plain | ref | either | pass
  deriving DecidableEq, Repr

/-- The mark rules of the left and right slots; every other slot takes plain tokens, but for the third slot of sel. -/
def markRules : Instr → MarkRule × MarkRule
  | .cMov _ | .cFan _ => (.pass, .plain)
  | .sel _ => (.plain, .pass)
  | .ldk _ | .stk _ => (.ref, .plain)
  | .stref _ => (.either, .ref)
  | .ldref _ | .ldrefH _ => (.either, .plain)
  | .pin _ | .unpin _ | .hpRelocate _ => (.ref, .plain)
  | .refeq _ => (.ref, .ref)
  | _ => (.plain, .plain)

/-- A token obeys a mark rule (R139). -/
def markOk (r : MarkRule) (t : Token) : Bool :=
  match r with
  | .plain => !t.ref
  | .ref => t.ref || (t.kind == .scalar && t.val == 0)
  | .either => true
  | .pass => true

/-- Whether an LSID belongs to the store mask (stores, atomics) or not (loads, fence, waitv) (R47). -/
inductive LsKind where
  | load | store
  deriving DecidableEq, Repr

/-- The LSID an instruction takes (R47). -/
def lsidOf : Instr → Option (Nat × LsKind)
  | .ld o | .lds o | .ldg o | .ldff o | .ldgff o | .ldb o | .ldk o => some (o.lsid.toNat, .load)
  | .ldx o | .ldm o | .ldref o | .ldrefH o | .waitv o => some (o.lsid.toNat, .load)
  | .lda o => some (o.lsid.toNat, .load)
  | .fence o => some (o.lsid.toNat, .load)
  | .st o | .sts o | .stg o | .stk o => some (o.lsid.toNat, .store)
  | .stx o | .stm o | .stref o => some (o.lsid.toNat, .store)
  | .stl o => some (o.lsid.toNat, .store)
  | .amoAdd o | .amoAnd o | .amoOr o | .amoXor o | .amoMin o | .amoMax o | .amoSwap o | .amoCas o =>
    some (o.lsid.toNat, .store)
  | _ => none

/-- The ordering class of an access (R121). -/
def classOf : Instr → Nat
  | .ld o | .lds o | .ldg o | .ldff o | .ldgff o | .ldb o | .ldk o => o.cls.toNat
  | .ldx o | .ldm o | .ldref o | .ldrefH o | .waitv o => o.cls.toNat
  | .st o | .sts o | .stg o | .stk o => o.cls.toNat
  | .stx o | .stm o | .stref o => o.cls.toNat
  | _ => 15

/-- The stores of R129, which a later load of the pitch waits for (R25). -/
def isStore : Instr → Bool
  | .st _ | .sts _ | .stg _ | .stk _ | .stx _ | .stm _ | .stref _ | .stl _ => true
  | _ => false

/-- The loads, which are sent in LSID order (R122). -/
def isLoad : Instr → Bool
  | .ld _ | .lds _ | .ldg _ | .ldff _ | .ldgff _ | .ldb _ | .ldk _ | .ldx _ | .ldm _ | .ldref _ | .ldrefH _
  | .waitv _ | .lda _ => true
  | _ => false

/-- The exits (R145). -/
def isExit : Instr → Bool
  | .br _ | .brCall _ | .brInd _ | .brRet _ | .brStrip _ | .brEs _ | .loop _ | .loopc _ | .loopw _ | .yield _
  | .rtp _ | .fin _ => true
  | _ => false

/-- The matrix instructions, applied in index order (R190, R191). -/
def isMatrix : Instr → Bool
  | .tz _ | .opa _ | .mvvt _ | .mvtv _ | .ldt _ | .stt _ | .scld _ | .gemmT _ | .gemmTPair _ | .cholT _ | .trsmT _
  | .syrkT _ | .qrT _ => true
  | _ => false

/-- Tile windows an encoding names, each with whether it names a pair (R9, R198). -/
def tilesNamed : Instr → List (Nat × Bool)
  | .tz o | .ldt o | .stt o => [(o.td.toNat, o.pair)]
  | .mvvt o | .mvtv o => [(o.td.toNat, o.pair)]
  | .opa o => [(o.td.toNat, false)]
  | .gemmT o | .gemmTPair o => [(o.td.toNat, false)]
  | .cholT o => [(o.td.toNat, true)]
  | .trsmT o | .syrkT o | .qrT o => [(o.td.toNat, true), (o.ts.toNat, true)]
  | _ => []

/-- Indices an instruction takes (R42). -/
def indexCount (i : Instr) : Nat := if (slotsOf i).t then 2 else 1

end Sys2Proof.Machine
end

