-- ==== Sys2Proof/Machine/PitchDecode.lean ====
section
/-!
DEFINITION. Sys2Proof/Machine/PitchDecode.lean: a pitch as the strand fetches and decodes it: fetch lines (R35 to R37), the
header (R39 to R41), the instructions and their indices (R42), and the checks of R58 in their order.
-/

namespace Sys2Proof.Machine

/-- What decoding needs to know of the strand: its mode, how many tiles it has reserved (R8, R13), and memory as it stood at its launch
(R38). -/
structure DecMode where
  user  : Bool
  tiles : Nat
  old   : List Host.Cell
  deriving DecidableEq, Repr

/-- A fault found in decoding: `recov` only for the fetch traps of R37. -/
def decFault (c : Cause) (detail : Nat) (fa : Word) (idx : Option Nat := none) : FaultRec :=
  ⟨c, fa, detail, none, idx, false⟩

/-- One fetch line: its address, line parcel and 63 further parcels (R35). -/
structure Line where
  addr : Word
  head : Parcel
  body : List Parcel
  deriving DecidableEq, Repr

/-- Parcels from bytes, each little-endian (R34). -/
def parcelsOf : List Byte → List Parcel
  | a :: b :: bs => (b ++ a) :: parcelsOf bs
  | _ => []

/-- PS, LAST, NP, LINE and the reserved bits of a line parcel (R35). -/
def Line.ps (l : Line) : Bool := l.head.getLsbD 15
def Line.last (l : Line) : Bool := l.head.getLsbD 14
def Line.np (l : Line) : Nat := natBits l.head.toNat 8 6
def Line.pos (l : Line) : Nat := natBits l.head.toNat 5 3
def Line.resv (l : Line) : Nat := natBits l.head.toNat 0 5

/-- The image of line `i` of a pitch that a fetch returns (R38): a line that has changed since the launch has its old or its new image,
each whole, and which is free. -/
def State.lineImage (s : State) (m : DecMode) (i key : Nat) : List Byte :=
  let old := memReadN m.old key 128
  let new := memReadN s.mem key 128
  if old = new then new else if Config.freeBool (s.free + i) then old else new

/-- Fetch the line at `a`, the pitch's `i`th, whole: EX and RD, with USR in user mode (R37, R38, R385). -/
def State.fetchLine (s : State) (m : DecMode) (i : Nat) (a : Word) : Except FaultRec Line :=
  match s.xlatePtr a { rd := true, ex := true, usr := m.user } with
  | .error .absent => .error ⟨.transNotPresent, a, 0, none, none, true⟩
  | .error (.denied _) => .error ⟨.protection, a, 0, none, none, true⟩
  | .ok (key, _) =>
    match parcelsOf (s.lineImage m i key) with
    | p :: ps => .ok ⟨a, p, ps⟩
    | [] => .ok ⟨a, 0, []⟩

/-- The address `n` fetch lines after `a`. -/
def lineAt (a : Word) (n : Nat) : Word := (addOffset a (128 * n)).1

/-- Fetch lines until one carries LAST, at most `fuel` of them (R36, R58 step 1). -/
def State.fetchLines (s : State) (m : DecMode) (a : Word) : Nat → Except FaultRec (List Line)
  | 0 => .ok []
  | fuel + 1 => do
    let l ← s.fetchLine m fuel a
    if l.last then .ok [l]
    else
      let ls ← s.fetchLines m (lineAt a 1) fuel
      .ok (l :: ls)

/-- The content parcels of a line, each with its address, the line's address and whether the line is LAST. -/
abbrev Content := List (Word × Word × Bool × Parcel)

/-- Number parcels from an address. -/
def numberParcels (line : Word) (last : Bool) : Word → List Parcel → Content
  | _, [] => []
  | a, p :: ps => (a, line, last, p) :: numberParcels line last (a + 2) ps

/-- The checks of one line at its position (R36). -/
def checkLine (pos : Nat) (l : Line) : Except FaultRec Unit :=
  if l.pos ≠ pos ∨ l.np = 0 ∨ l.resv ≠ 0 ∨ (pos ≠ 0 ∧ l.ps) ∨ (l.body.drop l.np).any (· ≠ 0) then
    .error (decFault .lineFormat 0 l.addr)
  else .ok ()

/-- The checks of all lines in order, and their content. -/
def checkLines : Nat → List Line → Except FaultRec Content
  | _, [] => .ok []
  | pos, l :: ls => do
    checkLine pos l
    let rest ← checkLines (pos + 1) ls
    .ok (numberParcels l.addr l.last (l.addr + 2) (l.body.take l.np) ++ rest)

/-- One header word: the word, its address and the content after it (R36). -/
def headerWord (hfa : Word) : Content → Except FaultRec (BitVec 32 × Word × Content)
  | (a, la, last, p) :: (b, lb, l2, q) :: rest =>
    if la = lb then .ok (p ++ q, a, rest)
    else if last then .error (decFault .headerFormat 0 hfa)
    else .error (decFault .lineFormat 0 la)
  | [(_, la, last, _)] => if last then .error (decFault .headerFormat 0 hfa) else .error (decFault .lineFormat 0 la)
  | [] => .error (decFault .headerFormat 0 hfa)

/-- A target's index is in the range of its kind (R44). -/
def targetInRange (icnt wcnt : Nat) (t : Target) : Bool :=
  match t.kind with
  | .write => t.index.toNat < wcnt || t.index = 127
  | _ => t.index.toNat < icnt

/-- The first failing range check among targets. -/
def checkRanges (icnt wcnt : Nat) (idx : Option Nat) : List (Target × Word) → Except FaultRec Unit
  | [] => .ok ()
  | (t, fa) :: ts =>
    if targetInRange icnt wcnt t then checkRanges icnt wcnt idx ts
    else .error (decFault .targetInvalid t.enc.toNat fa idx)

/-- The read map (R40). -/
def readMap (hfa : Word) (icnt wcnt : Nat) : Nat → Content →
    Except FaultRec (List (Nat × Target × Target × Word) × Content)
  | 0, c => .ok ([], c)
  | n + 1, c => do
    let (w, a, c1) ← headerWord hfa c
    let reg := natBits w.toNat 18 7
    let t1 := decTarget (fld w 9 9)
    let t0 := decTarget (fld w 0 9)
    if natBits w.toNat 25 7 ≠ 0 then .error (decFault .headerFormat 0 hfa)
    else if 96 ≤ reg then .error (decFault .regIdInvalid reg hfa)
    else
      checkRanges icnt wcnt none [(t0, a), (t1, a)]
      let (rest, c2) ← readMap hfa icnt wcnt n c1
      .ok ((reg, t0, t1, a) :: rest, c2)

/-- The entries of one write-map word, first entry in the high byte (R41). -/
def writeEntries (w : BitVec 32) : List Nat := [natBits w.toNat 24 8, natBits w.toNat 16 8, natBits w.toNat 8 8, natBits w.toNat 0 8]

/-- Check write-map entries in order: `seen` are the registers named before (R8, R22, R41). -/
def checkEntries (hfa : Word) (tiles : Nat) : Nat → List Nat → List Nat → Except FaultRec (List Nat)
  | _, seen, [] => .ok seen
  | 0, seen, e :: es => if e ≠ 0 then .error (decFault .headerFormat 0 hfa) else checkEntries hfa tiles 0 seen es
  | n + 1, seen, e :: es =>
    if 128 ≤ e then .error (decFault .headerFormat 0 hfa)
    else if 104 ≤ e ∨ (96 ≤ e ∧ tiles ≤ e - 96) then .error (decFault .regIdInvalid e hfa)
    else if e ≠ 0 ∧ e ≠ 64 ∧ seen.contains e then .error (decFault .writeMapAlias e hfa)
    else checkEntries hfa tiles n (seen ++ [e]) es

/-- The write map: `n` words carrying `wcnt` entries. -/
def writeMap (hfa : Word) (tiles wcnt : Nat) : Nat → List Nat → Content → Except FaultRec (List Nat × Content)
  | 0, seen, c => .ok (seen, c)
  | n + 1, seen, c => do
    let (w, _, c1) ← headerWord hfa c
    let seen' ← checkEntries hfa tiles (wcnt - seen.length) seen (writeEntries w)
    writeMap hfa tiles wcnt n seen' c1

/-- A CSR number of the table of R10. -/
def csrKnown (n : Nat) : Bool :=
  n ≤ 3 || (0x10 ≤ n && n ≤ 0x15) || (0x18 ≤ n && n ≤ 0x1D) || (0x20 ≤ n && n ≤ 0x25) || (0x28 ≤ n && n ≤ 0x2D)
    || (0x30 ≤ n && n ≤ 0x34) || n = 0x40 || (0x50 ≤ n && n ≤ 0x52) || (0x60 ≤ n && n ≤ 0x62)

/-- A CSR that no csrw of the mode may write (R10, R13). -/
def csrReadOnly (user : Bool) (n : Nat) : Bool :=
  n = 2 || (0x30 ≤ n && n ≤ 0x32) || n = 0x40 || n = 0x61 || n = 0x62 || (n = 0x60 && user)

/-- The address `d` fetch lines from pc, formed on bits [59:0]; `none` on a carry into bits [63:60] (R48). -/
def offTarget (pc : Word) (d : Int) : Option Word :=
  let v : Int := (natBits pc.toNat 0 60 : Int) + 128 * d
  if 0 ≤ v ∧ v < ((2 ^ 60 : Nat) : Int) then some (setField pc 0 60 v.toNat) else none

/-- The signed line offset an instruction holds (R48). -/
def lineOffset : Instr → Option Int
  | .br o | .brCall o | .brEs o => some o.off.toInt
  | .brStrip o | .setrecov o => some o.off.toInt
  | .loop o => some o.off.toInt
  | .loopc o | .loopw o => some o.off.toInt
  | _ => none

/-- The checks of an instruction's fields that need the strand: CSR access, branch carry and tile windows. R58 does not place them: the model
makes them after the scope and before the target ranges (DESIGN CHOICE, log 115). -/
def checkContext (m : DecMode) (pc hfa fa : Word) (idx : Nat) (i : Instr) : Except FaultRec Unit :=
  let csr (n : Nat) (bad : Bool) : Except FaultRec Unit :=
    if bad then .error (decFault .csrInvalid n fa (some idx)) else .ok ()
  let tile (t : Nat × Bool) : Option Nat :=
    if m.tiles ≤ t.1 ∨ (t.2 ∧ t.1 % 2 = 1) then some (96 + t.1)
    else if t.2 ∧ m.tiles ≤ t.1 + 1 then some (97 + t.1) else none
  match i with
  | .csrr o => csr o.csr.toNat (!csrKnown o.csr.toNat)
  | .csrw o => csr o.csr.toNat (!csrKnown o.csr.toNat || csrReadOnly m.user o.csr.toNat)
  | _ =>
    match (tilesNamed i).findSome? tile with
    | some reg => .error (decFault .regIdInvalid reg hfa (some idx))
    | none =>
      match lineOffset i with
      | some d => if (offTarget pc d).isNone then .error (decFault .branchTarget 0 fa (some idx)) else .ok ()
      | none => .ok ()

/-- The targets of an instruction with the address of the parcel that holds each: T0 and T1 stand in the base word,
T2 and T3 in the prefix word (R53). -/
def targetsAt (n : Nat) (base : Word) (i : Instr) : List (Target × Word) :=
  let fan := match i with | .cFan _ => 0 | _ => if (outsAt n i).length > 2 then 2 else 0
  let os := outsAt n i
  let k := os.length - fan
  (os.take k).map (fun t => (t, base)) ++ (os.drop k).map (fun t => (t, base - 4))

/-- A decoded instruction: its index, the address of its base word's first parcel, the instruction and its parcels. -/
abbrev Coded := Nat × Word × Instr × List Parcel

/-- The instructions of the pitch in stream order (R42, R58 step 6), and the index count; within one instruction the checks of `checkContext`
come before the target ranges (log 115). -/
def decodeStream (m : DecMode) (pc hfa : Word) (icnt wcnt : Nat) : Nat → Nat → Content → Except FaultRec (List Coded × Nat)
  | 0, n, _ => .ok ([], n)
  | _ + 1, n, [] => .ok ([], n)
  | fuel + 1, n, (a, la, l, p) :: c => do
    let ps := ((p :: (c.takeWhile (fun x => x.2.1 = la)).map (fun x => x.2.2.2))).take 4
    match decInstr ps with
    | .error e =>
      .error (decFault e.cause e.detail (if e.cause = .lineFormat then la else a + BitVec.ofNat 64 (2 * e.at_))
        (if e.cause = .lineFormat then none else some n))
    | .ok (i, len) =>
      let base := if len = 4 then a + 4 else a
      checkContext m pc hfa base n i
      checkRanges icnt wcnt (some n) (targetsAt n base i)
      (match i with
        | .cFan _ => if n = 63 then .error (decFault .targetInvalid 64 base (some n)) else .ok ()
        | _ => .ok ())
      let (rest, total) ← decodeStream m pc hfa icnt wcnt fuel (n + indexCount i) (c.drop (len - 1))
      .ok ((n, base, i, ps.take len) :: rest, total)

/-- The slot of a target is one that the receiving instruction uses (R44). -/
def slotUsed (code : List Coded) (t : Target) : Bool :=
  code.any (fun (n, _, i, _) =>
    let sl := slotsOf i
    if t.index.toNat = n then
      (match t.kind with
        | .left => sl.l
        | .right => sl.r
        | .pred => sl.pm != .always
        | .write => true)
    else t.index.toNat = n + 1 && sl.t && t.kind == .left)

/-- The checks of R44 that depend on the receiver, for one list of targets. -/
def checkReceivers (code : List Coded) (own : Nat → Bool) (idx : Option Nat) : List (Target × Word) → Except FaultRec Unit
  | [] => .ok ()
  | (t, fa) :: ts =>
    if t.kind = .write ∨ (slotUsed code t ∧ !own t.index.toNat) then checkReceivers code own idx ts
    else .error (decFault .targetInvalid t.enc.toNat fa idx)

/-- Step 8 of R58 for the instructions, in stream order. -/
def checkSenders (code : List Coded) : List Coded → Except FaultRec Unit
  | [] => .ok ()
  | (n, base, i, _) :: rest => do
    checkReceivers code (fun k => k = n || (k = n + 1 && (slotsOf i).t)) (some n) (targetsAt n base i)
    checkSenders code rest

/-- The LSID rules of R47 for each instruction: `seen` are the LSIDs taken before. -/
def checkLsids (smask : BitVec 32) : List Nat → List Coded → Except FaultRec (List Nat)
  | seen, [] => .ok seen
  | seen, (n, base, i, _) :: rest =>
    match lsidOf i with
    | none => checkLsids smask seen rest
    | some (l, k) =>
      if k = .store ∧ !smask.getLsbD l then .error (decFault .undeclaredSlot l base (some n))
      else if (k = .load ∧ smask.getLsbD l) ∨ seen.contains l then .error (decFault .lsidConflict l base (some n))
      else checkLsids smask (l :: seen) rest

/-- A decoded pitch. -/
structure Pitch where
  lines : Nat
  hdr   : Header
  code  : List Coded
  deriving DecidableEq, Repr

/-- Steps 1 to 3 of R58: the entry rule, the lines and header words 0 and 1. `rmap` and `wmap` are empty here. Where no rule orders two
checks, the model makes SPACE_INVALID before BRANCH_TARGET, PS = 0 before the LINE_FORMAT checks, and HEADER_FORMAT before PITCH_LIMIT
(DESIGN CHOICE, log 115). -/
def State.decodeHead (s : State) (m : DecMode) (pc : Word) : Except FaultRec (Nat × Header × Content × Word × Nat × Nat) := do
  let hfa := pc + 2
  if spaceOf pc ≠ 0 ∨ (globalOwner pc).isNone then .error (decFault .spaceInvalid 0 pc)
  else if natBits pc.toNat 0 7 ≠ 0 then .error (decFault .branchTarget 0 pc)
  else
    let ls ← s.fetchLines m pc 8
    (match ls with
      | l :: _ => if l.ps then .ok () else .error (decFault .branchTarget 0 pc)
      | [] => .ok ())
    let c0 ← checkLines 0 ls
    if !(ls.any (·.last)) then .error (decFault .pitchLimit 0 hfa)
    else
      let (w0, _, c1) ← headerWord hfa c0
      let n := w0.toNat
      let icnt := natBits n 23 7
      let rcnt := natBits n 17 6
      let wcnt := natBits n 11 6
      let lkind := natBits n 9 2
      let llvl := natBits n 6 3
      if natBits n 30 2 ≠ 1 ∨ natBits n 0 5 ≠ 0 ∨ lkind = 3 ∨ 6 ≤ llvl ∨ (lkind = 0 ∧ llvl ≠ 0) then
        .error (decFault .headerFormat 0 hfa)
      else if icnt = 0 ∨ 64 < icnt ∨ 32 < rcnt ∨ 32 < wcnt then .error (decFault .pitchLimit 0 hfa)
      else
        let (w1, a1, c2) ← headerWord hfa c1
        .ok (ls.length, ⟨icnt, rcnt, wcnt, lkind, llvl, natBit n 5 = 1, w1, [], []⟩, c2, a1, rcnt, wcnt)

/-- Steps 4 to 9 of R58. -/
def decodeRest (m : DecMode) (pc : Word) (lines : Nat) (h : Header) (c : Content) (smaskAt : Word) : Except FaultRec Pitch := do
  let hfa := pc + 2
  let (rm, c1) ← readMap hfa h.icnt h.wcnt h.rcnt c
  let (wm, c2) ← writeMap hfa m.tiles h.wcnt (ceilDiv h.wcnt 4) [] c1
  let (code, total) ← decodeStream m pc hfa h.icnt h.wcnt 512 0 c2
  if total ≠ h.icnt then .error (decFault .pitchCount total pc)
  else
    checkReceivers code (fun _ => false) none (rm.flatMap (fun r => [(r.2.1, r.2.2.2), (r.2.2.1, r.2.2.2)]))
    checkSenders code code
    let seen ← checkLsids h.smask [] code
    match (List.range 32).find? (fun l => h.smask.getLsbD l && !(code.any (fun x => lsidOf x.2.2.1 = some (l, .store)))) with
    | some l => .error (decFault .lsidConflict l smaskAt)
    | none => .ok ⟨lines, { h with rmap := rm.map (fun r => (r.1, r.2.1, r.2.2.1)), wmap := wm }, code⟩

/-- Decode the pitch at `pc` completely (R56, R58). -/
def State.decodePitch (s : State) (m : DecMode) (pc : Word) : Except FaultRec Pitch := do
  let (lines, h, c, a1, _, _) ← s.decodeHead m pc
  decodeRest m pc lines h c a1

end Sys2Proof.Machine
end

