-- ==== Sys2Proof/Machine/Ops.lean ====
section
/-!
DEFINITION. Sys2Proof/Machine/Ops.lean: the shared operations of a strand. Registers and tokens (R7, R18, R21), the firing
of an instruction and the delivery of its token (R19, R20), requests in flight and their order (R121, R122), loads,
probes and buffered effects (R25, R26), the fault registers (R166), taking an exception (R169, R173) and the return
from one (R171).
-/

namespace Sys2Proof.Machine

/-! ### Units -/

/-- The context with an id. -/
def State.ctx? (s : State) (c : Nat) : Option Ctx := s.ctxs.find? (fun x => x.id = c)

/-- Replace a context. -/
def State.setCtx (s : State) (x : Ctx) : State := { s with ctxs := s.ctxs.map (fun y => if y.id = x.id then x else y) }

/-- A core by its linear number. -/
def State.core (s : State) (n : Nat) : CoreSt := ((s.cores.find? (fun t => t.1 = n)).map (·.2)).getD CoreSt.reset

/-- Replace a core. -/
def State.setCore (s : State) (n : Nat) (k : CoreSt) : State :=
  { s with cores := (n, k) :: s.cores.filter (fun u => u.1 ≠ n) }

/-- A die's registers. -/
def State.die (s : State) (d : Nat) : DieRegs := ((s.dies.find? (fun t => t.1 = d)).map (·.2)).getD DieRegs.reset

/-- Replace a die's registers. -/
def State.setDie (s : State) (d : Nat) (r : DieRegs) : State :=
  { s with dies := (d, r) :: s.dies.filter (fun u => u.1 ≠ d) }

/-- C-die, cluster of the chip and home group of a linear core (R97, R266). -/
def dieOf (core : Nat) : Nat := core / 64
def clusterOf (core : Nat) : Nat := core / 16
def homeOf (core : Nat) : Nat := 8 + core / 128

/-- The die that homes a key of memory (R262). -/
def homeDie (key : Nat) : Nat := if key < 2 ^ 40 then 8 + key / 2 ^ 37 else if key < 2 ^ 61 then dieOf ((key - 2 ^ 40) / 2 ^ 19) else 12

/-- A place is homed on a die that is FENCED (R378). -/
def State.fenced (s : State) (p : Place) : Bool := p.peer.isNone && (s.die (homeDie p.key)).dstate = 2

/-- sid (R13). -/
def sidOf (x : Ctx) : Nat := x.core * 64 + x.slot * 8

/-! ### Registers -/

/-- The value of an element of a width at each of `n` places. -/
def replicateElem (w v : Nat) : Nat → Nat
  | 0 => 0
  | n + 1 => replicateElem w v n * 2 ^ w + v % 2 ^ w

/-- Bits of the first `n` elements of width `w` for which `keep` holds. -/
def elemMask (w : Nat) (keep : Nat → Bool) : Nat → Nat
  | 0 => 0
  | n + 1 => elemMask w keep n + (if keep n then (2 ^ w - 1) * 2 ^ (w * n) else 0)

/-- Merge the non-null elements of a token into old bits (R18). -/
def mergeElems (old : BitVec 2048) (w n : Nat) (t : Token) : BitVec 2048 :=
  let mask := BitVec.ofNat 2048 (elemMask w (fun e => !t.nullAt e) n)
  let v := if t.kind = .scalar then BitVec.ofNat 2048 (replicateElem w t.bits.toNat n) else t.bits
  (old &&& ~~~mask) ||| (v &&& mask)

/-- The token a read slot delivers for a register (R7, R21): a vector of vl elements of width SEW, a mask of vl bits, a
scalar, or a marked scalar for k0 to k15 (R139). -/
def Ctx.regToken (x : Ctx) (vl lsew reg : Nat) : Token :=
  if reg = 0 then Token.scalar 0
  else if h : reg < 32 then Token.scalar (x.x[reg]).toNat
  else if h : reg - 32 < 32 then ⟨.vec, lsew, BitVec.ofNat 2048 (natBits (x.v[reg - 32]).toNat 0 (vl * 2 ^ lsew)), 0, false⟩
  else if reg = 64 then ⟨.mask, 0, BitVec.ofNat 2048 (2 ^ vl - 1), 0, false⟩
  else if h : reg - 64 < 8 then ⟨.mask, 0, BitVec.ofNat 2048 (natBits (x.m[reg - 64]).toNat 0 vl), 0, false⟩
  else if h : reg - 72 < 8 then Token.scalar (x.d[reg - 72]).toNat
  else if h : reg - 80 < 16 then { Token.scalar (x.k[reg - 80]).toNat with ref := true }
  else Token.nullScalar

/-- A write slot's token reaches its register at the belay (R18): x0 and m0 discard it. -/
def Ctx.writeReg (x : Ctx) (vl lsew reg : Nat) (t : Token) : Ctx :=
  if reg = 0 then x
  else if h : reg < 32 then (if t.isNull then x else { x with x := x.x.set reg t.word })
  else if h : reg - 32 < 32 then
    let w := if t.kind = .scalar then 2 ^ lsew else 2 ^ t.lw
    { x with v := x.v.set (reg - 32) (mergeElems x.v[reg - 32] w vl t) }
  else if reg = 64 then x
  else if h : reg - 64 < 8 then
    { x with m := x.m.set (reg - 64) ((mergeElems ((x.m[reg - 64]).setWidth 2048) 1 vl t).setWidth 256) }
  else if h : reg - 72 < 8 then (if t.isNull then x else { x with d := x.d.set (reg - 72) t.word })
  else if h : reg - 80 < 16 then (if t.isNull then x else { x with k := x.k.set (reg - 80) t.word })
  else x

/-- Apply one register effect (R18, R149). -/
def Ctx.applyWrite (x : Ctx) : RegWrite → Ctx
  | .slot reg t vl lsew => x.writeReg vl lsew reg t
  | .addX reg v => if h : reg < 32 then (if reg = 0 then x else { x with x := x.x.set reg (x.x[reg] + v) }) else x

/-- Apply register effects in order. -/
def Ctx.applyWrites (x : Ctx) (ws : List RegWrite) : Ctx := ws.foldl (fun y w => y.applyWrite w) x

/-- The register that an effect writes. -/
def RegWrite.reg : RegWrite → Nat
  | .slot r _ _ _ => r
  | .addX r _ => r

/-- The registers that a belayed pitch writes. -/
def PendPitch.regs (p : PendPitch) : List Nat := p.wmap ++ p.writes.map (·.reg)

/-- A later pitch's effects are architectural: one that still waits keeps those on its own registers, to be made again after its own
(R27). -/
def PendPitch.overtake (p : PendPitch) (ws : List RegWrite) : PendPitch :=
  { p with later := p.later ++ ws.filter (fun w => p.regs.contains w.reg) }

/-- Belayed pitches whose responses have all returned make their writes architectural, each as it is complete (R27); `waiting` are the
earlier ones that are not. -/
def Ctx.flushAfter (x : Ctx) (waiting : List PendPitch) : List PendPitch → Ctx
  | [] => { x with pend := waiting }
  | p :: ps =>
    if p.awaits.isEmpty then (x.applyWrites (p.writes ++ p.later)).flushAfter (waiting.map (fun q => q.overtake (p.writes ++ p.later))) ps
    else x.flushAfter (waiting ++ [p]) ps

/-- The strand's belayed pitches once complete ones have made their writes architectural (R27). -/
def Ctx.flushPend (x : Ctx) (ps : List PendPitch) : Ctx := x.flushAfter [] ps

/-- Registers that pending pitches of the strand will write (R27). -/
def Ctx.pendingRegs (x : Ctx) : List Nat :=
  x.pend.flatMap (·.regs)

/-- The strand values as a pitch starts (R92, R167). -/
def Ctx.startImage (x : Ctx) : Image :=
  { sb := x.sb, sn := x.sn, vl := x.vl, sc := x.sc, sl := x.sl, fr := x.fr, fx := x.fx, fe := x.fe
    lp := x.lp, lm := x.lm, ls := x.ls, lc := x.lc, d := x.d, sid := sidOf x }

/-! ### Requests in flight -/

/-- The epoch of the core that issues a request (R180). -/
def State.srcEpoch (s : State) : Src → Nat
  | .ctx c => ((s.ctx? c).map (fun x => (s.core x.core).epoch)).getD 0
  | _ => 0

/-- Put a request in flight, as one of the group of requests of an instruction whose first request is `grp`. -/
def State.sendIn (s : State) (grp : Nat) (src : Src) (cls : Nat) (b : Body) : State :=
  { s with net := s.net ++ [⟨s.nextId, src, cls, b, none, grp, s.srcEpoch src, none⟩], nextId := s.nextId + 1 }

/-- Put a request in flight. -/
def State.send (s : State) (src : Src) (cls : Nat) (b : Body) : State := s.sendIn s.nextId src cls b

/-- Put the requests of one instruction in flight. -/
def State.sendAll (s : State) (src : Src) (cls : Nat) (bs : List Body) : State :=
  bs.foldl (fun t b => t.sendIn s.nextId src cls b) s

/-- A request that reads only. -/
def Body.isLoad : Body → Bool
  | .load .. | .refLoad .. | .watch .. | .opRead .. => true
  | _ => false

/-- A request that stands in the list only to order others. -/
def Body.isFence : Body → Bool
  | .fence _ _ => true
  | _ => false

/-- The bytes a request touches, where its place is fixed (R117, R126). -/
def Body.bytes : Body → Option (List (Option Nat × Nat × Nat))
  | .load _ _ els _ p _ _ _ => some (els.map (fun t => (p.peer, p.key + t.off, t.n)))
  | .watch _ _ p _ _ _ => some [(p.peer, p.key, 8)]
  | .store p d _ _ => some [(p.peer, p.key, d.length)]
  | .atomic _ _ w p _ _ _ _ _ => some [(p.peer, p.key, w)]
  | .heal _ viaRef _ p _ _ _ => if viaRef then none else some [(p.peer, p.key, 8)]
  | .done p _ fut _ _ _ => some [(p.peer, p.key, if fut then 16 else 8)]
  | _ => none

/-- Two runs of bytes meet. -/
def bytesMeet (a b : Option Nat × Nat × Nat) : Bool :=
  a.1 = b.1 && decide (a.2.1 < b.2.1 + b.2.2) && decide (b.2.1 < a.2.1 + a.2.2)

/-- Some of the runs of two lists meet. -/
def runsMeet (l m : List (Option Nat × Nat × Nat)) : Bool := l.any (fun a => m.any (bytesMeet a))

/-- Two requests touch a common byte; one whose place is not fixed is taken to overlap every other. -/
def overlaps (a b : Body) : Bool :=
  match a.bytes, b.bytes with
  | some l, some m => runsMeet l m
  | _, _ => true

/-- Related accesses of one strand (R121). -/
def related (a b : Msg) : Bool := a.cls = b.cls || a.cls = 15 || b.cls = 15 || overlaps a.body b.body

/-- A neighbour query is ordered with no memory access (R322). -/
def Body.unordered : Body → Bool
  | .opRead .. => true
  | _ => false

/-- A request to a unit that is ordered after the strand's earlier accesses and orders nothing after it (R27): all but the
heap operations, which are class-15 accesses (R344). -/
def Body.posted : Body → Bool
  | .cmd _ | .router .. | .signal .. | .post .. | .trigger .. => true
  | .op (.pin _) _ | .op (.unpin _) _ | .op (.refeq ..) _ | .op (.hpMake ..) _ => false
  | .op .. => true
  | _ => false

/-- A store through a reference: the elements of one have their own bytes. -/
def Body.isRefStore : Body → Bool
  | .refStore .. => true
  | _ => false

/-- The earlier request `a` of a strand must perform before `b` (R121). The requests of one instruction have an order only where both
do not load and they share a byte (R117, R128, R136). -/
def mustPrecede (a b : Msg) : Bool :=
  !a.body.isFence && !b.body.isFence && !a.body.posted && !a.body.unordered && !b.body.unordered
    && (if a.grp = b.grp then !(a.body.isLoad && b.body.isLoad) && !a.body.isRefStore && overlaps a.body b.body
      else related a b && !(!a.body.isLoad && b.body.isLoad && !overlaps a.body b.body))

/-- A class falls within a fence's mask; class 15 falls within every mask but the empty one (R133). -/
def inMask (mask : BitVec 16) (cls : Nat) : Bool := mask != 0 && (cls = 15 || mask.getLsbD cls)

/-- An access that a fence's mask takes in (R133). -/
def Msg.masked (m : Msg) (mask : BitVec 16) : Bool := !m.body.isFence && !m.body.posted && !m.body.unordered && inMask mask m.cls

/-- The requests of a strand ahead of one that have not performed. -/
def ownAhead (before : List Msg) (m : Msg) : List Msg := before.filter (fun a => a.src = m.src && a.resp.isNone)

/-- The scope that an access names as an acquire, a release or an atomic (R132, R136, R269). -/
def Body.scopes : Body → List Scope
  | .load _ _ _ _ _ _ _ (some sc) => [sc]
  | .store _ _ (some sc) _ => [sc]
  | .atomic _ _ _ _ _ _ sc _ _ => [sc]
  | _ => []

/-- The order of `a` before `b` holds toward every agent (R263): they share a class below 15 or a byte, or one of them is of
class 15 and names no scope. -/
def precedesAll (a b : Msg) : Bool :=
  mustPrecede a b && (a.grp = b.grp || (a.cls = b.cls && a.cls ≠ 15) || overlaps a.body b.body
    || (a.cls = 15 && a.body.scopes.isEmpty) || (b.cls = 15 && b.body.scopes.isEmpty))

/-- The requests that a strand's request waits for only toward the agents of some scopes' instances, with those scopes (R263): class 15
orders the two, or a fence between them does (R133). A fence itself waits for the accesses that it takes in. -/
def scopedBefore (before : List Msg) (m : Msg) : List (Nat × List Scope) :=
  let own := ownAhead before m
  match m.body with
  | .fence sc mask => (own.filter (fun a => a.masked mask)).map (fun a => (a.id, [sc]))
  | _ =>
    (own.filter (fun a => mustPrecede a m && !precedesAll a m)).map (fun a => (a.id, a.body.scopes ++ m.body.scopes))
      ++ own.flatMap (fun f => match f.body with
        | .fence sc mask =>
          if inMask mask m.cls && !m.body.unordered then
            ((own.takeWhile (fun a => a.id ≠ f.id)).filter (fun a => a.masked mask)).map (fun a => (a.id, [sc]))
          else []
        | _ => [])

/-- Some request of the strand that has not performed must perform before `m`, toward every agent (R121) or only toward some (R263). -/
def blockedBy (before : List Msg) (m : Msg) : Bool := (ownAhead before m).any (fun a => precedesAll a m) || !(scopedBefore before m).isEmpty

/-- The requests ahead of one in the list. -/
def State.ahead (s : State) (id : Nat) : List Msg := s.net.takeWhile (fun a => a.id ≠ id)

/-- The request with an id. -/
def State.msg? (s : State) (id : Nat) : Option Msg := s.net.find? (fun a => a.id = id)

/-- What tells the launch of one strand from another's: its nest's launch, or its card's run (R236). -/
def Ctx.launchKey (x : Ctx) : Nat :=
  match x.job with
  | .nest l _ => l
  | .card c => c
  | .none => 2 ^ 64 + x.id

/-! ### Scopes -/

/-- Scope S1 lies below scope S2, or is S2: every instance of S1 lies within one instance of S2 (R267). -/
def Scope.below (a b : Scope) : Bool :=
  let line (s : Scope) : Option Nat := match s with
    | .crew => some 0 | .cluster => some 1 | .rope => some 2 | .die => some 3 | .home => some 4 | .package => some 5 | _ => none
  a = b || a = .strand || b = .system || (match line a, line b with | some i, some j => decide (i ≤ j) | _, _ => false)
    || ((a = .engine || (line a).isSome) && (b = .package || b = .host || b = .group || b = .fabric))
    || (a = .group && b = .fabric)

/-- The C-die or M-die lies in the home group of a core (R266): M-die 8 + j and C-dies 2j and 2j + 1. -/
def inHomeGroup (core die : Nat) : Bool := die = homeOf core || die = 2 * (homeOf core - 8) || die = 2 * (homeOf core - 8) + 1

/-- The agent lies in the instance of a scope that holds a strand (R266). -/
def Scope.holds (sc : Scope) (chip ctx core launch : Nat) (a : Agent) : Bool :=
  match a with
  | .strand c k l =>
    (match sc with
    | .strand | .engine => c = ctx
    | .crew => l = launch && k = core
    | .cluster => clusterOf k = clusterOf core
    | .rope => clusterOf k / 2 = clusterOf core / 2
    | .die => dieOf k = dieOf core
    | .home => homeOf k = homeOf core
    | _ => true)
  | .engine d c =>
    (match sc with
    | .strand | .crew | .cluster | .rope | .die => false
    | .engine => c = some ctx
    | .home => inHomeGroup core d
    | _ => true)
  | .unit d =>
    (match sc with
    | .strand | .engine | .crew | .cluster | .rope => false
    | .die => d = dieOf core
    | .home => inHomeGroup core d
    | _ => true)
  | .host => sc = .host || sc = .system
  | .peer c => sc = .fabric || sc = .system || (sc = .group && natBits c 10 2 = natBits chip 10 2)

/-- The agent that issued a request (R262): those that unit 12 carries for another chip are that chip's. -/
def State.agentOf (s : State) (m : Msg) : Agent :=
  match m.src with
  | .ctx c => .strand c (((s.ctx? c).map (·.core)).getD 0) (((s.ctx? c).map (·.launchKey)).getD 0)
  | .cmd k => (match s.cmds.find? (fun c => c.id = k) with | some c => .engine c.mdie c.ctx | none => .engine 12 none)
  | .host => .host
  | .unit d => match s.fab.served.find? (fun v => v.msg = m.id) with | some v => .peer v.chip | none => .unit d

/-- What an access that has performed early still has to wait for. -/
def State.passedOf (s : State) (e : Early) : List (Nat × List Scope) :=
  e.passed.filter (fun p => s.net.any (fun a => a.id = p.1 && a.resp.isNone))

/-- An agent inside an instance toward which an early access of another strand has not yet performed would reach its bytes: it waits
(R263). Two reads never wait for one another; `none` stands for bytes that are not known. -/
def State.behindEarly (s : State) (a : Agent) (bytes : Option (List (Option Nat × Nat × Nat))) (wr : Bool) : Bool :=
  s.early.any (fun e =>
    (e.wr || wr) && (match a with | .strand c _ _ => c ≠ e.ctx | _ => true)
      && (s.passedOf e).any (fun p => p.2.any (fun sc => Scope.holds sc s.chip e.ctx e.core e.launch a))
      && (match bytes with | some l => runsMeet e.bytes l | none => true))

/-- What the early accesses of a strand still keep its later requests waiting for. -/
def State.earlyPassed (s : State) (m : Msg) : List (Nat × List Scope) :=
  match m.src with
  | .ctx c => (s.early.filter (fun e => e.ctx = c && decide (e.id < m.id))).flatMap s.passedOf
  | _ => []

/-- A request that may perform now: nothing of its strand that must come before it is outstanding; the host's perform in the order it
sent them (R279). -/
def State.eligible (s : State) (m : Msg) : Bool :=
  m.resp.isNone && (match m.src with
    | .ctx _ => !blockedBy (s.ahead m.id) m && (s.earlyPassed m).isEmpty
    | .host => (s.ahead m.id).all (fun a => a.src ≠ .host)
    | _ => true)

/-- A store, an atomic or a load whose requests ahead order it only toward the agents of some scopes' instances may perform before
them (R263), as long as no other early access keeps one of its strand's requests waiting. -/
def State.mayPass (s : State) (m : Msg) : Bool :=
  m.resp.isNone && (match m.src, m.body with
    | .ctx _, .store .. | .ctx _, .atomic .. | .ctx _, .load .. =>
      let own := ownAhead (s.ahead m.id) m
      own.all (fun a => !precedesAll a m) && !(scopedBefore (s.ahead m.id) m ++ s.earlyPassed m).isEmpty
        && own.all (fun a => !s.behindEarly (s.agentOf a) a.body.bytes (!a.body.isLoad))
    | _, _ => false)

/-- The machine remembers what a request that performs has passed (R263). -/
def State.notePassed (s : State) (m : Msg) : State :=
  match m.src, scopedBefore (s.ahead m.id) m ++ s.earlyPassed m with
  | .ctx c, p :: ps =>
    (match s.ctx? c with
    | some x => { s with early := s.early.filter (fun e => !(s.passedOf e).isEmpty)
        ++ [⟨m.id, c, x.core, x.launchKey, m.body.bytes.getD [], !m.body.isLoad, p :: ps⟩] }
    | none => s)
  | _, _ => s

/-- Replace a request. -/
def State.setMsg (s : State) (m : Msg) : State := { s with net := s.net.map (fun a => if a.id = m.id then m else a) }

/-- Remove a request. -/
def State.dropMsg (s : State) (id : Nat) : State := { s with net := s.net.filter (fun a => a.id ≠ id) }

/-- Give a request its answer. -/
def State.answer (s : State) (m : Msg) (r : Resp) : State := s.setMsg { m with resp := some r }

/-- Overlay the bytes of a store on bytes read from key `a`. -/
def overlayBytes (a : Nat) (k : Nat) (d : List (Byte × Byte)) : Nat → List Byte → List Byte
  | _, [] => []
  | i, b :: bs =>
    let v := if k ≤ a + i then (match d[a + i - k]? with | some (x, m) => (x &&& m) ||| (b &&& ~~~m) | none => b) else b
    v :: overlayBytes a k d (i + 1) bs

/-- Memory as the strand itself reads it: its own stores in flight count as performed (R121, R171). -/
def State.ownRead (s : State) (c : Nat) (key n : Nat) : List Byte :=
  s.net.foldl (fun bs m =>
    if m.src = .ctx c then
      (match m.body with | .store p d _ _ => if p.peer.isNone then overlayBytes key p.key d 0 bs else bs | _ => bs)
    else bs) (memReadN s.mem key n)

/-! ### An execution of a pitch -/

/-- The instruction at an index. -/
def Exec.instr? (ex : Exec) (n : Nat) : Option Instr :=
  match ex.code.find? (fun t => t.1 = n) with
  | some (_, _, ps) => (match decInstr ps with | .ok (i, _) => some i | .error _ => none)
  | none => none

/-- The address of the base word's first parcel at an index. -/
def Exec.parcelAddr (ex : Exec) (n : Nat) : Word :=
  match ex.code.find? (fun t => t.1 = n) with
  | some (_, a, _) => a
  | none => ex.pc

/-- All instructions with their indices. -/
def Exec.instrs (ex : Exec) : List (Nat × Instr) :=
  ex.code.filterMap (fun t => match decInstr t.2.2 with | .ok (i, _) => some (t.1, i) | .error _ => none)

/-- The token in an operand slot. -/
def Exec.slot (ex : Exec) (n : Nat) (k : TKind) : Option Token :=
  (ex.toks.find? (fun t => t.1 = n && t.2.1 = k)).map (fun t => t.2.2)

/-- The instruction at an index has fired, or has raised its fault (R20, R164). -/
def Exec.done (ex : Exec) (n : Nat) : Bool := ex.fired.getLsbD n || ex.faults.any (fun f => f.idx = some n)

/-- The operands of a firing instruction; a slot it does not use reads as scalar 0. -/
structure Operands where
  p : Pred
  l : Token
  r : Token
  t : Token
  deriving DecidableEq, Repr

/-- The operands at an index, when every slot in use holds a token (R20). -/
def Exec.operands (ex : Exec) (n : Nat) (sl : Slots) : Option Operands := do
  let get (used : Bool) (k : Nat) (kind : TKind) : Option Token := if used then ex.slot k kind else some (Token.scalar 0)
  let l ← get sl.l n .left
  let r ← get sl.r n .right
  let t ← get sl.t (n + 1) .left
  match sl.pm with
  | .always => some ⟨none, l, r, t⟩
  | .onTrue => (ex.slot n .pred).map (fun p => ⟨some (true, p), l, r, t⟩)
  | .onFalse => (ex.slot n .pred).map (fun p => ⟨some (false, p), l, r, t⟩)

/-- Record a fault of the execution. -/
def Exec.fault (ex : Exec) (f : FaultRec) : Exec := { ex with faults := ex.faults ++ [f] }

/-- TRANS_NOT_PRESENT and PROTECTION are recoverable (R164). -/
def Cause.recov (c : Cause) : Bool := c = .transNotPresent || c = .protection

/-- An instruction has not fired after all (R164). -/
def Exec.unfire (ex : Exec) (n : Nat) : Exec := { ex with fired := ex.fired &&& ~~~(BitVec.ofNat 64 (2 ^ n)) }

/-- An instruction whose effect is formed again after a return has delivered its token before the trap: a command's es slot, or what
ldref.h read (R28, R140, R171). -/
def Exec.hasDelivered (ex : Exec) (n : Nat) : Bool :=
  ex.resumed.getLsbD n && (ex.esAlloc.any (fun a => a.1 = n) || (match ex.instr? n with | some (.ldrefH _) => true | _ => false))

/-- The instruction at `n` has raised a fault: it has not fired, and a recoverable one marks it TRAPPED (R164, R167). One that is formed
again and has delivered its token before stays fired, so that no token is delivered twice (R172). -/
def Exec.trap (ex : Exec) (n : Nat) (recov : Bool) : Exec :=
  if ex.hasDelivered n then ex
  else { ex.unfire n with trapped := if recov then ex.trapped ||| BitVec.ofNat 64 (2 ^ n) else ex.trapped }

/-- The fault an instruction raises as it fires; fa is pc where the code's row names nothing else (R175). -/
def Exec.raise (ex : Exec) (n : Nat) (r : Raw) : Exec :=
  (ex.trap n (Cause.recov r.cause)).fault ⟨r.cause, r.fa.getD ex.pc, r.detail, r.elem, some n, Cause.recov r.cause⟩

/-- Mark an instruction as fired. -/
def Exec.markFired (ex : Exec) (n : Nat) : Exec := { ex with fired := ex.fired ||| BitVec.ofNat 64 (2 ^ n) }

/-- The instruction that delivered a token that c.mov or c.fan relays: the relays' own producer (R139). -/
def Exec.producer (ex : Exec) : Nat → Nat → Nat
  | 0, n => n
  | fuel + 1, n =>
    match ex.instr? n with
    | some (.cMov _) | some (.cFan _) =>
      match ex.instrs.find? (fun t => (outsAt t.1 t.2).any (fun o => o.kind = .left && o.index.toNat = n)) with
      | some (m, _) => ex.producer fuel m
      | none => n
    | _ => n

/-- Whether a write slot's register takes a token (R18): `none` when it does, or the fault it raises. -/
def slotRefuses (reg : Nat) (t : Token) : Option Raw :=
  if 96 ≤ reg then some tokenKind
  else if 80 ≤ reg then (if t.kind ≠ .scalar then some tokenKind else if t.ref then none else some (Raw.of .refWrite reg))
  else if 72 ≤ reg then (if t.kind = .scalar then none else some tokenKind)
  else if 64 ≤ reg then (if t.kind = .mask then none else some tokenKind)
  else if 32 ≤ reg then (if t.kind = .mask then some tokenKind else none)
  else if t.kind = .scalar then none else some tokenKind

/-- Deliver a token from the instruction at `n` (or from a read slot, `none`) to one target (R16, R18, R20, R44). -/
def Exec.deliver (ex : Exec) (n : Option Nat) (tok : Token) (t : Target) : Exec :=
  let collide : Exec := ex.fault ⟨.tokenCollision, ex.pc, t.enc.toNat, none, n, false⟩
  let k := t.index.toNat
  match t.kind with
  | .write =>
    if k = 127 then ex
    else if ex.wslots.any (fun w => w.1 = k) || ex.reserved.any (fun w => w.1 = k) then collide
    else
      let reg := ex.hdr.wmap.getD k 127
      match slotRefuses reg tok with
      | none => { ex with wslots := ex.wslots ++ [(k, reg, tok)] }
      | some r =>
        let who := if r.cause = .refWrite then n.map (ex.producer 64) else n
        ex.fault ⟨r.cause, ex.pc, r.detail, none, who, false⟩
  | kind =>
    if (ex.slot k kind).isSome then collide else { ex with toks := ex.toks ++ [(k, kind, tok)] }

/-- Reserve the write slots that a response will fill after the belay (R27): the checks of a delivery are made as the
instruction fires, with a token of the kind to come. -/
def Exec.reserve (ex : Exec) (n : Nat) (tok : Token) (outs : List Target) : Exec :=
  outs.foldl (fun e t =>
    let k := t.index.toNat
    if t.kind ≠ .write ∨ k = 127 then e
    else if e.wslots.any (fun w => w.1 = k) || e.reserved.any (fun w => w.1 = k) then
      e.fault ⟨.tokenCollision, e.pc, t.enc.toNat, none, some n, false⟩
    else
      let reg := e.hdr.wmap.getD k 127
      match slotRefuses reg tok with
      | none => { e with reserved := e.reserved ++ [(k, reg, n)] }
      | some r => e.fault ⟨r.cause, e.pc, r.detail, none, some n, false⟩) ex

/-- Deliver a token to all targets of the instruction at `n`. -/
def Exec.deliverAll (ex : Exec) (n : Nat) (tok : Token) (outs : List Target) : Exec :=
  outs.foldl (fun e t => e.deliver (some n) tok t) ex

/-- Draws of the stochastic conversions at lower indices (R76). -/
def Exec.drawsBefore (ex : Exec) (n : Nat) : Nat :=
  let stoch (d : BitVec 3) : Bool := (Desc.ofWord (ex.img.d.getD d.toNat 0)).rm = 5
  (ex.instrs.filter (fun t => decide (t.1 < n) && (match t.2 with
    | .vcvt o | .vcvtb o => stoch o.d
    | _ => false))).length * ex.img.vl

/-- What an instruction at `n` reads beside its tokens (R74, R76, R92). -/
def Exec.env (ex : Exec) (x : Ctx) (n : Nat) : Env :=
  { vl := ex.img.vl, lsew := lsewOf ex.img.sc, sb := ex.img.sb.toNat, sl := ex.img.sl.toNat, fe := ex.img.fe.toNat
    d := ex.img.d, scale := x.scale, draws := ex.drawsBefore n }

/-! ### Firing -/

/-- Where a firing instruction stands. -/
structure Site where
  f  : Firing
  x  : Ctx
  ex : Exec
  deriving DecidableEq, Repr

/-- A read slot of a speculative pitch receives its predecessor's write-slot tokens once they all exist, merged as at a belay, and then the
stride that is predicted (R18, R30, R149). -/
def Ctx.feedRead (x : Ctx) (ex sp : Exec) (k : Nat) : Exec :=
  match sp.hdr.rmap[k]? with
  | none => sp
  | some r =>
    let named := (List.range ex.hdr.wcnt).filter (fun w => ex.hdr.wmap.getD w 127 = r.1)
    let toks := named.filterMap (fun w => (ex.wslots.find? (fun t => t.1 = w)).map (fun t => t.2.2))
    if toks.length ≠ named.length then sp
    else
      let y := (toks.foldl (fun (z : Ctx) t => z.writeReg ex.img.vl (lsewOf ex.img.sc) r.1 t) x).applyWrites sp.adds
      let t := y.regToken sp.img.vl (lsewOf sp.img.sc) r.1
      { ((sp.deliver none t r.2.1).deliver none t r.2.2) with heldReads := sp.heldReads.filter (· ≠ k) }

/-- The speculative pitch of a strand with the read slots that it has received by now (R30). -/
def Ctx.feedSpec (x : Ctx) : Ctx :=
  match x.cur, x.spec with
  | some ex, some sp => { x with spec := some (sp.heldReads.foldl (fun (e : Exec) k => x.feedRead ex e k) sp) }
  | _, _ => x

/-- The site of the instruction that is firing. -/
def State.site (s : State) : Option Site := do
  let f ← s.firing
  let x ← s.ctx? f.c
  let y := if f.spec then x.feedSpec else x
  let ex ← if f.spec then y.spec else y.cur
  some ⟨f, y, ex⟩

/-- Put an execution back into its context. -/
def Site.putCtx (st : Site) (ex : Exec) : Ctx := if st.f.spec then { st.x with spec := some ex } else { st.x with cur := some ex }

/-- Put an execution back into the machine. -/
def Site.put (st : Site) (s : State) (ex : Exec) : State := s.setCtx (st.putCtx ex)

/-- The instruction may fire now: its context is active, it has not fired (or is being formed again after a return), and
its slots are full. -/
def Site.operands? (st : Site) (sl : Slots) : Option Operands :=
  if st.x.place ≠ .active then none
  else if st.f.reform then (if st.ex.resumed.getLsbD st.f.idx then st.ex.operands st.f.idx sl else none)
  else if st.ex.done st.f.idx then none
  else st.ex.operands st.f.idx sl

/-- The mark rules at every slot the instruction uses (R139). -/
def marksOk (i : Instr) (o : Operands) : Bool :=
  let (ml, mr) := markRules i
  let third := match i with | .sel _ => MarkRule.pass | _ => MarkRule.plain
  markOk ml o.l && markOk mr o.r && markOk third o.t && (match o.p with | some (_, t) => !t.ref | none => true)
    && (match i with | .sel _ => o.r.ref == o.t.ref | _ => true)

/-- Instructions whose buffered effect is formed again on a return (R171), with the fences, waits and barriers whose effect
also belongs to the belay. -/
def reforms (i : Instr) : Bool :=
  match i with
  | .ldrefH _ | .fence _ | .waitc _ | .csrw _ | .setrecov _ | .trigger _ | .bar _ | .vsaddCol _ | .esack _ => true
  | .rtDecl _ | .rtPush _ | .rtTake _ | .rtDone _ | .rtStat _ | .rtDrain _ | .rtSeed _ => true
  | .cardPost _ | .cardSig _ | .futWait _ | .futSet _ | .jobq _ | .meshOpen _ | .meshClose _ => true
  | .pin _ | .unpin _ | .refeq _ | .hpMake _ | .hpRelocate _ | .hpEpoch _ => true
  | .cpy _ | .cpyRec _ | .cpy2 _ | .cpy3 _ | .cpyg _ | .cpyr _ | .cpyx _ => true
  | .meshInit _ | .meshAdapt _ | .nbrStream _ | .colBuild _ | .meshFree _ => true
  | .rgLoad _ | .mcx _ | .lbCut _ | .lbMigrate _ | .ghostSync _ => true
  | i => (match lsidOf i with | some (_, .store) => true | _ => false)

/-- Instructions that may fire while their pitch is speculative (R30, R162): none with an effect to buffer, no access but a plain
load, and no read of fx, fr or st, which the predecessor's belay may change beside its csrw. -/
def specOk (i : Instr) : Bool :=
  match i with
  | .ld _ | .lds _ | .ldg _ | .ldff _ | .ldgff _ | .ldb _ | .ldx _ | .ldm _ => true
  | .csrr o => o.csr.toNat ≠ 0x34 && o.csr.toNat ≠ 0x50 && o.csr.toNat ≠ 0x60
  | .csrw _ | .nbrLd _ | .nbrLd2 _ | .rtStat _ => false
  | i => !reforms i && (lsidOf i).isNone

/-- Fire an instruction: its slots are checked, and `run` says what becomes of it. -/
def fire (i : Instr) (s : State) (run : Site → Operands → State) : Out :=
  match s.site with
  | none => .fault .noStrand
  | some st =>
    if st.f.spec && !specOk i then .fault .notReady else
    match st.operands? (slotsOf i) with
    | none => .fault .notReady
    | some o =>
      if marksOk i o then .next (run st o)
      else .next (st.put s (st.ex.raise st.f.idx (Raw.of .refMisuse)))

/-- The execution after its instruction has fired with a token: flags are held and the token is delivered (R20, R83). -/
def Site.finish (st : Site) (i : Instr) (r : OpRes) : Exec :=
  (({ st.ex with flags := st.ex.flags ||| r.flags }).markFired st.f.idx).deliverAll st.f.idx r.tok (outsAt st.f.idx i)

/-- The execution after its instruction has fired with a token or a fault. -/
def Site.complete (st : Site) (i : Instr) (r : OpOut) : Exec :=
  match r with
  | .ok v => st.finish i v
  | .error e => st.ex.raise st.f.idx e

/-- An instruction that computes a token from its operands and nothing else. -/
def fireTok (i : Instr) (s : State) (f : Env → Operands → OpOut) : Out :=
  fire i s (fun st o => st.put s (st.complete i (f (st.ex.env st.x st.f.idx) o)))

/-- Buffer an effect for the belay, replacing what the instruction buffered before (R27, R171). -/
def Exec.buffer (ex : Exec) (n : Nat) (e : Effect) : Exec := { ex with bufs := ex.bufs.filter (fun b => b.1 ≠ n) ++ [(n, e)] }

/-- An instruction formed again after a return is no longer due (R171). -/
def Exec.reformed (ex : Exec) (n : Nat) : Exec := { ex with resumed := ex.resumed &&& ~~~(BitVec.ofNat 64 (2 ^ n)) }

/-- An instruction that buffers an effect and delivers a token; formed again after a return, it delivers nothing. -/
def Site.withEffect (st : Site) (i : Instr) (e : Option Effect) (tok : Option Token) : Exec :=
  let ex0 := match e with | some e => st.ex.buffer st.f.idx e | none => st.ex
  if st.f.reform then ex0.reformed st.f.idx
  else
    let ex1 := ex0.markFired st.f.idx
    match tok with
    | some t => ex1.deliverAll st.f.idx t (outsAt st.f.idx i)
    | none => ex1

/-- An instruction that acts as one whole, with a scalar predicate (R427): `run` gives its effect and token, or its fault;
closed or null, it has no effect and delivers a null scalar. -/
def fireWhole (i : Instr) (s : State) (run : Site → Operands → Except Raw (Option Effect × Option Token)) : Out :=
  fire i s (fun st o =>
    if !predScalarOk o.p then st.put s (st.ex.raise st.f.idx tokenKind)
    else if !predOpen o.p 0 then st.put s (st.withEffect i none (some Token.nullScalar))
    else
      match run st o with
      | .ok (e, t) => st.put s (st.withEffect i e t)
      | .error r => st.put s ((st.ex.raise st.f.idx r).reformed st.f.idx))

/-! ### The fault registers -/

/-- The fc word of a cause (R166). -/
def fcWord (f : FaultRec) (rec dbl supm : Bool) : Word :=
  let bit (b : Bool) (n : Nat) : Nat := if b then 2 ^ n else 0
  let opt (o : Option Nat) (lo valid w : Nat) : Nat :=
    match o with | some v => v % 2 ^ w * 2 ^ lo + 2 ^ valid | none => 0
  BitVec.ofNat 64 (f.detail % 2 ^ 32 * 2 ^ 32 + opt f.elem 24 23 8 + bit dbl 22 + opt f.idx 10 16 6 + bit supm 9 + bit rec 8
    + f.cause.code)

/-- Stop fetching and retire in error (R174): the slot is released by the retirement event. -/
def Ctx.retireError (x : Ctx) : Ctx := { x with cur := none, spec := none, next := none, retiring := some true }

/-- The strip is discarded (R173): nothing of the pitch is kept, the fault registers are written, and the strand goes to its
recovery pitch or retires in error. -/
def Ctx.discard (x : Ctx) (f : FaultRec) : Ctx :=
  let y := { x with cur := none, spec := none, fc := fcWord f false x.intrap x.sup, fa := f.fa, fb := x.sb }
  if x.intrap ∨ x.fr = 0 then y.retireError else { y with next := some x.fr, fr := 0 }

/-! ### Taking an exception -/

/-- The kind byte of a slot (R167). -/
def kindByte : Option Token → Nat
  | none => 0
  | some t =>
    (match t.kind with | .scalar => 0x40 | .vec => 0x80 | .mask => 0xC0) + (if t.ref then 0x20 else 0) + t.lw % 16

/-- `n` bytes of a slot's value, and of its null map. -/
def valueBytes (n : Nat) (o : Option Token) : List Byte := natLe n (match o with | some t => t.bits.toNat | none => 0)
def nullBytes (o : Option Token) : List Byte := natLe 32 (match o with | some t => t.null.toNat | none => 0)

/-- Bits of the indices for which `p` holds. -/
def indexBits (p : Nat → Bool) : Nat → Nat
  | 0 => 0
  | n + 1 => indexBits p n + (if p n then 2 ^ n else 0)

/-- Index n has fired and keeps its effect in the frame: a matrix instruction does not, but for an applied mvtv (R172, R193). -/
def Exec.framesFired (ex : Exec) (n : Nat) : Bool :=
  ex.fired.getLsbD n && (match ex.instr? n with
    | some (.mvtv _) => ex.mx.applied.getLsbD n
    | some i => !isMatrix i
    | none => false)

/-- The page list (R168): distinct entries of trapped instructions in index order and element order, at most 16, and
whether more were found. -/
def Exec.pageList (ex : Exec) : List Word × Bool :=
  let inOrder := (List.range 64).flatMap (fun n => (List.range 256).flatMap (fun e =>
    (ex.pages.filter (fun p => p.1 = n && p.2.1 = e)).map (fun p => p.2.2)))
  let all := (inOrder.foldl (fun acc w => if acc.contains w then acc else acc ++ [w]) [])
  (all.take 16, 16 < all.length)

/-- The 64 KiB of a replay frame (R167). -/
def Exec.frame (ex : Exec) (x : Ctx) (fc fa : Word) : List Byte :=
  let w (v : Nat) : List Byte := natLe 8 v
  let lsidMap := indexBits (fun l => ex.instrs.any (fun t => match lsidOf t.2 with
    | some (k, _) => k = l && ex.fired.getLsbD t.1
    | none => false)) 32
  let wfill := indexBits (fun k => ex.wslots.any (fun t => t.1 = k)) 32
  let taken := (List.range 64).find? (fun n => ex.taken.any (fun t => t.1 = n))
  let state := taken.getD 0xFF + (if ex.fetchTrap.isSome then 2 ^ 8 else 0) + (if ex.multi || 2 ≤ ex.taken.length then 2 ^ 9 else 0)
  let (pages, ovf) := ex.pageList
  let step := match ex.mx.seq with | some q => q.step | none => ex.mx.step
  let es (n : Nat) : Nat := match ex.esAlloc.find? (fun a => a.1 = n) with
    | some (_, slot) => if ex.fired.getLsbD n then 0x80 + slot else 0
    | none => 0
  let wtok (k : Nat) : Option Token := (ex.wslots.find? (fun t => t.1 = k)).map (fun t => t.2.2)
  w ex.pc.toNat ++ w fc.toNat ++ w fa.toNat ++ w (indexBits ex.framesFired 64) ++ w ex.trapped.toNat ++ w lsidMap ++ w wfill
    ++ w state ++ w (pages.length + if ovf then 32 else 0) ++ w step ++ w ex.flags.toNat ++ w (ex.ffmin.getD 0xFFFF)
    ++ w ex.img.sb.toNat ++ w ex.img.sn.toNat ++ w ex.img.vl ++ w ex.img.sc.toNat ++ w ex.img.sl.toNat ++ w ex.img.fr.toNat
    ++ w ex.img.fx.toNat ++ w ex.img.fe.toNat
    ++ ex.img.lp.toList.flatMap (fun v => w v.toNat) ++ ex.img.lm.toList.flatMap (fun v => w v.toNat)
    ++ ex.img.ls.toList.flatMap (fun v => w v.toNat) ++ ex.img.lc.toList.flatMap (fun v => w v.toNat)
    ++ w x.sq ++ w x.sk ++ natLe 16 0 ++ ex.img.d.toList.flatMap (fun v => w v.toNat)
    ++ (List.range 16).flatMap (fun i => w (pages.getD i 0).toNat)
    ++ (List.range 32).map (fun k => BitVec.ofNat 8 (kindByte (wtok k))) ++ natLe 160 0
    ++ (List.range 64).flatMap (fun n => [BitVec.ofNat 8 (kindByte (ex.slot n .left)), BitVec.ofNat 8 (kindByte (ex.slot n .right)),
        BitVec.ofNat 8 (kindByte (ex.slot n .pred)), BitVec.ofNat 8 (es n)])
    ++ (List.range 64).flatMap (fun n => valueBytes 256 (ex.slot n .left) ++ valueBytes 256 (ex.slot n .right)
        ++ valueBytes 32 (ex.slot n .pred) ++ nullBytes (ex.slot n .left) ++ nullBytes (ex.slot n .right) ++ nullBytes (ex.slot n .pred))
    ++ (List.range 32).flatMap (fun k => valueBytes 256 (wtok k) ++ nullBytes (wtok k)) ++ natLe 14336 0

/-- The code of a failed access of a frame (R175). -/
def frameErrCode : XErr → Nat
  | .absent => 0x40
  | .denied _ => 0x41

/-- The keys of the sixteen 4 KiB pages of a frame, with supervisor rights, or the first page that fails (R169, R378, R385). -/
def State.framePages (s : State) (base : Word) (need : Need) : Nat → Nat → Except (Word × Nat) (List (Nat × Word × Hold))
  | 0, _ => .ok []
  | k + 1, i =>
    let a := base + BitVec.ofNat 64 (4096 * i)
    if spaceOf base ≠ 0 ∨ (globalOwner a).isNone then .error (a, 0x42)
    else
      match s.xlatePtr a need with
      | .error e => .error (a, frameErrCode e)
      | .ok (key, h) =>
        if s.fenced ⟨key, none, some h⟩ then .error (a, Cause.remoteFailed.code)
        else
          match s.framePages base need k (i + 1) with
          | .ok l => .ok ((key, a, h) :: l)
          | .error e => .error e

/-- Send the frame's bytes as class-15 stores of the strand (R169): one request for each page. -/
def State.sendFrame (s : State) (c : Nat) : List (Nat × Word × Hold) → List Byte → State
  | [], _ => s
  | (key, a, h) :: ps, bs =>
    (s.send (.ctx c) 15 (.store ⟨key, none, some h⟩ ((bs.take 4096).map (fun b => (b, 255))) none a)).sendFrame c ps (bs.drop 4096)

/-- A recoverable trap is delivered (R169): a double fault retires the strand, a strand without a trap entry discards its
strip, and otherwise the frame is written, fc, fa and ff are set, supervisor mode is entered and pc goes to TE. -/
def State.takeTrap (s : State) (x : Ctx) (ex : Exec) (f : FaultRec) : State :=
  if x.intrap then
    s.setCtx ({ x with fc := fcWord f true true x.sup, fa := f.fa }).retireError
  else if x.te = 0 then s.setCtx (x.discard f)
  else
    let fc := fcWord f true false x.sup
    match s.framePages x.frame { wr := true } 16 0 with
    | .error (a, code) => s.setCtx (x.discard ⟨.frameAccess, a, code, none, none, false⟩)
    | .ok pages =>
      let y := { x with cur := none, spec := none, ff := x.frame, fc := fc, fa := f.fa, sup := true, intrap := true
                        vl := grantVl x.sn x.sc, next := some x.te }
      (s.setCtx y).sendFrame x.id pages (ex.frame x fc f.fa)

/-! ### Returning from one -/

/-- Memory as it stood at a strand's launch, whose lines it may still fetch (R38). -/
def State.codeAt (s : State) (x : Ctx) : List Host.Cell :=
  match x.job with
  | .nest l _ => ((s.launches.find? (fun a => a.id = l)).map (·.code)).getD s.mem
  | .card c => ((s.running.find? (fun a => a.id = c)).map (·.code)).getD s.mem
  | .none => s.mem

/-- The mode a strand decodes in. -/
def State.decMode (s : State) (x : Ctx) : DecMode := ⟨!x.sup, x.tiles.length, s.codeAt x⟩

/-- Bytes `[off, off + n)` of a frame as a number. -/
def frameWord (fr : List Byte) (off n : Nat) : Nat := leNat ((fr.drop off).take n)

/-- A kind byte is legal (R167, R171). -/
def kindLegal (b : Nat) : Bool :=
  let w := b % 16
  natBit b 4 = 0 && (match b / 64 with
    | 0 => b = 0
    | 1 => w = 6
    | 2 => 2 ≤ w && w ≤ 8
    | _ => w = 0)

/-- The token of a kind byte, value and null map. -/
def tokenOfKind (b v nulls : Nat) : Option Token :=
  let t (k : TokKind) : Token := ⟨k, b % 16, BitVec.ofNat 2048 v, BitVec.ofNat 256 nulls, natBit b 5 = 1⟩
  match b / 64 with
  | 0 => none
  | 1 => some (t .scalar)
  | 2 => some (t .vec)
  | _ => some (t .mask)

/-- The offset of the first field of a frame that fails the check of `rtp` (R171). -/
def frameCheck (fr : List Byte) : Option Nat :=
  let w := frameWord fr
  let pc : Word := BitVec.ofNat 64 (w 0 8)
  let state := w 0x38 8
  let taken := state % 256
  let zero (off n : Nat) : List (Nat × Bool) := [(off, ((fr.drop off).take n).all (· = 0))]
  let checks : List (Nat × Bool) :=
    [(0, spaceOf pc = 0 && (globalOwner pc).isSome && w 0 8 % 128 = 0),
     (0x18, (w 0x18 8 &&& w 0x20 8) = 0),
     (0x28, w 0x2C 4 = 0), (0x30, w 0x34 4 = 0),
     (0x38, state < 2 ^ 10 && !(natBit state 8 = 1 && w 0x18 8 ≠ 0)
        && (taken = 0xFF || (taken < 64 && natBit (w 0x18 8) taken = 1)) && !(natBit state 9 = 1 && taken = 0xFF)),
     (0x40, w 0x40 8 < 2 ^ 6), (0x48, w 0x4C 4 = 0), (0x50, w 0x50 8 < 2 ^ 6), (0x58, w 0x58 8 < 2 ^ 16)]
    ++ zero 0x170 16
    ++ (List.range 16).map (fun i => (0x1C0 + 8 * i, decide (natBits (w (0x1C0 + 8 * i) 8) 2 10 = 0)))
    ++ (List.range 32).map (fun i => (0x240 + i, kindLegal (w (0x240 + i) 1)))
    ++ zero 0x260 160
    ++ (List.range 256).map (fun i => (0x300 + i, if i % 4 = 3 then decide (natBits (w (0x300 + i) 1) 3 4 = 0) else kindLegal (w (0x300 + i) 1)))
    ++ zero 0xC800 14336
  (checks.find? (fun c => !c.2)).map (·.1)

/-- Six or eight words of a frame. -/
def frameVec (fr : List Byte) (off n w : Nat) : Vector (BitVec w) n := Vector.ofFn (fun i => BitVec.ofNat w (frameWord fr (off + 8 * i.val) 8))

/-- Restore the strand's images from a frame (R171): reserved bits of a register ignore what is written to them (R4), and vl keeps
within its bound (R14). -/
def Ctx.restore (x : Ctx) (fr : List Byte) : Ctx :=
  let w (off : Nat) : Nat := frameWord fr off 8
  let sn : BitVec 48 := BitVec.ofNat 48 (w 0x68)
  let sc : Word := BitVec.ofNat 64 (w 0x78) &&& 0xFF03
  { x with
    sb := BitVec.ofNat 48 (w 0x60), sn := sn, vl := min (w 0x70) (grantVl sn sc), sc := sc
    sl := BitVec.ofNat 64 (w 0x80), fr := BitVec.ofNat 64 (w 0x88), fx := BitVec.ofNat 64 (w 0x90) &&& 0x3F
    fe := BitVec.ofNat 64 (w 0x98) &&& 0x1F
    lp := frameVec fr 0xA0 6 48, lm := frameVec fr 0xD0 6 48, ls := frameVec fr 0x100 6 64
    lc := (frameVec fr 0x130 6 64).map (fun v => v &&& 0xFF)
    sq := w 0x160, sk := w 0x168, d := frameVec fr 0x180 8 64, sup := false, intrap := false }

/-- No matrix instruction has been applied yet; the working image starts as the architectural one (R191). -/
def MxWork.start (tiles : List (Nat × BitVec 32768)) : MxWork :=
  { applied := 0, passed := 0, step := 0, tiles := tiles, scale := [], stt := [], seq := none, flags := 0 }

/-- An execution of a decoded pitch with empty slots. -/
def Exec.start (serial : Nat) (pc : Word) (p : Pitch) (x : Ctx) (user : Bool) : Exec :=
  { serial := serial, pc := pc, nlines := p.lines, hdr := p.hdr, code := p.code.map (fun t => (t.1, t.2.1, t.2.2.2))
    img := x.startImage, user := user, toks := [], wslots := [], fired := 0, trapped := 0, taken := [], bufs := [], loads := []
    faults := [], pages := [], ffmin := none, flags := 0, esAlloc := [], mx := MxWork.start []
    fetchTrap := none, resumed := 0, multi := false, heldReads := [], adds := [], reserved := [], decided := false }

/-- Reload the captured slots of a pitch from its frame (R171). -/
def Exec.reload (ex : Exec) (fr : List Byte) : Exec :=
  let w := frameWord fr
  let area (n : Nat) : Nat := 0x400 + 640 * n
  let slotToks := (List.range 64).flatMap (fun n =>
    ((tokenOfKind (w (0x300 + 4 * n) 1) (w (area n) 256) (w (area n + 544) 32)).toList.map (fun t => (n, TKind.left, t)))
    ++ ((tokenOfKind (w (0x301 + 4 * n) 1) (w (area n + 256) 256) (w (area n + 576) 32)).toList.map (fun t => (n, TKind.right, t)))
    ++ ((tokenOfKind (w (0x302 + 4 * n) 1) (w (area n + 512) 32) (w (area n + 608) 32)).toList.map (fun t => (n, TKind.pred, t))))
  let wtoks := (List.range 32).flatMap (fun k =>
    (tokenOfKind (w (0x240 + k) 1) (w (0xA400 + 288 * k) 256) (w (0xA400 + 288 * k + 256) 32)).toList.map
      (fun t => (k, ex.hdr.wmap.getD k 127, t)))
  let fired := w 0x18 8
  let state := w 0x38 8
  let taken := state % 256
  let multi := natBit state 9 = 1
  let again (n : Nat) : Bool := natBit fired n = 1 && (match ex.instr? n with
    | some i => reforms i || (isExit i && taken = n)
    | none => false)
  { ex with
    toks := slotToks, wslots := wtoks, fired := BitVec.ofNat 64 fired, multi := multi
    esAlloc := (List.range 64).flatMap (fun n => let b := w (0x303 + 4 * n) 1; if natBit b 7 = 1 then [(n, b % 8)] else [])
    flags := BitVec.ofNat 6 (w 0x50 8), ffmin := if w 0x58 8 = 0xFFFF then none else some (w 0x58 8)
    resumed := BitVec.ofNat 64 (indexBits again 64)
    mx := { ex.mx with applied := BitVec.ofNat 64 (indexBits (fun n => natBit fired n = 1 && (match ex.instr? n with
      | some (.mvtv _) => true
      | _ => false)) 64) } }

/-- The first poisoned sector of some pages of a frame. -/
def State.framePoison (s : State) (pages : List (Nat × Word × Hold)) : Option Word :=
  pages.findSome? (fun p => ((List.range 128).find? (fun i => s.isPoisoned (p.1 + 32 * i) 32)).map (fun i => p.2.1 + BitVec.ofNat 64 (32 * i)))

/-- The descriptor writes that still wait for an answer are lost: the images of a frame are restored after the write slots of the
pitch that returns (R171). -/
def PendPitch.dropD (p : PendPitch) : PendPitch :=
  let keep (r : Nat) : Bool := r < 72 || 80 ≤ r
  { p with awaits := p.awaits.map (fun a => (a.1, a.2.1, a.2.2.filter keep)), writes := p.writes.filter (fun w => keep w.reg)
           later := p.later.filter (fun w => keep w.reg), wmap := p.wmap.filter keep }

/-- The return from a trap (R171): the frame at ff is read and checked, the images are restored, the strand leaves supervisor
mode, and the trapped pitch is entered afresh or goes on from its captured tokens; a fault in reading or checking
retires the strand in error. -/
def State.returnFromTrap (s : State) (x : Ctx) : State :=
  let fail (c : Cause) (fa : Word) (detail : Nat) : State :=
    s.setCtx ({ x with fc := fcWord ⟨c, fa, detail, none, none, false⟩ false x.intrap x.sup, fa := fa }).retireError
  match s.framePages x.ff { rd := true } 16 0 with
  | .error (a, code) => fail .frameAccess a code
  | .ok pages =>
    match s.framePoison pages with
    | some a => fail .frameAccess a Cause.dataPoison.code
    | none =>
      let fr := pages.flatMap (fun p => s.ownRead x.id p.1 4096)
      match frameCheck fr with
      | some off => fail .frameInvalid x.ff off
      | none =>
        let pc : Word := BitVec.ofNat 64 (frameWord fr 0 8)
        let y := { x.restore fr with cur := none, spec := none, pend := x.pend.map (·.dropD) }
        if natBit (frameWord fr 0x38 8) 8 = 1 then s.setCtx { y with next := some pc }
        else
          match s.decodePitch (s.decMode y) pc with
          | .error _ => { s with free := s.free + 8 }.setCtx { y with next := some pc }
          | .ok p =>
            let ex := (Exec.start s.nextId pc p y true).reload fr
            { s with nextId := s.nextId + 1, free := s.free + 8 }.setCtx { y with pc := pc, next := none, cur := some ex }

/-! ### Islands -/

/-- The clock of an island (R388). -/
def State.island (s : State) (i : Nat) : Island := ((s.xdie.islands.find? (fun t => t.1 = i)).map (·.2)).getD Island.reset

/-- The count of an island at a tick, in sixteenths of an ac: MUL of them pass in each tick (R1, R387). -/
def Island.count (k : Island) (now : Nat) : Nat := k.base + (now - k.at_) * k.mul

/-- An island whose MUL changes at a tick keeps its count (R1, R388). -/
def Island.setMul (k : Island) (now mul : Nat) : Island := { k with base := k.count now, at_ := now, mul := mul }

/-- The present count of an island, in sixteenths of an ac. -/
def State.ac16 (s : State) (i : Nat) : Nat := (s.island i).count s.now

/-- The islands of a core's vector array and of its matrix array (R387, R389). -/
def vectorIsland (core : Nat) : Nat := 14 * dieOf core + 3 * (clusterOf core % 4)
def matrixIsland (core : Nat) : Nat := vectorIsland core + 1

/-- The island of a cluster's network and router (R387, R389); clusters are numbered over the dies. -/
def networkIsland (cluster : Nat) : Nat := 14 * (cluster / 4) + 3 * (cluster % 4) + 2

end Sys2Proof.Machine
end

