-- ==== Sys2Proof/Machine/Barrier.lean ====
section
/-!
DEFINITION. Sys2Proof/Machine/Barrier.lean: references to heap objects (R139, R334, R336) and the barrier every access through
one runs at the object's home (R337 to R339, R141).
-/

namespace Sys2Proof.Machine

/-- The heap side of an M-die. -/
def State.heap (s : State) (j : Nat) : HeapHome := ((s.heaps.find? (fun t => t.1 = j)).map (·.2)).getD HeapHome.reset

/-- Replace the heap side of an M-die. -/
def State.setHeap (s : State) (j : Nat) (h : HeapHome) : State :=
  { s with heaps := (j, h) :: s.heaps.filter (fun u => u.1 ≠ j) }

/-- The heap address of a reference: bits [55:4] × 16 (R334). -/
def refHa (r : Word) : Nat := natBits r.toNat 4 52 * 16

/-- The home hint of a reference, as an M-die. -/
def refHint (r : Word) : Nat := 8 + natBits r.toNat 56 2

/-- The colour of a reference. -/
def refColour (r : Word) : Nat := natBits r.toNat 58 2

/-- A reference of a colour, home, heap address and tag (R338). -/
def mkRef (epoch home ha tag : Nat) : Word :=
  BitVec.ofNat 64 (2 * 2 ^ 60 + epoch % 4 * 2 ^ 58 + (home - 8) % 4 * 2 ^ 56 + ha % 2 ^ 56 / 16 * 16 + tag % 16)

/-- A heap address as a fault reports it: space 0x2, the home hint and the address. -/
def heapPtr (home va : Nat) : Word := BitVec.ofNat 64 (2 * 2 ^ 60 + (home - 8) % 4 * 2 ^ 56 + va % 2 ^ 56)

/-- The M-die that holds a heap entry for a page: the hinted one first, then in ring order (R334). -/
def State.heapHomeOf (s : State) (hint va : Nat) : Option Nat :=
  ([0, 1, 2, 3].map (fun k => 8 + (hint - 8 + k) % 4)).find? (fun j => (lowestEntry j true false va (s.tlb j).entries none).isSome)

/-- The home and place of heap bytes, with the permissions the request needs (R334, R385). -/
def State.heapPlace (s : State) (r : AccReq) (hint va : Nat) : Except ElemFault (Nat × Place) :=
  match s.heapHomeOf hint va with
  | none => .error (xErrFault r (heapPtr hint va) .absent)
  | some j =>
    match s.xlate j true false va { r.need with usr := r.user } with
    | .ok (key, h) => .ok (j, ⟨key, none, some h⟩)
    | .error x => .error (xErrFault r (heapPtr j va) x)

/-- An advance of the heap epoch is in progress in the package (R342). -/
def State.heapAdvancing (s : State) : Bool := s.heaps.any (fun h => h.2.trans)

/-- A colour is legal at a home (R337). -/
def State.colourLegal (s : State) (j c : Nat) : Bool :=
  let e := (s.heap j).epoch
  c = e % 4 || c = (e + 3) % 4 || (s.heapAdvancing && c = (s.heapE + 1) % 4)

/-- Where a reference leads: the home of the page it names and its heap address, the present home and address, whether the
object is being copied, and the present reference (R338). -/
structure RefDest where
  base    : Nat
  oldHa   : Nat
  home    : Nat
  ha      : Nat
  copying : Bool
  present : Word
  deriving DecidableEq, Repr

/-- A fault of a reference. -/
def refFault (c : Cause) (ref : Word) (detail : Nat) : ElemFault := ⟨c, detail, ref, none⟩

/-- The object whose present copy lies at a heap address of a home is being copied (R340). -/
def State.isCopying (s : State) (home ha : Nat) : Bool := (s.heap home).fwd.any (fun f => f.old = ha && f.copying)

/-- The barrier up to the present copy: presence, colour and the forwarding table (R338); `wr` says that the access writes (R168). A
present copy that an older entry names may itself be COPYING (R340). -/
def State.refDest (s : State) (user wr : Bool) (ref : Word) : Except ElemFault RefDest := do
  let ha := refHa ref
  let (h, _) ← s.heapPlace { need := { rd := true }, asWrite := wr, w := 1, n := 1, user := user } (refHint ref) ha
  if !s.colourLegal h (refColour ref) then .error (refFault .refColour ref 0)
  else
    let e := (s.heap h).epoch
    let tag := natBits ref.toNat 0 4
    match (s.heap h).fwd.find? (fun f => f.old = ha) with
    | none => .ok ⟨h, ha, h, ha, false, mkRef e h ha tag⟩
    | some f =>
      if f.copying then .ok ⟨h, ha, h, ha, true, mkRef e h ha tag⟩
      else .ok ⟨h, ha, f.nhome, f.new, s.isCopying f.nhome f.new, mkRef e f.nhome f.new tag⟩

/-- An object reached through the barrier: its destination, the key of its header, SIZE and PINCNT (R336). -/
structure HeapObj where
  dest : RefDest
  hdr  : Nat
  size : Nat
  pins : Nat
  deriving DecidableEq, Repr

/-- A header obeys R336. -/
def headerOk (w : Nat) : Bool :=
  natBits w 49 15 = 0 && natBit w 48 = 1 && natBits w 0 4 = 0 && decide (16 ≤ natBits w 0 32)

/-- The whole barrier: the header is read and checked (R336, R338). -/
def State.barrier (s : State) (user wr : Bool) (ref : Word) : Except ElemFault HeapObj := do
  let d ← s.refDest user wr ref
  let (_, p) ← s.heapPlace { need := { rd := true }, asWrite := wr, w := 1, n := 16, user := user } d.home d.ha
  if s.isPoisoned p.key 16 then .error (refFault .dataPoison ref 0)
  else
    let w := s.peek p.key 8
    if headerOk w then .ok ⟨d, p.key, natBits w 0 32, natBits w 32 16⟩ else .error (refFault .hpFormat ref 0)

/-- The barrier with the range check of R141: `n` bytes at payload offset `off`. -/
def State.refRange (s : State) (user wr : Bool) (ref : Word) (off : Int) (n : Nat) : Except ElemFault HeapObj := do
  let o ← s.barrier user wr ref
  if 0 ≤ off ∧ off + n ≤ o.size then .ok o else .error (refFault .refBounds ref (intToNat 32 off))

/-- The place of `n` bytes of an object's payload. -/
def State.objPlace (s : State) (o : HeapObj) (r : AccReq) (off : Int) : Except ElemFault Place := do
  let (_, p) ← s.heapPlace r o.dest.home (o.dest.ha + 16 + off.toNat)
  .ok p

/-- A checked element of an object: its place, in the present copy (R141). -/
def State.refPlace (s : State) (r : AccReq) (ref : Word) (off : Int) (n : Nat) : Except ElemFault (HeapObj × Place) := do
  let o ← s.refRange r.user (r.need.wr || r.asWrite) ref off n
  let p ← s.objPlace o r off
  .ok (o, p)

/-- The key of the bytes a reference and offset name now, if the barrier passes. -/
def State.refKey (s : State) (ref : Word) (off : Int) (n : Nat) : Option Nat :=
  match s.refPlace { need := {}, w := 1, n := n, user := false } ref off n with
  | .ok (_, p) => some p.key
  | .error _ => none

/-- Check an access through a reference operand as it fires (R141, R142): the whole range, then each element's alignment,
translation and permission. The elements are (number, offset, bytes). -/
def State.checkRefEls (s : State) (pc : Word) (r : AccReq) (ref : Word) (off : Int) (span : Nat) (els : List (Nat × Int × Nat)) :
    Except (List (Nat × ElemFault)) (List (Nat × Place)) :=
  let first := (els.map (·.1)).headD 0
  if ref = 0 then .error [(first, ⟨.refNull, 0, pc, none⟩)]
  else
    match s.refRange r.user (r.need.wr || r.asWrite) ref off span with
    | .error f => .error [(first, f)]
    | .ok o =>
      let one (x : Int) (n : Nat) : Except ElemFault Place :=
        if x.toNat % n ≠ 0 then .error ⟨.misaligned, n, heapPtr o.dest.home (o.dest.ha + 16 + x.toNat), none⟩
        else s.objPlace o r x
      let l := els.map (fun a => (a.1, one a.2.1 a.2.2))
      match l.filterMap (fun a => match a.2 with | .error f => some (a.1, f) | .ok _ => none) with
      | [] => .ok (l.filterMap (fun a => match a.2 with | .ok p => some (a.1, p) | .error _ => none))
      | fs => .error fs

end Sys2Proof.Machine
end

