-- ==== Sys2Proof/Machine/Access.lean ====
section
/-!
DEFINITION. Sys2Proof/Machine/Access.lean: the accesses of a strand inside a pitch. Probes of stores and atomics (R26, R128),
the sending of loads in LSID order (R122), what a load reads (R25, R120) and the token it delivers (R124, R127).
-/

namespace Sys2Proof.Machine

/-! ### Checking the elements of an instruction -/

/-- An element to access: its number, base pointer, Δ and bytes. -/
structure AccEl where
  e     : Nat
  base  : Word
  delta : Int
  n     : Nat
  deriving DecidableEq, Repr

/-- The trap that the upper part of an element raises whose lower part has met a missing or denied page (R117, R168). -/
def State.upperTrap (s : State) (r : AccReq) (f : Nat) (a : AccEl) : Option ElemFault :=
  let p := (addOffset a.base a.delta).1
  let n1 := 32 - offsetOf p % 32
  if a.n ≤ n1 then none
  else
    match s.placePart r f (p + BitVec.ofNat 64 n1) (a.n - n1) with
    | .error g => if g.access.isSome then some g else none
    | .ok _ => none

/-- Check elements in ascending order; the free choices of peers are numbered from `f`. An element with both its pages missing or denied
gives both traps, the lower page's first. -/
def State.checkEls (s : State) (wins : List ScrWindow) (r : AccReq) : Nat → List AccEl → List (AccEl × Except ElemFault (List Part))
  | _, [] => []
  | f, a :: as =>
    let c := s.checkElem wins { r with n := a.n } f a.base a.delta
    let more := match c with | .error g => if g.access.isSome then (s.upperTrap r (f + 1) a).toList else [] | .ok _ => []
    (a, c) :: more.map (fun g => (a, .error g)) ++ s.checkEls wins r (f + 2) as

/-- The failing elements of a checked list. -/
def elemFaults (l : List (AccEl × Except ElemFault (List Part))) : List (Nat × ElemFault) :=
  l.filterMap (fun a => match a.2 with | .error f => some (a.1.e, f) | .ok _ => none)

/-- The page-list word of a trapped element (R168). -/
def pageWord (f : ElemFault) (access : Nat) : Word := setField f.fa 0 12 access

/-- Faults of a reference operand are raised before any element (R141): they record no element. -/
def wholeCause : Cause → Bool
  | .refNull | .refBounds | .refColour | .hpFormat => true
  | _ => false

/-- The fault of the lowest failing element of the instruction at `n` is recorded, and every missing or denied page noted for
the page list (R130, R131, R168). -/
def Exec.noteElems (ex : Exec) (n : Nat) (fs : List (Nat × ElemFault)) : Exec :=
  match fs with
  | [] => ex
  | (e, f) :: _ =>
    let pages := fs.filterMap (fun g => g.2.access.map (fun a => (n, g.1, pageWord g.2 a)))
    { ex with pages := ex.pages ++ pages }.fault
      ⟨f.cause, f.fa, f.detail, if wholeCause f.cause then none else some e, some n, Cause.recov f.cause⟩

/-- The instruction at `n` raises the fault of its lowest failing element as it fires. -/
def Exec.raiseElems (ex : Exec) (n : Nat) (fs : List (Nat × ElemFault)) : Exec :=
  match fs with
  | [] => ex
  | (_, f) :: _ => (ex.trap n (Cause.recov f.cause)).noteElems n fs

/-- The instruction at `n`, which has no elements, raises the fault of a pointer that it probes: ELEM is not valid (R175). -/
def Exec.raiseProbe (ex : Exec) (n : Nat) (fs : List (Nat × ElemFault)) : Exec :=
  let e := ex.raiseElems n fs
  { e with faults := e.faults.map (fun f => if f.idx = some n then { f with elem := none } else f) }

/-- The faults a first-fault load suppresses above its first element (R127). -/
def suppressed : Cause → Bool
  | .spaceInvalid | .pointerTagOverflow | .misaligned | .scratchBounds | .protection | .transNotPresent
  | .peerUnreachable => true
  | _ => false

/-! ### Stores and atomics -/

/-- Probe the elements of a store or atomic; the parts of each are its writes, in ascending order (R26, R117, R128). -/
def State.probe (s : State) (st : Site) (r : AccReq) (els : List AccEl) :
    Except (List (Nat × ElemFault)) (List (Nat × Part)) :=
  let l := s.checkEls st.x.wins r s.free els
  match elemFaults l with
  | [] => .ok (l.flatMap (fun a => match a.2 with | .ok ps => ps.map (fun p => (a.1.e, p)) | .error _ => []))
  | fs => .error fs

/-- Split bytes over the parts of one element. -/
def splitParts : List (Nat × Part) → List (Byte × Byte) → List StElem
  | [], _ => []
  | (e, p) :: ps, d => ⟨e, p.ptr, p.place, d.take p.n⟩ :: splitParts ps (d.drop p.n)

/-- The probed elements of a store with their bytes. -/
def storeEls (parts : List (Nat × Part)) (data : List (Nat × List (Byte × Byte))) : List StElem :=
  data.flatMap (fun d => splitParts (parts.filter (fun p => p.1 = d.1)) d.2)

/-! ### Loads -/

/-- An instruction of a lower LSID, for the rules of R122. -/
def lowerLsids (ex : Exec) (l : Nat) : List (Nat × Instr) :=
  ex.instrs.filter (fun t => match lsidOf t.2 with | some (k, _) => decide (k < l) | none => false)

/-- Two classes are related (R121). -/
def classRelated (a b : Nat) : Bool := a = b || a = 15 || b = 15

/-- The bytes at a pointer, as far as its translation is known, cut at the sector boundaries. -/
def State.ptrRuns (s : State) (p : Word) (n : Nat) : List (Option Nat × Nat × Nat) :=
  let one (q : Word) (k : Nat) : List (Option Nat × Nat × Nat) :=
    match (if spaceOf q = 0 then some q else if spaceOf q = 4 ∧ chipOf q = s.chip then some (stripedPtr (offsetOf q)) else none) with
    | some g => (match s.xlatePtr g {} with | .ok (a, _) => [(none, a, k)] | .error _ => [])
    | none =>
      (match spaceOf q with
      | 1 => [(none, keyScratch (scratchCore q) (offsetOf q), k)]
      | 3 => [(none, keyHost (offsetOf q), k)]
      | 4 => [(some (chipOf q), offsetOf q, k)]
      | 6 => [(none, keyDev (offsetOf q), k)]
      | _ => [])
  let n1 := min n (32 - offsetOf p % 32)
  one p n1 ++ (if n1 < n then one (p + BitVec.ofNat 64 n1) (n - n1) else [])

/-- The bytes that a fired load names. -/
def State.loadRuns (s : State) (ld : LoadRec) : List (Option Nat × Nat × Nat) :=
  ld.els.flatMap (fun el => match ld.kind with
    | .refObj _ _ => (match s.refKey el.base el.delta el.n with | some k => [(none, k, el.n)] | none => [])
    | _ => s.ptrRuns (addOffset el.base el.delta).1 el.n)

/-- A fired load may be sent (R25, R122, R133): every lower-LSID store of the pitch has fired, every lower-LSID load has fired, and has
been sent where the two are related (R121), and the loads before a lower-LSID fence that covers it have returned. Until a load
fires, the bytes that it may have in common with this one are not known. -/
def State.maySend (s : State) (ex : Exec) (ld : LoadRec) : Bool :=
  (lowerLsids ex ld.lsid).all (fun (n, i) =>
    if isStore i then ex.fired.getLsbD n
    else if isLoad i then
      ex.done n && ex.loads.all (fun k => k.idx ≠ n || k.sent || !(classRelated k.cls ld.cls || runsMeet (s.loadRuns k) (s.loadRuns ld)))
    else
      match i with
      | .fence o =>
        let mask := o.mask.getD 0xFFFF
        ex.fired.getLsbD n && (ex.bufs.all (fun b => b.1 ≠ n) || !inMask mask ld.cls
          || (lowerLsids ex o.lsid.toNat).all (fun t => !isLoad t.2 || !inMask mask (classOf t.2)
              || (ex.done t.1 && ex.loads.all (fun k => k.idx ≠ t.1))))
      | _ => true)

/-- An instruction whose effect at the belay writes memory as a strand's store does (R121, R128, R202, R330, R347). -/
def writesAtBelay (i : Instr) : Bool :=
  match i with
  | .stt _ | .vsaddCol _ | .hpMake _ => true
  | i => (match lsidOf i with | some (_, .load) => false | some _ => true | none => false)

/-- A load of a speculative pitch may be sent: its predecessor has no store and has sent its loads, and every element lies
in global or scratchpad space on a page that is present (R30). -/
def State.maySendSpec (s : State) (x : Ctx) (ld : LoadRec) : Bool :=
  (match x.cur with
    | some p => p.instrs.all (fun t => !writesAtBelay t.2 && ((lsidOf t.2).isNone || p.done t.1) && (match t.2 with | .brEs _ => p.done t.1 | _ => true))
        && p.loads.all (·.sent)
    | none => false)
  && (match ld.kind with | .plain | .first => true | _ => false)
  && ld.els.all (fun el =>
      let p := (addOffset el.base el.delta).1
      spaceOf p = 1 || (spaceOf p = 0 && (match s.xlatePtr p { rd := true } with | .error .absent => false | _ => true)))

/-- Build the vector, mask or scalar that a completed load delivers (R124, R125). -/
def LoadRec.token (ld : LoadRec) (vl : Nat) : Token :=
  let bytesOf (e : Nat) : Option Nat := (ld.els.find? (fun el => el.e = e)).bind (fun el => el.val.map leNat)
  match ld.shape with
  | .scalar => if ld.null.getLsbD 0 then Token.nullScalar else Token.scalarOpt (bytesOf 0)
  | .vec =>
    let lw := bitLen 10 (8 * ld.w) - 1
    Token.vector lw ((List.range vl).map (fun e => if ld.null.getLsbD e then none else bytesOf (if ld.req.bcast then 0 else e)))
  | .mask =>
    let v := leNat (ld.els.flatMap (fun el => el.val.getD []))
    Token.mask ((List.range vl).map (fun e => if ld.null.getLsbD e then none else some (natBit v e)))

/-- Every element of a load has its bytes. -/
def LoadRec.complete (ld : LoadRec) : Bool := ld.els.all (fun el => el.val.isSome)

/-- Replace a load of an execution. -/
def Exec.setLoad (ex : Exec) (ld : LoadRec) : Exec := { ex with loads := ex.loads.map (fun k => if k.idx = ld.idx then ld else k) }

/-- Remove a load of an execution. -/
def Exec.dropLoad (ex : Exec) (n : Nat) : Exec := { ex with loads := ex.loads.filter (fun k => k.idx ≠ n) }

/-- A load raises the faults of its elements: it has not fired after all, and delivers nothing (R164). One that is formed again after
a return has delivered its token before, and stays fired (R172). -/
def Exec.failLoad (ex : Exec) (ld : LoadRec) (recov : Bool) : Exec :=
  let e := ex.dropLoad ld.idx
  if ld.deliver then { e.unfire ld.idx with trapped := if recov then e.trapped ||| BitVec.ofNat 64 (2 ^ ld.idx) else e.trapped } else e

/-- A load raises the fault of its lowest failing element. -/
def Exec.raiseLoad (ex : Exec) (ld : LoadRec) (fs : List (Nat × ElemFault)) : Exec :=
  (ex.failLoad ld ((fs.head?.map (fun f => Cause.recov f.2.cause)).getD false)).noteElems ld.idx fs

/-- A completed load delivers its token (R124). -/
def Exec.finishLoad (ex : Exec) (ld : LoadRec) : Exec :=
  let ex1 := ex.dropLoad ld.idx
  if ld.deliver then
    match ex.instr? ld.idx with
    | some i => ex1.deliverAll ld.idx (ld.token ex.img.vl) (outsAt ld.idx i)
    | none => ex1
  else ex1

/-- Put an execution into its context. -/
def Ctx.putExec (x : Ctx) (spec : Bool) (ex : Exec) : Ctx := if spec then { x with spec := some ex } else { x with cur := some ex }

/-- The execution of a context. -/
def Ctx.exec? (x : Ctx) (spec : Bool) : Option Exec := if spec then x.spec else x.cur

/-- Two checked parts lie in one sector of one space. -/
def sameSector (p q : Part) : Bool := spaceOf p.ptr = spaceOf q.ptr && p.place.peer = q.place.peer && p.place.key / 32 = q.place.key / 32

/-- The parts of a load that one request serves: the elements of a gather, or of any load of global space, that name one sector
(R126, R183). -/
def sectorGroups (gather : Bool) : List (Nat × Part) → List (List (Nat × Part))
  | [] => []
  | p :: ps =>
    let gs := sectorGroups gather ps
    if (gather || spaceOf p.2.ptr = 0) && gs.any (fun g => g.any (fun q => sameSector p.2 q.2)) then
      gs.map (fun g => if g.any (fun q => sameSector p.2 q.2) then p :: g else g)
    else [p] :: gs

/-- The request that serves a group of parts: the whole sector in global, scratchpad and peer space (R120), else the bytes named. -/
def loadBody (serial idx : Nat) (cache : Bool) (acq : Option Scope) (p : Part) (g : List (Nat × Part)) : Body :=
  let sp := spaceOf p.ptr
  if sp = 0 ∨ sp = 1 ∨ sp = 4 then
    let lo := p.place.key % 32
    .load serial idx (g.map (fun q => ⟨q.1, q.2.place.key % 32, q.2.n⟩)) (p.ptr - BitVec.ofNat 64 lo) { p.place with key := p.place.key - lo } 32
      (cache && sp = 0) acq
  else .load serial idx (g.map (fun q => ⟨q.1, 0, q.2.n⟩)) p.ptr p.place p.n false acq

/-- The elements of a checked load with their places; the parts of one .m access are numbered in order (R117). -/
def LoadRec.numbered (ld : LoadRec) (parts : List (Nat × Part)) : List (Nat × Part) :=
  if ld.shape = .mask then parts.zipIdx.map (fun t => (t.2, t.1.2)) else parts

/-- The bodies of a checked load's requests. -/
def loadBodies (ex : Exec) (ld : LoadRec) (parts : List (Nat × Part)) : List Body :=
  (sectorGroups ld.req.gather parts).filterMap (fun g => g.head?.map (fun p => match ld.kind with
    | .watch v t => Body.watch ex.serial ld.idx p.2.place v t false
    | .acquire sc => loadBody ex.serial ld.idx false (some sc) p.2 g
    | _ => loadBody ex.serial ld.idx ld.req.cache none p.2 g))

/-! ### The sector cache -/

/-- The sector number of a pointer. -/
def sectorOf (p : Word) : Nat := p.toNat / 32

/-- A line of the core that a load of acquire epoch `ep` hits (R180). -/
def CoreSt.hit (k : CoreSt) (p : Word) (ep : Nat) : Option CacheLine :=
  k.cache.find? (fun l => l.sector = sectorOf p && decide (ep ≤ l.epoch))

/-- Fill a sector from the memory sector `home`: a set holds 16 lines, and the oldest makes room (R180). -/
def CoreSt.fill (k : CoreSt) (p : Word) (home : Nat) (d : List Byte) : CoreSt :=
  let sec := sectorOf p
  let others := k.cache.filter (fun l => l.sector ≠ sec)
  let set := others.filter (fun l => l.sector % 256 = sec % 256)
  let drop := if 16 ≤ set.length then (set.getLast?).map (·.sector) else none
  { k with cache := ⟨sec, home, k.epoch, d⟩ :: others.filter (fun l => some l.sector ≠ drop) }

/-- A store of the core updates the sector when it is present, under whichever pointer it was filled (R120). -/
def CoreSt.update (k : CoreSt) (key : Nat) (d : List (Byte × Byte)) : CoreSt :=
  { k with cache := k.cache.map (fun l => if l.home = key / 32 then { l with data := overlayBytes (32 * (key / 32)) key d 0 l.data } else l) }

/-- A core's epoch rises; at the wrap of its 16 bits the whole cache is invalidated, and with it every epoch of the core's strands
(R180, R265). -/
def State.raiseEpoch (s : State) (core : Nat) : State :=
  let k := s.core core
  if k.epoch = 0xFFFF then
    { s.setCore core { k with epoch := 0, cache := [], rels := k.rels.map (fun r => { r with epoch := 0 }) } with
      ctxs := s.ctxs.map (fun y => if y.core = core then { y with acqEpoch := 0 } else y) }
  else s.setCore core { k with epoch := k.epoch + 1 }

/-- An acquire wider than CREW raises the core's epoch and records it for the strand (R180, R265). -/
def State.acquire (s : State) (c : Nat) : State :=
  match s.ctx? c with
  | none => s
  | some x =>
    let s1 := s.raiseEpoch x.core
    match s1.ctx? c with
    | some y => s1.setCtx { y with acqEpoch := (s1.core x.core).epoch }
    | none => s1

/-- A scope wider than CREW (R265). -/
def Scope.wide : Scope → Bool
  | .strand | .crew => false
  | _ => true

/-- An acquire at CREW scope that synchronises with releases made at epoch `ep` of the same core (R265). -/
def State.acquireCrew (s : State) (c ep : Nat) : State :=
  match s.ctx? c with
  | none => s
  | some x => s.setCtx { x with acqEpoch := max x.acqEpoch ep }

/-- An acquire at a scope (R120, R265); `ep` is the greatest epoch of the releases of its core that it synchronises with. -/
def State.acquireAt (s : State) (c : Nat) (sc : Scope) (ep : Nat) : State :=
  if Scope.wide sc then s.acquire c else if sc = .crew then s.acquireCrew c ep else s

/-- The greatest epoch of the releases of a strand's core whose values, or those of atomics after them, stand in some bytes and
which an acquire at CREW scope there synchronises with (R265, R268, R270). -/
def State.releasedAt (s : State) (x : Ctx) (key n : Nat) : Nat :=
  ((s.core x.core).rels.filter (fun r => decide (r.key < key + n) && decide (key < r.key + r.n)
    && (match s.ctx? r.ctx with
      | some y => y.launchKey = x.launchKey && Scope.holds r.scope s.chip y.id y.core y.launchKey (.strand x.id x.core x.launchKey)
      | none => false))).foldl (fun a r => max a r.epoch) 0

/-- The acquire that a load or an atomic makes as it performs (R132, R137, R265). -/
def State.acquireBy (s : State) (m : Msg) : State :=
  let run : Nat × Nat := match m.body.bytes with | some ((none, k, n) :: _) => (k, n) | _ => (0, 0)
  match m.src, m.body with
  | .ctx c, .load _ _ _ _ _ _ _ (some sc) | .ctx c, .atomic _ _ _ _ _ _ sc .acq _ | .ctx c, .atomic _ _ _ _ _ _ sc .ar _
  | .ctx c, .atomic _ _ _ _ _ _ sc .sc _ => s.acquireAt c sc (((s.ctx? c).map (fun x => s.releasedAt x run.1 run.2)).getD 0)
  | _, _ => s

/-- An atomic's ORD that releases (R137). -/
def ordReleases : AmoOrd → Bool
  | .rel | .ar | .sc => true
  | _ => false

/-- The scope at which a write releases, if it does (R132, R137). -/
def Body.releases : Body → Option Scope
  | .store _ _ rel _ => rel
  | .atomic _ _ _ _ _ _ sc ord _ => if ordReleases ord then some sc else none
  | _ => none

/-- A write performs at `n` bytes from a key: the releases whose values stood there are replaced, but for an atomic's, and a release of
a strand is noted with the epoch that the strand holds (R265, R270). -/
def State.noteWrite (s : State) (m : Msg) (key n : Nat) : State :=
  let isAmo : Bool := match m.body with | .atomic .. => true | _ => false
  let s1 : State := if isAmo then s
    else { s with cores := s.cores.map (fun (t : Nat × CoreSt) => (t.1, { t.2 with
      rels := t.2.rels.filter (fun r => !(decide (r.key < key + n) && decide (key < r.key + r.n))) })) }
  match m.src, m.body.releases with
  | .ctx c, some sc =>
    (match s1.ctx? c with
    | some x =>
      let k := s1.core x.core
      s1.setCore x.core { k with rels := k.rels ++ [⟨key, n, c, sc, x.acqEpoch⟩] }
    | none => s1)
  | _, _ => s1

/-- A place is homed on a die in reset, which does not serve (R377). -/
def State.placeDown (s : State) (p : Place) : Bool := p.peer.isNone && decide (p.key < 2 ^ 62) && (s.die (homeDie p.key)).dstate = 1

/-! ### Sending reads -/

/-- The core that issued a request. -/
def State.srcCore (s : State) (m : Msg) : Option Nat :=
  match m.src with
  | .ctx c => (s.ctx? c).map (·.core)
  | _ => none

/-- An outstanding read of global space by a core. -/
def State.readOut (s : State) (core : Nat) (m : Msg) : Bool :=
  s.srcCore m = some core && (match m.body with | .load _ _ _ ptr p _ _ _ => spaceOf ptr = 0 && p.peer.isNone | _ => false)

/-- The core remembers the accesses that it sends while a global read is outstanding (R183). -/
def State.noteSent (s : State) (c : Nat) (m : Msg) : State :=
  match s.ctx? c with
  | none => s
  | some x =>
    let k := s.core x.core
    match (s.net.find? (fun a => s.readOut x.core a && a.id ≠ m.id)).map (·.id) with
    | none => if k.sent.isEmpty then s else s.setCore x.core { k with sent := [] }
    | some o => s.setCore x.core { k with
        sent := k.sent.filter (fun a => decide (o < a.id)) ++ [⟨c, m.id, m.cls, m.body.isLoad, m.body.bytes.getD []⟩] }

/-- The strand has sent after a read `o` a load that is related to `m`, or a store to bytes that `m` reads: `m` does not merge with
that read (R120, R183). -/
def State.sentSince (s : State) (c core : Nat) (o m : Msg) : Bool :=
  let mine := m.body.bytes.getD []
  (s.core core).sent.any (fun a => a.ctx = c && decide (o.id < a.id) && decide (a.id < m.grp)
    && (if a.load then a.cls = m.cls || a.cls = 15 || m.cls = 15 || runsMeet a.bytes mine else runsMeet a.bytes mine))

/-- A global read `m` that is about to be sent, merged with the core's outstanding read of the same sector (R183) where it may be: it
receives that read's bytes. -/
def State.mergeRead (s : State) (c : Nat) (m : Msg) : Msg :=
  match s.ctx? c, m.body with
  | some x, .load _ _ _ ptr p _ cache _ =>
    if !s.readOut x.core m || (cache && ((s.core x.core).hit ptr x.acqEpoch).isSome) then m
    else
      match s.net.find? (fun o => decide (o.id < m.id) && o.merge.isNone && s.readOut x.core o && decide (x.acqEpoch ≤ o.ep)
          && (match o.body with | .load _ _ _ _ q _ _ _ => q.key = p.key | _ => false) && !s.sentSince c x.core o m) with
      | none => m
      | some o =>
        match o.resp with
        | none => { m with merge := some o.id }
        | some (.data d) => if s.eligible m then { m with merge := some o.id, resp := some (.data d) } else m
        | some _ => m
  | _, _ => m

/-- One read of a strand leaves: it may merge, and the core notes it. -/
def State.sendRead (s : State) (grp c cls : Nat) (b : Body) : State :=
  let m : Msg := ⟨s.nextId, .ctx c, cls, b, none, grp, s.srcEpoch (.ctx c), none⟩
  let m1 := s.mergeRead c m
  let s1 := { s with net := s.net ++ [m1], nextId := s.nextId + 1 }
  (if m1.resp.isSome then s1.acquireBy m else s1).noteSent c m

/-- The reads of one load leave, in order. -/
def State.sendReads (s : State) (c cls : Nat) (bs : List Body) : State :=
  bs.foldl (fun (t : State) b => t.sendRead s.nextId c cls b) s

/-! ### The miss engine -/

/-- The weight of a request in the miss engine (R182): the sectors it asks for outside its core. A sector-cache hit, a merged read and
the core's own slice ask for none. -/
def State.missWeight (s : State) (x : Ctx) (m : Msg) : Nat :=
  let own (p : Place) : Bool := p.peer.isNone && decide (keyScratch x.core 0 ≤ p.key) && decide (p.key < keyScratch (x.core + 1) 0)
  match m.body with
  | .load _ _ _ ptr p _ cache _ =>
    if m.merge.isSome || own p || (m.resp.isNone && cache && ((s.core x.core).hit ptr x.acqEpoch).isSome) then 0 else 1
  | .watch _ _ p _ _ _ | .atomic _ _ _ p _ _ _ _ _ => if own p then 0 else 1
  | .store p d _ _ => if own p then 0 else (p.key % 32 + d.length + 31) / 32
  | .refLoad .. | .refStore .. | .heal .. => 1
  | _ => 0

/-- The entries of a core's miss engine (R182): for each request in flight, in order, its slot, its sectors and whether it has its
entries. Each slot has 64 of its own and draws on 1536 for all; a request that finds none waits. -/
def State.missTable (s : State) (core : Nat) : List (Nat × Nat × Nat × Bool) :=
  let step (a : List (Nat × Nat × Nat × Bool) × Nat) (m : Msg) : List (Nat × Nat × Nat × Bool) × Nat :=
    match m.src with
    | .ctx c =>
      (match s.ctx? c with
      | some x =>
        let w := s.missWeight x m
        if x.core ≠ core ∨ w = 0 then a
        else
          let used := (a.1.filter (fun e => e.2.1 = x.slot && e.2.2.2)).foldl (fun n e => n + e.2.2.1) 0
          let more := w - min w (64 - min 64 used)
          if a.2 + more ≤ 1536 then (a.1 ++ [(m.id, x.slot, w, true)], a.2 + more) else (a.1 ++ [(m.id, x.slot, w, false)], a.2)
      | none => a)
    | _ => a
  (s.net.foldl step ([], 0)).1

/-- A request has the entries of the miss engine that it needs (R182). -/
def State.hasEntry (s : State) (m : Msg) : Bool :=
  match s.srcCore m with
  | some core => (s.missTable core).all (fun e => e.1 ≠ m.id || e.2.2.2)
  | none => true

/-- The entries of a core's miss engine in use (R188). -/
def State.missUse (s : State) (core : Nat) : Nat := ((s.missTable core).filter (fun e => e.2.2.2)).foldl (fun n e => n + e.2.2.1) 0

/-- Send a load: its elements are checked, and either its fault is raised or its requests leave (R122, R124, R127). -/
def State.sendLoad (s : State) (x : Ctx) (spec : Bool) (ex : Exec) (ld : LoadRec) : State :=
  match ld.kind with
  | .refObj _ _ =>
    match ld.els with
    | [] => s.setCtx (x.putExec spec ((ex.setLoad { ld with sent := true }).finishLoad { ld with sent := true }))
    | el :: _ =>
      let n := if ld.shape = .scalar then 1 else ex.img.vl
      let r : AccReq := { need := { rd := true, wr := ld.req.wr }, w := ld.w, n := ld.w, user := ex.user }
      match s.checkRefEls ex.pc r el.base (el.delta - el.e * ld.w) (n * ld.w) (ld.els.map (fun t => (t.e, t.delta, t.n))) with
      | .error fs => s.setCtx (x.putExec spec (ex.raiseLoad ld fs))
      | .ok _ =>
        let s1 := s.setCtx (x.putExec spec (ex.setLoad { ld with sent := true }))
        s1.sendAll (.ctx x.id) ld.cls (ld.els.map (fun el => .refLoad ex.serial ld.idx el.e el.base el.delta el.n ex.user))
  | _ =>
    let r : AccReq := { need := { rd := true, wr := ld.req.wr }, dev := ld.req.dev, waitv := ld.req.waitv, w := ld.req.w
                        n := ld.w, user := ex.user }
    let l := s.checkEls x.wins r s.free (ld.els.map (fun el => ⟨el.e, el.base, el.delta, el.n⟩))
    let s0 := { s with free := s.free + 2 * ld.els.length }
    let first := (ld.els.map (·.e)).headD 0
    let cut : Option Nat := if ld.req.ff then ((elemFaults l).find? (fun f => decide (first < f.1) && suppressed f.2.cause)).map (·.1) else none
    let kept := match cut with | some f => l.filter (fun a => decide (a.1.e < f)) | none => l
    match elemFaults kept with
    | [] =>
      let parts := kept.flatMap (fun a => match a.2 with | .ok ps => ps.map (fun p => (a.1.e, p)) | .error _ => [])
      let named := ld.numbered parts
      let nulls := match cut with
        | some f => ld.null ||| BitVec.ofNat 256 (2 ^ 256 - 2 ^ f)
        | none => ld.null
      let ex1 := match cut with
        | some f => { ex with ffmin := some (match ex.ffmin with | some g => min f g | none => f) }
        | none => ex
      let ld1 := { ld with sent := true, null := nulls, els := named.map (fun p => ⟨p.1, p.2.ptr, 0, p.2.n, some p.2.place, none⟩) }
      let ex2 := ex1.setLoad ld1
      let ex3 := if ld1.els.isEmpty then ex2.finishLoad ld1 else ex2
      s0.setCtx (x.putExec spec ex3) |>.sendReads x.id ld.cls (loadBodies ex ld named)
    | fs => s0.setCtx (x.putExec spec (ex.raiseLoad ld fs))

/-- The unsent load under an LSID. -/
def Exec.unsent (ex : Exec) (l : Nat) : Option LoadRec := ex.loads.find? (fun k => k.lsid = l && !k.sent)

/-- Send every fired load that may be sent, in LSID order (R122). -/
def State.settle (s : State) (c : Nat) (spec : Bool) : State :=
  (List.range 32).foldl (fun t l =>
    match t.ctx? c with
    | none => t
    | some x =>
      match x.exec? spec with
      | none => t
      | some ex =>
        match ex.unsent l with
        | none => t
        | some ld => if t.maySend ex ld && (!spec || t.maySendSpec x ld) then t.sendLoad x spec ex ld else t) s

/-- After an instruction has fired, the loads that may now be sent leave (R122). -/
def settled (s : State) : Out → Out
  | .next t => match s.firing with | some f => .next (t.settle f.c f.spec) | none => .next t
  | o => o

/-- The bytes one buffered store puts over bytes read from a place (R25, R141). -/
def State.overlayEffect (s : State) (peer : Option Nat) (key : Nat) (acc : List Byte) : Effect → List Byte
  | .store _ _ _ els => els.foldl (fun a el => if el.place.peer = peer then overlayBytes key el.place.key el.data 0 a else a) acc
  | .refStore _ _ _ els =>
    if peer.isNone then
      els.foldl (fun a el => match s.refKey el.ref el.off el.data.length with
        | some k => overlayBytes key k (el.data.map (fun b => (b, 255))) 0 a
        | none => a) acc
    else acc
  | _ => acc

/-- The LSID of a buffered store. -/
def Effect.storeLsid : Effect → Option Nat
  | .store l _ _ _ | .refStore l _ _ _ => some l
  | _ => none

/-- The bytes buffered by the fired stores of the pitch under LSIDs below `l`, laid over bytes from a place, LSIDs and
elements ascending (R25). -/
def State.overlay (s : State) (ex : Exec) (l : Nat) (peer : Option Nat) (key : Nat) (bs : List Byte) : List Byte :=
  (List.range l).foldl (fun acc k =>
    ex.bufs.foldl (fun acc2 b => if b.2.storeLsid = some k then s.overlayEffect peer key acc2 b.2 else acc2) acc) bs

/-- The execution of a context with a serial number, and whether it is the speculative one. -/
def Ctx.bySerial (x : Ctx) (serial : Nat) : Option (Bool × Exec) :=
  match x.cur with
  | some ex => if ex.serial = serial then some (false, ex) else
    (match x.spec with | some e2 => if e2.serial = serial then some (true, e2) else none | none => none)
  | none => match x.spec with | some e2 => if e2.serial = serial then some (true, e2) else none | none => none

/-- The data a load element reads, once the base bytes of its place are known (R25). -/
def State.loadData (s : State) (ex : Exec) (idx : Nat) (peer : Option Nat) (key : Nat) (base : List Byte) : List Byte :=
  match ex.loads.find? (fun k => k.idx = idx) with
  | some ld => s.overlay ex ld.lsid peer key base
  | none => base

end Sys2Proof.Machine
end

