-- ==== Sys2Proof/Machine/Flags.lean ====
section
/-!
DEFINITION. Sys2Proof/Machine/Flags.lean: the flag computations. How an exact integer becomes an element under a shape and
when that sets SA (R93), and how the conditions of a floating-point element become its flags or its fault (R81, R84).
-/

namespace Sys2Proof.Machine

/-- Clamp an integer into an interval. -/
def clampInt (lo hi v : Int) : Int := if v < lo then lo else if hi < v then hi else v

/-- The element that an exact value becomes under a shape of width `w`, and the SA flag (R93). -/
def finishInt (sh : Shape) (w : Nat) (v : Int) : Nat × Flags :=
  let sat (lo hi : Int) : Nat × Flags := (intToNat w (clampInt lo hi v), if clampInt lo hi v = v then 0 else flSA)
  match sh with
  | .vss => sat (-((2 ^ (w - 1) : Nat) : Int)) (((2 ^ (w - 1) : Nat) : Int) - 1)
  | .vsu => sat 0 (((2 ^ w : Nat) : Int) - 1)
  | .vw => (intToNat (2 * w) v, 0)
  | .s32 => (intToNat 64 (natToInt 32 (intToNat 32 v)), 0)
  | _ => (intToNat w v, 0)

/-- An element with its conditions: the enabled one that comes first is its fault (R84), with DETAIL the descriptor index. -/
def condResult (fe : Nat) (dIdx : Nat) (r : Nat × Flags) : Except Raw (Nat × Flags) :=
  match fpTrap fe r.2 with
  | some c => .error (Raw.of c dIdx)
  | none => .ok r

end Sys2Proof.Machine
end

