-- ==== Sys2Proof/Machine/Float.lean ====
section
/-!
DEFINITION. Sys2Proof/Machine/Float.lean: element-wise floating-point arithmetic (R99 to R102) and the floating-point
comparisons (R107).
-/

namespace Sys2Proof.Machine

/-- Which fields of its descriptor an instruction reads, beside FA and the reserved fields (R74). -/
structure DescUse where
  b   : Bool
  d   : Bool
  rm  : Bool
  scl : Bool
  deriving DecidableEq, Repr

/-- Read and check the descriptor at index `n` (R74): reserved fields first, then the formats an entry accepts. -/
def descCheck (env : Env) (n : BitVec 3) (u : DescUse) (ok : Desc → Bool) : Except Raw Desc :=
  let d := Desc.ofWord (env.d.getD n.toNat 0)
  if d.reservedBad true u.b u.d u.rm u.scl then .error (Raw.of .descReserved n.toNat)
  else if ok d then .ok d
  else .error (Raw.of .descFormat n.toNat)

/-- A wide floating-point source of width SEW, no scaling and no stochastic rounding (R74, R99). -/
def fpSource (env : Env) (rm : Bool) (d : Desc) : Bool :=
  fmtIsWide d.fa && fmtLw d.fa == env.lsew && (!rm || d.rm != 5) && d.scl == 0

/-- The signed integer format of width 2^lw (R65). -/
def signedFmt (lw : Nat) : Nat := 2 * (lw - 3)

/-- An element-wise floating-point instruction over operands read as the listed formats. -/
def fpElems (env : Env) (n : BitVec 3) (d : Desc) (p : Pred) (ops : List Token) (k : ResKind)
    (f : List Nat → Nat × Flags) : OpOut := do
  need (predKindOk p) tokenKind
  need (ops.all (okVec env.lsew)) tokenKind
  elementwise env p (ops.map (fun t => (t, env.lsew))) k (fun _ xs => condResult env.fe n.toNat (f xs))

/-- The formats of two-operand and three-operand arithmetic: FA = FB = FD (R99). -/
def useTwo : DescUse := ⟨true, true, true, true⟩
/-- One-operand arithmetic: FB is not read. -/
def useOne : DescUse := ⟨false, true, true, true⟩
/-- The comparisons: FD and RM are not read (R107). -/
def useCmp : DescUse := ⟨true, false, false, true⟩

/-- Operand `k` read as a value of FA. -/
def rd (d : Desc) (xs : List Nat) (k : Nat) : FVal := fpRead d.fa d.ftz (xs.getD k 0)

/-- Two-operand arithmetic. -/
def fpTwo (i : Instr) (o : FpArgs) (f : Desc → FVal → FVal → FVal × Flags) (s : State) : Out :=
  fireTok i s (fun env v => do
    let d ← descCheck env o.d useTwo (fun d => fpSource env true d && d.fb == d.fa && d.fd == d.fa)
    fpElems env o.d d v.p [v.l, v.r] (.vec env.lsew) (fun xs =>
      let (r, fl) := f d (rd d xs 0) (rd d xs 1)
      deliver d.fd d.rm d.ftz r fl))

/-- One-operand arithmetic. -/
def fpOne (i : Instr) (o : FpArgs) (f : Desc → FVal → FVal × Flags) (s : State) : Out :=
  fireTok i s (fun env v => do
    let d ← descCheck env o.d useOne (fun d => fpSource env true d && d.fd == d.fa)
    fpElems env o.d d v.p [v.l] (.vec env.lsew) (fun xs =>
      let (r, fl) := f d (rd d xs 0)
      deliver d.fd d.rm d.ftz r fl))

/-- The fused forms: ±(a × b) ± c with one rounding (R85, R100). -/
def fpThree (i : Instr) (o : FpArgs) (negProd negC : Bool) (s : State) : Out :=
  fireTok i s (fun env v => do
    let d ← descCheck env o.d useTwo (fun d => fpSource env true d && d.fb == d.fa && d.fd == d.fa)
    fpElems env o.d d v.p [v.l, v.r, v.t] (.vec env.lsew) (fun xs =>
      let a := rd d xs 0
      let c := rd d xs 2
      let (r, fl) := fFma d.rm (if negProd then fNeg a else a) (rd d xs 1) (if negC then fNeg c else c)
      deliver d.fd d.rm d.ftz r fl))

/-- A NaN operand of an exact sign operation: a signalling one raises NV (R100). -/
def nanFlags (a : FVal) : Flags := if a.isSig then flNV else 0

/-- A value with the given sign. -/
def withSign (neg : Bool) : FVal → FVal
  | .nan _ => .nan false
  | .inf _ => .inf neg
  | .fin _ m e => .fin neg m e

/-- The magnitude of a with the sign of b; b's sign bit counts even when b is a NaN, but a NaN operand gives NaN (R67). -/
def fSgn (a b : FVal) : FVal × Flags :=
  if a.isNan || b.isNan then (.nan false, nanFlags a ||| nanFlags b) else (withSign b.sign a, 0)

/-- floor(log2 |a|) (R100). -/
def fLogb (a : FVal) : FVal × Flags :=
  match a with
  | .nan s => (.nan false, if s then flNV else 0)
  | .inf _ => (.inf false, 0)
  | .fin _ m e =>
    if m = 0 then (.inf true, flDZ)
    else
      let v : Int := (bitLen 4400 m : Int) - 1 + e
      (.fin (v < 0) v.natAbs 0, 0)

/-- Rounding to an integral value under RM; NX when it differs (R100). -/
def fRnd (rm : Nat) (a : FVal) : FVal × Flags :=
  match a with
  | .nan s => (.nan false, if s then flNV else 0)
  | .inf s => (.inf s, 0)
  | .fin s m e =>
    let (n, inex) := roundQ rm 0 s m e 0
    if inex then (.fin s n 0, flNX) else (.fin s m e, 0)

/-- a × 2^b; an exponent beyond every format's range acts as the nearer end of ±20,000 (R100). -/
def fScale (a : FVal) (b : Int) : FVal × Flags :=
  match a with
  | .nan s => (.nan false, if s then flNV else 0)
  | .inf s => (.inf s, 0)
  | .fin s m e => (.fin s m (e + clampInt (-20000) 20000 b), 0)

/-- The class bit of an element, read without flushing (R102). -/
def fClass (f b : Nat) : Nat :=
  let v := fpDecode f b
  2 ^ (match v with
    | .nan true => 8
    | .nan false => 9
    | .inf true => 0
    | .inf false => 7
    | .fin s m e =>
      if m = 0 then (if s then 3 else 4)
      else if isSubnormal f m e then (if s then 2 else 5)
      else if s then 1 else 6)

/-! ### The instructions -/

/-- vfadd (R100). -/
def execVfadd (o : FpArgs) (s : State) : Out := fpTwo (.vfadd o) o (fun d a b => fAdd d.rm a b) s
/-- vfsub (R100). -/
def execVfsub (o : FpArgs) (s : State) : Out := fpTwo (.vfsub o) o (fun d a b => fAdd d.rm a (fNeg b)) s
/-- vfmul (R100). -/
def execVfmul (o : FpArgs) (s : State) : Out := fpTwo (.vfmul o) o (fun _ a b => fMul a b) s
/-- vfdiv (R100). -/
def execVfdiv (o : FpArgs) (s : State) : Out := fpTwo (.vfdiv o) o (fun _ a b => fDiv a b) s
/-- vfsqrt (R100). -/
def execVfsqrt (o : FpArgs) (s : State) : Out := fpOne (.vfsqrt o) o (fun _ a => fSqrt a) s
/-- vfmin (R101). -/
def execVfmin (o : FpArgs) (s : State) : Out := fpTwo (.vfmin o) o (fun _ a b => fMinMax false a b) s
/-- vfmax (R101). -/
def execVfmax (o : FpArgs) (s : State) : Out := fpTwo (.vfmax o) o (fun _ a b => fMinMax true a b) s
/-- vfabs (R100). -/
def execVfabs (o : FpArgs) (s : State) : Out := fpOne (.vfabs o) o (fun _ a => (withSign false a, nanFlags a)) s
/-- vfneg (R100). -/
def execVfneg (o : FpArgs) (s : State) : Out := fpOne (.vfneg o) o (fun _ a => (fNeg a, nanFlags a)) s
/-- vfma (R100). -/
def execVfma (o : FpArgs) (s : State) : Out := fpThree (.vfma o) o false false s
/-- vfms (R100). -/
def execVfms (o : FpArgs) (s : State) : Out := fpThree (.vfms o) o false true s
/-- vfnma (R100). -/
def execVfnma (o : FpArgs) (s : State) : Out := fpThree (.vfnma o) o true false s
/-- vfnms (R100). -/
def execVfnms (o : FpArgs) (s : State) : Out := fpThree (.vfnms o) o true true s
/-- vfrcp (R100). -/
def execVfrcp (o : FpArgs) (s : State) : Out := fpOne (.vfrcp o) o (fun _ a => fRcp a) s
/-- vfrsq (R100). -/
def execVfrsq (o : FpArgs) (s : State) : Out := fpOne (.vfrsq o) o (fun _ a => fRsq a) s
/-- vfsgn (R100). -/
def execVfsgn (o : FpArgs) (s : State) : Out := fpTwo (.vfsgn o) o (fun _ a b => fSgn a b) s
/-- vflogb (R100). -/
def execVflogb (o : FpArgs) (s : State) : Out := fpOne (.vflogb o) o (fun _ a => fLogb a) s
/-- vfrnd (R100). -/
def execVfrnd (o : FpArgs) (s : State) : Out := fpOne (.vfrnd o) o (fun d a => fRnd d.rm a) s

/-- vfclass: FD is the signed integer of width SEW (R99, R102). -/
def execVfclass (o : FpArgs) (s : State) : Out :=
  fireTok (.vfclass o) s (fun env v => do
    let d ← descCheck env o.d useOne (fun d => fpSource env true d && d.fd == signedFmt env.lsew)
    fpElems env o.d d v.p [v.l] (.vec env.lsew) (fun xs => (fClass d.fa (xs.getD 0 0), 0)))

/-- vfscale: FB is the signed integer of width SEW (R99, R100). -/
def execVfscale (o : FpArgs) (s : State) : Out :=
  fireTok (.vfscale o) s (fun env v => do
    let d ← descCheck env o.d useTwo (fun d => fpSource env true d && d.fb == signedFmt env.lsew && d.fd == d.fa)
    fpElems env o.d d v.p [v.l, v.r] (.vec env.lsew) (fun xs =>
      let (r, fl) := fScale (rd d xs 0) (natToInt (2 ^ env.lsew) (xs.getD 1 0))
      deliver d.fd d.rm d.ftz r fl))

/-- A floating-point comparison delivers a mask, or scalar 0 or 1; `quiet` when only a signalling NaN raises NV (R107). -/
def fpCompare (i : Instr) (o : FpArgs) (quiet : Bool) (f : FVal → FVal → Bool) (s : State) : Out :=
  fireTok i s (fun env v => do
    let d ← descCheck env o.d useCmp (fun d => fpSource env false d && d.fb == d.fa)
    fpElems env o.d d v.p [v.l, v.r] .mask (fun xs =>
      let a := rd d xs 0
      let b := rd d xs 1
      (if f a b then 1 else 0, if a.isSig || b.isSig || (!quiet && (a.isNan || b.isNan)) then flNV else 0)))

/-- vfeq (R107). -/
def execVfeq (o : FpArgs) (s : State) : Out := fpCompare (.vfeq o) o true fEq s
/-- vflt (R107). -/
def execVflt (o : FpArgs) (s : State) : Out := fpCompare (.vflt o) o false fLt s
/-- vfle (R107). -/
def execVfle (o : FpArgs) (s : State) : Out := fpCompare (.vfle o) o false (fun a b => fLt a b || fEq a b) s
/-- vfun (R107). -/
def execVfun (o : FpArgs) (s : State) : Out := fpCompare (.vfun o) o true (fun a b => a.isNan || b.isNan) s

end Sys2Proof.Machine
end

