-- ==== Sys2Proof/Machine/Integer.lean ====
section
/-!
DEFINITION. Sys2Proof/Machine/Integer.lean: the integer instructions (R93 to R96) and tagged-pointer arithmetic (R97, R98).
-/

namespace Sys2Proof.Machine

/-! ### Exact integer operations -/

/-- An exact operation: whether operands are read unsigned by .vsu, the width of x, the width w, and the bits of x and y (R94). -/
abbrev IntOp := Bool → Nat → Nat → Nat → Nat → Int

/-- Bits read as signed, or as unsigned under .vsu. -/
def readInt (unsigned : Bool) (w n : Nat) : Int := if unsigned then ((n % 2 ^ w : Nat) : Int) else natToInt w n

def opAdd : IntOp := fun u wx w x y => readInt u wx x + readInt u w y
def opSub : IntOp := fun u wx w x y => readInt u wx x - readInt u w y
def opMul : IntOp := fun u wx w x y => readInt u wx x * readInt u w y
def opAnd : IntOp := fun _ _ _ x y => ((x &&& y : Nat) : Int)
def opOr : IntOp := fun _ _ _ x y => ((x ||| y : Nat) : Int)
def opXor : IntOp := fun _ _ _ x y => ((x ^^^ y : Nat) : Int)
def opAndn : IntOp := fun _ _ w x y => ((x &&& (2 ^ w - 1 - y % 2 ^ w) : Nat) : Int)
def opSll : IntOp := fun _ _ w x y => ((x * 2 ^ (y % w) : Nat) : Int)
def opSrl : IntOp := fun _ _ w x y => ((x / 2 ^ (y % w) : Nat) : Int)
def opSra : IntOp := fun _ wx w x y => natToInt wx x / ((2 ^ (y % w) : Nat) : Int)
def opMin : IntOp := fun _ wx w x y => if natToInt wx x ≤ natToInt w y then natToInt wx x else natToInt w y
def opMax : IntOp := fun _ wx w x y => if natToInt wx x ≤ natToInt w y then natToInt w y else natToInt wx x
def opMinu : IntOp := fun _ _ _ x y => ((min x y : Nat) : Int)
def opMaxu : IntOp := fun _ _ _ x y => ((max x y : Nat) : Int)
def opMulh : IntOp := fun _ wx w x y => natToInt wx x * natToInt w y / ((2 ^ w : Nat) : Int)
def opMulhu : IntOp := fun _ _ w x y => ((x * y / 2 ^ w : Nat) : Int)

/-- Signed division truncated toward zero; −1 for a zero divisor (R96). -/
def opDiv : IntOp := fun _ wx w x y => if y = 0 then -1 else Int.tdiv (natToInt wx x) (natToInt w y)
def opDivu : IntOp := fun _ _ w x y => if y = 0 then ((2 ^ w - 1 : Nat) : Int) else ((x / y : Nat) : Int)
def opRem : IntOp := fun _ wx w x y => if y = 0 then natToInt wx x else Int.tmod (natToInt wx x) (natToInt w y)
def opRemu : IntOp := fun _ _ _ x y => if y = 0 then (x : Int) else ((x % y : Nat) : Int)

/-- Leading zero bits within w. -/
def opClz : IntOp := fun _ _ w x _ => ((w - bitLen w x : Nat) : Int)

/-- Trailing zero bits of `x`, at most `fuel`. -/
def ctzNat : Nat → Nat → Nat
  | 0, _ => 0
  | fuel + 1, x => if x % 2 = 1 then 0 else ctzNat fuel (x / 2) + 1
def opCtz : IntOp := fun _ _ w x _ => ((ctzNat w x : Nat) : Int)

/-- One bits among the low `fuel` bits. -/
def popNat : Nat → Nat → Nat
  | 0, _ => 0
  | fuel + 1, x => x % 2 + popNat fuel (x / 2)
def opPopc : IntOp := fun _ _ w x _ => ((popNat w x : Nat) : Int)

/-- The bit field of x that y describes: LSB at [5:0], LEN at [13:8] with 0 meaning 64, SX at [16] (R96). -/
def opBfx : IntOp := fun _ _ _ x y =>
  let len := if natBits y 8 6 = 0 then 64 else natBits y 8 6
  let v := natBits x (natBits y 0 6) len
  if natBit y 16 = 1 then natToInt len v else (v : Int)

/-! ### The shapes -/

/-- log2 of the element width of a shape (R93). -/
def shapeLw (sh : Shape) (lsew : Nat) : Nat :=
  match sh with
  | .s64 => 6
  | .s32 => 5
  | _ => lsew

/-- A scalar shape (R91). -/
def shapeScalar : Shape → Bool
  | .s64 | .s32 => true
  | _ => false

/-- An integer instruction over its operand tokens; a single-operand form and an immediate form pass their second
operand as a scalar token (R91, R93, R95). -/
def intOp (sh : Shape) (f : IntOp) (env : Env) (p : Pred) (a b : Token) : OpOut := do
  let lw := shapeLw sh env.lsew
  let w := 2 ^ lw
  need (predKindOk p) tokenKind
  need (!shapeScalar sh || (okScalar a && okScalar b && predScalarOk p)) tokenKind
  let wideLeft := sh == .vw && a.kind == .vec && a.lw == lw + 1
  need ((okVec lw a || wideLeft) && okVec lw b) tokenKind
  need (!(sh == .vw && lw == 6)) (Raw.of .widthRange (env.vl * 128))
  let wx := if wideLeft then 2 * w else w
  let k : ResKind := if sh = .vw then .vec (lw + 1) else .vec lw
  elementwise env p [(a, lw), (b, lw)] k (fun _ xs =>
    .ok (finishInt sh w (f (sh == .vsu) wx w (xs.getD 0 0) (xs.getD 1 0))))

/-- An integer instruction with two operands or one. -/
def execInt (i : Instr) (o : IntArgs) (f : IntOp) (s : State) : Out :=
  fireTok i s (fun env v => intOp o.shape f env v.p v.l (if (slotsOf i).r then v.r else Token.scalar 0))

/-- The value of an immediate form: IMM9 sign-extended, or the value of a kind-0 prefix (R45, R52). -/
def immValue (imm9 : BitVec 9) (pre : Pre) : Nat :=
  match pre with
  | .imm v =>
    let v32 := natBits v.toNat 0 23 * 512 + imm9.toNat
    if natBits v.toNat 23 2 = 1 then v32 * 2 ^ 32 % 2 ^ 64
    else if natBit v.toNat 25 = 1 then intToNat 64 (natToInt 32 v32) else v32
  | _ => intToNat 64 (natToInt 9 imm9.toNat)

/-- addi and andi (R95). -/
def execImm (i : Instr) (o : ImmArgs) (f : IntOp) (s : State) : Out :=
  fireTok i s (fun env v => intOp o.shape f env v.p v.l (Token.scalar (immValue o.imm9 o.pre)))

/-- slli, srli and srai (R95). -/
def execShift (i : Instr) (o : ShiftArgs) (f : IntOp) (s : State) : Out :=
  fireTok i s (fun env v => intOp o.shape f env v.p v.l (Token.scalar o.sh.toNat))

/-! ### The instructions -/

/-- add: x + y (R94). -/
def execAdd (o : IntArgs) (s : State) : Out := execInt (.add o) o opAdd s
/-- sub: x − y (R94). -/
def execSub (o : IntArgs) (s : State) : Out := execInt (.sub o) o opSub s
/-- and (R94). -/
def execAnd (o : IntArgs) (s : State) : Out := execInt (.and o) o opAnd s
/-- or (R94). -/
def execOr (o : IntArgs) (s : State) : Out := execInt (.or o) o opOr s
/-- xor (R94). -/
def execXor (o : IntArgs) (s : State) : Out := execInt (.xor o) o opXor s
/-- andn: x AND NOT y (R94). -/
def execAndn (o : IntArgs) (s : State) : Out := execInt (.andn o) o opAndn s
/-- sll: x × 2^(y mod w) (R94, R95). -/
def execSll (o : IntArgs) (s : State) : Out := execInt (.sll o) o opSll s
/-- srl: logical right shift (R94, R95). -/
def execSrl (o : IntArgs) (s : State) : Out := execInt (.srl o) o opSrl s
/-- sra: arithmetic right shift (R94, R95). -/
def execSra (o : IntArgs) (s : State) : Out := execInt (.sra o) o opSra s
/-- min: lesser, signed (R94). -/
def execMin (o : IntArgs) (s : State) : Out := execInt (.min o) o opMin s
/-- max: greater, signed (R94). -/
def execMax (o : IntArgs) (s : State) : Out := execInt (.max o) o opMax s
/-- minu: lesser, unsigned (R94). -/
def execMinu (o : IntArgs) (s : State) : Out := execInt (.minu o) o opMinu s
/-- maxu: greater, unsigned (R94). -/
def execMaxu (o : IntArgs) (s : State) : Out := execInt (.maxu o) o opMaxu s
/-- addi: x + imm (R94, R95). -/
def execAddi (o : ImmArgs) (s : State) : Out := execImm (.addi o) o opAdd s
/-- andi: x AND imm (R94, R95). -/
def execAndi (o : ImmArgs) (s : State) : Out := execImm (.andi o) o opAnd s
/-- slli (R94, R95). -/
def execSlli (o : ShiftArgs) (s : State) : Out := execShift (.slli o) o opSll s
/-- mul: x × y (R94). -/
def execMul (o : IntArgs) (s : State) : Out := execInt (.mul o) o opMul s
/-- mulh: high half of the signed product (R94). -/
def execMulh (o : IntArgs) (s : State) : Out := execInt (.mulh o) o opMulh s
/-- mulhu: high half of the unsigned product (R94). -/
def execMulhu (o : IntArgs) (s : State) : Out := execInt (.mulhu o) o opMulhu s
/-- div (R94, R96). -/
def execDiv (o : IntArgs) (s : State) : Out := execInt (.div o) o opDiv s
/-- divu (R94, R96). -/
def execDivu (o : IntArgs) (s : State) : Out := execInt (.divu o) o opDivu s
/-- rem (R94, R96). -/
def execRem (o : IntArgs) (s : State) : Out := execInt (.rem o) o opRem s
/-- remu (R94, R96). -/
def execRemu (o : IntArgs) (s : State) : Out := execInt (.remu o) o opRemu s
/-- srli (R94, R95). -/
def execSrli (o : ShiftArgs) (s : State) : Out := execShift (.srli o) o opSrl s
/-- srai (R94, R95). -/
def execSrai (o : ShiftArgs) (s : State) : Out := execShift (.srai o) o opSra s
/-- clz (R94). -/
def execClz (o : IntArgs) (s : State) : Out := execInt (.clz o) o opClz s
/-- ctz (R94). -/
def execCtz (o : IntArgs) (s : State) : Out := execInt (.ctz o) o opCtz s
/-- popc (R94). -/
def execPopc (o : IntArgs) (s : State) : Out := execInt (.popc o) o opPopc s
/-- bfx (R96). -/
def execBfx (o : IntArgs) (s : State) : Out := execInt (.bfx o) o opBfx s

/-! ### Tagged pointers -/

/-- Low bit and width of a pointer field in a space, or `none` where the space lacks it (R97). -/
def fieldExtent (f : PtrField) (space : Nat) : Option (Nat × Nat) :=
  match f with
  | .space => some (60, 4)
  | .offset => (offsetWidth space).map (fun w => (0, w))
  | .place =>
    match space with
    | 0 => some (56, 4)
    | 1 => some (48, 9)
    | 4 => some (48, 12)
    | _ => none

/-- A space that has fields other than SPACE (R98). -/
def spaceKnown (n : Nat) : Bool := n = 0 || n = 1 || n = 3 || n = 4 || n = 6

/-- A pointer element's fault, with fa the pointer (R98, R175). -/
def ptrFault (c : Cause) (p : Nat) : Raw := { Raw.of c with fa := some (BitVec.ofNat 64 p) }

/-- The extent of the field an element's instruction works on, or its fault (R98). -/
def ptrExtent (f : PtrField) (p : Nat) : Except Raw (Nat × Nat) :=
  let sp := natBits p 60 4
  if f ≠ .space ∧ !spaceKnown sp then .error (ptrFault .spaceInvalid p)
  else
    match fieldExtent f sp with
    | some x => .ok x
    | none => .error (ptrFault .pointerTagOverflow p)

/-- padd on one element (R98). -/
def paddEl (f : PtrField) (p y : Nat) : Except Raw (Nat × Flags) := do
  let (lo, w) ← ptrExtent f p
  let v := (natBits p lo w : Int) + natToInt 64 y
  if 0 ≤ v ∧ v < ((2 ^ w : Nat) : Int) then .ok ((setField (BitVec.ofNat 64 p) lo w v.toNat).toNat, 0)
  else .error (ptrFault .pointerTagOverflow p)

/-- pset on one element (R98). -/
def psetEl (f : PtrField) (p y : Nat) : Except Raw (Nat × Flags) := do
  let (lo, w) ← ptrExtent f p
  if f = .space ∧ !spaceKnown y then .error (ptrFault .spaceInvalid p)
  else if 2 ^ w ≤ y then .error (ptrFault .pointerTagOverflow p)
  else .ok ((setField (BitVec.ofNat 64 p) lo w y).toNat, 0)

/-- pget on one element (R98). -/
def pgetEl (f : PtrField) (p : Nat) : Except Raw (Nat × Flags) := do
  let (lo, w) ← ptrExtent f p
  .ok (natBits p lo w, 0)

/-- A pointer instruction: vector operands need SEW 64 (R98). -/
def ptrOp (env : Env) (p : Pred) (a b : Token) (f : Nat → Nat → Except Raw (Nat × Flags)) : OpOut := do
  need (predKindOk p) tokenKind
  need (a.kind != .mask && b.kind != .mask) tokenKind
  let wide := a.kind == .vec || b.kind == .vec
  need (!wide || env.lsew == 6) (Raw.of .widthRange (env.vl * 64))
  need (okVec 6 a && okVec 6 b) tokenKind
  elementwise env p [(a, 6), (b, 6)] (.vec 6) (fun _ xs => f (xs.getD 0 0) (xs.getD 1 0))

/-- padd (R98). -/
def execPadd (o : PtrArgs) (s : State) : Out := fireTok (.padd o) s (fun env v => ptrOp env v.p v.l v.r (paddEl o.field))
/-- pset (R98). -/
def execPset (o : PtrArgs) (s : State) : Out := fireTok (.pset o) s (fun env v => ptrOp env v.p v.l v.r (psetEl o.field))
/-- pget (R98). -/
def execPget (o : PtrArgs) (s : State) : Out :=
  fireTok (.pget o) s (fun env v => ptrOp env v.p v.l (Token.scalar 0) (fun p _ => pgetEl o.field p))

end Sys2Proof.Machine
end

