-- ==== Sys2Proof/Machine/LoadStore.lean ====
section
/-!
DEFINITION. Sys2Proof/Machine/LoadStore.lean: loads (R124 to R127), stores (R128, R129), references (R139 to R142), fence, waitc
and waitv (R133 to R135). A load is sent when it may be (Access.lean); a store is probed as it fires and buffered for
the belay.
-/

namespace Sys2Proof.Machine

/-! ### Forms -/

/-- Access bytes of a WS (R117). -/
def wsBytes : MemW → Nat
  | .b | .m => 1
  | .h => 2
  | .w => 4
  | .d | .x => 8
  | .s => 32

/-- The offset of a load: the signed IMM26 of a kind-0 prefix (R116). -/
def loadOff : Pre → Int
  | .imm v => natToInt 26 v.toNat
  | _ => 0

/-- The offset of a store: the signed OFS5 in units of the access width, or the prefix value (R46, R116). -/
def storeOff (w : Nat) (ofs5 : BitVec 5) (imm : Option (BitVec 26)) : Int :=
  match imm with
  | some v => natToInt 26 v.toNat
  | none => ofs5.toInt * (w : Int)

/-- A vector of pointers, or a scalar one. -/
def okBase (t : Token) : Bool := okVec 6 t

/-- The pointer of element `e` (R116). -/
def baseOf (t : Token) (e : Nat) : Word := BitVec.ofNat 64 (t.elem 6 e)

/-- A scalar operand read as a signed number (a stride). -/
def strideOf (t : Token) : Int := natToInt 64 t.val

/-- Element `e` of an index, read as signed at its own width (R116). -/
def indexOf (t : Token) (e : Nat) : Int := if t.wide then natToInt (2 ^ t.lw) (t.elem t.lw e) else natToInt 64 t.val

/-- The null map of a result of `n` elements. -/
def nullMap (n : Nat) (isNull : Nat → Bool) : BitVec 256 := BitVec.ofNat 256 (indexBits isNull n)

/-! ### Loads -/

/-- A load fires (R124): with nothing to access its token is delivered at once, otherwise it waits to be sent. -/
def fireLoad (i : Instr) (s : State) (plan : Site → Operands → Except Raw LoadRec) : Out :=
  settled s (fire i s (fun st o =>
    match plan st o with
    | .error r => st.put s ((st.ex.raise st.f.idx r).reformed st.f.idx)
    | .ok ld =>
      let ex1 := if st.f.reform then st.ex.reformed st.f.idx else st.ex.markFired st.f.idx
      if ld.els.isEmpty then st.put s (ex1.finishLoad ld) else st.put s { ex1 with loads := ex1.loads ++ [ld] }))

/-- The record of a load. -/
def mkLoad (i : Instr) (st : Site) (kind : LoadKind) (req : LoadReq) (shape : TokKind) (null : BitVec 256) (els : List LdElem) : LoadRec :=
  { idx := st.f.idx, req := req, deliver := !st.f.reform, lsid := ((lsidOf i).map (·.1)).getD 0, cls := classOf i, kind := kind
    w := req.w, shape := shape, null := null, els := els, sent := false }

/-- A load of vl elements (R124): element e is at `base e` + `delta e`. -/
def vecLoad (i : Instr) (ws : MemW) (kind : LoadKind) (req : LoadReq) (ok : Env → Operands → Bool)
    (base : Operands → Nat → Word) (delta : Operands → Nat → Int) (s : State) : Out :=
  fireLoad i s (fun st o => do
    let env := st.ex.env st.x st.f.idx
    need (predKindOk o.p && ok env o) tokenKind
    let w := wsBytes ws
    need (decide (env.vl * (8 * w) ≤ 2048)) (Raw.of .widthRange (env.vl * (8 * w)))
    let isNull (e : Nat) : Bool := !predOpen o.p e || o.l.nullAt e || ((slotsOf i).r && o.r.nullAt e)
    let live := (List.range env.vl).filter (fun e => !isNull e)
    let els := live.map (fun e => (⟨e, base o e, delta o e, w, none, none⟩ : LdElem))
    let els := if req.bcast then (els.take 1).map (fun el => { el with e := 0 }) else els
    .ok (mkLoad i st kind { req with w := w } .vec (nullMap env.vl isNull) els))

/-- A load of one scalar (R124). -/
def oneLoad (i : Instr) (kind : LoadKind) (req : LoadReq) (off : Int) (s : State) : Out :=
  fireLoad i s (fun st o => do
    need (predScalarOk o.p && okScalar o.l) tokenKind
    let isNull := !predOpen o.p 0 || o.l.isNull
    .ok (mkLoad i st kind { req with w := 8 } .scalar (nullMap 1 (fun _ => isNull))
      (if isNull then [] else [⟨0, o.l.word, off, 8, none, none⟩])))

/-- Unit stride: e × W (R116). -/
def unitDelta (w : Nat) (off : Int) (e : Nat) : Int := off + e * w

/-- ld (R125). -/
def execLd (o : LoadArgs) (s : State) : Out :=
  vecLoad (.ld o) o.ws .plain { w := 1, cache := true } (fun _ v => okScalar v.l) (fun v e => baseOf v.l e)
    (fun _ e => unitDelta (wsBytes o.ws) (loadOff o.pre) e) s
/-- ldff (R127). -/
def execLdff (o : LoadArgs) (s : State) : Out :=
  vecLoad (.ldff o) o.ws .first { w := 1, cache := true, ff := true } (fun _ v => okScalar v.l) (fun v e => baseOf v.l e)
    (fun _ e => unitDelta (wsBytes o.ws) (loadOff o.pre) e) s
/-- lds: e × s for a signed byte stride s (R116). -/
def execLds (o : LoadArgs) (s : State) : Out :=
  vecLoad (.lds o) o.ws .plain { w := 1, cache := true } (fun _ v => okScalar v.l && okScalar v.r) (fun v e => baseOf v.l e)
    (fun v e => loadOff o.pre + e * strideOf v.r) s
/-- ldg: idx_e × W (R116, R126). -/
def execLdg (o : LoadArgs) (s : State) : Out :=
  vecLoad (.ldg o) o.ws .plain { w := 1, cache := true, gather := true } (fun env v => okBase v.l && okVec env.lsew v.r) (fun v e => baseOf v.l e)
    (fun v e => loadOff o.pre + indexOf v.r e * (wsBytes o.ws)) s
/-- ldgff (R127). -/
def execLdgff (o : LoadArgs) (s : State) : Out :=
  vecLoad (.ldgff o) o.ws .first { w := 1, cache := true, ff := true, gather := true } (fun env v => okBase v.l && okVec env.lsew v.r)
    (fun v e => baseOf v.l e) (fun v e => loadOff o.pre + indexOf v.r e * (wsBytes o.ws)) s
/-- ldb: one access, vl copies (R125). -/
def execLdb (o : LoadArgs) (s : State) : Out :=
  vecLoad (.ldb o) o.ws .plain { w := 1, cache := true, bcast := true } (fun _ v => okScalar v.l) (fun v e => baseOf v.l e)
    (fun _ _ => loadOff o.pre) s
/-- ldx: device registers are within its reach (R119). -/
def execLdx (o : LoadXArgs) (s : State) : Out := oneLoad (.ldx o) .plain { w := 8, cache := true, dev := true } (loadOff o.pre) s

/-- ldm: one access of ceil(vl ÷ 8) bytes, which may begin at any byte (R117, R125). -/
def execLdm (o : LoadXArgs) (s : State) : Out :=
  fireLoad (.ldm o) s (fun st v => do
    need (predKindOk v.p && okScalar v.l) tokenKind
    let vl := st.ex.img.vl
    let isNull (e : Nat) : Bool := !predOpen v.p e || v.l.isNull
    let none? := (List.range vl).all isNull
    .ok (mkLoad (.ldm o) st .plain { w := 1, cache := true } .mask (nullMap vl isNull)
      (if none? then [] else [⟨0, v.l.word, loadOff o.pre, (vl + 7) / 8, none, none⟩])))

/-- lda: a load that performs as an acquire at SCOPE (R132). -/
def execLda (o : LdaArgs) (s : State) : Out := oneLoad (.lda o) (.acquire o.scope) { w := 8 } (loadOff o.pre) s

/-! ### References -/

/-- ldk: an access inside the object a reference names (R141). -/
def execLdk (o : LoadArgs) (s : State) : Out :=
  if o.ws = .x then oneLoad (.ldk o) (.refObj false false) { w := 8 } (loadOff o.pre) s
  else vecLoad (.ldk o) o.ws (.refObj false false) { w := 1 } (fun _ v => okScalar v.l) (fun v e => baseOf v.l e)
    (fun _ e => unitDelta (wsBytes o.ws) (loadOff o.pre) e) s

/-- A pointer to a reference lies in global or scratchpad space (R139, R140); one to a device register keeps the fault of its shape, at
the step of R131 that raises it (R115, R119). -/
def refWordSpace (p : Word) : Bool := spaceOf p = 0 || spaceOf p = 1 || spaceOf p = 6

/-- ldref and ldref.h: a marked operand names an object, an unmarked one points to the word (R139, R140). ldref.h probes its
word as it fires, and holds the probe as a heal that has no new value yet. -/
def refLoad (i : Instr) (o : LoadXArgs) (heal : Bool) (s : State) : Out :=
  settled s (fire i s (fun st v =>
    let n := st.f.idx
    let fired := if st.f.reform then st.ex.reformed n else st.ex.markFired n
    if !(predScalarOk v.p && okScalar v.l) then st.put s ((st.ex.raise n tokenKind).reformed n)
    else if !predOpen v.p 0 || v.l.isNull then
      st.put s (if st.f.reform then fired else fired.deliverAll n { Token.nullScalar with ref := true } (outsAt n i))
    else
      let off := loadOff o.pre
      let p := v.l.word
      let el : LdElem := ⟨0, p, off, 8, none, none⟩
      let r : AccReq := { need := { rd := true, wr := heal }, w := 8, n := 8, user := st.ex.user }
      let ld := mkLoad i st (if v.l.ref then .refObj true heal else .refWord heal) { w := 8, wr := heal } .scalar 0 [el]
      let held (place : Place) : Exec :=
        if heal then fired.buffer n (.heal ld.lsid ld.cls p v.l.ref off place 0 0) else fired
      let go (ex : Exec) : State := st.put { s with free := s.free + 2 } { ex with loads := ex.loads ++ [ld] }
      let fail (fs : List (Nat × ElemFault)) : State := st.put s ((st.ex.raiseElems n fs).reformed n)
      if v.l.ref then
        if !heal then go fired
        else
          match s.checkRefEls st.ex.pc r p off 8 [(0, off, 8)] with
          | .error fs => fail fs
          | .ok l => go (held ((l.map (·.2)).headD ⟨0, none, none⟩))
      else if !refWordSpace p then fail [(0, ⟨.spaceInvalid, 0, (addOffset p off).1, none⟩)]
      else if !heal && spaceOf p ≠ 6 then go fired
      else
        match s.probe st r [⟨0, p, off, 8⟩] with
        | .error fs => fail fs
        | .ok parts => go (held ((parts.map (·.2.place)).headD ⟨0, none, none⟩))))

/-- ldref (R140). -/
def execLdref (o : LoadXArgs) (s : State) : Out := refLoad (.ldref o) o false s
/-- ldref.h: also heals at the belay (R140). -/
def execLdrefH (o : LoadXArgs) (s : State) : Out := refLoad (.ldrefH o) o true s

/-! ### Stores -/

/-- What a store does: its width, elements and bytes (R128), and for stl its release scope. -/
structure StorePlan where
  w    : Nat
  dev  : Bool
  rel  : Option Scope
  els  : List AccEl
  data : List (Nat × List (Byte × Byte))
  deriving DecidableEq, Repr

/-- A store fires: its elements are probed, and their bytes buffered for the belay (R26, R128). -/
def fireStore (i : Instr) (s : State) (plan : Site → Operands → Except Raw StorePlan) : Out :=
  settled s (fire i s (fun st o =>
    match plan st o with
    | .error r => st.put s ((st.ex.raise st.f.idx r).reformed st.f.idx)
    | .ok p =>
      let r : AccReq := { need := { wr := true }, dev := p.dev, w := p.w, n := p.w, user := st.ex.user }
      match s.probe st r p.els with
      | .error fs => st.put s ((st.ex.raiseElems st.f.idx fs).reformed st.f.idx)
      | .ok parts =>
        st.put { s with free := s.free + 2 * p.els.length }
          (st.withEffect i (some (.store (((lsidOf i).map (·.1)).getD 0) (classOf i) p.rel (storeEls parts p.data))) none)))

/-- A data token of width 8W, or a scalar (R128). -/
def okData (w : Nat) (t : Token) : Bool := okVec (bitLen 10 (8 * w) - 1) t

/-- The bytes of element `e` of a data token. -/
def dataBytes (w : Nat) (t : Token) (e : Nat) : List (Byte × Byte) := fullBytes w (t.elem (bitLen 10 (8 * w) - 1) e)

/-- A store of vl elements. -/
def vecStore (i : Instr) (ws : MemW) (ok : Env → Operands → Bool) (base : Operands → Nat → Word) (delta : Operands → Nat → Int)
    (s : State) : Out :=
  fireStore i s (fun st o => do
    let env := st.ex.env st.x st.f.idx
    let w := wsBytes ws
    need (predKindOk o.p && ok env o && okData w o.r) tokenKind
    let isNull (e : Nat) : Bool := !predOpen o.p e || o.l.nullAt e || o.r.nullAt e || ((slotsOf i).t && o.t.nullAt e)
    let live := (List.range env.vl).filter (fun e => !isNull e)
    .ok ⟨w, false, none, live.map (fun e => ⟨e, base o e, delta o e, w⟩), live.map (fun e => (e, dataBytes w o.r e))⟩)

/-- A store of one scalar. -/
def oneStore (i : Instr) (dev : Bool) (rel : Option Scope) (off : Int) (s : State) : Out :=
  fireStore i s (fun _ o => do
    need (predScalarOk o.p && okScalar o.l && okScalar o.r) tokenKind
    if !predOpen o.p 0 || o.l.isNull || o.r.isNull then .ok ⟨8, dev, rel, [], []⟩
    else .ok ⟨8, dev, rel, [⟨0, o.l.word, off, 8⟩], [(0, fullBytes 8 o.r.val)]⟩)

/-- st (R129). -/
def execSt (o : StoreArgs) (s : State) : Out :=
  vecStore (.st o) o.ws (fun _ v => okScalar v.l) (fun v e => baseOf v.l e)
    (fun _ e => unitDelta (wsBytes o.ws) (storeOff (wsBytes o.ws) o.ofs5 o.imm) e) s
/-- sts (R129). -/
def execSts (o : StoreArgs) (s : State) : Out :=
  vecStore (.sts o) o.ws (fun _ v => okScalar v.l && okScalar v.t) (fun v e => baseOf v.l e)
    (fun v e => storeOff (wsBytes o.ws) o.ofs5 o.imm + e * strideOf v.t) s
/-- stg (R129). -/
def execStg (o : StoreArgs) (s : State) : Out :=
  vecStore (.stg o) o.ws (fun env v => okBase v.l && okVec env.lsew v.t) (fun v e => baseOf v.l e)
    (fun v e => storeOff (wsBytes o.ws) o.ofs5 o.imm + indexOf v.t e * (wsBytes o.ws)) s
/-- stx (R129). -/
def execStx (o : StoreXArgs) (s : State) : Out := oneStore (.stx o) true none (storeOff 8 o.ofs5 o.imm) s
/-- stl: a release at SCOPE (R132). -/
def execStl (o : StlArgs) (s : State) : Out := oneStore (.stl o) false (some o.scope) (storeOff 8 o.ofs5 o.imm) s

/-- Byte `b` of a stored mask and the bits of it that are written: a null bit keeps the old bit, and bits from vl on are
written as 0 (R129). -/
def maskByte (vl : Nat) (p : Pred) (t : Token) (b : Nat) : Byte × Byte :=
  let isNull (e : Nat) : Bool := !predOpen p e || t.nullAt e
  let bit (k : Nat) : Bool :=
    let e := 8 * b + k
    decide (e < vl) && !isNull e && (if t.wide then natBit t.bits.toNat e == 1 else t.val != 0)
  let written (k : Nat) : Bool := !(decide (8 * b + k < vl) && isNull (8 * b + k))
  (BitVec.ofNat 8 (indexBits bit 8), BitVec.ofNat 8 (indexBits written 8))

/-- stm (R129). -/
def execStm (o : StoreXArgs) (s : State) : Out :=
  fireStore (.stm o) s (fun st v => do
    need (predKindOk v.p && okScalar v.l && okMask v.r) tokenKind
    let vl := st.ex.img.vl
    if v.l.isNull || (List.range vl).all (fun e => !predOpen v.p e || v.r.nullAt e) then .ok ⟨1, false, none, [], []⟩
    else
      let n := (vl + 7) / 8
      .ok ⟨1, false, none, [⟨0, v.l.word, storeOff n o.ofs5 o.imm, n⟩], [(0, (List.range n).map (maskByte vl v.p v.r))]⟩)

/-- A store through a reference operand: the barrier's checks are its probe (R141, R142). -/
def fireRefStore (i : Instr) (s : State) (st : Site) (ref : Word) (off : Int) (span w : Nat) (els : List (Nat × Int × List Byte)) : State :=
  let r : AccReq := { need := { wr := true }, w := w, n := w, user := st.ex.user }
  if els.isEmpty then st.put s (st.withEffect i (some (.refStore (((lsidOf i).map (·.1)).getD 0) (classOf i) w [])) none)
  else
    match s.checkRefEls st.ex.pc r ref off span (els.map (fun a => (a.1, a.2.1, w))) with
    | .error fs => st.put s ((st.ex.raiseElems st.f.idx fs).reformed st.f.idx)
    | .ok places =>
      let hold (e : Nat) : Option Hold := (places.find? (fun p => p.1 = e)).bind (fun p => p.2.hold)
      st.put s (st.withEffect i (some (.refStore (((lsidOf i).map (·.1)).getD 0) (classOf i) w
        (els.map (fun a => ⟨a.1, ref, a.2.1, hold a.1, a.2.2⟩)))) none)

/-- stk (R129, R141). -/
def execStk (o : StoreArgs) (s : State) : Out :=
  settled s (fire (.stk o) s (fun st v =>
    let w := (wsBytes o.ws)
    let n := if o.ws = .x then 1 else st.ex.img.vl
    let off := storeOff w o.ofs5 o.imm
    let ok := if o.ws = .x then predScalarOk v.p && okScalar v.l && okScalar v.r else predKindOk v.p && okScalar v.l && okData w v.r
    if !ok then st.put s ((st.ex.raise st.f.idx tokenKind).reformed st.f.idx)
    else
      let live := (List.range n).filter (fun e => predOpen v.p e && !v.l.isNull && !v.r.nullAt e)
      fireRefStore (.stk o) s st v.l.word off (n * w) w (live.map (fun e => (e, off + (e * w : Nat), (dataBytes w v.r e).map (·.1))))))

/-- stref: the reference token's value, or 0, to the address or to the object field (R142). -/
def execStref (o : StoreXArgs) (s : State) : Out :=
  settled s (fire (.stref o) s (fun st v =>
    let off := storeOff 8 o.ofs5 o.imm
    let n := st.f.idx
    if !(predScalarOk v.p && okScalar v.l && okScalar v.r) then st.put s ((st.ex.raise n tokenKind).reformed n)
    else
      let closed := !predOpen v.p 0 || v.l.isNull || v.r.isNull
      let lsid := o.lsid.toNat
      if v.l.ref then
        fireRefStore (.stref o) s st v.l.word off 8 8 (if closed then [] else [(0, off, natLe 8 v.r.val)])
      else if closed then st.put s (st.withEffect (.stref o) (some (.store lsid o.cls.toNat none [])) none)
      else if !refWordSpace v.l.word then
        st.put s ((st.ex.raiseElems n [(0, ⟨.spaceInvalid, 0, (addOffset v.l.word off).1, none⟩)]).reformed n)
      else
        match s.probe st { need := { wr := true }, w := 8, n := 8, user := st.ex.user } [⟨0, v.l.word, off, 8⟩] with
        | .error fs => st.put s ((st.ex.raiseElems n fs).reformed n)
        | .ok parts =>
          st.put { s with free := s.free + 2 }
            (st.withEffect (.stref o) (some (.store lsid o.cls.toNat none (storeEls parts [(0, fullBytes 8 v.r.val)]))) none)))

/-! ### Fence, waitc and waitv -/

/-- fence (R133): it takes its place in the order of the strand's accesses at the belay. -/
def execFence (o : FenceArgs) (s : State) : Out :=
  settled s (fireWhole (.fence o) s (fun _ _ => .ok (some (.fence o.lsid.toNat o.scope (o.mask.getD 0xFFFF)), none)))

/-- waitc: its wait begins at the belay (R134). -/
def execWaitc (o : WaitcArgs) (s : State) : Out :=
  fireWhole (.waitc o) s (fun _ _ =>
    let c := o.counts.getD ⟨0, 0, 0, 0⟩
    .ok (some (.waitc o.cls.toNat c.loads.toNat c.stores.toNat c.copies.toNat c.tiles.toNat), none))

/-- The timeout of waitv (R52, R135). -/
def waitvTicks : Pre → Nat
  | .imm v => v.toNat
  | _ => 1048576

/-- waitv: a load that waits for a value other than X; a prefix gives its timeout and no offset (R52, R135). -/
def execWaitv (o : LoadXArgs) (s : State) : Out :=
  fireLoad (.waitv o) s (fun st v => do
    need (predScalarOk v.p && okScalar v.l && okScalar v.r) tokenKind
    let isNull := !predOpen v.p 0 || v.l.isNull || v.r.isNull
    .ok (mkLoad (.waitv o) st (.watch v.r.word (waitvTicks o.pre)) { w := 8, waitv := true } .scalar (nullMap 1 (fun _ => isNull))
      (if isNull then [] else [⟨0, v.l.word, 0, 8, none, none⟩])))

end Sys2Proof.Machine
end

