-- ==== Sys2Proof/Machine/Atomic.lean ====
section
/-!
DEFINITION. Sys2Proof/Machine/Atomic.lean: the atomics (R136 to R138). An atomic is probed as it fires and sent at the belay; its
result fills its write slot when the response returns (R27).
-/

namespace Sys2Proof.Machine

/-- An atomic has a vector operand y, or new value z (R136). -/
def amoWide (o : Operands) (three : Bool) : Bool := o.r.wide || (three && o.t.wide)

/-- An atomic fires (R136): the width is 8 for a scalar operand, whatever its pointer, and SEW ÷ 8 for a vector operand, where SEW must be
32 or 64. DESIGN CHOICE (log 117): an atomic whose operands are all scalar has one element of 8 bytes, which bit 0 of a mask predicate
gates; R427 counts the atomics as element-wise and does not say whether the mask gives such an atomic vl elements. -/
def fireAtomic (i : Instr) (a : AtomicArgs) (op : AmoOp) (s : State) : Out :=
  settled s (fire i s (fun st o =>
    let n := st.f.idx
    let env := st.ex.env st.x n
    let three := (slotsOf i).t
    let lw := if amoWide o three then env.lsew else 6
    let wide := o.l.wide || amoWide o three
    let w := 2 ^ lw / 8
    let fail (r : Raw) : State := st.put s ((st.ex.raise n r).reformed n)
    if lw < 5 then fail (Raw.of .widthRange (env.vl * 2 ^ lw))
    else if !(predKindOk o.p && okBase o.l && okVec lw o.r && (!three || okVec lw o.t)) then fail tokenKind
    else
      let cnt := if wide then env.vl else 1
      let live := (List.range cnt).filter (fun e => predOpen o.p e && !o.l.nullAt e && !o.r.nullAt e && !(three && o.t.nullAt e))
      let nullTok : Token := if wide then Token.vector lw (List.replicate cnt none) else Token.nullScalar
      let r : AccReq := { need := { rd := true, wr := true }, atom := true, hostOp := op == .add || op == .swap || op == .cas, w := w, n := w, user := st.ex.user }
      match s.probe st r (live.map (fun e => ⟨e, baseOf o.l e, 0, w⟩)) with
      | .error fs => st.put s ((st.ex.raiseElems n fs).reformed n)
      | .ok parts =>
        let els := parts.map (fun p => (⟨p.1, p.2.ptr, p.2.place, o.r.elem lw p.1, o.t.elem lw p.1⟩ : AmElem))
        let ex0 := if st.f.reform then st.ex.reformed n else st.ex.markFired n
        let ex1 := ex0.buffer n (.atomic a.lsid.toNat op w a.scope a.ord wide els)
        let ex2 := if els.isEmpty then (if st.f.reform then ex1 else ex1.deliverAll n nullTok (outsAt n i))
          else ex1.reserve n nullTok (outsAt n i)
        st.put { s with free := s.free + 2 * live.length } ex2))

/-- amo.add (R136, R137). -/
def execAmoAdd (o : AtomicArgs) (s : State) : Out := fireAtomic (.amoAdd o) o .add s
/-- amo.and. -/
def execAmoAnd (o : AtomicArgs) (s : State) : Out := fireAtomic (.amoAnd o) o .and s
/-- amo.or. -/
def execAmoOr (o : AtomicArgs) (s : State) : Out := fireAtomic (.amoOr o) o .or s
/-- amo.xor. -/
def execAmoXor (o : AtomicArgs) (s : State) : Out := fireAtomic (.amoXor o) o .xor s
/-- amo.min. -/
def execAmoMin (o : AtomicArgs) (s : State) : Out := fireAtomic (.amoMin o) o .min s
/-- amo.max. -/
def execAmoMax (o : AtomicArgs) (s : State) : Out := fireAtomic (.amoMax o) o .max s
/-- amo.swap. -/
def execAmoSwap (o : AtomicArgs) (s : State) : Out := fireAtomic (.amoSwap o) o .swap s
/-- amo.cas. -/
def execAmoCas (o : AtomicArgs) (s : State) : Out := fireAtomic (.amoCas o) o .cas s

end Sys2Proof.Machine
end

