-- ==== Sys2Proof/Machine/Control.lean ====
section
/-!
DEFINITION. Sys2Proof/Machine/Control.lean: exits, hardware loops and strips (R144 to R160) and the control registers (R10, R161).
What a taken exit does at the belay is held in its ExitFx.
-/

namespace Sys2Proof.Machine

/-! ### Exits -/

/-- What an exit makes of its operands: its action, whether its condition holds, and whether it saw DONE (R144, R154). -/
structure ExitPlan where
  fx   : ExitFx
  cond : Bool
  acq  : Bool
  deriving DecidableEq, Repr

/-- The operands an exit uses. -/
def usedTokens (i : Instr) (o : Operands) : List Token :=
  (if (slotsOf i).l then [o.l] else []) ++ (if (slotsOf i).r then [o.r] else [])

/-- An exit fires: it takes when its gate is open, every operand is non-null and its condition holds; an exit formed again
after a return takes because TAKEN says so (R144, R171). Faults of firing are raised whether or not it takes. -/
def fireExit (i : Instr) (s : State) (f : Site → Operands → Except Raw ExitPlan) : Out :=
  fire i s (fun st o =>
    let n := st.f.idx
    let used := usedTokens i o
    if !(predScalarOk o.p && used.all okScalar) then st.put s ((st.ex.raise n tokenKind).reformed n)
    else
      match f st o with
      | .error r => st.put s ((st.ex.raise n r).reformed n)
      | .ok p =>
        let take := st.f.reform || (predOpen o.p 0 && used.all (fun t => !t.isNull) && p.cond)
        let ex0 := if st.f.reform then st.ex.reformed n else st.ex.markFired n
        let ex1 := if take then { ex0 with taken := ex0.taken ++ [(n, p.fx)] } else ex0
        let s1 := st.put s ex1
        if p.acq then s1.acquireAt st.x.id .engine 0 else s1)

/-- The address an offset names; the carry was checked as the pitch was decoded (R48). -/
def Site.target (st : Site) (d : Int) : Word := (offTarget st.ex.pc d).getD st.ex.pc

/-- A condition operand is not zero. -/
def condTrue (f : Bool) (t : Token) : Bool := !f || t.val != 0

/-- br (R147). -/
def execBr (o : BrArgs) (s : State) : Out :=
  fireExit (.br o) s (fun st v => .ok ⟨.goto (st.target o.off.toInt), condTrue o.f v.l, false⟩)
/-- br.call: as br, and the return predictor takes the fall-through (R147). -/
def execBrCall (o : BrArgs) (s : State) : Out :=
  fireExit (.brCall o) s (fun st v => .ok ⟨.call (st.target o.off.toInt), condTrue o.f v.l, false⟩)
/-- br.ind (R147). -/
def execBrInd (o : BrIndArgs) (s : State) : Out :=
  fireExit (.brInd o) s (fun _ v => .ok ⟨.goto v.l.word, condTrue o.f v.r, false⟩)
/-- br.ret (R147). -/
def execBrRet (o : BrIndArgs) (s : State) : Out :=
  fireExit (.brRet o) s (fun _ v => .ok ⟨.ret v.l.word, condTrue o.f v.r, false⟩)
/-- br.strip (R152). -/
def execBrStrip (o : OffArgs) (s : State) : Out := fireExit (.brStrip o) s (fun _ _ => .ok ⟨.strip o.off.toInt, true, false⟩)

/-- br.es: a snapshot of the slot decides between the target and the fall-through (R153, R154). -/
def execBrEs (o : BrArgs) (s : State) : Out :=
  fireExit (.brEs o) s (fun st v =>
    if h : v.l.val < 8 then
      let snap := st.x.es[v.l.val]
      let hit := if o.f then snap == .fault else snap == .done
      .ok ⟨if hit then .goto (st.target o.off.toInt) else .fall, true, !v.l.isNull && snap == .done⟩
    else if v.l.isNull then .ok ⟨.fall, true, false⟩
    else .error (Raw.of .esIndex v.l.val))

/-- KIND of a loop control value (R12). -/
def loopKind (lc : Word) : Nat := natBits lc.toNat 5 2
/-- ACT of a loop control value (R12). -/
def loopAct (lc : Word) : Bool := natBit lc.toNat 7 = 1

/-- loop at level n: LOOP_STATE when the level is not active (R149). -/
def execLoop (o : LoopArgs) (s : State) : Out :=
  fireExit (.loop o) s (fun st v =>
    let lc := st.ex.img.lc[o.lvl.val]
    if !loopAct lc || loopKind lc = 0 then .error (Raw.of .loopState o.lvl.val)
    else .ok ⟨.loopClose o.lvl.val (o.f && v.l.val != 0) o.off.toInt, true, false⟩)

/-- loopc and loopw: LOOP_RANGE as they fire (R148). -/
def loopSetup (i : Instr) (o : LoopSetArgs) (isWhile : Bool) (s : State) : Out :=
  fireExit i s (fun _ v =>
    let t : Nat := match o.trip with | some imm => imm.toNat | none => v.l.val
    let known := o.trip.isSome || !v.l.isNull
    if known && (decide (2 ^ 48 ≤ t) || (isWhile && t = 0)) then .error (Raw.of .loopRange (t / 2 ^ 32))
    else .ok ⟨.loopSet o.lvl.val isWhile o.xreg.toNat t v.r.word o.off.toInt, true, false⟩)

/-- loopc (R148). -/
def execLoopc (o : LoopSetArgs) (s : State) : Out := loopSetup (.loopc o) o false s
/-- loopw (R148). -/
def execLoopw (o : LoopSetArgs) (s : State) : Out := loopSetup (.loopw o) o true s
/-- yield (R157). -/
def execYield (o : BareArgs) (s : State) : Out := fireExit (.yield o) s (fun _ _ => .ok ⟨.yield, true, false⟩)
/-- rtp: PROTECTION in user mode (R159). -/
def execRtp (o : BareArgs) (s : State) : Out :=
  fireExit (.rtp o) s (fun st _ => if st.ex.user then .error (Raw.of .protection) else .ok ⟨.rtp, true, false⟩)
/-- fin (R160). -/
def execFin (o : BareArgs) (s : State) : Out := fireExit (.fin o) s (fun _ _ => .ok ⟨.fin, true, false⟩)

/-- trigger (R155). -/
def execTrigger (o : BareArgs) (s : State) : Out := fireWhole (.trigger o) s (fun _ _ => .ok (some .trigger, none))
/-- setrecov (R156). -/
def execSetrecov (o : OffArgs) (s : State) : Out :=
  fireWhole (.setrecov o) s (fun st _ => .ok (some (.setrecov (st.target o.off.toInt)), none))

/-! ### Control registers -/

/-- The two bits of an es slot (R219). -/
def esBits : EsState → Nat
  | .idle => 0
  | .busy => 1
  | .done => 2
  | .fault => 3

/-- The value of es. -/
def Ctx.esWord (x : Ctx) : Nat := packElems 1 (x.es.toList.map (fun e => some (esBits e)))

/-- The value of st (R13). -/
def Ctx.stWord (x : Ctx) : Nat := (if x.sup then 1 else 0) + (if x.fr = 0 then 0 else 2) + (if x.intrap then 4 else 0)

/-- The value of a control register: as it stood after the preceding belay, but es as it stands (R10, R161). -/
def csrValue (x : Ctx) (ex : Exec) (n : Nat) : Nat :=
  let g := ex.img
  let lvl (w : Nat) (base : Nat) (v : Vector (BitVec w) 6) : Nat := (v.toList.getD (n - base) 0).toNat
  if n = 0 then g.sb.toNat
  else if n = 1 then g.sn.toNat
  else if n = 2 then g.vl
  else if n = 3 then g.sc.toNat
  else if 0x10 ≤ n ∧ n ≤ 0x15 then lvl 48 0x10 g.lp
  else if 0x18 ≤ n ∧ n ≤ 0x1D then lvl 48 0x18 g.lm
  else if 0x20 ≤ n ∧ n ≤ 0x25 then lvl 64 0x20 g.ls
  else if 0x28 ≤ n ∧ n ≤ 0x2D then lvl 64 0x28 g.lc
  else if n = 0x30 then x.fc.toNat
  else if n = 0x31 then x.fa.toNat
  else if n = 0x32 then x.fb.toNat
  else if n = 0x33 then x.ff.toNat
  else if n = 0x34 then g.fr.toNat
  else if n = 0x40 then x.esWord
  else if n = 0x50 then g.fx.toNat
  else if n = 0x51 then g.fe.toNat
  else if n = 0x52 then g.sl.toNat
  else if n = 0x60 then x.stWord
  else if n = 0x61 then ex.pc.toNat
  else if n = 0x62 then g.sid
  else 0

/-- A control register of supervisor mode only (R10). -/
def csrSup (n : Nat) : Bool := n = 0x33

/-- csrr (R161): a snapshot of es that shows DONE is an acquire at ENGINE scope (R120). -/
def execCsrr (o : CsrrArgs) (s : State) : Out :=
  fire (.csrr o) s (fun st v =>
    let n := st.f.idx
    let k := o.csr.toNat
    if !predScalarOk v.p then st.put s (st.ex.raise n tokenKind)
    else if !predOpen v.p 0 then st.put s (st.complete (.csrr o) (okTok Token.nullScalar))
    else if csrSup k && st.ex.user then st.put s (st.ex.raise n (Raw.of .protection k))
    else
      let s1 := st.put s (st.complete (.csrr o) (okTok (Token.scalar (csrValue st.x st.ex k))))
      if k = 0x40 && st.x.es.toList.any (· == .done) then s1.acquireAt st.x.id .engine 0 else s1)

/-- csrw (R161). -/
def execCsrw (o : CsrwArgs) (s : State) : Out :=
  fireWhole (.csrw o) s (fun st v => do
    let k := o.csr.toNat
    need (okScalar v.l) tokenKind
    if v.l.isNull then .ok (none, some Token.nullScalar)
    else do
      need (!(csrSup k && st.ex.user)) (Raw.of .protection k)
      need (!(0x28 ≤ k && k ≤ 0x2D && loopKind v.l.word = 3)) ⟨.csrInvalid, k, none, some (st.ex.parcelAddr st.f.idx)⟩
      .ok (some (.csrw k v.l.word), some (Token.scalar (csrValue st.x st.ex k))))

end Sys2Proof.Machine
end

