-- ==== Sys2Proof/Machine/Records.lean ====
section
/-!
DEFINITION. Sys2Proof/Machine/Records.lean: what units other than a strand write and send. Fault-queue records (R225, R291,
R376), cairns and the futures an engine resolves (R288, R298, R428), and signals to cards with their job counts (R293,
R298, R307).
-/

namespace Sys2Proof.Machine

/-! ### Writes of a unit -/

/-- Write bytes to a checked place; a peer's bytes are no part of this machine. -/
def State.storePlace (s : State) (p : Place) (d : List (Byte × Byte)) : State := if p.peer.isNone then s.store p.key d else s

/-- The place of `n` bytes at a pointer, aligned to `w`, for a unit with rights and windows. -/
def State.unitPlace (s : State) (wins : List ScrWindow) (user : Bool) (nd : Need) (w n : Nat) (p : Word) : Except ElemFault Part :=
  match s.checkElem wins { need := nd, w := w, n := n, user := user } s.free p 0 with
  | .ok (a :: _) => .ok a
  | .ok [] => .error ⟨.spaceInvalid, 0, p, none⟩
  | .error e => .error e

/-- The die writes a record at TAIL, advances TAIL and raises MSI-X vector d; with no room or no place for it the record is
counted as lost (R376). -/
def State.postRecord (s : State) (d : Nat) (rec : List Byte) : State :=
  let r := s.die d
  let lost := s.setDie d { r with lost := min (r.lost + 1) (2 ^ 32 - 1) }
  let n := 2 ^ r.logn
  if r.logn = 0 ∨ (r.tail + 1) % n = r.head ∨ (spaceOf r.fqbase ≠ 0 ∧ spaceOf r.fqbase ≠ 3) then lost
  else
    match s.unitPlace [] false { wr := true } 32 32 (addOffset r.fqbase (32 * r.tail : Nat)).1 with
    | .error _ => lost
    | .ok p =>
      if s.fenced p.place then lost else
      let s1 := (s.storePlace p.place (rec.map (fun b => (b, 255)))).setDie d { r with tail := (r.tail + 1) % n }
      { s1 with msix := s1.msix ++ [d] }

/-- A record in the layout of R291. -/
def record291 (code kind sid : Nat) (launch addr : Word) (detail : Nat) : List Byte :=
  natLe 1 code ++ natLe 1 kind ++ natLe 2 0 ++ natLe 4 sid ++ natLe 8 launch.toNat ++ natLe 8 addr.toNat ++ natLe 8 detail

/-- A record in the layout of R225, whose second and third bytes are given. -/
def record225 (code unit slot sid : Nat) (cmd addr : Word) (detail : Nat) : List Byte :=
  natLe 1 code ++ natLe 1 unit ++ natLe 1 slot ++ natLe 1 0 ++ natLe 4 sid ++ natLe 8 cmd.toNat ++ natLe 8 addr.toNat ++ natLe 8 detail

/-- The nest record or card that a context runs for (R291). -/
def State.launchWord (s : State) (x : Ctx) : Word :=
  match x.job with
  | .nest l _ => ((s.launches.find? (fun a => a.id = l)).map (·.ptr)).getD 0
  | .card c => ((s.running.find? (fun a => a.id = c)).map (·.card)).getD 0
  | .none => 0

/-- Who a strand is, as its signals record it at the belay (R293). -/
def State.sigSrc (s : State) (x : Ctx) : SigSrc := ⟨x.core, dieOf x.core, sidOf x, s.launchWord x, !x.sup, x.wins, 0⟩

/-! ### Jobs -/

/-- The scheduling state of a die. -/
def State.schedOf (s : State) (d : Nat) : DieSched := ((s.sched.find? (fun t => t.1 = d)).map (·.2)).getD DieSched.reset

/-- Replace the scheduling state of a die. -/
def State.setSched (s : State) (d : Nat) (x : DieSched) : State := { s with sched := (d, x) :: s.sched.filter (fun u => u.1 ≠ d) }

/-- The counters of a job on a die. -/
def DieSched.job (x : DieSched) (j : Nat) : JobCount := ((x.jobs.find? (fun t => t.1 = j)).map (·.2)).getD ⟨0, 0, 0⟩

/-- Change the counters of a job on a die; job 0 has none (R292, R307). -/
def State.jobUpd (s : State) (d j : Nat) (f : JobCount → JobCount) : State :=
  if j = 0 then s
  else
    let x := s.schedOf d
    s.setSched d { x with jobs := (j, f (x.job j)) :: x.jobs.filter (fun t => t.1 ≠ j) }

/-- A count of a job rises: the sequence of its flush rounds ends (R308). -/
def State.jobRise (s : State) (d j : Nat) (f : JobCount → JobCount) : State :=
  let t := s.jobUpd d j f
  { t with rounds := t.rounds.filter (fun r => r.1 ≠ j) }

/-- One more post or signal is on its way (R307). -/
def State.tcInc (s : State) (d j : Nat) : State := s.jobRise d j (fun c => { c with tc := c.tc + 1, inc := c.inc + 1 })
/-- A post or signal has been acknowledged. -/
def State.tcDec (s : State) (d j : Nat) : State := s.jobUpd d j (fun c => { c with tc := c.tc - 1 })
/-- One more card of the job is queued or running. -/
def State.qcInc (s : State) (d j : Nat) : State := s.jobRise d j (fun c => { c with qc := c.qc + 1, inc := c.inc + 1 })
/-- A card of the job is done. -/
def State.qcDec (s : State) (d j : Nat) : State := s.jobUpd d j (fun c => { c with qc := c.qc - 1 })

/-! ### Cards and signals -/

/-- The form of a card address (R292): striped, VA below 2^52, aligned to 64. -/
def cardForm (p : Word) : Bool := natBits p.toNat 52 12 = 0x0C0 && natBits p.toNat 0 6 = 0

/-- Why a card address fails, as a strand access would (R293): the code, or the key of the card. -/
def State.cardKey (s : State) (user : Bool) (p : Word) : Except Cause Nat :=
  if natBits p.toNat 52 12 ≠ 0x0C0 then .error .spaceInvalid
  else if natBits p.toNat 0 6 ≠ 0 then .error .misaligned
  else
    match s.xlatePtr p { rd := true, wr := true, usr := user } with
    | .ok (k, _) => .ok k
    | .error .absent => .error .transNotPresent
    | .error (.denied _) => .error .protection

/-- The job of a card whose address can be read, else 0. -/
def State.cardJob (s : State) (p : Word) : Nat :=
  match s.cardKey false p with
  | .ok k => natBits (s.peek k 8) 24 8
  | .error _ => 0

/-- A unit of die `d` signals a card (R293, R307). -/
def State.sendSignal (s : State) (d : Nat) (src : Option SigSrc) (card : Word) (err : Bool) : State :=
  let job := s.cardJob card
  (s.tcInc d job).send (.unit d) 15 (.signal card err src job d)

/-- A record of KIND 0x04 about a card, future or nest (R309). -/
def State.postCard (s : State) (d : Nat) (c : Cause) (src : Option SigSrc) (addr : Word) (detail : Nat) : State :=
  s.postRecord d (record291 c.code 4 ((src.map (·.sid)).getD 0) ((src.map (·.launch)).getD 0) addr detail)

/-! ### Futures -/

/-- ST, CNT and HEAD of a future's state word (R298). -/
def futSt (w : Nat) : Nat := natBits w 62 2
def futCnt (w : Nat) : Nat := natBits w 48 14
def futHead (w : Nat) : Nat := natBits w 0 48

/-- The quarter pointer that a HEAD or LINK field names. -/
def quarterPtr (head : Nat) : Word := stripedPtr (head % 2 ^ 48 * 16)

/-- The card of a quarter pointer, and the offset of its LINK word (R292, R298). -/
def quarterCard (cq : Word) : Word := setField cq 0 6 0
def quarterLink (cq : Word) : Nat := 0x30 + 8 * natBits cq.toNat 4 2

/-- Signal every quarter of a waiter list, each LINK word read and written 0 at its card's home (R298). -/
def State.signalList (s : State) (d : Nat) (src : Option SigSrc) (err : Bool) : Nat → Nat → State
  | 0, _ => s
  | fuel + 1, head =>
    if head = 0 then s
    else
      let cq := quarterPtr head
      let card := quarterCard cq
      match s.cardKey false card with
      | .error _ => s.sendSignal d src card err
      | .ok k =>
        let link := s.peek (k + quarterLink cq) 8
        ((s.poke (k + quarterLink cq) 8 0).sendSignal d src card err).signalList d src err fuel (futHead link)

/-- fut_set at the future's home (R298), whose state word has the given key: the old state word, and whether the future was
already resolved. -/
def State.futSetAt (s : State) (d : Nat) (src : Option SigSrc) (key : Nat) (v : Word) (fail : Bool) : State × Nat × Bool :=
  let w := s.peek key 8
  if 2 ≤ futSt w then (s, w, true)
  else
    let s1 := (s.poke (key + 8) 8 v.toNat).poke key 8 ((if fail then 3 else 2) * 2 ^ 62)
    (s1.signalList d src fail 16384 (futHead w), w, false)

/-! ### Cairns -/

/-- The value of a cairn (R288). -/
def cairnValue (cseq : Word) (err : Bool) : Nat := natBits cseq.toNat 0 63 + if err then 2 ^ 63 else 0

/-- A RUNNING card's work ends, with or without an error (R293). -/
def State.endCard (s : State) (id : Nat) (err : Bool) : State :=
  { s with running := s.running.map (fun r => if r.id = id then { r with ended := true, err := r.err || err } else r) }

/-- What a cairn or future completes counts as complete (R294, R307, R428), whether it could be written or not. -/
def State.endWork (s : State) (d : Nat) (w : DoneWork) : State :=
  (match w.card with | some (k, err) => s.endCard k err | none => s).qcDec d w.job

/-- A cairn or future could not be written: die `d` posts the record of R428, and the work counts as complete. -/
def State.doneFail (s : State) (d : Nat) (p : Word) (w : DoneWork) (c : Cause) (detail : Nat) : State :=
  (s.postRecord d (record291 c.code 7 w.sid w.launch p detail)).endWork d w

/-- The place of a cairn or of an engine's future, or why it cannot be written (R428). -/
def State.donePlace (s : State) (wins : List ScrWindow) (user fut : Bool) (p : Word) : Except Cause Place :=
  let sp := spaceOf p
  let bad := if fut then sp ≠ 0 ∧ sp ≠ 4 else sp ≠ 0 ∧ sp ≠ 1 ∧ sp ≠ 3 ∧ sp ≠ 4
  if bad then .error .spaceInvalid
  else
    match s.unitPlace wins user { rd := fut, wr := true } (if fut then 16 else 8) (if fut then 16 else 8) p with
    | .error e => .error e.cause
    | .ok a => .ok a.place

/-- The release store of a cairn, or the resolution of a future, leaves for its home (R278, R288, R298). -/
def State.sendDone (s : State) (d : Nat) (p : Word) (at_ : Place) (fut : Bool) (cseq : Word) (err : Bool) (w : DoneWork) : State :=
  s.send (.unit d) 15 (.done at_ p fut (if fut then cseq else BitVec.ofNat 64 (cairnValue cseq err)) err w)

/-- Write a cairn or resolve a future, or post why it cannot be done (R223, R428). -/
def State.done (s : State) (wins : List ScrWindow) (user fut : Bool) (d : Nat) (p cseq : Word) (err : Bool) (w : DoneWork) : State :=
  match s.donePlace wins user fut p with
  | .error c => s.doneFail d p w c 0
  | .ok a => s.sendDone d p a fut cseq err w

/-- The windows of a command processor, which has supervisor rights and reaches every scratchpad. -/
def cpWindows (p : Word) : List ScrWindow := [⟨scratchCore p, 0, 2 ^ 19, 0⟩]

/-- Write a cairn for a nest or a card at die `d`, or post why it cannot be written (R289, R294, R428). -/
def State.cairn (s : State) (d : Nat) (p cseq : Word) (err : Bool) (w : DoneWork) : State :=
  if p = 0 then s.endWork d w else s.done (cpWindows p) false false d p cseq err w

/-- Write the cairn of work that was rejected, when its address is valid (R281, R380). -/
def State.cairnIfValid (s : State) (d : Nat) (p cseq : Word) (launch : Word) : State :=
  if p = 0 then s
  else
    match s.donePlace (cpWindows p) false false p with
    | .ok a => s.sendDone d p a false cseq true ⟨launch, 0, none, none, 0⟩
    | .error _ => s

end Sys2Proof.Machine
end

