-- ==== Sys2Proof/Machine/Links.lean ====
section
/-!
DEFINITION. Sys2Proof/Machine/Links.lean: the links of the fabric as other units see them: blocks and working sets (R397, R415), send
queues (R400), records (R416), and requests to a peer chip (R408).
-/

namespace Sys2Proof.Machine

/-- The link in a block (R415). -/
def State.link? (s : State) (l : Nat) : Option LinkSt := (s.fab.links.find? (fun t => t.1 = l)).map (·.2)

/-- Replace the link in a block. -/
def State.setLink (s : State) (l : Nat) (k : LinkSt) : State :=
  { s with fab := { s.fab with links := s.fab.links.map (fun t => if t.1 = l then (l, k) else t) } }

/-- The heat in effect. -/
def State.heatNow (s : State) : Option Heat := s.fab.heats[s.fab.heat]?

/-- The ports that have a circuit to a chip in the current heat, ascending (R399). -/
def State.portsTo (s : State) (chip : Nat) : List Nat := (List.range 16).filter (fun p => s.fab.paired.any (fun t => t.1 = p && t.2 = chip))

/-- The working wavelengths of a port in a set that starts full (R397). -/
def workOf (l : List (Nat × Nat)) (p : Nat) : Nat := ((l.find? (fun t => t.1 = p)).map (·.2)).getD 0xFFFF

/-- The lowest port that the table in effect maps to a link's peer (R415). -/
def State.lowPort (s : State) (k : LinkSt) : Nat :=
  ((List.range 16).find? (fun p => s.fab.heats.any (fun h => h.pmap.contains (p, k.peer)))).getD 0

/-- LWORK (R415). -/
def State.lwork (s : State) (k : LinkSt) : Nat := workOf k.txw (s.lowPort k) + workOf k.rxw (s.lowPort k) * 2 ^ 16

/-- The port and link through which a chip is reached by relay, in the first heat that reaches it (R400, R401). -/
def State.relayLink (s : State) (chip : Nat) : Option (Nat × LinkSt) :=
  s.fab.heats.findSome? (fun h =>
    h.pmap.findSome? (fun m =>
      if h.reach.any (fun r => r.1 = m.1 && r.2.getLsbD (chip % 1024)) then s.fab.links.find? (fun t => t.2.peer = m.2) else none))

/-- The link on which flits for a chip are queued: the chip's own, or that of a relaying peer. -/
def State.fabRoute (s : State) (chip : Nat) : Option (Nat × LinkSt) :=
  match s.fab.links.find? (fun t => t.2.peer = chip) with
  | some l => some l
  | none => s.relayLink chip

/-- Put a flit on a send queue of a link. -/
def State.fabPut (s : State) (l vc : Nat) (f : FlitIn) : State :=
  match s.link? l with
  | some k => s.setLink l { k with queues := k.queues ++ [(vc, f)] }
  | none => s

/-- A flit of this chip. -/
def State.newFlit (s : State) (chip : Nat) (type : FlitType) (pay : Pay) : FlitIn :=
  { seq := 0, epoch := false, type := type, inc := s.fab.inc, dst := chip, src := s.chip, hops := 15, pay := pay, crc := true, tag := true }

/-- Queue a flit for a chip on send queue `vc`: 0 request, 1 response, 2 engine, 3 management (R400). -/
def State.fabSend (s : State) (chip vc : Nat) (type : FlitType) (pay : Pay) : State :=
  match s.fabRoute chip with
  | none => s
  | some (l, _) => s.fabPut l vc (s.newFlit chip type pay)

/-- A send queue of a link is full (R400). -/
def LinkSt.full (k : LinkSt) (vc : Nat) : Bool := decide (1024 ≤ (k.queues.filter (fun q => q.1 = vc)).length)

/-- A record of the fabric (R416), about a link where there is one; fields that name a link are free where there is none. -/
def State.fabRecord (s : State) (k : Option LinkSt) (slot : Nat) (c : Cause) (detail : Nat) : State :=
  let sid := match k with | some x => x.peer % 4096 + x.pinc.getD 0 % 256 * 2 ^ 16 | none => Config.freeNat s.free
  let cmd : Word := match k with | some x => BitVec.ofNat 64 (s.lwork x + x.acked * 2 ^ 32) | none => Config.freeWord s.free
  { s with free := s.free + 1 }.postRecord 12 (record225 c.code 0xC6 slot sid cmd (BitVec.ofNat 64 s.now) detail)

/-- The pointer at a peer for an offset there (R115). -/
def peerPtr (p : Place) : Word := stripedPtr p.key

/-- A request leaves for a peer chip, once its queue has room; where no port reaches the chip it is lost (R400, R401). -/
def State.askPeer (s : State) (m : Msg) (chip : Nat) (pay : Pay) (lost : State → State) : Option State :=
  match s.fabRoute chip with
  | none => some (lost (s.fabRecord none 0 .fabNoroute chip))
  | some (_, k) =>
    if k.full 0 then none
    else
      let s1 := s.fabSend chip 0 .req pay
      some { s1 with fab := { s1.fab with out := s1.fab.out ++ [⟨m.id, chip, m.id⟩] } }

/-- A request is answered to the strand that waits for it; any other request ends. -/
def State.reply (s : State) (m : Msg) (r : Resp) : State :=
  match m.src with
  | .ctx _ => s.answer m r
  | _ => s.dropMsg m.id

/-- The incarnation recorded for a chip. -/
def State.incOf (s : State) (chip : Nat) : Nat := ((s.fab.links.find? (fun t => t.2.peer = chip)).bind (fun t => t.2.pinc)).getD 0

/-- A request that a home serves for a peer is over; the peer has its answer once every request of that answer is (R306, R408). -/
def State.answerPeer (s : State) (v : Served) (code : Nat) (d : List Byte) : State :=
  let rest := s.fab.served.filter (fun u => u.msg ≠ v.msg)
  let s1 := { s with fab := { s.fab with served := rest } }
  if rest.any (fun u => !u.xfer && u.chip = v.chip && u.rid = v.rid) then s1 else s1.fabSend v.chip 1 .resp (.answer v.rid code d)

/-- The code and the bytes that carry a home's response to another chip. -/
def Resp.carried : Resp → Nat × List Byte
  | .data b => (0, b)
  | .val v => (0, natLe 8 (v.getD 0).toNat)
  | .err c detail => (if c = .dataPoison then 0x4E else detail, [])

/-- A request is answered to whoever made it: a strand of this chip, or the chip for which a home serves it (R408). -/
def State.answerFor (s : State) (m : Msg) (r : Resp) : State :=
  match s.fab.served.find? (fun v => v.msg = m.id) with
  | some v => (s.dropMsg m.id).answerPeer v r.carried.1 r.carried.2
  | none => s.reply m r

/-- The granule of an address. -/
def granuleOf (a : Word) : Word := BitVec.ofNat 64 (a.toNat / 32 * 32)

/-- The request waits for a peer's answer. -/
def State.isOut (s : State) (m : Nat) : Bool := s.fab.out.any (fun o => o.msg = m)

/-! ### Copies on other chips -/

/-- The copies of the sectors of some keys that must be invalidated before they are written (R408): every other chip's but one. -/
def State.copiesAt (s : State) (k n : Nat) (but : Option Nat) : List PeerCopy :=
  s.fab.copies.filter (fun c => decide (k / 32 ≤ c.sector) && decide (c.sector ≤ (k + n - 1) / 32) && but ≠ some c.chip)

/-- A sector of some keys waits for invalidations of another write, so the requests after it in its queue wait (R276). -/
def State.sectorBusy (s : State) (m k n : Nat) : Bool :=
  s.fab.invals.any (fun i => i.msg ≠ m && decide (k / 32 ≤ i.sector) && decide (i.sector ≤ (k + n - 1) / 32))

/-- Invalidations leave for the chips that hold copies (R408, R409). -/
def State.sendInvals (s : State) (m : Nat) (cs : List PeerCopy) : State :=
  cs.foldl (fun (t : State) c =>
    { t with fab := { t.fab with invals := t.fab.invals ++ [(⟨m, c.sector, c.chip, c.va, t.now⟩ : Inval)] } }.fabSend c.chip 0 .req (.inval c.va)) s

/-- The copies of the sectors whose bytes differ between two states. -/
def State.copiesChanged (s t : State) : List PeerCopy :=
  s.fab.copies.filter (fun c => decide (memReadN s.mem (32 * c.sector) 32 ≠ memReadN t.mem (32 * c.sector) 32))

/-- The agent of a unit's write would reach bytes that an early access has not performed toward it (R263). -/
def State.earlyChanged (s t : State) (a : Agent) : Bool :=
  s.early.any (fun e => e.bytes.any (fun r => r.1.isNone && decide (memReadN s.mem r.2.1 r.2.2 ≠ memReadN t.mem r.2.1 r.2.2)
    && s.behindEarly a (some [r]) true))

/-- A unit of a die makes a step that writes memory itself (R263, R276, R277): it waits while a sector it writes waits for another write,
and other chips' copies of the sectors are invalidated before it goes on. -/
def State.unitWrite (s t : State) (a : Agent) (event : String) : Out :=
  let cs := s.copiesChanged t
  if cs.any (fun c => s.sectorBusy s.nextId (32 * c.sector) 32) || s.earlyChanged t a then .fault (.notEnabled event)
  else if cs.isEmpty then .next t
  else .next ({ s with nextId := s.nextId + 1 }.sendInvals s.nextId cs)

end Sys2Proof.Machine
end

