-- ==== Sys2Proof/Machine/Copy.lean ====
section
/-!
DEFINITION. Sys2Proof/Machine/Copy.lean: engine commands. Their firing and es slots (R219 to R221), the command record (R222), the
copy engines (R223), faults, resumption and abort (R224, R225), and esack (R226).
-/

namespace Sys2Proof.Machine

/-! ### Firing a command -/

/-- The lowest es slot that is IDLE and that no command of the execution holds (R219). -/
def freeSlot (x : Ctx) (ex : Exec) : Option Nat :=
  (List.range 8).find? (fun k => x.esAt.toList.getD k .busy == .idle && ex.esAlloc.all (fun a => a.2 ≠ k))

/-- An engine command fires (R219, R221): null operands make no command; otherwise its operands are checked, it is allotted a
slot and buffered for the belay, and its token is the slot's number. `check` gives the command's two operand words. -/
def fireCmd (i : Instr) (kind : CmdKind) (pri len : Nat) (s : State) (check : Site → Operands → Except Raw (Word × Word)) : Out :=
  fire i s (fun st o =>
    let n := st.f.idx
    let fail (r : Raw) : State := st.put s ((st.ex.raise n r).reformed n)
    let used := usedTokens i o
    if !(predScalarOk o.p && used.all okScalar) then fail tokenKind
    else if !predOpen o.p 0 || used.any (·.isNull) then st.put s (st.withEffect i none (some Token.nullScalar))
    else
      match check st o with
      | .error r => fail r
      | .ok (p0, p1) =>
        let slot := match st.ex.esAlloc.find? (fun a => a.1 = n) with
          | some a => some a.2
          | none => freeSlot st.x st.ex
        match slot with
        | none => fail (Raw.of .esFull)
        | some k =>
          let ex1 := { st.ex with esAlloc := st.ex.esAlloc.filter (fun a => a.1 ≠ n) ++ [(n, k)] }
          let st1 : Site := { st with ex := ex1 }
          st1.put s (st1.withEffect i (some (.cmd ⟨kind, pri, p0, p1, len, k, st.ex.user⟩)) (some (Token.scalar k))))

/-- A pointer is in a space of a list and a multiple of `al`, or CMD_OPERAND (R221). -/
def cmdPtr (spaces : List Nat) (al : Nat) (p : Word) : Except Raw Unit :=
  if spaces.contains (spaceOf p) && p.toNat % al = 0 then .ok () else .error ⟨.cmdOperand, 0, none, some p⟩

/-- The record pointer of a record form (R221). -/
def recordPtr (o : Operands) : Except Raw (Word × Word) := do
  cmdPtr [0, 1] 128 o.l.word
  .ok (o.l.word, 0)

/-- A command in the record form. -/
def fireRecord (i : Instr) (a : CmdArgs) (kind : CmdKind) (s : State) : Out := fireCmd i kind a.pri.toNat 0 s (fun _ o => recordPtr o)

/-- cpy, inline (R220, R221). -/
def execCpy (o : CpyArgs) (s : State) : Out :=
  fireCmd (.cpy o) .cpyInline o.pri.toNat o.len.toNat s (fun _ v => do
    cmdPtr [0, 1, 3] 32 v.l.word
    cmdPtr [0, 1, 3] 32 v.r.word
    .ok (v.l.word, v.r.word))
/-- cpy, record form. -/
def execCpyRec (o : CmdArgs) (s : State) : Out := fireRecord (.cpyRec o) o .cpy s
/-- cpy2. -/
def execCpy2 (o : CmdArgs) (s : State) : Out := fireRecord (.cpy2 o) o .cpy2 s
/-- cpy3. -/
def execCpy3 (o : CmdArgs) (s : State) : Out := fireRecord (.cpy3 o) o .cpy3 s
/-- cpyg. -/
def execCpyg (o : CmdArgs) (s : State) : Out := fireRecord (.cpyg o) o .cpyg s
/-- cpyr. -/
def execCpyr (o : CmdArgs) (s : State) : Out := fireRecord (.cpyr o) o .cpyr s
/-- cpyx. -/
def execCpyx (o : CmdArgs) (s : State) : Out := fireRecord (.cpyx o) o .cpyx s

/-- esack: its slot must show DONE or FAULT as at the preceding belay, and no other esack of the pitch may name it (R226). -/
def execEsack (o : EsackArgs) (s : State) : Out :=
  fireWhole (.esack o) s (fun st v => do
    need (okScalar v.l) tokenKind
    if v.l.isNull then .ok (none, none)
    else
      let k := v.l.val
      need (decide (k < 8)) (Raw.of .esIndex k)
      let e := st.x.esAt.toList.getD k .idle
      let again := st.ex.bufs.any (fun b => b.1 ≠ st.f.idx && b.2 == .esack k)
      need (e != .idle && e != .busy && !again) (Raw.of .esState k)
      .ok (some (.esack k), none))

/-! ### Commands at their engines -/

/-- The command with an id. -/
def State.cmd? (s : State) (id : Nat) : Option Cmd := s.cmds.find? (fun c => c.id = id)

/-- Replace a command. -/
def State.setCmd (s : State) (c : Cmd) : State := { s with cmds := s.cmds.map (fun d => if d.id = c.id then c else d) }

/-- Set an es slot. -/
def Ctx.setEs (x : Ctx) (k : Nat) (e : EsState) : Ctx := if h : k < 8 then { x with es := x.es.set k e } else x

/-- The C-die whose fault queue and command processor serve a command (R224). -/
def Cmd.die (c : Cmd) : Nat := dieOf c.core

/-- A word of the command's record. -/
def Cmd.w (c : Cmd) (i : Nat) : Nat := (c.words.getD i 0).toNat

/-- The commands of the copy engines whose granules this module's engines move. -/
def CmdKind.granular : CmdKind → Bool
  | .cpyInline | .cpy | .cpy2 | .cpy3 | .cpyg => true
  | _ => false

/-- The commands that continue when resumed, where every other runs again from its start (R224). -/
def CmdKind.copy : CmdKind → Bool
  | .cpyInline | .cpy | .cpy2 | .cpy3 | .cpyg | .cpyr | .cpyx | .mcx => true
  | _ => false

/-- The UNIT nibble of the engine that runs a command (R225, R332, R349, R376); a copy engine's number within the four of its
priority, and the byte of a fabric engine, are not fixed by the manual. -/
def State.unitByte (s : State) (c : Cmd) : Nat :=
  match c.req.kind with
  | .meshInit | .meshAdapt | .nbrStream | .meshFree => c.mdie * 16 + 1
  | .colBuild => c.mdie * 16 + 2
  | .hpRelocate | .hpEpoch => c.mdie * 16 + 3
  | .lbCut | .lbMigrate | .ghostSync => c.mdie * 16 + 4
  | .cpyx | .mcx | .rgLoad => Config.freeNat s.free % 256
  | _ => c.mdie * 16 + 4 * (c.req.pri % 4) + Config.freeNat s.free % 4

/-- The engine code of a failed access (R232). -/
def engCause : Cause → Cause
  | .transNotPresent => .cpyTrans
  | .protection => .cpyProtection
  | .scratchBounds => .cpyScratch
  | .dataPoison => .cpyPoison
  | .remoteFailed | .peerUnreachable => .cpyRemote
  | _ => .cpyRecord

/-- A fault of an engine: its code, faulting address and DETAIL. -/
def engFault (c : Cause) (a : Word) (detail : Nat := 0) : FaultRec := ⟨c, a, detail, none, none, false⟩

/-- The record of a command's fault (R225, R332). -/
def State.cmdRecord (s : State) (c : Cmd) (f : FaultRec) : List Byte :=
  record225 f.cause.code (s.unitByte c) ((if c.req.kind = .cpyInline then 128 else 0) + c.req.es) c.sid c.req.p0 f.fa f.detail

/-- Where an engine may read or write `n` bytes with the rights of its command, or the engine's fault (R232, R378, R385). -/
def State.cmdPlace (s : State) (c : Cmd) (nd : Need) (w n : Nat) (base : Word) (d : Int) : Except FaultRec Part :=
  match s.checkElem c.wins { need := nd, w := w, n := n, user := c.req.user } s.free base d with
  | .ok (a :: _) => if s.fenced a.place then .error (engFault .cpyRemote a.ptr 0xA0) else .ok a
  | .ok [] => .error (engFault .cpyRecord base)
  | .error e => .error (engFault (engCause e.cause) e.fa)

/-- Bytes that an engine reads (R394 for a poisoned sector). -/
def State.cmdRead (s : State) (c : Cmd) (w n : Nat) (base : Word) (d : Int) : Except FaultRec (List Byte) := do
  let a ← s.cmdPlace c { rd := true } w n base d
  if a.place.peer.isSome then .ok ((List.range n).map (fun i => Config.freeByte (s.free + i)))
  else if s.isPoisoned a.place.key n then .error (engFault .cpyPoison a.ptr)
  else .ok (memReadN s.mem a.place.key n)

/-- The 16 words of a command record, read once (R222, R223). -/
def State.readRecord (s : State) (c : Cmd) : Except FaultRec (List Word) := do
  let bs ← (List.range 4).mapM (fun i => s.cmdRead c 32 32 c.req.p0 (32 * i : Nat))
  let all := bs.flatten
  .ok ((List.range 16).map (fun i => BitVec.ofNat 64 (leNat ((all.drop (8 * i)).take 8))))

/-- SCOPE and DONEACT of a record's CTL (R222). -/
def ctlScope (ctl : Nat) : Nat := natBits ctl 8 4
def ctlAct (ctl : Nat) : Nat := natBits ctl 12 2

/-- The completion action's fields can be used (R222). -/
def actUsable (ctl cseq : Nat) : Bool :=
  (ctlAct ctl = 1 || ctlAct ctl = 2) && decide (ctlScope ctl ≤ 11) && !(ctlAct ctl = 1 && natBit cseq 63 = 1) && ctl / 2 ^ 14 = 0

/-- The SUB that OPK must equal (R220, R222). -/
def CmdKind.opk : CmdKind → Nat
  | .cpyInline | .cpy => 0
  | .cpy2 => 1
  | .cpy3 => 2
  | .cpyg => 3
  | .cpyr => 4
  | .cpyx => 5
  | .meshInit => 0
  | .meshAdapt => 1
  | .nbrStream => 2
  | .colBuild => 3
  | .meshFree => 4
  | .hpRelocate => 8
  | .hpEpoch => 9
  | .rgLoad => 0
  | .mcx => 1
  | .lbCut => 0x40
  | .lbMigrate => 0x41
  | .ghostSync => 0x42

/-- The form a record's OPK names, for the command of a card (R222, R293). -/
def opkKind : Nat → Option CmdKind
  | 0 => some .cpy
  | 1 => some .cpy2
  | 2 => some .cpy3
  | 3 => some .cpyg
  | 4 => some .cpyr
  | 5 => some .cpyx
  | _ => none

/-- CTL and CSEQ break the rules every record obeys (R222). -/
def ctlBad (kind : CmdKind) (ctl cseq : Nat) : Bool :=
  natBits ctl 0 8 ≠ kind.opk || ctl / 2 ^ 14 ≠ 0 || ctlAct ctl = 3 || decide (11 < ctlScope ctl) || (ctlAct ctl = 1 && natBit cseq 63 = 1)

/-- A copy command's record is rejected (R222). -/
def Cmd.recordBad (c : Cmd) : Bool :=
  let k := c.req.kind
  let sp (i : Nat) : Nat := natBits (c.w i) 60 4
  let local_ (i : Nat) : Bool := sp i = 0 || sp i = 1 || sp i = 3
  let reserved := (if k = .cpyr then c.w 9 / 2 ^ 18 ≠ 0 else k ≠ .mcx && c.w 9 ≠ 0) || (List.range 4).any (fun i => c.w (12 + i) ≠ 0)
  let mult (al : Nat) (is : List Nat) : Bool := is.all (fun i => c.w i % al = 0)
  let heap := [1, 2, 10].any (fun i => sp i = 2) || (k = .cpyr && sp 5 = 2)
  let fields := match k with
    | .cpy => local_ 1 && local_ 2 && mult 32 [1, 2, 3]
    | .cpy2 => local_ 1 && local_ 2 && mult 32 [1, 2, 3, 5, 6]
    | .cpy3 => local_ 1 && local_ 2 && mult 32 [1, 2, 3, 5, 6, 7, 8]
    | .cpyg => local_ 1 && local_ 2 && mult 32 [1] && mult 8 [2]
    | .cpyr => mult 16 [2] && mult 8 [1, 5]
    | .cpyx => ((sp 1 = 0 && sp 2 = 4) || (sp 1 = 4 && sp 2 = 0)) && mult 32 [1, 2, 3]
    | .mcx => sp 1 = 0 && sp 2 = 0 && sp 9 = 0 && mult 32 [1, 2, 3] && mult 128 [9]
    | _ => true
  ctlBad k (c.w 0) (c.w 11) || reserved || heap || !fields

/-- The granules of a copy command: source and destination, each a base and a displacement (R222). -/
def Cmd.granules (c : Cmd) : List ((Word × Int) × (Word × Int)) :=
  let row (src dst : Word) (n : Nat) (a b : Int) : List ((Word × Int) × (Word × Int)) :=
    (List.range n).map (fun g => ((src, a + (32 * g : Nat)), (dst, b + (32 * g : Nat))))
  let d := c.words.getD 1 0
  let o := c.words.getD 2 0
  let sg (i : Nat) : Int := natToInt 64 (c.w i)
  let g := c.w 3 / 32
  let n1 := natBits (c.w 4) 0 32
  match c.req.kind with
  | .cpyInline => row c.req.p1 c.req.p0 c.req.len 0 0
  | .cpy => row o d g 0 0
  | .cpy2 => (List.range n1).flatMap (fun (r : Nat) => row o d g ((r : Int) * sg 5) ((r : Int) * sg 6))
  | .cpy3 => (List.range (natBits (c.w 4) 32 32)).flatMap (fun (q : Nat) =>
      (List.range n1).flatMap (fun (r : Nat) => row o d g ((q : Int) * sg 7 + (r : Int) * sg 5) ((q : Int) * sg 8 + (r : Int) * sg 6)))
  | .cpyg => (List.range (c.w 3)).map (fun i => ((o, (8 * i : Nat)), (d, (32 * i : Nat))))
  | _ => []

/-- How many commands of a priority run in the engines of an M-die (R223). -/
def State.engineLoad (s : State) (mdie pri : Nat) : Nat :=
  (s.cmds.filter (fun c => c.mdie = mdie && c.req.pri = pri && c.req.kind.copy && c.phase = .running)).length

/-- The command stops with a fault that its engine has yet to report (R224). -/
def State.cmdFault (s : State) (c : Cmd) (f : FaultRec) : State := s.setCmd { c with fault := some f }

/-- A command's record is read and checked, and its granules are handed to the engine (R222, R223). -/
def State.cmdBegin (s : State) (c0 : Cmd) : State :=
  let c := { c0 with phase := CmdPhase.running, fault := none }
  let s1 := { s with cmds := s.cmds.filter (fun d => d.id ≠ c.id) ++ [c], free := s.free + 1 }
  if c.req.kind = .cpyInline then
    c.granules.foldl (fun t g => t.send (.cmd c.id) 15 (.gran c.id g.1.1 g.1.2 g.2.1 g.2.2 none)) s1
  else if !c.req.kind.copy then s1
  else
    match s1.readRecord c with
    | .error f => s1.cmdFault c f
    | .ok ws =>
      let kind := if c.card.isSome then (opkKind (natBits (ws.getD 0 0).toNat 0 8)).getD .cpy else c.req.kind
      let c1 := { c with words := ws, req := { c.req with kind := kind } }
      if c1.recordBad then s1.cmdFault c1 (engFault .cpyRecord c.req.p0)
      else c1.granules.foldl (fun t g => t.send (.cmd c.id) 15 (.gran c.id g.1.1 g.1.2 g.2.1 g.2.2 none)) (s1.setCmd c1)

/-- A command's completion action (R222, R223), or the record that says why it could not be made (R428); the card that the command
serves ends with it (R294). -/
def State.doneAct (s : State) (c : Cmd) (err : Bool) : State :=
  let work : DoneWork := ⟨c.req.p0, c.sid, none, c.card.map (fun k => (k, err)), 0⟩
  if c.req.kind = .cpyInline ∨ c.words = [] ∨ !actUsable (c.w 0) (c.w 11) then s.endWork c.die work
  else s.done c.wins c.req.user (ctlAct (c.w 0) = 2) c.die (c.words.getD 10 0) (c.words.getD 11 0) err work

/-- A request of a command that is over: a write to a peer chip goes on as its unit's, unless the command ends with the error bit, and every
other request is dropped (R223, R224). -/
def Msg.outlives (c : Cmd) (err : Bool) (m : Msg) : Option Msg :=
  if m.src ≠ .cmd c.id then some m
  else match m.body with
    | .store .. => if err then none else some { m with src := .unit c.mdie }
    | _ => none

/-- A command completes: its slot shows DONE unless it has faulted or been detached, and the completion action runs (R223, R224). -/
def State.cmdDone (s : State) (c : Cmd) (err : Bool) : State :=
  let s1 := { s with cmds := s.cmds.filter (fun d => d.id ≠ c.id), net := s.net.filterMap (Msg.outlives c err) }
  let s2 := if c.slotFault ∨ !c.attached then s1
    else match c.ctx.bind s1.ctx? with
      | some x => s1.setCtx (x.setEs c.req.es .done)
      | none => s1
  s2.doneAct c err

/-- Two kinds of command share an engine queue: copy engines, topology engine, colouring unit, relocation engine, load balancer, and
the fabric. -/
def CmdKind.unit (k : CmdKind) : Nat :=
  match k with
  | .meshInit | .meshAdapt | .nbrStream | .meshFree => 1
  | .colBuild => 2
  | .hpRelocate | .hpEpoch => 3
  | .lbCut | .lbMigrate | .ghostSync => 4
  | .rgLoad => 5
  | _ => 0

/-- Two commands wait in one queue (R223, R348): their M-die, engine and priority are the same. -/
def Cmd.sameQueue (c d : Cmd) : Bool := c.mdie = d.mdie && c.req.pri = d.req.pri && c.req.kind.unit = d.req.kind.unit

/-- A command that its strand issued before this one, and that has not started, stands in its queue (R27, R223). -/
def State.queuedBefore (s : State) (m : Msg) (c : Cmd) : Bool :=
  (s.ahead m.id).any (fun a => a.src = m.src && (match a.body with | .cmd k => (s.cmd? k).any (fun d => c.sameQueue d) | _ => false))

/-- COPY_COMMAND_START (R223): a command that was issued at a belay reaches its engine, after every access that its strand's
release covers and after the commands of its queue that the strand issued before it. -/
def execCopyCommandStart (m : Nat) (s : State) : Out :=
  match s.msg? m with
  | some msg =>
    (match msg.body with
    | .cmd id =>
      (match s.cmd? id with
      | some c =>
        if s.eligible msg ∧ c.phase = .queued ∧ !s.queuedBefore msg c ∧ (!c.req.kind.copy ∨ s.engineLoad c.mdie c.req.pri < 4) then
          .next ((s.dropMsg m).cmdBegin c)
        else .fault (.notEnabled "COPY_COMMAND_START")
      | none => .fault (.notEnabled "COPY_COMMAND_START"))
    | _ => .fault (.notEnabled "COPY_COMMAND_START"))
  | none => .fault (.notEnabled "COPY_COMMAND_START")

/-- COPY_COMPLETE (R223): every granule is written. -/
def execCopyComplete (cmd : Nat) (s : State) : Out :=
  match s.cmd? cmd with
  | some c =>
    if c.phase = .running ∧ c.fault = none ∧ c.req.kind.granular ∧ s.net.all (fun m => m.src ≠ Src.cmd cmd) then
      .next (s.cmdDone c false)
    else .fault (.notEnabled "COPY_COMPLETE")
  | none => .fault (.notEnabled "COPY_COMPLETE")

/-- The slot of a command shows FAULT, unless it is detached (R224). -/
def State.slotFaults (s : State) (c : Cmd) : State :=
  if !c.attached then s
  else match c.ctx.bind s.ctx? with
    | some x => s.setCtx (x.setEs c.req.es .fault)
    | none => s

/-- ENGINE_FAULT (R224): the engine stops the command, its slot shows FAULT and a fault record is posted. -/
def execEngineFault (cmd : Nat) (s : State) : Out :=
  match s.cmd? cmd with
  | some c =>
    (match c.fault with
    | some f =>
      if c.phase = .running then
        .next (({ (s.setCmd { c with phase := .stopped, posted := true, slotFault := c.slotFault || c.attached }).slotFaults c with
          free := s.free + 1 }).postRecord c.die (s.cmdRecord c f))
      else .fault (.notEnabled "ENGINE_FAULT")
    | none => .fault (.notEnabled "ENGINE_FAULT"))
  | none => .fault (.notEnabled "ENGINE_FAULT")

/-- COMMAND_RESUME (R224): a copy command goes on with its remaining granules, or reads a rejected record again; every other
command runs again from its start. -/
def execCommandResume (cmd : Nat) (s : State) : Out :=
  match s.cmd? cmd with
  | some c =>
    if c.phase = .stopped then
      let c1 := { c with phase := CmdPhase.running, fault := none }
      if c.req.kind.copy ∧ s.net.any (fun m => m.src = Src.cmd cmd) then
        .next { (s.setCmd c1) with net := s.net.map (fun m => if m.src = Src.cmd cmd then { m with resp := none } else m) }
      else
        .next ((s.setCmd { c1 with phase := .queued, aux := if c.req.kind.copy then c.aux else [] }).send (.unit c.die) 15 (.cmd cmd))
    else .fault (.notEnabled "COMMAND_RESUME")
  | none => .fault (.notEnabled "COMMAND_RESUME")

/-- A fabric command's transfers are forgotten (R411, R412). -/
def State.dropTransfer (s : State) (cmd : Nat) : State :=
  { s with fab := { s.fab with
      rx := s.fab.rx.filter (fun r => !(r.org = s.chip && r.cmd = cmd)), dones := s.fab.dones.filter (fun d => d.1 ≠ cmd)
      mcasts := s.fab.mcasts.filter (fun d => !(d.org = s.chip && d.cmd = cmd))
      links := s.fab.links.map (fun t => if t.2.chan = some (s.chip, cmd) then (t.1, { t.2 with chan := none }) else t) } }

/-! ### Granules -/

/-- Where the granule of a command comes from: for cpyg, the entry of its gather list says (R222). -/
def State.granSrc (s : State) (c : Cmd) (src : Word) (sd : Int) : Except FaultRec (Word × Int) :=
  if c.req.kind = .cpyg then do
    let bs ← s.cmdRead c 8 8 src sd
    let p : Word := BitVec.ofNat 64 (leNat bs)
    if p.toNat % 32 ≠ 0 ∨ !(spaceOf p = 0 ∨ spaceOf p = 1 ∨ spaceOf p = 3) then .error (engFault .cpyRecord (addOffset src sd).1)
    else .ok (p, 0)
  else .ok (src, sd)

/-- One access of a granule (R223, R277): its source is read, and later its destination written. A fault stops the command,
and the granule is kept for a resumption. -/
def State.granStep (s : State) (m : Msg) (c : Cmd) (src : Word) (sd : Int) (dst : Word) (dd : Int) (data : Option (List Byte)) : State :=
  let fail (f : FaultRec) : State :=
    (s.setCmd { c with fault := some (c.fault.getD f) }).answer { m with body := .gran c.id src sd dst dd none } (.err f.cause f.detail)
  match data with
  | none =>
    (match s.granSrc c src sd with
    | .error f => fail f
    | .ok (p, d) =>
      match s.cmdRead c 32 32 p d with
      | .error f => fail f
      | .ok bs => s.setMsg { m with body := .gran c.id src sd dst dd (some bs) })
  | some bs =>
    match s.cmdPlace c { wr := true } 32 32 dst dd with
    | .error f => fail f
    | .ok a => (s.storePlace a.place (bs.map (fun b => (b, 255)))).dropMsg m.id

end Sys2Proof.Machine
end

