-- ==== Sys2Proof/Machine/MeshGeom.lean ====
section
/-!
DEFINITION. Sys2Proof/Machine/MeshGeom.lean: the geometry of meshes. Cells, faces and children (R310, R311), neighbours and their
relations (R312, R321), numbering (R313), base meshes (R315) and the adaptation of a generation (R325, R326). Points are
formal averages of the vertex ids of the base mesh.
-/

namespace Sys2Proof.Machine

/-- A leaf's key: the rank of its base cell and the child path (R313). -/
abbrev MKey := Nat × List Nat

/-- A point: the weights of base vertex ids, ascending by id, of sum 2^40. -/
abbrev MPt := List (Nat × Nat)

/-- Faces, children and vertices of a kind (R310). -/
def kindFaces : Nat → Nat
  | 0 => 3
  | 1 => 4
  | 2 => 4
  | _ => 6
def kindChildren : Nat → Nat
  | 0 => 4
  | 1 => 4
  | _ => 8
def kindVerts : Nat → Nat
  | 0 => 3
  | 1 => 4
  | 2 => 4
  | _ => 8

/-- Axes of a kind of cell that has them. -/
def kindAxes : Nat → Nat
  | 1 => 2
  | 3 => 3
  | _ => 0

/-- The vertices of face `f` of a cell of a kind (R310). -/
def faceVerts (kind f : Nat) : List Nat :=
  match kind with
  | 0 => [f, (f + 1) % 3]
  | 2 => (List.range 4).filter (· ≠ f)
  | k => (List.range (kindVerts k)).filter (fun v => natBit v (f / 2) = f % 2)

/-- Add weights at an id. -/
def addWeight : MPt → Nat → Nat → MPt
  | [], i, w => [(i, w)]
  | (j, v) :: rest, i, w => if i = j then (j, v + w) :: rest else if i < j then (i, w) :: (j, v) :: rest else (j, v) :: addWeight rest i w

/-- The average of points, whose number is a power of two. -/
def avgPts (ps : List MPt) : MPt := (ps.flatten.foldl (fun a t => addWeight a t.1 t.2) []).map (fun t => (t.1, t.2 / ps.length))

/-- The point of a base vertex id. -/
def basePt (id : Nat) : MPt := [(id, 2 ^ 40)]

/-- Each child's vertices of a triangle and a tetrahedron as averages of the parent's (R311). -/
def simplexChildren (kind : Nat) : List (List (List Nat)) :=
  if kind = 0 then
    [[[0], [0, 1], [0, 2]], [[0, 1], [1, 2], [0, 2]], [[1], [1, 2], [0, 1]], [[2], [0, 2], [1, 2]]]
  else
    [[[0], [0, 1], [0, 2], [0, 3]], [[1], [0, 1], [1, 2], [1, 3]], [[2], [0, 2], [1, 2], [2, 3]], [[3], [0, 3], [1, 3], [2, 3]],
     [[0, 2], [1, 3], [0, 1], [1, 2]], [[0, 2], [1, 3], [1, 2], [2, 3]], [[0, 2], [1, 3], [2, 3], [0, 3]],
     [[0, 2], [1, 3], [0, 3], [0, 1]]]

/-- The parent's vertices that vertex `j` of child `k` averages, on `n` axes: it lies at (k_a + j_a) ÷ 2 on axis a (R311). -/
def boxSet (n k j : Nat) : List Nat :=
  (List.range (2 ^ n)).filter (fun i => (List.range n).all (fun a =>
    let c := natBit k a + natBit j a
    c = 1 || natBit i a = c / 2))

/-- The vertices of child `k` (R311). -/
def childVerts (kind : Nat) (vs : List MPt) (k : Nat) : List MPt :=
  let pick (is : List Nat) : MPt := avgPts (is.map (fun i => vs.getD i []))
  if kind = 0 ∨ kind = 2 then ((simplexChildren kind).getD k []).map pick
  else (List.range (kindVerts kind)).map (fun j => pick (boxSet (kindAxes kind) k j))

/-- The faces of one depth more that lie in a face with the given vertices. -/
def subFaces (kind : Nat) (fv : List MPt) : List (List MPt) :=
  match kind with
  | 2 => (List.range 4).map (childVerts 0 fv)
  | 3 => (List.range 4).map (childVerts 1 fv)
  | _ =>
    let m := avgPts fv
    fv.map (fun p => [p, m])

/-- A mesh's shape: its kind and base cells. -/
structure Shape2 where
  kind : Nat
  base : List BaseCell
  deriving DecidableEq, Repr

/-- The base cell of a rank, and its index. -/
def Shape2.baseOf (g : Shape2) (rank : Nat) : Nat × BaseCell :=
  let i := (g.base.findIdx (fun b => b.rank = rank))
  (i, g.base.getD i ⟨0, [], []⟩)

/-- The vertices of a cell. -/
def Shape2.verts (g : Shape2) (k : MKey) : List MPt := k.2.foldl (childVerts g.kind) ((g.baseOf k.1).2.vert.map basePt)

/-- The base face on which points lie, where they lie on one (R321). -/
def Shape2.onFace (g : Shape2) (rank : Nat) (ps : List MPt) : Option Nat :=
  let b := (g.baseOf rank).2
  (List.range (kindFaces g.kind)).find? (fun f =>
    let ids := (faceVerts g.kind f).map (fun v => b.vert.getD v 0)
    ps.all (fun p => p.all (fun t => ids.contains t.1)))

/-- The points of a face as every cell that has the face sees it: a face inside a base cell is that cell's own, also where all its
points lie on base faces (R311, R315). -/
def Shape2.tag (g : Shape2) (rank : Nat) (ps : List MPt) : List (Nat × MPt) :=
  let t := if (g.onFace rank ps).isSome then 0 else rank + 1
  ps.map (fun p => (t, p))

/-- The points of face `f` of a cell. -/
def Shape2.face (g : Shape2) (k : MKey) (f : Nat) : List MPt :=
  let vs := g.verts k
  (faceVerts g.kind f).map (fun v => vs.getD v [])

/-- Two sets of points are one. -/
def samePts (a b : List (Nat × MPt)) : Bool := a.length = b.length && a.all (fun p => b.contains p)

/-- Face `f` of a cell as tagged points, and the faces that lie in it. -/
def Shape2.faceT (g : Shape2) (k : MKey) (f : Nat) : List (Nat × MPt) := g.tag k.1 (g.face k f)
def Shape2.subT (g : Shape2) (k : MKey) (f : Nat) : List (List (Nat × MPt)) := (subFaces g.kind (g.face k f)).map (g.tag k.1)

/-- The relation of a face of a leaf to the leaves beside it (R312). -/
inductive Beside where
  | conform (n : Nat)
  | coarser (n : Nat)
  | hanging (ns : List Nat)
  | boundary (tag : Nat)
  deriving DecidableEq, Repr

/-- The leaves, of a number, that pass a test. -/
def leavesWhere (leaves : List MKey) (p : MKey → Bool) : List Nat :=
  (List.range leaves.length).filter (fun j => match leaves[j]? with | some k => p k | none => false)

/-- The relation of face `f` of leaf `i` (R312). -/
def Shape2.beside (g : Shape2) (leaves : List MKey) (i f : Nat) : Beside :=
  let k := leaves.getD i (0, [])
  let d := k.2.length
  let mine := g.faceT k f
  let subs := g.subT k f
  let fs := List.range (kindFaces g.kind)
  let other (j : MKey) : Bool := j != k
  match leavesWhere leaves (fun j => other j && j.2.length = d && fs.any (fun q => samePts (g.faceT j q) mine)) with
  | n :: _ => .conform n
  | [] =>
    match leavesWhere leaves (fun j => other j && j.2.length + 1 = d && fs.any (fun q => (g.subT j q).any (samePts mine))) with
    | n :: _ => .coarser n
    | [] =>
      match leavesWhere leaves (fun j => other j && j.2.length = d + 1 && fs.any (fun q => subs.any (samePts (g.faceT j q)))) with
      | [] =>
        .boundary (match g.onFace k.1 (g.face k f) with
          | some q => (g.baseOf k.1).2.btag.getD q 0
          | none => 0)
      | ns => .hanging ns

/-- The neighbour word of nbr.ld (R321). -/
def nbrWord (kind : Nat) : Beside → Nat
  | .conform n => n
  | .coarser n => 2 ^ 34 + n
  | .hanging ns => (if kind < 2 then 1 else 3) * 2 ^ 35 + 2 ^ 33 + ns.headD 0
  | .boundary t => t % 256 * 2 ^ 40 + 2 ^ 32 + 0xFFFFFFFF

/-- NUM of a face (R321). -/
def nbrNum : Beside → Nat
  | .conform n | .coarser n => n
  | .hanging ns => ns.headD 0
  | .boundary _ => 0xFFFFFFFF

/-- All face neighbours of a leaf. -/
def Shape2.neighbours (g : Shape2) (leaves : List MKey) (i : Nat) : List Nat :=
  (List.range (kindFaces g.kind)).flatMap (fun f => match g.beside leaves i f with
    | .conform n | .coarser n => [n]
    | .hanging ns => ns
    | .boundary _ => [])

/-! ### Base meshes -/

/-- The id set of a face of a base cell, ascending. -/
def baseFaceIds (kind : Nat) (b : BaseCell) (f : Nat) : MPt := ((faceVerts kind f).map (fun v => b.vert.getD v 0)).foldl (fun a i => addWeight a i 1) []

/-- The first base cell that makes the mesh invalid (R315, R324): an id of all ones or a repeated one, or a face that more than
two cells carry. -/
def baseBad (kind : Nat) (base : List BaseCell) : Option Nat :=
  let faces := base.map (fun b => (List.range (kindFaces kind)).map (baseFaceIds kind b))
  (List.range base.length).find? (fun i =>
    let b := base.getD i ⟨0, [], []⟩
    b.vert.contains 0xFFFFFFFF || !decide b.vert.Nodup
      || (List.range (kindFaces kind)).any (fun f => 2 < (faces.filter (·.contains (baseFaceIds kind b f))).length))

/-- The first entry whose rank is out of range or repeats an earlier one (R324). -/
def rankBad (base : List BaseCell) : Option Nat :=
  (List.range base.length).find? (fun i =>
    let r := (base.getD i ⟨0, [], []⟩).rank
    base.length ≤ r || (base.take i).any (fun b => b.rank = r))

/-! ### Adaptation -/

/-- Repeat a step until nothing changes, at most `fuel` times. -/
def untilSame (f : List Nat → List Nat) : Nat → List Nat → List Nat
  | 0, x => x
  | n + 1, x => let y := f x; if y = x then x else untilSame f n y

/-- What an adapt does (R325): the cells refined, the first cell of each group merged, the new leaves, and for each the
remap records (old cell, kind, SUB, CNT) that name it. -/
structure AdaptPlan where
  rf     : List Nat
  gs     : List Nat
  leaves : List (MKey × List (Nat × Nat × Nat × Nat))
  deriving DecidableEq, Repr

/-- The plan of an adapt with a flag for each leaf (R325, R326). -/
def Shape2.adapt (g : Shape2) (maxd : Nat) (leaves : List MKey) (flags : List Int) : AdaptPlan :=
  let n := leaves.length
  let nch := kindChildren g.kind
  let key (c : Nat) : MKey := leaves.getD c (0, [])
  let depth (c : Nat) : Nat := (key c).2.length
  let flag (c : Nat) : Int := flags.getD c 0
  let all := List.range n
  let nbr := all.map (g.neighbours leaves)
  let nb (c : Nat) : List Nat := nbr.getD c []
  let rf := untilSame (fun r => all.filter (fun c => r.contains c || r.any (fun q => (nb q).contains c && decide (depth c < depth q)))) n
    (all.filter (fun c => flag c = 1 && decide (depth c < maxd)))
  let parent (c : Nat) : MKey := ((key c).1, (key c).2.dropLast)
  let group (c : Nat) : Bool :=
    decide (0 < depth c) && (List.range nch).all (fun q => key (c + q) = ((key c).1, (parent c).2 ++ [q]) && decide (c + q < n))
  let members (c : Nat) : List Nat := (List.range nch).map (c + ·)
  let inGs (r : List Nat) (x : Nat) : Bool := r.any (fun c => decide (c ≤ x) && decide (x < c + nch))
  let newDepth (r : List Nat) (x : Nat) : Int := (depth x : Int) + (if rf.contains x then 1 else 0) - (if inGs r x then 1 else 0)
  let gs := untilSame (fun r => r.filter (fun c => (members c).all (fun m => (nb m).all (fun x => decide (newDepth r x ≤ depth c))))) n
    (all.filter (fun c => group c && (members c).all (fun m => flag m = -1 && !rf.contains m)))
  let out := all.flatMap (fun c =>
    if rf.contains c then (List.range nch).map (fun q => (((key c).1, (key c).2 ++ [q]), [(c, 1, q, nch)]))
    else if gs.contains c then [(parent c, (members c).map (fun m => (m, 2, m - c, nch)))]
    else if inGs gs c then []
    else [(key c, [(c, 0, 0, 1)])])
  ⟨rf, gs, out⟩

/-- A remap record (R326) as its two words. -/
def remapWords (new old kind sub cnt : Nat) : Nat × Nat := (old % 2 ^ 32 * 2 ^ 32 + new, cnt * 2 ^ 16 + sub * 2 ^ 8 + kind)

end Sys2Proof.Machine
end

