-- ==== Sys2Proof/Machine/Mesh.lean ====
section
/-!
DEFINITION. Sys2Proof/Machine/Mesh.lean: the topology engine. Mesh commands (R314 to R320, R323 to R327), opens and closes (R318),
neighbour queries (R321, R322), cpyr (R328), and the abort of a command (R224).
-/

namespace Sys2Proof.Machine

/-! ### What an engine does to memory -/

/-- An engine's work on memory: it either leaves a new state or meets a fault, and then has written nothing. -/
abbrev Eng (α : Type) : Type := StateT State (Except FaultRec) α

/-- An engine reads `n` bytes at base + d, each access `w` bytes. -/
def engRead (c : Cmd) (w n : Nat) (base : Word) (d : Int) : Eng (List Byte) := fun s =>
  match (List.range (n / w)).mapM (fun i => s.cmdRead c w w base (d + (w * i : Nat))) with
  | .error f => .error f
  | .ok bs => .ok (bs.flatten, s)

/-- An engine reads one number of `w` bytes. -/
def engNum (c : Cmd) (w : Nat) (base : Word) (d : Int) : Eng Nat := do
  let bs ← engRead c w w base d
  pure (leNat bs)

/-- An engine writes a number of `w` bytes at base + d; what goes to a peer chip leaves over the fabric (R390). -/
def engPut (c : Cmd) (w : Nat) (base : Word) (d : Int) (v : Nat) : Eng Unit := fun s =>
  match s.cmdPlace c { wr := true } w w base d with
  | .error f => .error f
  | .ok a => .ok ((), if a.place.peer.isSome then s.send (.cmd c.id) 15 (.store a.place (fullBytes w v) none a.ptr) else s.storePlace a.place (fullBytes w v))

/-- Write a list of numbers of `w` bytes, one after another. -/
def engPuts (c : Cmd) (w : Nat) (base : Word) (d : Int) (vs : List Nat) : Eng Unit :=
  (List.range vs.length).forM (fun i => engPut c w base (d + (w * i : Nat)) (vs.getD i 0))

/-- The fault of an engine's access through a reference. -/
def engRefFault (f : ElemFault) : FaultRec := engFault (engCause f.cause) f.fa

/-- The payload bytes that a store of a list of waiting requests covers. -/
def Body.covers (off : Int) (n : Nat) : Body → Bool
  | .refStore _ o d _ => decide (o < off + n) && decide (off < o + d.length)
  | .heal _ true o _ _ _ _ => decide (o < off + n) && decide (off < o + 8)
  | _ => false

/-- An engine's access to a heap object must wait for the object's copy (R280): a write, or a read of bytes that a waiting store
covers. -/
def State.engWaits (s : State) (c : Cmd) (ref : Word) (off : Nat) (wr : Bool) : Bool :=
  match s.refDest c.req.user wr ref with
  | .error _ => false
  | .ok d => d.copying && (wr || (s.heap d.home).fwd.any (fun f => f.old = d.ha && f.copying
      && f.waiting.any (fun w => (s.msg? w).any (fun m => m.body.covers off 8))))

/-- What stands for a run that must wait. -/
def engWait : FaultRec := { engFault .cpyRecord 0 with idx := some 64 }

/-- An engine reads a word of a heap object through the barrier (R316). -/
def engRefRead (c : Cmd) (ref : Word) (off : Nat) : Eng Nat := fun s =>
  if s.engWaits c ref off false then .error engWait else
  match s.refPlace { need := { rd := true }, w := 8, n := 8, user := c.req.user } ref off 8 with
  | .error f => .error (engRefFault f)
  | .ok (_, p) =>
    if s.fenced p then .error (engFault .cpyRemote ref 0xA0)
    else if s.isPoisoned p.key 8 then .error (engFault .cpyPoison ref) else .ok (s.peek p.key 8, s)

/-- An engine writes a word of a heap object through the barrier (R316). -/
def engRefWrite (c : Cmd) (ref : Word) (off v : Nat) : Eng Unit := fun s =>
  if s.engWaits c ref off true then .error engWait else
  match s.refPlace { need := { wr := true }, w := 8, n := 8, user := c.req.user } ref off 8 with
  | .error f => .error (engRefFault f)
  | .ok (_, p) => if s.fenced p then .error (engFault .cpyRemote ref 0xA0) else .ok ((), s.poke p.key 8 v)

/-- The present reference of an object, with the current colour (R316, R338). -/
def engPresent (c : Cmd) (ref : Word) : Eng Word := fun s =>
  if ref = 0 then .ok (0, s)
  else
    match s.refDest c.req.user false ref with
    | .error f => .error (engRefFault f)
    | .ok d => .ok (d.present, s)

/-- An engine's work runs; a fault stops its command with nothing written. -/
def State.runEng {α : Type} (s : State) (e : Eng α) : Except FaultRec (α × State) := e s

/-- What a run leaves, or none where it must wait. -/
def ranTo {α : Type} (r : Except FaultRec (α × State)) (bad : FaultRec → State) (ok : α → State → State) : Option State :=
  match r with
  | .ok (a, t) => some (ok a t)
  | .error f => if f = engWait then none else some (bad f)

/-! ### Meshes -/

/-- The mesh of a record address. -/
def State.mesh? (s : State) (p : Word) : Option MeshHome := s.meshes.find? (fun m => m.ptr = p)

/-- Replace a mesh, or take it in. -/
def State.setMesh (s : State) (m : MeshHome) : State := { s with meshes := m :: s.meshes.filter (fun q => q.ptr ≠ m.ptr) }

/-- Forget a mesh: it is UNINIT. -/
def State.dropMesh (s : State) (p : Word) : State := { s with meshes := s.meshes.filter (fun q => q.ptr ≠ p) }

/-- The STATE field of a mesh (R314). -/
def MeshPhase.code : MeshPhase → Nat
  | .building => 1
  | .ready => 2
  | .adapting => 3
  | .two => 4

/-- Opens of a generation. -/
def MeshHome.readers (m : MeshHome) (gen : Nat) : Nat := (m.opens.filter (fun o => o.2 = gen)).length

/-- GEN, NCELL, READERS and STATE, the words of the E fields from 0x48 to 0x60 (R314). -/
def MeshHome.eWords (m : MeshHome) : List Nat :=
  let oldN := match m.old with | some l => l.length | none => 0
  [m.gen % 2 ^ 32, m.cur.length + oldN * 2 ^ 32,
   m.readers m.gen + (if m.old.isSome then m.readers (m.gen - 1) * 2 ^ 32 else 0), m.phase.code]

/-- The shape of a mesh. -/
def MeshHome.shape (m : MeshHome) : Shape2 := ⟨m.kind, m.base⟩

/-- The E fields are written as stores of the engine with the rights of a command (R314), NODEFREE with the current colour (R316). -/
def engFields (c : Cmd) (m : MeshHome) (ws : List Nat) : Eng Unit := do
  let free ← engPresent c m.nfree
  engPuts c 8 m.ptr 0x38 (free.toNat :: m.ncnt :: ws)

/-- STATE is written alone (R314, R317). -/
def engState (c : Cmd) (p : Word) (st : Nat) : Eng Unit := engPut c 8 p 0x60 st

/-- The generation below GEN is released when its last open closes (R317, R318). -/
def MeshHome.release (m : MeshHome) : MeshHome :=
  if m.phase = .two ∧ m.readers (m.gen - 1) = 0 then { m with phase := .ready, old := none } else m

/-- The home M-die of a mesh record (R314, R320). -/
def meshDie (p : Word) : Nat := match globalOwner p with | some (j, _) => j | none => 8

/-- The leaves of the generation a handle names, when it names a live one (R318). -/
def MeshHome.leavesOf (m : MeshHome) (h : Word) : Option (List MKey) :=
  let g := natBits h.toNat 0 8
  if g = m.gen % 256 then some m.cur
  else match m.phase, m.old with
    | .two, some l => if g = (m.gen + 255) % 256 then some l else none
    | _, _ => none

/-- The built mesh of an address (R318, R322). -/
def State.builtMesh (s : State) (p : Word) : Option MeshHome :=
  (s.mesh? p).filter (fun m => m.phase ≠ .building)

/-- The record address a handle names (R322). -/
def handleMesh (h : Word) : Word := setField h 0 8 0

/-- An open or close writes the fields that it changes, from NCELL on; where it cannot, the engine's own count stands and the record is posted
(R314). -/
def State.writeFields (s : State) (m : MeshHome) (die sid : Nat) : State :=
  let c : Cmd := { id := 0, req := ⟨.meshFree, 0, m.ptr, 0, 0, 0, false⟩, ctx := none, card := none, sid := sid, core := 64 * die
                   mdie := meshDie m.ptr, wins := [], phase := .running, words := [], fault := none, posted := false
                   slotFault := false, attached := false, aux := [] }
  match s.runEng (engPuts c 8 m.ptr 0x50 (m.eWords.drop 1)) with
  | .ok (_, t) => t
  | .error f => s.postRecord die (s.cmdRecord c f)

/-- Remove one open of a generation by a launch. -/
def MeshHome.removeOpen (m : MeshHome) (key gen : Nat) : MeshHome :=
  match m.opens.findIdx? (fun o => o.1 = key && o.2 = gen) with
  | some i => { m with opens := m.opens.eraseIdx i }
  | none =>
    match m.opens.findIdx? (fun o => o.2 = gen) with
    | some i => { m with opens := m.opens.eraseIdx i }
    | none => m

/-- The command processor closes every open that a finished launch still holds (R318). -/
def State.closeOpens (s : State) (key : Nat) : State :=
  s.meshes.foldl (fun t m =>
    if m.opens.any (fun o => o.1 = key) then
      let m1 := ({ m with opens := m.opens.filter (fun o => o.1 ≠ key) }).release
      (t.setMesh m1).writeFields m1 0 0
    else t) s

/-! ### Records and outcomes of commands -/

/-- A command is rejected or fails: its record is posted and it completes with ERR (R320, R324, R325). -/
def State.cmdReject (s : State) (c : Cmd) (cause : Cause) (detail : Nat) : State :=
  (s.postRecord c.die (s.cmdRecord c (engFault cause 0 detail))).cmdDone c true

/-- MESH_FORMAT's DETAIL (R333). -/
def meshDetail (kind v : Nat) : Nat := kind * 2 ^ 62 + v % 2 ^ 62

/-- A pointer of a record lies in global or scratchpad space. -/
def localPtr (v : Nat) : Bool := natBits v 60 4 ≤ 1

/-- The offset of the first field of a mesh command's record that breaks R320. -/
def Cmd.meshBad (c : Cmd) : Option Nat :=
  let w := c.w
  let direct (v : Nat) : Bool := natBits v 58 6 = 0 && v % 256 = 0
  let args : List (Nat × Bool) := match c.req.kind with
    | .meshInit => [(0x10, localPtr (w 2)), (0x18, true), (0x20, w 4 = 0), (0x28, w 5 = 0), (0x30, w 6 = 0)]
    | .meshAdapt => [(0x10, localPtr (w 2)), (0x18, localPtr (w 3)), (0x20, true), (0x28, localPtr (w 5)), (0x30, w 6 = 0)]
    | .nbrStream => [(0x10, true), (0x18, true), (0x20, true), (0x28, localPtr (w 5) && w 5 % 64 = 0), (0x30, w 6 = 0)]
    | .colBuild => [(0x10, localPtr (w 2)), (0x18, w 3 / 2 ^ 36 = 0 && decide (1 ≤ natBits w3 0 32) && decide (natBits w3 0 32 ≤ 2 ^ 28)),
        (0x20, localPtr (w 4)), (0x28, localPtr (w 5)), (0x30, localPtr (w 6))]
    | _ => [(0x10, w 2 = 0), (0x18, w 3 = 0), (0x20, w 4 = 0), (0x28, w 5 = 0), (0x30, w 6 = 0)]
  let checks := [(0x00, !(ctlBad c.req.kind (w 0) 0)), (0x08, if c.req.kind = .colBuild then decide (w 1 = 0) else direct (w 1))] ++ args
    ++ [7, 8, 9].map (fun i => (8 * i, decide (w i = 0))) ++ [(0x58, !(ctlAct (w 0) = 1 && natBit (w 11) 63 = 1))]
    ++ [12, 13, 14, 15].map (fun i => (8 * i, decide (w i = 0)))
  (checks.find? (fun k => !k.2)).map (·.1)
where w3 : Nat := c.w 3

/-- The commands that the topology engine serves at the home of a mesh (R320). -/
def CmdKind.mesh (k : CmdKind) : Bool := k = .meshInit || k = .meshAdapt || k = .nbrStream || k = .meshFree

/-- The mesh that a command's record names, where it can be read. -/
def State.cmdMesh (s : State) (c : Cmd) : Option Word :=
  match s.readRecord c with
  | .ok ws => some (ws.getD 1 0)
  | .error _ => none

/-- An adapt waits until its mesh is READY (R317), or its own memory fault holds it. -/
def State.adaptWaits (s : State) (c : Cmd) : Bool :=
  c.req.kind = .meshAdapt && (match s.readRecord c with
    | .ok ws => (s.mesh? (ws.getD 1 0)).any (fun m => m.phase == .two || (m.phase != .ready && m.busyBy != some c.id))
        && ({ c with words := ws }).meshBad.isNone
    | .error _ => false)

/-- A mesh operation of a strand, with its number, waits for one that the strand issued before it (R318, R331): an open or close, a
command that has not reached its engine, or one to the same mesh that is to be served. -/
def State.meshAhead (s : State) (src : Src) (id : Nat) (p : Option Word) : Bool :=
  s.net.any (fun m => m.src = src && decide (m.id < id) && m.resp.isNone && (match m.body with
    | .op (.meshOpen _) _ | .op (.meshClose _) _ => true
    | _ => false))
  || s.cmds.any (fun d => d.ctx.map Src.ctx = some src && decide (d.id < id) && d.req.kind.mesh
      && (d.phase = .queued || (d.phase = .running && d.fault = none && p.isSome && s.cmdMesh d = p && !s.adaptWaits d)))

/-- A command of a unit that runs whole: its record is read, it may run, and no mesh operation of its strand goes before it. -/
def State.ready (s : State) (cmd : Nat) (k : CmdKind) : Option Cmd := do
  let c ← s.cmd? cmd
  let ahead : Bool := k.mesh && (match c.ctx with | some x => s.meshAhead (.ctx x) cmd (s.cmdMesh c) | none => false)
  if c.req.kind = k ∧ c.phase = .running ∧ c.fault = none ∧ !ahead then some c else none

/-- Read the record of a unit's command, and run it (R277); the mesh it names says which M-die serves it (R320). `f` answers none where
the run must wait. -/
def State.withRecord (s : State) (c : Cmd) (event : String) (f : State → Cmd → Option State) : Out :=
  match s.readRecord c with
  | .error e => .next (s.cmdFault c e)
  | .ok ws =>
    let c1 := { c with words := ws, mdie := if c.req.kind.mesh then meshDie (ws.getD 1 0) else c.mdie }
    match f ({ s.setCmd c1 with free := s.free + 1 }) c1 with
    | some t => s.unitWrite t (.engine c1.mdie c.ctx) event
    | none => .fault (.notEnabled event)

/-- A command in a state that refuses it (R317); its DETAIL is not given. -/
def State.meshRefuse (s : State) (c : Cmd) : State :=
  { s with free := s.free + 1 }.cmdReject c .meshFormat (Config.freeNat s.free)

/-! ### mesh.init -/

/-- One base entry of 64 bytes: the cell, and whether its reserved and unused fields are zero (R315). -/
def baseEntry (kind : Nat) (bs : List Byte) : BaseCell × Bool :=
  let n (off len : Nat) : Nat := leNat ((bs.drop off).take len)
  let verts := (List.range 8).map (fun i => n (8 + 4 * i) 4)
  let tags := (List.range 8).map (fun i => n (0x28 + i) 1)
  (⟨n 0 4, verts.take (kindVerts kind), tags.take (kindFaces kind)⟩,
    n 4 4 = 0 && n 0x30 16 = 0 && (verts.drop (kindVerts kind)).all (· = 0) && (tags.drop (kindFaces kind)).all (· = 0))

/-- The first field of the mesh record that fails (R314, R324), as the cause and its DETAIL. -/
def meshRecordBad (f : List Nat) (rcap : Nat) : Option (Cause × Nat) :=
  let w (i : Nat) : Nat := f.getD i 0
  let glob (v al : Nat) : Bool := natBits v 60 4 = 0 && v % al = 0
  let checks : List (Nat × Bool) :=
    [(0, w 0 / 64 = 0 && decide (natBits (w 0) 2 4 ≤ 12)), (8, decide (1 ≤ w 1) && decide (w 1 ≤ 2 ^ 24)), (0x10, glob (w 2) 64),
     (0x18, decide (w 1 ≤ w 3) && decide (w 3 ≤ 2 ^ 28)), (0x20, glob (w 4) 4096), (0x30, decide (w 6 % 8 = 0))]
    ++ (List.range 19).map (fun i => (0x68 + 8 * i, decide (w (13 + i) = 0)))
  match checks.find? (fun k => !k.2) with
  | some (off, _) => some (.meshFormat, meshDetail 1 off)
  | none => if w 5 < 128 * w 3 ∨ rcap < w 1 then some (.meshResource, 0) else none

/-- Build generation 0 (R324): the mesh, or why it fails. -/
def engInit (c : Cmd) : Eng (Except (Cause × Nat) MeshHome) := do
  let p := c.words.getD 1 0
  let bs ← engRead c 8 256 p 0
  let f := (List.range 32).map (fun i => leNat ((bs.drop (8 * i)).take 8))
  match meshRecordBad f (c.w 3) with
  | some e => pure (.error e)
  | none =>
    let kind := natBits (f.getD 0 0) 0 2
    let nb := f.getD 1 0
    let raw ← engRead c 8 (64 * nb) (BitVec.ofNat 64 (f.getD 2 0)) 0
    let es := (List.range nb).map (fun i => baseEntry kind ((raw.drop (64 * i)).take 64))
    let base := es.map (·.1)
    match (List.range nb).find? (fun i => !((es.map (·.2)).getD i true)), rankBad base, baseBad kind base with
    | some i, _, _ => pure (.error (.meshFormat, meshDetail 2 i))
    | _, some i, _ => pure (.error (.meshFormat, meshDetail 2 i))
    | _, _, some i => pure (.error (.meshFormat, meshDetail 2 i))
    | none, none, none =>
      let m : MeshHome := { ptr := p, phase := .ready, kind := kind, maxd := natBits (f.getD 0 0) 2 4, maxc := f.getD 3 0
                            rootp := BitVec.ofNat 64 (f.getD 6 0), base := base, nfree := BitVec.ofNat 64 (f.getD 7 0), ncnt := f.getD 8 0
                            gen := 0, cur := (List.range nb).map (fun r => (r, [])), old := none, opens := [], busyBy := none }
      if c.w 2 ≠ 0 then
        (List.range nb).forM (fun n =>
          let (a, b) := remapWords n 0xFFFFFFFF 3 0 1
          do engPut c 8 (c.words.getD 2 0) (16 * n : Nat) a
             engPut c 8 (c.words.getD 2 0) (16 * n + 8 : Nat) b)
      engFields c m m.eWords
      pure (.ok m)

/-- A build or an adapt that fails after a memory fault has shown STATE as it runs writes the state that it leaves (R317). -/
def engOutcome (c : Cmd) (p : Word) (held : Bool) (st : Nat) (e : Eng (Except (Cause × Nat) MeshHome)) : Eng (Except (Cause × Nat) MeshHome) := do
  let r ← e
  match r with
  | .error _ => if held then engState c p st
  | .ok _ => pure ()
  pure r

/-- A mesh command met a memory fault: the mesh stays as its command holds it (R224), and STATE shows it where it can be
written. -/
def State.meshFault (s : State) (c : Cmd) (m : MeshHome) (ph : MeshPhase) (f : FaultRec) : State :=
  let m1 := { m with phase := ph, busyBy := some c.id }
  let s1 := s.setMesh m1
  let s2 := match s1.runEng (engState c m1.ptr ph.code) with | .ok (_, t) => t | .error _ => s1
  s2.cmdFault c f

/-- MESH_INIT_RUN (R317, R324). -/
def execMeshInitRun (cmd : Nat) (s : State) : Out :=
  match s.ready cmd .meshInit with
  | none => .fault (.notEnabled "MESH_INIT_RUN")
  | some c =>
    s.withRecord c "MESH_INIT_RUN" (fun s c =>
      let p := c.words.getD 1 0
      match c.meshBad, s.mesh? p with
      | some off, _ => some (s.cmdReject c .meshFormat off)
      | none, held =>
        if held.any (fun m => m.busyBy != some c.id) then some (s.meshRefuse c)
        else
          ranTo (s.runEng (engOutcome c p held.isSome 0 (engInit c)))
            (s.meshFault c { ptr := p, phase := .building, kind := 0, maxd := 0, maxc := 0, rootp := 0, base := [], nfree := 0, ncnt := 0
                             gen := 0, cur := [], old := none, opens := [], busyBy := some c.id } .building)
            (fun r t => match r with
              | .error (cause, detail) => (t.dropMesh p).cmdReject c cause detail
              | .ok m => (t.setMesh m).cmdDone c false))

/-! ### The refinement tree -/

/-- The place of a cell's node reference: the root word of its base cell, or CH of its parent's node (R316). -/
def engNodeRef (c : Cmd) (m : MeshHome) (k : MKey) : Eng Word := do
  let b := (m.shape.baseOf k.1).1
  let root ← engNum c 8 m.rootp (8 * b : Nat)
  let r0 ← engPresent c (BitVec.ofNat 64 root)
  k.2.foldlM (fun r q => do
    let v ← engRefRead c r (16 + 8 * q)
    engPresent c (BitVec.ofNat 64 v)) r0

/-- Link or unlink a cell's node (R316). -/
def engSetLink (c : Cmd) (m : MeshHome) (k : MKey) (ref : Word) : Eng Unit := do
  match k.2.getLast? with
  | none => engPut c 8 m.rootp (8 * (m.shape.baseOf k.1).1 : Nat) ref.toNat
  | some q =>
    let par ← engNodeRef c m (k.1, k.2.dropLast)
    let info ← engRefRead c par 0
    let b : Word := BitVec.ofNat 64 info
    engRefWrite c par 0 (if ref = 0 then (b &&& ~~~(BitVec.ofNat 64 (2 ^ q))) else (b ||| BitVec.ofNat 64 (2 ^ q))).toNat
    engRefWrite c par (16 + 8 * q) ref.toNat

/-- A node returns to the head of the free list (R317, R325). -/
def engFreeNode (c : Cmd) (m : MeshHome) (node : Word) : Eng MeshHome := do
  let head ← engPresent c m.nfree
  engRefWrite c node 16 head.toNat
  pure { m with nfree := node, ncnt := m.ncnt + 1 }

/-- A refined cell takes the node at the head of the free list (R316, R325). -/
def engTakeNode (c : Cmd) (m : MeshHome) (k : MKey) : Eng MeshHome := do
  let node ← engPresent c m.nfree
  let next ← engRefRead c node 16
  let nref ← engPresent c (BitVec.ofNat 64 next)
  engRefWrite c node 0 (k.2.length * 2 ^ 8)
  engRefWrite c node 8 (m.shape.baseOf k.1).1
  (List.range 8).forM (fun q => engRefWrite c node (16 + 8 * q) 0)
  engSetLink c m k node
  pure { m with nfree := nref, ncnt := m.ncnt - 1 }

/-! ### mesh.adapt -/

/-- A failed adapt writes its result block with STATUS the code and every other field 0 (R325, R327). -/
def engFail (c : Cmd) (cause : Cause) (detail : Nat) : Eng (Except (Cause × Nat) MeshHome) := do
  engPuts c 4 (c.words.getD 5 0) 0 [0, 0, 0, 0, 0, 0, 0, cause.code]
  pure (.error (cause, detail))

/-- The adapt (R325 to R327): a new generation, or why it fails. -/
def engAdapt (c : Cmd) (m : MeshHome) : Eng (Except (Cause × Nat) MeshHome) := do
  let n := m.cur.length
  let fb ← engRead c 1 n (c.words.getD 2 0) 0
  let flags : List Int := fb.map (fun b => natToInt 8 b.toNat)
  match flags.findIdx? (fun v => v ≠ 0 && v ≠ 1 && v ≠ -1) with
  | some i => engFail c .meshFormat (meshDetail 3 i)
  | none =>
    let pl := m.shape.adapt m.maxd m.cur flags
    let news := pl.leaves.length
    let recs := (List.range news).flatMap (fun i =>
      ((pl.leaves.getD i ((0, []), [])).2).map (fun r => remapWords i r.1 r.2.1 r.2.2.1 r.2.2.2))
    if m.maxc < news ∨ m.ncnt + pl.gs.length < pl.rf.length ∨ c.w 4 < recs.length then engFail c .meshResource 0
    else
      let nch := kindChildren m.kind
      let merged (x : Nat) : Bool := pl.gs.any (fun g => decide (g ≤ x) && decide (x < g + nch))
      let flag (x : Nat) : Int := flags.getD x 0
      let nadd := (pl.rf.filter (fun x => flag x ≠ 1)).length
      let nign := ((List.range n).filter (fun x => (flag x = 1 && !pl.rf.contains x) || (flag x = -1 && !merged x))).length
      let gen := (m.gen + 1) % 2 ^ 32
      engPuts c 8 (c.words.getD 3 0) 0 (recs.flatMap (fun r => [r.1, r.2]))
      engPuts c 4 (c.words.getD 5 0) 0 [gen, news, recs.length, pl.rf.length, nadd, pl.gs.length, nign, 0]
      let m1 ← pl.gs.foldlM (fun m g => do
        let k := m.cur.getD g (0, [])
        let parent : MKey := (k.1, k.2.dropLast)
        let node ← engNodeRef c m parent
        engSetLink c m parent 0
        engFreeNode c m node) m
      let m2 ← pl.rf.foldlM (fun m x => engTakeNode c m (m.cur.getD x (0, []))) m1
      let open_ := m2.readers m2.gen ≠ 0
      let m3 := { m2 with phase := if open_ then .two else .ready, gen := gen, cur := pl.leaves.map (·.1)
                          old := if open_ then some m2.cur else none, busyBy := none }
      engFields c m3 m3.eWords
      pure (.ok m3)

/-- MESH_ADAPT_RUN (R317, R325): an adapt of a mesh in TWO waits. -/
def execMeshAdaptRun (cmd : Nat) (s : State) : Out :=
  match s.ready cmd .meshAdapt with
  | none => .fault (.notEnabled "MESH_ADAPT_RUN")
  | some c =>
    if s.adaptWaits c then .fault (.notEnabled "MESH_ADAPT_RUN")
    else
      s.withRecord c "MESH_ADAPT_RUN" (fun s c =>
        match c.meshBad, s.mesh? (c.words.getD 1 0) with
        | some off, _ => some (s.cmdReject c .meshFormat off)
        | none, none => some (s.meshRefuse c)
        | none, some m =>
          ranTo (s.runEng (engOutcome c m.ptr m.busyBy.isSome 2 (engAdapt c m))) (s.meshFault c m .adapting)
            (fun r t => match r with
              | .error (cause, detail) => (t.setMesh { m with phase := .ready, busyBy := none }).cmdReject c cause detail
              | .ok m1 => (t.setMesh m1).cmdDone c false))

/-! ### mesh.free -/

/-- The cells whose refinement a generation's tree holds, in ascending key order (R317). -/
def innerCells (leaves : List MKey) : List MKey :=
  let all := leaves.flatMap (fun k => (List.range k.2.length).map (fun i => (k.1, k.2.take i)))
  (all.foldl (fun acc k => if acc.contains k then acc else acc ++ [k]) [])

/-- mesh.free: the nodes return in ascending key order and the root array is zeroed (R317). -/
def engFree (c : Cmd) (m : MeshHome) : Eng Unit := do
  let nodes ← (innerCells m.cur).mapM (engNodeRef c m)
  let m1 ← nodes.foldlM (engFreeNode c) m
  engPuts c 8 m.rootp 0 (List.replicate m.base.length 0)
  engFields c m1 [0, 0, 0, 0]

/-- MESH_FREE_RUN (R317). -/
def execMeshFreeRun (cmd : Nat) (s : State) : Out :=
  match s.ready cmd .meshFree with
  | none => .fault (.notEnabled "MESH_FREE_RUN")
  | some c =>
    s.withRecord c "MESH_FREE_RUN" (fun s c =>
      match c.meshBad, s.mesh? (c.words.getD 1 0) with
      | some off, _ => some (s.cmdReject c .meshFormat off)
      | none, none => some (s.meshRefuse c)
      | none, some m =>
        if m.phase ≠ .ready then some (s.meshRefuse c)
        else ranTo (s.runEng (engFree c m)) (s.cmdFault c) (fun _ t => (t.dropMesh m.ptr).cmdDone c false))

/-! ### nbr.stream -/

/-- One entry of nbr.stream (R323): eight words and eight groups of four numbers. -/
def streamEntry (g : Shape2) (leaves : List MKey) (cell : Nat) : List Nat :=
  let nf := kindFaces g.kind
  let words := (List.range 8).map (fun f => if f < nf then nbrWord g.kind (g.beside leaves cell f) else 0)
  let group (f : Nat) : List Nat :=
    let ns := if f < nf then (match g.beside leaves cell f with | .hanging l => l | b => [nbrNum b]) else []
    (List.range 4).map (fun i => ns.getD i 0xFFFFFFFF)
  words ++ (List.range 8).flatMap (fun f =>
    let l := group f
    [l.getD 0 0 + l.getD 1 0 * 2 ^ 32, l.getD 2 0 + l.getD 3 0 * 2 ^ 32])

/-- NBR_STREAM_RUN (R323). -/
def execNbrStreamRun (cmd : Nat) (s : State) : Out :=
  match s.ready cmd .nbrStream with
  | none => .fault (.notEnabled "NBR_STREAM_RUN")
  | some c =>
    s.withRecord c "NBR_STREAM_RUN" (fun s c =>
      let h := c.words.getD 2 0
      match c.meshBad, (if handleMesh h = c.words.getD 1 0 then s.builtMesh (handleMesh h) else none) with
      | some off, _ => some (s.cmdReject c .meshFormat off)
      | none, none => some (s.cmdReject c .meshFormat 0x10)
      | none, some m =>
        match m.leavesOf h with
        | none => some (s.cmdReject c .meshGen 0)
        | some leaves =>
          if leaves.length < c.w 3 + c.w 4 then some (s.cmdReject c .meshFormat 0x20)
          else
            ranTo (s.runEng ((List.range (c.w 4)).forM (fun i =>
                engPuts c 8 (c.words.getD 5 0) (192 * i : Nat) (streamEntry m.shape leaves (c.w 3 + i)))))
              (s.cmdFault c) (fun _ t => t.cmdDone c false))

/-! ### Opens and closes -/

/-- The answer of an operation whose message has reached its unit. -/
def State.opMsg (s : State) (m : Nat) : Option (Msg × OpReq × SigSrc) := do
  let msg ← s.msg? m
  match msg.body with
  | .op r src => if s.eligible msg then some (msg, r, src) else none
  | _ => none

/-- The launch that a message's strand belongs to. -/
def State.launchOf (s : State) (msg : Msg) : Nat :=
  match msg.src with
  | .ctx c => ((s.ctx? c).map Ctx.launchKey).getD 0
  | _ => 0

/-- MESH_OPEN_AT_HOME (R318). -/
def execMeshOpenAtHome (m : Nat) (s : State) : Out :=
  match s.opMsg m with
  | some (msg, .meshOpen p, src) =>
    if s.meshAhead msg.src m (some p) then .fault (.notEnabled "MESH_OPEN_AT_HOME")
    else
      s.unitWrite (match s.builtMesh p with
        | none => s.answer msg (.err .meshOperand 0)
        | some g =>
          let g1 := { g with opens := g.opens ++ [(s.launchOf msg, g.gen)] }
          ((s.setMesh g1).writeFields g1 src.die src.sid).answer msg (.val (some (setField p 0 8 (g.gen % 256)))))
        (.unit (meshDie p)) "MESH_OPEN_AT_HOME"
  | _ => .fault (.notEnabled "MESH_OPEN_AT_HOME")

/-- The generation a handle names, when it is live and has an open (R318). -/
def MeshHome.openGen (m : MeshHome) (h : Word) : Option Nat :=
  match m.leavesOf h with
  | none => none
  | some _ =>
    let g := if natBits h.toNat 0 8 = m.gen % 256 then m.gen else m.gen - 1
    if m.readers g = 0 then none else some g

/-- MESH_CLOSE_AT_HOME (R318): a close without an open posts MESH_GEN. -/
def execMeshCloseAtHome (m : Nat) (s : State) : Out :=
  match s.opMsg m with
  | some (msg, .meshClose h, src) =>
    let p := handleMesh h
    let s1 := s.dropMsg m
    if s.meshAhead msg.src m (some p) then .fault (.notEnabled "MESH_CLOSE_AT_HOME")
    else
      s.unitWrite (match (s.builtMesh p).bind (fun g => (g.openGen h).map (fun n => (g, n))) with
        | none => s1.postRecord src.die (record225 Cause.meshGen.code (meshDie p * 16 + 1) 0 src.sid h 0 0)
        | some (g, n) =>
          let g1 := (g.removeOpen (s.launchOf msg) n).release
          (s1.setMesh g1).writeFields g1 src.die src.sid)
        (.unit (meshDie p)) "MESH_CLOSE_AT_HOME"
  | _ => .fault (.notEnabled "MESH_CLOSE_AT_HOME")

/-- mesh.open (R319). -/
def fireMeshOp (i : Instr) (s : State) (req : Operands → OpReq) : Out :=
  fire i s (fun st o =>
    let n := st.f.idx
    let used := usedTokens i o
    if !(predScalarOk o.p && used.all okScalar) then st.put s ((st.ex.raise n tokenKind).reformed n)
    else if !predOpen o.p 0 || used.any (·.isNull) then st.put s (st.withEffect i none (some Token.nullScalar))
    else
      let ex0 := if st.f.reform then st.ex.reformed n else st.ex.markFired n
      st.put s ((ex0.buffer n (.op (req o) [])).reserve n (Token.scalar 0) (outsAt n i)))

/-- mesh.open. -/
def execMeshOpen (o : ResArgs) (s : State) : Out := fireMeshOp (.meshOpen o) s (fun v => .meshOpen v.l.word)
/-- mesh.close. -/
def execMeshClose (o : BareArgs) (s : State) : Out := fireMeshOp (.meshClose o) s (fun v => .meshClose v.l.word)
/-- mesh.init. -/
def execMeshInit (o : CmdArgs) (s : State) : Out := fireRecord (.meshInit o) o .meshInit s
/-- mesh.adapt. -/
def execMeshAdapt (o : CmdArgs) (s : State) : Out := fireRecord (.meshAdapt o) o .meshAdapt s
/-- nbr.stream. -/
def execNbrStream (o : CmdArgs) (s : State) : Out := fireRecord (.nbrStream o) o .nbrStream s
/-- col.build. -/
def execColBuild (o : CmdArgs) (s : State) : Out := fireRecord (.colBuild o) o .colBuild s
/-- mesh.free. -/
def execMeshFree (o : CmdArgs) (s : State) : Out := fireRecord (.meshFree o) o .meshFree s

/-! ### Neighbour queries -/

/-- A neighbour query fires (R322): it is sent at once, and its elements wait for the response. -/
def fireNbr (i : Instr) (face : Nat) (two : Bool) (q : Nat) (s : State) : Out :=
  fire i s (fun st v =>
    let n := st.f.idx
    let env := st.ex.env st.x n
    let fail (r : Raw) : State := st.put s (st.ex.raise n r)
    if !(predKindOk v.p && okScalar v.l && okVec 6 v.r) then fail tokenKind
    else if 2048 < env.vl * 64 then fail (Raw.of .widthRange (env.vl * 64))
    else
      let isNull (e : Nat) : Bool := !predOpen v.p e || v.l.isNull || v.r.nullAt e
      let live := (List.range env.vl).filter (fun e => !isNull e)
      let nulls := BitVec.ofNat 256 (indexBits isNull env.vl)
      let ld : LoadRec := { idx := n, req := { w := 8 }, deliver := true, lsid := 32, cls := 15, kind := .nbr, w := 8, shape := .vec
                            null := nulls, els := live.map (fun e => ⟨e, v.l.word, 0, 8, none, none⟩), sent := true }
      let ex1 := st.ex.markFired n
      if live.isEmpty then st.put s (ex1.finishLoad ld)
      else
        (st.put s { ex1 with loads := ex1.loads ++ [ld] }).send (.ctx st.x.id) 15
          (.opRead st.ex.serial n 0 (.nbr v.l.word face two q (live.map (fun e => (e, v.r.elem 6 e))))))

/-- nbr.ld (R321, R322). -/
def execNbrLd (o : NbrArgs) (s : State) : Out := fireNbr (.nbrLd o) o.face.toNat false 0 s
/-- nbr.ld2 (R321, R322). -/
def execNbrLd2 (o : Nbr2Args) (s : State) : Out := fireNbr (.nbrLd2 o) o.face.toNat true o.q.toNat s

/-- The word of one element of a query, or its fault (R321, R322). -/
def nbrElem (g : Shape2) (leaves : List MKey) (face : Nat) (two : Bool) (q cell : Nat) : Except Cause Nat :=
  if leaves.length ≤ cell then .error .meshCell
  else
    let b := g.beside leaves cell face
    if !two then .ok (nbrWord g.kind b)
    else
      match b with
      | .hanging ns => if g.kind < 2 ∧ q = 1 then .error .meshOperand else .ok (ns.getD (2 * q) 0 + ns.getD (2 * q + 1) 0 * 2 ^ 32)
      | b => .ok (nbrNum b * (2 ^ 32 + 1))

/-- The answers of the elements in order; a fault names the element it arose at. -/
def nbrElems (f : Nat → Except Cause Nat) : List (Nat × Nat) → Except (Cause × Nat) (List Nat)
  | [] => .ok []
  | (e, c) :: rest =>
    match f c with
    | .error x => .error (x, e)
    | .ok v => (nbrElems f rest).map (v :: ·)

/-- NBR_QUERY_AT_HOME (R322): the answer of every element, or the fault of the lowest that has one. -/
def execNbrQueryAtHome (m : Nat) (s : State) : Out :=
  match s.msg? m with
  | some msg =>
    (match msg.body with
    | .opRead _ _ _ (.nbr h face two q cells) =>
      if msg.resp.isSome then .fault (.notEnabled "NBR_QUERY_AT_HOME")
      else
        .next (match s.builtMesh (handleMesh h) with
          | none => s.answer msg (.err .meshOperand 256)
          | some g =>
            match g.leavesOf h with
            | none => s.answer msg (.err .meshGen 256)
            | some leaves =>
              if kindFaces g.kind ≤ face then s.answer msg (.err .meshOperand 256)
              else
                match nbrElems (nbrElem g.shape leaves face two q) cells with
                | .error (c, e) => s.answer msg (.err c e)
                | .ok vs => s.answer msg (.data (vs.flatMap (natLe 8))))
    | _ => .fault (.notEnabled "NBR_QUERY_AT_HOME"))
  | none => .fault (.notEnabled "NBR_QUERY_AT_HOME")

/-! ### cpyr -/

/-- A remap record as cpyr reads it: NEW, OLD, KIND, SUB, CNT. -/
structure Remap where
  new  : Nat
  old  : Nat
  kind : Nat
  sub  : Nat
  cnt  : Nat
  deriving DecidableEq, Repr

/-- A floating-point result rounded to nearest even in a format, without flags (R328). -/
def fpRne (f : Nat) (v : FVal) : Nat := (deliver f 0 false v 0).1

/-- s × (1 ÷ CNT) in a format (R328). -/
def fpScaleInv (f cnt s : Nat) : Nat :=
  let inv := fpRne f (fDiv (.fin false 1 0) (.fin false cnt 0)).1
  fpRne f (fMul (fpRead f false s) (fpRead f false inv)).1

/-- The running sum of values in a format (R328). -/
def fpSum (f : Nat) : List Nat → Nat
  | [] => 0
  | v :: vs => vs.foldl (fun s x => fpRne f (fAdd 0 (fpRead f false s) (fpRead f false x)).1) v

/-- FP64 and FP32 by their numbers (R65). -/
def fmt64 : Nat := 8
def fmt32 : Nat := 9

/-- One word of a merged element from the children's words (R328). -/
def mergeWord (mr cnt : Nat) (ws : List Nat) : Nat :=
  match mr with
  | 0 => fpScaleInv fmt64 cnt (fpSum fmt64 ws)
  | 1 =>
    let half (lo : Nat) : Nat := fpScaleInv fmt32 cnt (fpSum fmt32 (ws.map (fun w => natBits w lo 32)))
    half 0 + half 32 * 2 ^ 32
  | 2 => ws.headD 0
  | _ => fpSum fmt64 ws

/-- Read a remap record. -/
def engRemap (c : Cmd) (i : Nat) : Eng Remap := do
  let a ← engNum c 8 (c.words.getD 2 0) (16 * i : Nat)
  let b ← engNum c 8 (c.words.getD 2 0) (16 * i + 8 : Nat)
  pure ⟨natBits a 0 32, natBits a 32 32, natBits b 0 2, natBits b 8 8, natBits b 16 8⟩

/-- Words of an element of a field array. -/
def engElem (c : Cmd) (arr n es : Nat) : Eng (List Nat) :=
  (List.range (es / 8)).mapM (fun i => engNum c 8 (c.words.getD arr 0) (es * n + 8 * i : Nat))

/-- One run of records from index `i` (R328): how many it takes. -/
def engRun (c : Cmd) (i : Nat) : Eng Nat := do
  let es := natBits (c.w 9) 0 16
  let mr := natBits (c.w 9) 16 2
  let r ← engRemap c i
  let put (ws : List Nat) : Eng Unit := engPuts c 8 (c.words.getD 1 0) (es * r.new : Nat) ws
  match r.kind with
  | 0 => do
    let ws ← engElem c 5 r.old es
    put ws
    pure 1
  | 1 => do
    let ws ← engElem c 5 r.old es
    put (if mr = 3 then ws.map (fpScaleInv fmt64 r.cnt) else ws)
    pure 1
  | 2 => do
    if r.cnt = 0 then throw (engFault .cpyRecord c.req.p0 i)
    let rs ← (List.range r.cnt).mapM (fun q => do
      if c.w 3 ≤ i + q then throw (engFault .cpyRecord c.req.p0 (c.w 3))
      let x ← engRemap c (i + q)
      if x.kind ≠ 2 ∨ x.sub ≠ q ∨ x.new ≠ r.new ∨ x.cnt ≠ r.cnt then throw (engFault .cpyRecord c.req.p0 (i + q))
      engElem c 5 x.old es)
    put ((List.range (es / 8)).map (fun k => mergeWord mr r.cnt (rs.map (fun ws => ws.getD k 0))))
    pure rs.length
  | _ => pure 1

/-- Run records from an index until the list ends or a fault: what stands is kept, with the index reached (R224, R328). -/
def State.cpyrGo (s : State) (c : Cmd) : Nat → Nat → State × Nat × Option FaultRec
  | 0, i => (s, i, none)
  | fuel + 1, i =>
    if c.w 3 ≤ i then (s, i, none)
    else
      match s.runEng (engRun c i) with
      | .error f => (s, i, some f)
      | .ok (k, t) => t.cpyrGo c fuel (i + k)

/-- CPYR_RUN (R328): a resumed command goes on from the record it had reached, and the command completes once the writes that left for
peer chips have been acknowledged (R223). -/
def execCpyrRun (cmd : Nat) (s : State) : Out :=
  match s.ready cmd .cpyr with
  | none => .fault (.notEnabled "CPYR_RUN")
  | some c =>
    let es := natBits (c.w 9) 0 16
    let out (t : State) : Bool := t.net.any (fun m => m.src = .cmd cmd)
    if out s then .fault (.notEnabled "CPYR_RUN")
    else s.unitWrite (if es = 0 ∨ es % 8 ≠ 0 ∨ 4096 < es then s.cmdFault c (engFault .cpyRecord c.req.p0)
      else
        let (t, i, f) := s.cpyrGo c (c.w 3) (c.aux.headD 0)
        match f with
        | some e => (t.setCmd { c with aux := [i] }).cmdFault { c with aux := [i] } e
        | none => if out t then t.setCmd { c with aux := [i] } else t.cmdDone c false) (.engine c.mdie c.ctx) "CPYR_RUN"

/-! ### Abort -/

/-- A mesh held by an aborted command takes the failure outcome of R317 (R224). -/
def State.meshAbort (s : State) (c : Cmd) : State :=
  match s.meshes.find? (fun m => m.busyBy = some c.id) with
  | none => s
  | some m =>
    let init := m.phase = .building
    let m1 := { m with phase := .ready, busyBy := none }
    let s1 := if init then s.dropMesh m.ptr else s.setMesh m1
    match s1.runEng (engState c m.ptr (if init then 0 else m1.phase.code)) with
    | .ok (_, t) => t
    | .error _ => s1

/-- The command processor ends a command with the error bit (R224): CPY_ABORTED is posted only for one that had not
faulted. Its transfers end, a table it brought is dropped, and an object it was relocating is IDLE again (R340). -/
def State.abortCmd (s : State) (c : Cmd) : State :=
  let s1 := if c.posted then s else (s.slotFaults c).postRecord c.die (s.cmdRecord c (engFault .cpyAborted 0))
  let s2 := (s1.meshAbort c).dropTransfer c.id
  let s3 := { s2 with fab := { s2.fab with pending := s2.fab.pending.filter (fun p => p.cmd ≠ c.id) }
                      heaps := s2.heaps.map (fun (h : Nat × HeapHome) => (h.1, { h.2 with fwd := h.2.fwd.filter (fun f => !(f.copying && f.cmd = c.id)) })) }
  s3.cmdDone { c with slotFault := true } true

/-- COMMAND_ABORT (R224). -/
def execCommandAbort (cmd : Nat) (s : State) : Out :=
  match s.cmd? cmd with
  | some c =>
    if c.phase = .stopped ∨ c.phase = .running ∨ c.phase = .queued then
      .next (({ s with net := s.net.filter (fun m => m.body ≠ Body.cmd cmd) }).abortCmd c)
    else .fault (.notEnabled "COMMAND_ABORT")
  | none => .fault (.notEnabled "COMMAND_ABORT")

end Sys2Proof.Machine
end

