-- ==== Sys2Proof/Machine/Balance.lean ====
section
/-!
DEFINITION. Sys2Proof/Machine/Balance.lean: the load balancer of an M-die (R390 to R392): lb.cut, lb.migrate and ghost.sync.
-/

namespace Sys2Proof.Machine

/-- lb.cut. -/
def execLbCut (o : CmdArgs) (s : State) : Out := fireRecord (.lbCut o) o .lbCut s
/-- lb.migrate. -/
def execLbMigrate (o : CmdArgs) (s : State) : Out := fireRecord (.lbMigrate o) o .lbMigrate s
/-- ghost.sync. -/
def execGhostSync (o : CmdArgs) (s : State) : Out := fireRecord (.ghostSync o) o .ghostSync s

/-- A pointer that a load balancer's record may hold lies in global, scratchpad or peer space (R390). -/
def lbPtr (v : Nat) : Bool := [0, 1, 4].contains (natBits v 60 4)

/-- A load balancer's record lies outside the table of R390. -/
def Cmd.lbBad (c : Cmd) : Bool :=
  let w := c.w
  let parts (p : Nat) : Bool := decide (1 ≤ p) && decide (p ≤ 4096)
  let fields := match c.req.kind with
    | .lbCut => w 1 = 0 && lbPtr (w 2) && decide (1 ≤ w 3) && decide (w 3 ≤ 2 ^ 28) && parts (w 4) && lbPtr (w 5) && w 6 = 0
    | k =>
      (if k = .ghostSync then w 2 = 0 else lbPtr (w 2)) && lbPtr (w 3) && lbPtr (w 4) && w 5 % 8 = 0 && decide (8 ≤ w 5) && decide (w 5 ≤ 4096)
        && parts (w 6)
  ctlBad c.req.kind (w 0) (w 11) || !fields || [7, 8, 9, 12, 13, 14, 15].any (fun i => w i ≠ 0)

/-- LB_FORMAT; no DETAIL is given for it. -/
def State.lbReject (s : State) (c : Cmd) : State := { s with free := s.free + 1 }.cmdReject c .lbFormat (Config.freeNat s.free)

/-- A run has made its accesses: the command completes, once the writes that left for peer chips have been acknowledged (R390, R411). -/
def State.lbEnd (s : State) (c : Cmd) : State :=
  if s.net.any (fun m => m.src = .cmd c.id) then s.setCmd { c with aux := [3] } else s.cmdDone c false

/-- A command of the load balancer that waits for peers' acknowledgements completes with the last (R390, R411); another runs. -/
def State.lbNext (s : State) (cmd : Nat) (k : CmdKind) (event : String) (run : Cmd → Out) : Out :=
  match s.ready cmd k with
  | none => .fault (.notEnabled event)
  | some c =>
    if c.aux ≠ [3] then run c
    else if s.net.any (fun m => m.src = .cmd cmd) then .fault (.notEnabled event)
    else .next (s.cmdDone { c with aux := [] } false)

/-! ### lb.cut -/

/-- The sums S(0) to S(N) of weights (R391). -/
def prefixSums (ws : List Nat) : List Nat := ws.foldl (fun a w => a ++ [a.getLastD 0 + w]) [0]

/-- The cut array of `n` weights in `parts` parts (R391). -/
def cutArray (parts : Nat) (ws : List Nat) : List Nat :=
  let sums := prefixSums ws
  let total := sums.getLastD 0
  (List.range (parts + 1)).map (fun p =>
    if total = 0 then p * ws.length / parts else sums.findIdx (fun x => decide (p * total ≤ parts * x)))

/-- lb.cut (R391). -/
def engCut (c : Cmd) : Eng Unit := do
  let raw ← engRead c 4 (4 * c.w 3) (c.words.getD 2 0) 0
  engPuts c 4 (c.words.getD 5 0) 0 (cutArray (c.w 4) ((List.range (c.w 3)).map (fun i => leNat ((raw.drop (4 * i)).take 4))))

/-- LB_CUT_RUN (R391). -/
def execLbCutRun (cmd : Nat) (s : State) : Out :=
  s.lbNext cmd .lbCut "LB_CUT_RUN" (fun c =>
    s.withRecord c "LB_CUT_RUN" (fun s c =>
      if c.lbBad then some (s.lbReject c)
      else ranTo (s.runEng (engCut c)) (s.cmdFault c) (fun _ t => t.lbEnd c)))

/-! ### Parts and ghosts -/

/-- An entry of the part table (R390). -/
structure LbPart where
  oldb  : Word
  newb  : Word
  glist : Word
  gcap  : Nat
  deriving DecidableEq, Repr

/-- Read a cut array and the part table. -/
def engCutArray (c : Cmd) (p : Word) (parts : Nat) : Eng (List Nat) := (List.range (parts + 1)).mapM (fun i => engNum c 4 p (4 * i : Nat))
def engParts (c : Cmd) (parts : Nat) : Eng (List LbPart) := (List.range parts).mapM (fun i => do
  let w (k : Nat) : Eng Nat := engNum c 8 (c.words.getD 4 0) (32 * i + 8 * k : Nat)
  pure ⟨BitVec.ofNat 64 (← w 0), BitVec.ofNat 64 (← w 1), BitVec.ofNat 64 (← w 2), ← w 3⟩)

/-- A cut array ascends from 0 to the cell count (R390). -/
def cutOk (n : Nat) (cut : List Nat) : Bool :=
  cut.headD 1 = 0 && cut.getLastD 0 = n && (List.range (cut.length - 1)).all (fun i => decide (cut.getD i 0 ≤ cut.getD (i + 1) 0))

/-- The part that owns a cell (R392). -/
def partOf (cut : List Nat) (c : Nat) : Option Nat :=
  (List.range (cut.length - 1)).find? (fun q => decide (cut.getD q 0 ≤ c) && decide (c < cut.getD (q + 1) 0))

/-- How many cells a part owns. -/
def owned (cut : List Nat) (p : Nat) : Nat := cut.getD (p + 1) 0 - cut.getD p 0

/-- The ghost set of a part (R392). -/
def ghostsOf (g : Shape2) (leaves : List MKey) (cut : List Nat) (p : Nat) : List Nat :=
  let lo := cut.getD p 0
  let hi := cut.getD (p + 1) 0
  let near := (List.range (hi - lo)).flatMap (fun i => g.neighbours leaves (lo + i))
  (List.range leaves.length).filter (fun c => !(decide (lo ≤ c) && decide (c < hi)) && near.contains c)

/-- Where an engine's 8-byte or 4-byte access falls in this machine's memory; a peer's place is none. -/
def engKey (c : Cmd) (nd : Need) (w : Nat) (base : Word) (d : Nat) : Eng (Option (Nat × Nat)) := fun s =>
  match s.cmdPlace c nd w w base d with
  | .error f => .error f
  | .ok a => .ok (if a.place.peer.isSome then none else some (a.place.key, w), s)

/-- An element that a load balancer copies: from an element of one array to an element of another; no source where the list names no
cell. -/
structure LbMove where
  src : Option (Word × Nat)
  dst : Word × Nat
  deriving DecidableEq, Repr

/-- Two accesses touch a common byte. -/
def touches (a b : Nat × Nat) : Bool := decide (a.1 < b.1 + b.2) && decide (b.1 < a.1 + a.2)

/-- A write of a list touches one of the reads or another write. -/
def lbOverlap (reads : List (Nat × Nat)) : List (Nat × Nat) → Bool
  | [] => false
  | w :: ws => reads.any (touches w) || ws.any (touches w) || lbOverlap reads ws

/-- Copy elements of `es` bytes and write the ghost lists (R392): arrays that overlap give free values. -/
def engMoves (c : Cmd) (es : Nat) (moves : List LbMove) (lists : List (Word × List Nat)) : Eng Unit := do
  let words := moves.flatMap (fun m => (List.range (es / 8)).map (fun k => (m.src.map (fun t => (t.1, es * t.2 + 8 * k)), (m.dst.1, es * m.dst.2 + 8 * k))))
  let vals ← words.mapM (fun m => match m.1 with
    | some (b, o) => do
      let v ← engNum c 8 b (o : Nat)
      pure (some v)
    | none => pure none)
  let reads ← words.mapM (fun m => match m.1 with | some (b, o) => engKey c { rd := true } 8 b o | none => pure none)
  let writes ← words.mapM (fun m => engKey c { wr := true } 8 m.2.1 m.2.2)
  let heads ← lists.mapM (fun l => (List.range l.2.length).mapM (fun i => engKey c { wr := true } 4 l.1 (4 * i)))
  let clash := lbOverlap (reads.filterMap id) (writes.filterMap id ++ heads.flatten.filterMap id)
  let s ← get
  set { s with free := s.free + words.length + (lists.map (fun (l : Word × List Nat) => l.2.length)).foldl (· + ·) 0 }
  let free (i : Nat) : Nat := (Config.freeWord (s.free + i)).toNat
  lists.forM (fun l => engPuts c 4 l.1 0 (if clash then (List.range l.2.length).map (fun i => free (words.length + i) % 2 ^ 32) else l.2))
  (List.range words.length).forM (fun i =>
    match words[i]?, vals[i]? with
    | some m, some v => engPut c 8 m.2.1 (m.2.2 : Nat) (if clash then free i else v.getD (free i))
    | _, _ => pure ())

/-- What a run of lb.migrate or ghost.sync comes to: done, LB_FORMAT, or LB_CAPACITY with the part. -/
inductive LbEnd where
  | done
  | format
  | capacity (p : Nat)
  deriving DecidableEq, Repr

/-- lb.migrate (R392). -/
def engMigrate (c : Cmd) (g : Shape2) (leaves : List MKey) : Eng LbEnd := do
  let np := c.w 6
  let old ← engCutArray c (c.words.getD 2 0) np
  let cut ← engCutArray c (c.words.getD 3 0) np
  let parts ← engParts c np
  let n := leaves.length
  if !cutOk n old || !cutOk n cut || parts.any (fun t => !lbPtr t.oldb.toNat || !lbPtr t.newb.toNat || !lbPtr t.glist.toNat) then pure .format
  else
    let part (p : Nat) : LbPart := parts.getD p ⟨0, 0, 0, 0⟩
    let ghosts := (List.range np).map (ghostsOf g leaves cut)
    match (List.range np).find? (fun p => decide ((part p).gcap < (ghosts.getD p []).length)) with
    | some p => pure (.capacity p)
    | none => do
      let src (x : Nat) : Option (Word × Nat) := (partOf old x).map (fun q => ((part q).oldb, x - old.getD q 0))
      let moves := (List.range np).flatMap (fun p =>
        (List.range (owned cut p)).map (fun i => (⟨src (cut.getD p 0 + i), ((part p).newb, i)⟩ : LbMove))
          ++ (List.range (ghosts.getD p []).length).map (fun k => ⟨src ((ghosts.getD p []).getD k 0), ((part p).newb, owned cut p + k)⟩))
      engMoves c (c.w 5) moves ((List.range np).map (fun p => ((part p).glist, (ghosts.getD p []).length :: ghosts.getD p [])))
      pure .done

/-- ghost.sync (R392): the ghost slots are rewritten from the new owners of the cells that the lists name. -/
def engSync (c : Cmd) (g : Shape2) (leaves : List MKey) : Eng LbEnd := do
  let np := c.w 6
  let cut ← engCutArray c (c.words.getD 3 0) np
  let parts ← engParts c np
  if !cutOk leaves.length cut || parts.any (fun t => !lbPtr t.newb.toNat || !lbPtr t.glist.toNat) then pure .format
  else do
    let part (p : Nat) : LbPart := parts.getD p ⟨0, 0, 0, 0⟩
    let moves ← (List.range np).mapM (fun p =>
      (List.range (ghostsOf g leaves cut p).length).mapM (fun k => do
        let x ← engNum c 4 (part p).glist (4 + 4 * k : Nat)
        pure (⟨(partOf cut x).map (fun q => ((part q).newb, x - cut.getD q 0)), ((part p).newb, owned cut p + k)⟩ : LbMove)))
    engMoves c (c.w 5) moves.flatten []
    pure .done

/-- A command that names a generation of a mesh runs (R390, R392). -/
def State.lbRun (s : State) (c : Cmd) (event : String) (run : Cmd → Shape2 → List MKey → Eng LbEnd) : Out :=
  s.withRecord c event (fun s c =>
    let h := c.words.getD 1 0
    let mesh := (s.builtMesh (handleMesh h)).bind (fun m => (m.leavesOf h).map (fun l => (m, l)))
    match c.lbBad, mesh with
    | false, some (m, leaves) =>
      ranTo (s.runEng (run c m.shape leaves)) (s.cmdFault c) (fun r t => match r with
        | .done => t.lbEnd c
        | .format => s.lbReject c
        | .capacity p => s.cmdReject c .lbCapacity p)
    | _, _ => some (s.lbReject c))

/-- LB_MIGRATE_RUN (R392). -/
def execLbMigrateRun (cmd : Nat) (s : State) : Out :=
  s.lbNext cmd .lbMigrate "LB_MIGRATE_RUN" (fun c => s.lbRun c "LB_MIGRATE_RUN" engMigrate)

/-- GHOST_SYNC_RUN (R392). -/
def execGhostSyncRun (cmd : Nat) (s : State) : Out :=
  s.lbNext cmd .ghostSync "GHOST_SYNC_RUN" (fun c => s.lbRun c "GHOST_SYNC_RUN" engSync)

end Sys2Proof.Machine
end

