-- ==== Sys2Proof/Machine/Colour.lean ====
section
/-!
DEFINITION. Sys2Proof/Machine/Colour.lean: the colouring unit (R329) and vsadd.col (R330).
-/

namespace Sys2Proof.Machine

/-- The indices of entry `e` of an index list, without padding (R329). -/
def entryIndices (g : Nat) (list : List Nat) (e : Nat) : List Nat := ((list.drop (g * e)).take g).filter (· ≠ 0xFFFFFFFF)

/-- The colours of the first entries, in reverse, each with its indices; the entry that needs a 33rd colour (R329). -/
def colourGo (g : Nat) (list : List Nat) : List Nat → List (Nat × List Nat) → List (Nat × List Nat) × Option Nat
  | [], acc => (acc, none)
  | e :: es, acc =>
    let is := entryIndices g list e
    let used := (acc.filter (fun a => a.2.any (fun i => is.contains i))).map (·.1)
    match (List.range 32).find? (fun c => !used.contains c) with
    | none => (acc, some e)
    | some c => colourGo g list es ((c, is) :: acc)

/-- colour(NENT) (R329): the entry that overflows, if one does. -/
def engColour (c : Cmd) : Eng (Option Nat) := do
  let nent := natBits (c.w 3) 0 32
  let g := natBits (c.w 3) 32 4 + 1
  let raw ← engRead c 4 (4 * g * nent) (c.words.getD 2 0) 0
  let list := (List.range (g * nent)).map (fun i => leNat ((raw.drop (4 * i)).take 4))
  let (acc, stuck) := colourGo g list (List.range nent) []
  let cols := (acc.map (·.1)).reverse
  engPuts c 1 (c.words.getD 4 0) 0 cols
  match stuck with
  | some e => pure (some e)
  | none => do
    engPuts c 4 (c.words.getD 5 0) 0 ((List.range 33).map (fun k => (cols.filter (fun q => decide (q < k))).length))
    engPuts c 4 (c.words.getD 6 0) 0 ((List.range 32).flatMap (fun k => (List.range nent).filter (fun e => cols.getD e 32 = k)))
    pure none

/-- COL_BUILD_RUN (R329). -/
def execColBuildRun (cmd : Nat) (s : State) : Out :=
  match s.ready cmd .colBuild with
  | none => .fault (.notEnabled "COL_BUILD_RUN")
  | some c =>
    s.withRecord c "COL_BUILD_RUN" (fun s c =>
      match c.meshBad with
      | some off => some (s.cmdReject c .meshFormat off)
      | none =>
        ranTo (s.runEng (engColour c)) (s.cmdFault c) (fun e t => match e with
          | some e => t.cmdReject c .colOverflow e
          | none => t.cmdDone c false))

/-! ### vsadd.col -/

/-- The descriptor vsadd.col accepts (R330). -/
def vsaddDesc (d : Desc) : Bool := d.fb == d.fa && d.fd == d.fa && (d.fa == 6 || (d.fa == 8 && d.rm != 5)) && d.scl == 0

/-- vsadd.col (R330): its targets are checked as it fires and read as class-15 loads; its sums are released at the belay. -/
def execVsaddCol (o : VsaddArgs) (s : State) : Out :=
  fire (.vsaddCol o) s (fun st v =>
    let n := st.f.idx
    let env := st.ex.env st.x n
    let fail (r : Raw) : State := st.put s ((st.ex.raise n r).reformed n)
    if !(predKindOk v.p && v.l.wide && okBase v.l && okVec 6 v.r) then fail tokenKind
    else
      match descCheck env o.ds useTwo vsaddDesc with
      | .error r => fail r
      | .ok _ =>
        if env.lsew ≠ 6 then fail (Raw.of .widthRange (env.vl * 2 ^ env.lsew))
        else
          let live := (List.range env.vl).filter (fun e => predOpen v.p e && !v.l.nullAt e && !v.r.nullAt e)
          let r : AccReq := { need := { rd := true, wr := true }, w := 8, n := 8, user := st.ex.user }
          let l := (s.checkEls st.x.wins r s.free (live.map (fun e => ⟨e, baseOf v.l e, 0, 8⟩))).map (fun a =>
            if 1 < spaceOf a.1.base then (a.1, Except.error ⟨.spaceInvalid, 0, a.1.base, none⟩) else a)
          match elemFaults l with
          | f :: fs => st.put s ((st.ex.raiseElems n (f :: fs)).reformed n)
          | [] =>
            match live.find? (fun e => live.any (fun q => decide (q < e) && baseOf v.l q = baseOf v.l e)) with
            | some e => fail (Raw.of .colConflict e)
            | none =>
              let parts := l.flatMap (fun a => match a.2 with | .ok ps => ps.map (fun p => (a.1.e, p)) | .error _ => [])
              let ld : LoadRec := { idx := n, req := { w := 8, wr := true }, deliver := false, lsid := 33, cls := 15, kind := .vsadd
                                    w := 8, shape := .vec, null := 0
                                    els := parts.map (fun p => ⟨p.1, p.2.ptr, 0, 8, some p.2.place, none⟩), sent := true }
              let ex0 := if st.f.reform then st.ex.reformed n else st.ex.markFired n
              if parts.isEmpty then st.put s (ex0.buffer n (.vsadd []))
              else
                (st.put { s with free := s.free + 2 * live.length } { ex0 with loads := ex0.loads ++ [ld] }).sendReads st.x.id 15
                  (parts.map (fun p => loadBody st.ex.serial n false none p.2 [p])))

/-- The sum of one element (R330): INT64 wraps, FP64 rounds under the descriptor. -/
def vsaddSum (d : Desc) (old v : Nat) : Nat × Flags :=
  if d.fa = 6 then ((old + v) % 2 ^ 64, 0)
  else
    let (r, fl) := fAdd d.rm (fpRead 8 d.ftz old) (fpRead 8 d.ftz v)
    deliver 8 d.rm d.ftz r fl

/-- The targets of a vsadd.col have been read: its sums are formed and buffered (R330), with the conditions of R81 to R84. -/
def Exec.vsaddForm (ex : Exec) (x : Ctx) (ld : LoadRec) : Exec :=
  let ex1 := ex.dropLoad ld.idx
  match ex.instr? ld.idx with
  | some (.vsaddCol o) =>
    (match ex.slot ld.idx .right with
    | none => ex1
    | some v =>
      let env := ex.env x ld.idx
      let d := Desc.ofWord (env.d.getD o.ds.toNat 0)
      let sums : List (LdElem × Nat × Flags) := ld.els.map (fun el => (el, vsaddSum d (match el.val with | some b => leNat b | none => 0) (v.elem 6 el.e)))
      match sums.find? (fun (t : LdElem × Nat × Flags) => (fpTrap env.fe t.2.2).isSome) with
      | some t =>
        (ex1.unfire ld.idx).raise ld.idx ⟨(fpTrap env.fe t.2.2).getD .fpeInvalid, o.ds.toNat, some t.1.e, none⟩
      | none =>
        let els := sums.filterMap (fun (t : LdElem × Nat × Flags) => t.1.place.map (fun p => (⟨t.1.e, t.1.base, p, fullBytes 8 t.2.1⟩ : StElem)))
        { ex1 with flags := sums.foldl (fun (fl : Flags) (t : LdElem × Nat × Flags) => fl ||| t.2.2) ex1.flags }.buffer ld.idx (.vsadd els))
  | _ => ex1

end Sys2Proof.Machine
end

