-- ==== Sys2Proof/Machine/Convert.lean ====
section
/-!
DEFINITION. Sys2Proof/Machine/Convert.lean: conversions between number formats (R103, R104) and reductions (R87, R105).
-/

namespace Sys2Proof.Machine

/-! ### Conversions -/

/-- The draw of stochastic rounding for element `e` (R76). -/
def Env.draw (env : Env) (e : Nat) : Nat := lfsrSteps (32 * (env.draws + e)) env.sl % 2 ^ 32

/-- A token of packed E2M1 elements, held in bytes or in elements of 4 bits (R68, R103). -/
def e2m1View (t : Token) : Token := if t.kind = .vec then { t with lw := 2 } else t

/-- The value of an element under its S9 scale; the product is exact and a NaN scale or element reads as NaN (R70). -/
def scaledVal (v : FVal) (sc : Option (Nat × Int)) : FVal :=
  match sc with
  | none => .nan false
  | some (m, e) => (match v with
    | .nan _ => .nan false
    | .inf s => .inf s
    | .fin s n g => .fin s (n * m) (g + e))

/-- The entry of the scale file for element `e` on side A, or SCALE_RANGE with the index that is out of range (R72, R175). -/
def scaleEntry (env : Env) (d : Desc) (e : Nat) : Except Raw Nat :=
  let k := e / 2 ^ d.blk + d.sba
  if h : k < 256 then .ok (env.scale[k]).toNat else .error (Raw.of .scaleRange k)

/-- vcvt reads FA, FD, RM and SCL. -/
def useCvt : DescUse := ⟨false, true, true, true⟩

/-- The descriptors vcvt accepts (R74, R103). -/
def cvtOk (env : Env) (d : Desc) : Bool :=
  (if d.fa = 14 then env.lsew == 3 else fmtLw d.fa == env.lsew)
    && (d.scl == 0 || (d.scl == 1 && (d.fa == 12 || d.fa == 14) && d.blk == 5))

/-- vcvt: element e converted from FA to FD (R103). -/
def execVcvt (o : FpArgs) (s : State) : Out :=
  fireTok (.vcvt o) s (fun env v => do
    let d ← descCheck env o.d useCvt (cvtOk env)
    let l := if d.fa = 14 then e2m1View v.l else v.l
    need (okVec env.lsew v.l || (d.fa == 14 && okVec 2 v.l)) tokenKind
    let lw := if d.fa = 14 then 2 else env.lsew
    elementwise env v.p [(l, lw)] (.vec (fmtLw d.fd)) (fun e xs => do
      let a := fpRead d.fa d.ftz (xs.getD 0 0)
      if d.scl = 1 then
        let k ← scaleEntry env d e
        let b := scaledVal a (s9 k)
        let r := convert 9 d.fd d.rm d.ftz d.sat (env.draw e) b
        condResult env.fe o.d.toNat (if b.isNan then (r.1, flNone) else r)
      else condResult env.fe o.d.toNat (convert d.fa d.fd d.rm d.ftz d.sat (env.draw e) a)))

/-- vcvtb reads FA, FD and RM. -/
def useCvtb : DescUse := ⟨false, true, true, false⟩

/-- vcvtb: element e divided exactly by its S9 scale and delivered to FD once (R104). -/
def execVcvtb (o : FpArgs) (s : State) : Out :=
  fireTok (.vcvtb o) s (fun env v => do
    let d ← descCheck env o.d useCvtb (fun d =>
      9 ≤ d.fa && d.fa ≤ 11 && fmtLw d.fa == env.lsew && (d.fd == 12 || d.fd == 14) && d.blk == 5)
    need (okVec env.lsew v.l) tokenKind
    elementwise env v.p [(v.l, env.lsew)] (.vec (fmtLw d.fd)) (fun e xs => do
      let a := fpRead d.fa d.ftz (xs.getD 0 0)
      let k ← scaleEntry env d e
      match s9 k with
      | none => condResult env.fe o.d.toNat (deliverNan d.fd flNV)
      | some (m, x) =>
        let (q, fl) := fDiv a (.fin false m x)
        let (b, g) := convert 9 d.fd d.rm d.ftz d.sat (env.draw e) q
        condResult env.fe o.d.toNat (b, fl ||| g)))

/-! ### Reductions -/

/-- The value that element `e` of bits `x` brings to a sum: read in FA, under its S9 scale where the descriptor enables scaling
(R70, R72, R105). -/
def sumTerm (env : Env) (d : Desc) (e x : Nat) : Except Raw FVal :=
  let a := fpRead d.fa d.ftz x
  if d.scl = 1 then
    match scaleEntry env d e with
    | .ok k => .ok (scaledVal a (s9 k))
    | .error r => .error { r with elem := some e }
  else .ok a

/-- A sum that nothing takes part in: init, read and delivered in FD (R67, R77, R87, R105). -/
def initAlone (env : Env) (n : BitVec 3) (d : Desc) (init : Nat) (fl : Flags) : Except Raw (Nat × Flags) :=
  let v := fpRead d.fd d.ftz init
  condResult env.fe n.toNat (deliver d.fd d.rm d.ftz (if v.isNan then .nan false else v) (fl ||| if v.isSig then flNV else 0))

/-- One addition of a floating-point sum, rounded once in FD (R87): its trap, or its bits with the flags so far (R84). The manual does not
say which of several trapping additions is reported, nor with which ELEM: the model reports the first in the order in which it adds
(a tree level by level, each from the left), with no ELEM (DESIGN CHOICE, log 114). -/
def addIn (env : Env) (n : BitVec 3) (d : Desc) (a b : FVal) (acc : Flags) : Except Raw (Nat × Flags) :=
  let (r, fl) := fAdd d.rm a b
  match condResult env.fe n.toNat (deliver d.fd d.rm d.ftz r fl) with
  | .ok (v, g) => .ok (v, acc ||| g)
  | .error e => .error e

/-- The ordered sum over bits of FD of the elements from number `e` on (R87). -/
def sumOrdered (env : Env) (n : BitVec 3) (d : Desc) : Nat → List (Option Nat) → Nat × Flags → Except Raw (Nat × Flags)
  | _, [], acc => .ok acc
  | e, none :: xs, acc => sumOrdered env n d (e + 1) xs acc
  | e, some x :: xs, (b, fl) =>
    match sumTerm env d e x with
    | .error r => .error r
    | .ok v =>
      match addIn env n d (fpRead d.fd d.ftz b) v fl with
      | .ok a => sumOrdered env n d (e + 1) xs a
      | .error r => .error r

/-- The values of the participants from element `e` on (R87). -/
def sumTerms (env : Env) (d : Desc) : Nat → List (Option Nat) → Except Raw (List (Option FVal))
  | _, [] => .ok []
  | e, none :: xs => (sumTerms env d (e + 1) xs).map (none :: ·)
  | e, some x :: xs =>
    match sumTerm env d e x with
    | .error r => .error r
    | .ok v => (sumTerms env d (e + 1) xs).map (some v :: ·)

/-- One level of the tree: adjacent positions combine (R87). -/
def sumLevel (env : Env) (n : BitVec 3) (d : Desc) : List (Option FVal) → Flags → Except Raw (List (Option FVal) × Flags)
  | some a :: some b :: xs, fl =>
    match addIn env n d a b fl with
    | .error e => .error e
    | .ok (v, g) =>
      match sumLevel env n d xs g with
      | .error e => .error e
      | .ok (l, h) => .ok (some (fpRead d.fd d.ftz v) :: l, h)
  | a :: b :: xs, fl =>
    match sumLevel env n d xs fl with
    | .error e => .error e
    | .ok (l, h) => .ok ((a <|> b) :: l, h)
  | l, fl => .ok (l, fl)

/-- The tree sum of the elements, after at most `fuel` levels (R87): an odd last position stands alone, as it does when the
list is padded to a power of two. -/
def sumTree (env : Env) (n : BitVec 3) (d : Desc) : Nat → List (Option FVal) → Flags → Except Raw (Option FVal × Flags)
  | 0, l, fl => .ok (l.headD none, fl)
  | fuel + 1, l, fl =>
    match sumLevel env n d l fl with
    | .error e => .error e
    | .ok (m, g) => sumTree env n d fuel m g

/-- The participants of a reduction: null elements and those a mask predicate closes take no part (R87). -/
def participants (env : Env) (p : Pred) (a : Token) : List (Option Nat) :=
  (List.range env.vl).map (fun e => if !predWide p || predOpen p e then a.elem? env.lsew e else none)

/-- The scaling fields that a reduction accepts (R74): none, or S9 blocks of 32 elements of E4M3. -/
def sclOk (d : Desc) : Bool := d.scl == 0 || (d.scl == 1 && d.fa == 12 && d.blk == 5)

/-- A reduction: `ok` are the descriptors it accepts beyond a source of width SEW, `run` combines init with the
participants. The manual does not say whether the integer reductions read RM and SCL: the model checks both fields in every reduction
(DESIGN CHOICE, log 114). -/
def reduce (i : Instr) (o : FpArgs) (ok : Desc → Bool) (run : Env → Desc → Nat → List (Option Nat) → Except Raw (Nat × Flags))
    (s : State) : Out :=
  fireTok i s (fun env v => do
    let d ← descCheck env o.d useCvt (fun d => ok d && fmtLw d.fa == env.lsew && d.rm != 5 && sclOk d)
    need (predKindOk v.p && okVec env.lsew v.l && okScalar v.r) tokenKind
    if v.r.isNull || (!predWide v.p && !predOpen v.p 0) then okTok Token.nullScalar
    else
      let (b, fl) ← run env d (v.r.val % 2 ^ fmtWidth d.fd) (participants env v.p v.l)
      .ok ⟨Token.scalar b, fl⟩)

/-- The formats of the sums (R105). -/
def sumOk (d : Desc) : Bool :=
  (fmtIsInt d.fa && (d.fd == 6 || d.fd == 7))
    || (fmtIsFloat d.fa && d.fa != 14 && fmtIsFloat d.fd && d.fd != 14 && decide (fmtWidth d.fa ≤ fmtWidth d.fd))

/-- An integer sum is exact and wraps modulo 2^64 (R105). -/
def intSum (d : Desc) (init : Nat) (xs : List (Option Nat)) : Nat :=
  intToNat 64 (xs.foldl (fun acc x => match x with | some v => acc + (if fmtSigned d.fa then natToInt (fmtWidth d.fa) v else (v : Int)) | none => acc) (init : Int))

/-- vsum.o (R87, R105): every element is read in FA, each partial sum in FD. -/
def execVsumO (o : FpArgs) (s : State) : Out :=
  reduce (.vsumO o) o sumOk (fun env d init xs =>
    if fmtIsInt d.fa then .ok (intSum d init xs, 0)
    else if xs.all (·.isNone) then initAlone env o.d d init 0
    else sumOrdered env o.d d 0 xs (init, 0)) s

/-- vsum.t (R87, R105). -/
def execVsumT (o : FpArgs) (s : State) : Out :=
  reduce (.vsumT o) o sumOk (fun env d init xs =>
    if fmtIsInt d.fa then .ok (intSum d init xs, 0)
    else do
      let (r, fl) ← sumTree env o.d d 8 (← sumTerms env d 0 xs) 0
      match r with
      | none => initAlone env o.d d init fl
      | some v => addIn env o.d d (fpRead d.fd d.ftz init) v fl) s

/-- FA is one of 0 to 11 and FD = FA (R105). -/
def minMaxOk (d : Desc) : Bool := decide (d.fa ≤ 11) && d.fd == d.fa

/-- The least or greatest of a list of values that are not NaN. -/
def bestOf (wantMax : Bool) : FVal → List FVal → FVal
  | a, [] => a
  | a, b :: bs => bestOf wantMax (fMinMax wantMax a b).1 bs

/-- The least or greatest of init and the participants, in no order: a signalling NaN gives NaN with NV, and other NaNs count
only when nothing else takes part (R87, R101, R105). -/
def redMinMax (wantMax : Bool) (env : Env) (n : BitVec 3) (d : Desc) (init : Nat) (xs : List (Option Nat)) : Except Raw (Nat × Flags) :=
  let all := init :: xs.filterMap id
  if fmtIsInt d.fa then
    let w := fmtWidth d.fa
    let val (b : Nat) : Int := if fmtSigned d.fa then natToInt w b else (b : Int)
    .ok (all.foldl (fun a b => if (if wantMax then val a < val b else val b < val a) then b else a) init, 0)
  else
    let vs := all.map (fpRead d.fa d.ftz)
    let r : FVal × Flags :=
      if vs.any FVal.isSig then (.nan false, flNV)
      else match vs.filter (fun v => !v.isNan) with
        | [] => (.nan false, 0)
        | v :: more => (bestOf wantMax v more, 0)
    condResult env.fe n.toNat (deliver d.fd d.rm d.ftz r.1 r.2)

/-- vmin.r (R105). -/
def execVminR (o : FpArgs) (s : State) : Out := reduce (.vminR o) o minMaxOk (fun env d => redMinMax false env o.d d) s
/-- vmax.r (R105). -/
def execVmaxR (o : FpArgs) (s : State) : Out := reduce (.vmaxR o) o minMaxOk (fun env d => redMinMax true env o.d d) s

/-- FA is an integer format and FD = FA (R105). -/
def bitsOk (d : Desc) : Bool := fmtIsInt d.fa && d.fd == d.fa

/-- vand.r (R105). -/
def execVandR (o : FpArgs) (s : State) : Out :=
  reduce (.vandR o) o bitsOk (fun _ _ init xs => .ok ((xs.filterMap id).foldl (· &&& ·) init, 0)) s
/-- vor.r (R105). -/
def execVorR (o : FpArgs) (s : State) : Out :=
  reduce (.vorR o) o bitsOk (fun _ _ init xs => .ok ((xs.filterMap id).foldl (· ||| ·) init, 0)) s

end Sys2Proof.Machine
end

