-- ==== Sys2Proof/Machine/Matrix.lean ====
section
/-!
DEFINITION. Sys2Proof/Machine/Matrix.lean: the matrix unit. Tiles and their working image (R189 to R192), the outer product and
gemm.t (R204 to R212), the block solvers (R213 to R217), tile and scale transfers (R199 to R203), and the firing of the
matrix instructions (R190, R195, R198). MatrixRun.lean applies and steps them.
-/

namespace Sys2Proof.Machine

/-! ### Tiles -/

/-- Elements of `w` bits as one number, the first lowest. -/
def packNat (w : Nat) : List Nat → Nat
  | [] => 0
  | v :: vs => v % 2 ^ w + 2 ^ w * packNat w vs

/-- The first `n` elements of `w` bits of a number. -/
def unpackNat (w v : Nat) : Nat → List Nat
  | 0 => []
  | n + 1 => v % 2 ^ w :: unpackNat w (v / 2 ^ w) n

/-- The architectural image of the strand's window `t` (R9). -/
def State.archTile (s : State) (x : Ctx) (t : Nat) : BitVec 32768 :=
  match x.tiles[t]? with
  | some k => (((s.core x.core).tiles.find? (fun p => p.1 = k)).map (·.2)).getD 0
  | none => 0

/-- The working image of a window (R191). -/
def State.tile (s : State) (x : Ctx) (ex : Exec) (t : Nat) : BitVec 32768 :=
  ((ex.mx.tiles.find? (fun p => p.1 = t)).map (·.2)).getD (s.archTile x t)

/-- Write a window of the working image. -/
def Exec.setTile (ex : Exec) (t : Nat) (b : BitVec 32768) : Exec :=
  { ex with mx := { ex.mx with tiles := (t, b) :: ex.mx.tiles.filter (fun p => p.1 ≠ t) } }

/-- Width of the elements of a window or pair. -/
def accW (pair : Bool) : Nat := if pair then 64 else 32

/-- The 1024 elements of a window, or of the pair it begins, row by row (R189). -/
def State.tileElems (s : State) (x : Ctx) (ex : Exec) (t : Nat) (pair : Bool) : List Nat :=
  if pair then unpackNat 64 (s.tile x ex t).toNat 512 ++ unpackNat 64 (s.tile x ex (t + 1)).toNat 512
  else unpackNat 32 (s.tile x ex t).toNat 1024

/-- Write the 1024 elements of a window or pair. -/
def Exec.setElems (ex : Exec) (t : Nat) (pair : Bool) (es : List Nat) : Exec :=
  if pair then (ex.setTile t (BitVec.ofNat 32768 (packNat 64 (es.take 512)))).setTile (t + 1) (BitVec.ofNat 32768 (packNat 64 (es.drop 512)))
  else ex.setTile t (BitVec.ofNat 32768 (packNat 32 es))

/-- An entry of the working scale register file (R72, R191). -/
def Exec.scaleAt (ex : Exec) (x : Ctx) (k : Nat) : Nat :=
  (((ex.mx.scale.find? (fun p => p.1 = k)).map (·.2)).getD (x.scale.toList.getD k 0)).toNat

/-! ### Formats -/

/-- The number k of packed values in a lane for a combination of R204. -/
def mxPack (d : Desc) : Option Nat :=
  if d.fa = 8 ∧ d.fb = 8 ∧ d.fd = 8 then some 1
  else if d.fa = 9 ∧ d.fb = 9 ∧ d.fd = 9 then some 2
  else if d.fa = d.fb ∧ (d.fa = 10 ∨ d.fa = 11) ∧ d.fd = 9 then some 4
  else if (d.fa = 12 ∨ d.fa = 13) ∧ (d.fb = 12 ∨ d.fb = 13) ∧ d.fd = 9 then some 8
  else if d.fa = 14 ∧ d.fb = 14 ∧ d.fd = 9 then some 16
  else if d.fa < 2 ∧ d.fb < 2 ∧ d.fd = 4 then some 8
  else none

/-- The scaling that a matrix instruction accepts (R204). -/
def mxScaleOk (d : Desc) (gemm : Bool) : Bool :=
  match d.scl with
  | 0 => true
  | 1 => d.blk == 5 && d.fa == d.fb && (d.fa == 12 || d.fa == 14)
  | _ => gemm && d.blk == 7 && (d.fa == 12 || d.fa == 13 || d.fa == 14)

/-- The descriptor of opa and gemm.t (R195, R204). -/
def mxDesc (env : Env) (ds : BitVec 3) (gemm : Bool) : Except Raw Desc :=
  descCheck env ds useTwo (fun d => (mxPack d).isSome && d.rm != 5 && mxScaleOk d gemm)

/-- The descriptor of a block solver (R213). -/
def solverDesc (env : Env) (ds : BitVec 3) : Except Raw Desc :=
  descCheck env ds useTwo (fun d => d.fa == 8 && d.fb == 8 && d.fd == 8 && d.rm != 5 && d.scl == 0)

/-- An FP64 accumulator needs an even window and the next one (R190). -/
def mxWindow (x : Ctx) (d : Desc) (td : BitVec 3) : Except Raw Unit :=
  need (d.fd != 8 || (td.toNat % 2 == 0 && decide (td.toNat + 1 < x.tiles.length))) (Raw.of .mxOperand td.toNat)

/-! ### One step of an outer product -/

/-- The values packed in a lane (R68). -/
def laneVals (f : Nat) (ftz : Bool) (k lane : Nat) : List FVal := (unpackNat (64 / k) lane k).map (fun v => fpRead f ftz v)

/-- The products of two lanes, negated where `neg` says, with their conditions. -/
def laneProducts (neg : Bool) : List FVal → List FVal → List (FVal × Flags)
  | a :: as, b :: bs => fMul (if neg then fNeg a else a) b :: laneProducts neg as bs
  | _, _ => []

/-- The exact sum of a k-group (R86). The manual does not say whether infinities of opposite sign raise NV in a group that also holds a
quiet NaN: the model adds the products from the last to the first, so they do when two of them stand after the last NaN
(DESIGN CHOICE, log 114). -/
def groupSum (rm : Nat) : List (FVal × Flags) → FVal × Flags
  | [] => (.fin false 0 0, 0)
  | [p] => p
  | (p, f) :: ps =>
    let (g, h) := groupSum rm ps
    let (r, c) := fAdd rm p g
    (r, f ||| h ||| c)

/-- The signed integer of a finite value. -/
def FVal.int : FVal → Int
  | .fin s m _ => finInt s m
  | _ => 0

/-- One accumulator element of a step (R86, R205). -/
def mxCell (d : Desc) (neg : Bool) (as bs : List FVal) (acc : Nat) : Nat × Flags :=
  if d.fd = 4 then
    let g := ((laneProducts neg as bs).map (fun p => FVal.int p.1)).foldl (· + ·) 0
    let v := natToInt 32 acc + g
    let c := clampInt (-(2 ^ 31)) (2 ^ 31 - 1) v
    if d.sat then (intToNat 32 c, if c = v then 0 else flSA) else (intToNat 32 v, 0)
  else if d.fa = d.fd then
    (as.zip bs).foldl (fun (st : Nat × Flags) p =>
      let (r, fl) := fFma d.rm (if neg then fNeg p.1 else p.1) p.2 (fpRead d.fd d.ftz st.1)
      let (v, f2) := deliver d.fd d.rm d.ftz r fl
      (v, st.2 ||| f2)) (acc, 0)
  else
    let (g, f1) := groupSum d.rm (laneProducts false as bs)
    let (r, f2) := fAdd d.rm (fpRead d.fd d.ftz acc) (if neg then fNeg g else g)
    let (v, f3) := deliver d.fd d.rm d.ftz r (f1 ||| f2)
    (v, f3)

/-- A step's outcome: the elements, their flags, and the first fault. -/
structure StepOut where
  els  : List Nat
  fl   : Flags
  trap : Option Raw
  deriving DecidableEq, Repr

/-- Collect the elements of a step: each was computed, or is left as it was; the lowest element in row-major order with an enabled
condition gives the fault, ELEM its row (R195). -/
def collectStep (fe : Nat) (ds : Nat) (rs : List (Nat × Flags)) : StepOut :=
  let first := (List.range rs.length).find? (fun e => (fpTrap fe (rs.getD e (0, 0)).2).isSome)
  { els := rs.map (·.1), fl := rs.foldl (fun a r => a ||| r.2) 0
    trap := first.map (fun e => ⟨(fpTrap fe (rs.getD e (0, 0)).2).getD .fpeInvalid, ds, some (e / 32), none⟩) }

/-- The S9 entries of row or column `i` in block `b` (R206), or SCALE_RANGE with the index that is out of range (R175). -/
def scaleIdx (base b i : Nat) : Except Raw Nat :=
  if base + 32 * b + i < 256 then .ok (base + 32 * b + i) else .error (Raw.of .scaleRange (base + 32 * b + i))

/-- The values of a lane, with its S9 scale under SCL 0b01 (R70, R206). -/
def sideVals (d : Desc) (f base k b : Nat) (scale : Nat → Nat) (i : Nat) (lane : Option Nat) : Except Raw (Option (List FVal)) :=
  match lane with
  | none => .ok none
  | some l =>
    let vs := laneVals f d.ftz k l
    if d.scl = 1 then (scaleIdx base b i).map (fun e => some (vs.map (fun v => scaledVal v (s9 (scale e)))))
    else .ok (some vs)

/-- One step of an outer product over lanes of A and B, `none` where null (R205): `b` is the scale block of its first k value. -/
def mxStep (fe : Nat) (d : Desc) (ds : Nat) (neg : Bool) (scale : Nat → Nat) (k b : Nat) (as bs : List (Option Nat)) (acc : List Nat) :
    Except Raw StepOut :=
  if as.all (·.isNone) || bs.all (·.isNone) then .ok ⟨acc, 0, none⟩
  else do
    let va ← (as.zipIdx).mapM (fun p => sideVals d d.fa d.sba k b scale p.2 p.1)
    let vb ← (bs.zipIdx).mapM (fun p => sideVals d d.fb d.sbb k b scale p.2 p.1)
    .ok (collectStep fe ds ((acc.zipIdx).map (fun p =>
      match va.getD (p.2 / 32) none, vb.getD (p.2 % 32) none with
      | some a, some c => mxCell d neg a c p.1
      | _, _ => (p.1, 0))))

/-- One step under SCL 0b10: the group sums enter the partial sums, rounded to FP32 nearest-even (R86, R208). -/
def promoteStep (fe : Nat) (d : Desc) (ds k : Nat) (as bs : List Nat) (part : List Nat) : StepOut :=
  let va := as.map (laneVals d.fa d.ftz k)
  let vb := bs.map (laneVals d.fb d.ftz k)
  collectStep fe ds ((part.zipIdx).map (fun p =>
    let (g, f1) := groupSum 0 (laneProducts false (va.getD (p.2 / 32) []) (vb.getD (p.2 % 32) []))
    let (r, f2) := fAdd 0 (fpRead 9 d.ftz p.1) g
    deliver 9 0 d.ftz r (f1 ||| f2)))

/-- The close of run `n` under SCL 0b10 (R86, R206, R208). -/
def promoteClose (fe : Nat) (d : Desc) (ds n : Nat) (scale : Nat → Nat) (part acc : List Nat) : Except Raw StepOut :=
  if 256 ≤ d.sba + 32 * n + 31 then .error (Raw.of .scaleRange (max 256 (d.sba + 32 * n)))
  else if 256 ≤ d.sbb + n then .error (Raw.of .scaleRange (d.sbb + n))
  else
    let sb := fpRead 9 d.ftz (scale (d.sbb + n))
    .ok (collectStep fe ds ((acc.zipIdx).map (fun p =>
      let (w, f0) := fMul (fpRead 9 d.ftz (scale (d.sba + 32 * n + p.2 / 32))) sb
      let (q, f1) := fMul w (fpRead 9 d.ftz (part.getD p.2 0))
      let (r, f2) := fAdd d.rm (fpRead d.fd d.ftz p.1) q
      deliver d.fd d.rm d.ftz r (f0 ||| f1 ||| f2))))

/-! ### Block solvers -/

/-- A solver's working data: the elements of the destination pair and of the source pair, the conditions raised with the element
being computed, and a pivot that stopped it. -/
structure SolSt where
  p    : List Nat
  q    : List Nat
  log  : List (Nat × Flags)
  stop : Bool
  deriving DecidableEq, Repr

/-- Solvers run in a state. -/
abbrev Sol := StateM SolSt

/-- The element number of element (i, j) of block `b` (R189). -/
def blockEl (b i j : Nat) : Nat := 32 * (8 * (b / 4) + i) + 8 * (b % 4) + j

/-- An element of the destination or source pair. -/
def solP (e : Nat) : Sol Nat := do return (← get).p.getD e 0
def solQ (e : Nat) : Sol Nat := do return (← get).q.getD e 0

/-- Write an element. -/
def solPut (e v : Nat) : Sol Unit := modify (fun s => { s with p := s.p.set e v })
def solPutQ (e v : Nat) : Sol Unit := modify (fun s => { s with q := s.q.set e v })

/-- One operation for element `e`, rounded once (R213). -/
def solOp (d : Desc) (e : Nat) (r : FVal × Flags) : Sol Nat := do
  let (v, fl) := deliver 8 d.rm d.ftz r.1 r.2
  modify (fun s => { s with log := s.log ++ [(e, fl)] })
  return v

/-- A value of FP64 as an operand. -/
def rd64 (d : Desc) (v : Nat) : FVal := fpRead 8 d.ftz v

/-- fma(±x, y, z) for element `e`. -/
def solFma (d : Desc) (e : Nat) (neg : Bool) (x y z : Nat) : Sol Nat :=
  solOp d e (fFma d.rm (if neg then fNeg (rd64 d x) else rd64 d x) (rd64 d y) (rd64 d z))

/-- Column `j` of chol.t (R214): the pivot that fails with PT is answered. -/
def cholStep (d : Desc) (b : Nat) (pt : Bool) (j : Nat) : Sol (Option Nat) := do
  let a (i p : Nat) : Nat := blockEl b i p
  let s ← (List.range j).foldlM (fun s p => do
    let v ← solP (a j p)
    solFma d (a j j) true v v s) (← solP (a j j))
  if !fLt (.fin false 0 0) (rd64 d s) then
    if pt then return some j
    else
      solPut (a j j) s
      modify (fun st => { st with stop := true })
      return none
  else
    let r ← solOp d (a j j) (fSqrt (rd64 d s))
    solPut (a j j) r
    (List.range (7 - j)).forM (fun k => do
      let i := j + 1 + k
      let t ← (List.range j).foldlM (fun t p => do
        solFma d (a i j) true (← solP (a i p)) (← solP (a j p)) t) (← solP (a i j))
      let v ← solOp d (a i j) (fDiv (rd64 d t) (rd64 d r))
      solPut (a i j) v)
    return none

/-- Column or row `c` of trsm.t (R215). -/
def trsmStep (d : Desc) (bd bs : Nat) (right unit : Bool) (c : Nat) : Sol Unit :=
  (List.range 8).forM (fun i => do
    let x (p : Nat) : Nat := if right then blockEl bd c p else blockEl bd p c
    let t ← (List.range i).foldlM (fun t p => do
      if right then solFma d (x i) true (← solP (x p)) (← solQ (blockEl bs i p)) t
      else solFma d (x i) true (← solQ (blockEl bs i p)) (← solP (x p)) t) (← solP (x i))
    if unit then solPut (x i) t
    else
      let l ← solQ (blockEl bs i i)
      let v ← solOp d (x i) (fDiv (rd64 d t) (rd64 d l))
      solPut (x i) v)

/-- syrk.t (R216). -/
def syrkStep (d : Desc) (bd bs : Nat) (neg : Bool) : Sol Unit :=
  (List.range 8).forM (fun i =>
    (List.range (i + 1)).forM (fun j => do
      let e := blockEl bd i j
      let t ← (List.range 8).foldlM (fun t p => do
        solFma d e neg (← solQ (blockEl bs i p)) (← solQ (blockEl bs j p)) t) (← solP e)
      solPut e t))

/-- Column `j` of qr.t on panel `jp` (R217); τ is written to row 0 of block `bs`. -/
def qrStep (d : Desc) (jp bs j : Nat) : Sol Unit := do
  let e (i c : Nat) : Nat := 32 * i + c
  let c := 8 * jp + j
  let s ← (List.range (32 - j)).foldlM (fun s k => do
    let v ← solP (e (j + k) c)
    solFma d (e j c) false v v s) 0
  let tau := blockEl bs 0 j
  if fEq (rd64 d s) (.fin false 0 0) then solPutQ tau 0
  else
    let mu ← solOp d (e j c) (fSqrt (rd64 d s))
    let alpha ← solP (e j c)
    let beta ← if natBit alpha 63 = 0 then solOp d (e j c) (fNeg (rd64 d mu), 0) else pure mu
    let dd ← solOp d (e j c) (fAdd d.rm (rd64 d alpha) (fNeg (rd64 d beta)))
    (List.range (31 - j)).forM (fun k => do
      let i := j + 1 + k
      let v ← solOp d (e i c) (fDiv (rd64 d (← solP (e i c))) (rd64 d dd))
      solPut (e i c) v)
    let t ← solOp d (e j c) (fDiv (fNeg (rd64 d dd)) (rd64 d beta))
    solPutQ tau t
    (List.range (7 - j)).forM (fun kq => do
      let q := c + 1 + kq
      let w0 ← (List.range (31 - j)).foldlM (fun w k => do
        let i := j + 1 + k
        solFma d (e j q) false (← solP (e i c)) (← solP (e i q)) w) (← solP (e j q))
      let w ← solOp d (e j q) (fMul (rd64 d t) (rd64 d w0))
      let pj ← solOp d (e j q) (fAdd d.rm (rd64 d (← solP (e j q))) (fNeg (rd64 d w)))
      solPut (e j q) pj
      (List.range (31 - j)).forM (fun k => do
        let i := j + 1 + k
        let v ← solFma d (e i q) true (← solP (e i c)) w (← solP (e i q))
        solPut (e i q) v))
    solPut (e j c) beta

/-- The fault of a solver's step: the lowest element with an enabled condition (R195). -/
def solTrap (fe ds : Nat) (log : List (Nat × Flags)) : Option Raw :=
  let byEl (e : Nat) : Flags := (log.filter (fun l => l.1 = e)).foldl (fun a l => a ||| l.2) 0
  ((List.range 1024).find? (fun e => (log.any (fun l => l.1 = e)) && (fpTrap fe (byEl e)).isSome)).map
    (fun e => ⟨(fpTrap fe (byEl e)).getD .fpeInvalid, ds, some (e / 32), none⟩)

/-! ### Firing -/

/-- A matrix instruction fires (R190, R195, R198): its operands are captured and its descriptor is checked; one that was passed
over raises MX_ORDER (R191). -/
def fireMx (i : Instr) (s : State) (check : Site → Operands → Except Raw Unit) : Out :=
  fire i s (fun st o =>
    let n := st.f.idx
    if st.ex.mx.passed.getLsbD n then
      let higher := (List.range 64).find? (fun k => decide (n < k) && st.ex.mx.applied.getLsbD k)
      st.put { s with free := s.free + 1 } (st.ex.raise n (Raw.of .mxOrder (higher.getD (Config.freeNat s.free % 64))))
    else
      match check st o with
      | .error r => st.put s (st.ex.raise n r)
      | .ok () => st.put s (st.ex.markFired n))

/-- A matrix instruction that acts as one whole on scalar operands (R198, R427). -/
def mxWhole (o : Operands) : Except Raw Unit := need (predScalarOk o.p && okScalar o.l && okScalar o.r) tokenKind

/-- tz (R199). -/
def execTz (o : TileArgs) (s : State) : Out := fireMx (.tz o) s (fun _ v => mxWhole v)
/-- ldt (R201). -/
def execLdt (o : TileArgs) (s : State) : Out := fireMx (.ldt o) s (fun _ v => mxWhole v)
/-- stt (R201). -/
def execStt (o : TileArgs) (s : State) : Out := fireMx (.stt o) s (fun _ v => mxWhole v)

/-- scld (R203). -/
def execScld (o : ScldArgs) (s : State) : Out :=
  fireMx (.scld o) s (fun _ v => do
    mxWhole v
    need (decide (o.e0.toNat + o.cnt.toNat ≤ 255)) (Raw.of .scaleRange (o.e0.toNat + o.cnt.toNat)))

/-- opa (R205). -/
def execOpa (o : OpaArgs) (s : State) : Out :=
  fireMx (.opa o) s (fun st v => do
    let d ← mxDesc (st.ex.env st.x st.f.idx) o.ds false
    mxWindow st.x d o.td
    need (predKindOk v.p && okVec 6 v.l && okVec 6 v.r) tokenKind)

/-- mvvt (R200). -/
def execMvvt (o : TileMoveArgs) (s : State) : Out :=
  fireMx (.mvvt o) s (fun _ v => need (predKindOk v.p && okVec (if o.pair then 6 else 5) v.l) tokenKind)

/-- mvtv (R200). -/
def execMvtv (o : TileMoveArgs) (s : State) : Out :=
  fireMx (.mvtv o) s (fun st v => do
    need (predKindOk v.p) tokenKind
    let bits := st.ex.img.vl * accW o.pair
    need (decide (bits ≤ 2048)) (Raw.of .widthRange bits))

/-- gemm.t and gemm.t.pair as they fire (R190, R204, R207). -/
def gemmFire (o : GemmArgs) (st : Site) (v : Operands) : Except Raw Unit := do
  let d ← mxDesc (st.ex.env st.x st.f.idx) o.ds true
  mxWindow st.x d o.td
  mxWhole v

/-- gemm.t. -/
def execGemmT (o : GemmArgs) (s : State) : Out := fireMx (.gemmT o) s (gemmFire o)
/-- gemm.t.pair (R238). -/
def execGemmTPair (o : GemmArgs) (s : State) : Out := fireMx (.gemmTPair o) s (gemmFire o)

/-- A block solver as it fires (R213). -/
def solverFire (o : BlockArgs) (st : Site) (v : Operands) : Except Raw Unit := do
  let _ ← solverDesc (st.ex.env st.x st.f.idx) o.ds
  mxWhole v

/-- chol.t. -/
def execCholT (o : BlockArgs) (s : State) : Out := fireMx (.cholT o) s (solverFire o)
/-- trsm.t. -/
def execTrsmT (o : BlockArgs) (s : State) : Out := fireMx (.trsmT o) s (solverFire o)
/-- syrk.t. -/
def execSyrkT (o : BlockArgs) (s : State) : Out := fireMx (.syrkT o) s (solverFire o)
/-- qr.t. -/
def execQrT (o : BlockArgs) (s : State) : Out := fireMx (.qrT o) s (solverFire o)

end Sys2Proof.Machine
end

