-- ==== Sys2Proof/Machine/MatrixRun.lean ====
section
/-!
DEFINITION. Sys2Proof/Machine/MatrixRun.lean: applying and stepping matrix instructions (R191 to R194, R196, R208 to R212), the
slot table (R186, R187), and roped pairs (R238, R239).
-/

namespace Sys2Proof.Machine

/-! ### The order of application -/

/-- The matrix instructions of an execution with their indices. -/
def Exec.matrices (ex : Exec) : List (Nat × Instr) := ex.instrs.filter (fun t => isMatrix t.2)

/-- The instruction at an index has been applied or passed over (R191). -/
def Exec.mxPast (ex : Exec) (n : Nat) : Bool := ex.mx.applied.getLsbD n || ex.mx.passed.getLsbD n

/-- A matrix instruction has faulted, and no higher one is applied (R191). -/
def Exec.mxBlocked (ex : Exec) (n : Nat) : Bool :=
  ex.faults.any (fun f => match f.idx with
    | some k => decide (k ≤ n) && (match ex.instr? k with | some i => isMatrix i | none => false)
    | none => false)

/-- The instruction at an index may be applied now (R191). -/
def Exec.mxDue (ex : Exec) (n : Nat) : Bool :=
  ex.fired.getLsbD n && !ex.mxPast n && ex.mx.seq.isNone && !ex.mxBlocked n && (ex.matrices.all (fun t => decide (n ≤ t.1) || ex.mxPast t.1))

/-- Some fired matrix instruction is still to be applied, or is running (R192). -/
def Exec.mxBusy (ex : Exec) : Bool :=
  ex.mx.seq.isSome || ex.matrices.any (fun t => ex.fired.getLsbD t.1 && !ex.mxPast t.1 && !ex.mxBlocked t.1)

/-- Some instruction could fire now (R20), or a buffered effect is still to be formed again (R171). -/
def Exec.canFire (ex : Exec) : Bool :=
  ex.instrs.any (fun t => (ex.resumed.getLsbD t.1 || !ex.done t.1) && (ex.operands t.1 (slotsOf t.2)).isSome)

/-- Index `n` has been applied. -/
def Exec.mxApplied (ex : Exec) (n : Nat) : Exec :=
  { ex with mx := { ex.mx with applied := ex.mx.applied ||| BitVec.ofNat 64 (2 ^ n), seq := none } }

/-- The sequence of a matrix instruction that raises a condition ends, and the steps that it has completed are kept (R167, R194). -/
def Exec.mxStop (ex : Exec) : Exec := { ex with mx := { ex.mx with seq := none, step := (ex.mx.seq.map (·.step)).getD 0 } }

/-- A matrix instruction's fault as it is applied or stepped. -/
def Exec.mxRaise (ex : Exec) (n : Nat) (r : Raw) : Exec := ex.mxStop.raise n r

/-! ### Reads and probes -/

/-- A run of bytes to access: base pointer, Δ and length, in sectors or in elements of `al` bytes. -/
structure MxRegion where
  base  : Word
  delta : Int
  n     : Nat
  deriving DecidableEq, Repr

/-- The sectors of `n` bytes in ascending address. -/
def sectors (base : Word) (delta : Int) (n : Nat) : List MxRegion :=
  (List.range (n / 32)).map (fun k => ⟨base, delta + (32 * k : Nat), 32⟩)

/-- Check one piece of a matrix instruction (R196). -/
def State.mxPiece (s : State) (x : Ctx) (user wr : Bool) (r : MxRegion) : Except ElemFault (List Part) :=
  let p := (addOffset r.base r.delta).1
  if spaceOf p ≠ 0 ∧ spaceOf p ≠ 1 then .error ⟨.spaceInvalid, 0, p, none⟩
  else s.checkElem x.wins { need := { rd := !wr, wr := wr }, w := r.n, n := r.n, user := user } s.free r.base r.delta

/-- Check the pieces of a matrix instruction in fetch order (R196): the first failure is its fault, with every missing or denied
page, and otherwise their parts. -/
def State.mxCheck (s : State) (x : Ctx) (user wr : Bool) (rs : List MxRegion) : Except (ElemFault × List ElemFault) (List Part) :=
  let l := rs.map (s.mxPiece x user wr)
  match l.filterMap (fun a => match a with | .error f => some f | .ok _ => none) with
  | [] => .ok (l.flatMap (fun a => match a with | .ok ps => ps | .error _ => []))
  | f :: fs => .error (f, f :: fs)

/-- The instruction at `n` raises the fault of its pieces (R196): ELEMV is 0. -/
def Exec.mxFaults (ex : Exec) (n : Nat) (f : ElemFault) (all : List ElemFault) : Exec :=
  let pages := (all.zipIdx).filterMap (fun g => g.1.access.map (fun a => (n, min g.2 255, pageWord g.1 a)))
  let rec_ := Cause.recov f.cause
  ({ ex.mxStop with pages := if rec_ then ex.pages ++ pages else ex.pages
                    trapped := if rec_ then ex.trapped ||| BitVec.ofNat 64 (2 ^ n) else ex.trapped }).fault
    ⟨f.cause, f.fa, f.detail, none, some n, rec_⟩

/-- The strand's earlier accesses that must perform before a class-15 read of some places have performed, and its stores to them
are acknowledged (R121, R196); the loads of its own pitch do not count. -/
def State.mxClear (s : State) (x : Ctx) (ex : Exec) (ps : List Part) : Bool :=
  let own (m : Msg) : Bool := match m.body with
    | .load serial .. | .refLoad serial .. | .watch serial .. => serial ≠ ex.serial
    | _ => true
  let before := s.net.filter own
  ps.all (fun p => !blockedBy before ⟨s.nextId, .ctx x.id, 15, .load ex.serial 0 [⟨0, 0, p.n⟩] p.ptr p.place p.n false none, none, s.nextId, 0, none⟩)

/-- A home does not give some checked parts now: its die is in reset, a write of their sector waits, or an early access keeps the strand
from them (R263, R276, R377). -/
def State.mxHeld (s : State) (x : Ctx) (ps : List Part) : Bool :=
  ps.any (fun p => s.placeDown p.place || s.sectorBusy s.nextId p.place.key p.n)
    || s.behindEarly (.strand x.id x.core x.launchKey) (some (ps.map (fun p => (p.place.peer, p.place.key, p.n)))) false

/-- The first of some checked parts whose home answers with an error: a fenced die, or a poisoned sector (R131, R378, R394). -/
def State.mxBad (s : State) (ps : List Part) : Option Raw :=
  ps.findSome? (fun p =>
    if s.fenced p.place then some ⟨.remoteFailed, 0xA0, none, some p.ptr⟩
    else if s.isPoisoned p.place.key p.n then some ⟨.dataPoison, 0, none, some p.ptr⟩
    else none)

/-- The pieces `rs` of the instruction at `n` are read in fetch order (R196): their bytes, the execution with the fault of the first that
fails, or nothing while they must wait. After a missing or denied page the pieces after it, `rest` among them, are probed. -/
def State.mxFetch (s : State) (x : Ctx) (ex : Exec) (n : Nat) (rs rest : List MxRegion) : Except (Option Exec) (List Byte) :=
  let l := rs.map (s.mxPiece x ex.user false)
  let ok (a : Except ElemFault (List Part)) : Bool := match a with | .ok _ => true | .error _ => false
  let ps := (l.takeWhile ok).flatMap (fun a => match a with | .ok q => q | .error _ => [])
  if !s.mxClear x ex ps || s.mxHeld x ps then .error none
  else
    match s.mxBad ps, s.mxCheck x ex.user false rs with
    | some r, _ => .error (some (ex.mxRaise n r))
    | none, .ok _ => .ok (ps.flatMap (fun p => memReadN s.mem p.place.key p.n))
    | none, .error (f, fs) =>
      let more := match s.mxCheck x ex.user false rest with | .ok _ => [] | .error (_, gs) => gs
      .error (some (ex.mxFaults n f (fs ++ more)))

/-- Elements of `n` bytes as numbers. -/
def chunk (n : Nat) : Nat → List Byte → List Nat
  | 0, _ => []
  | k + 1, bs => leNat (bs.take n) :: chunk n k (bs.drop n)

/-! ### The slot table -/

/-- Entry `p` of a slot table (R186); 0x9 to 0xE act as 0xF. -/
def slotEntry (t : Word) (p : Nat) : Nat := let e := natBits t.toNat (4 * p) 4; if 9 ≤ e then 15 else e

/-- A table holds an entry that can grant a slot (R187). -/
def tableGrants (t : Word) (slot : Nat) : Bool := (List.range 16).any (fun p => slotEntry t p = slot || slotEntry t p = 8)

/-- The ac that a core's matrix array has counted (R1, R389). -/
def State.matrixAc (s : State) (core : Nat) : Nat := s.ac16 (matrixIsland core) / 16

/-- The rotation counter of a core (R186). -/
def State.rotation (s : State) (core : Nat) : Nat := (s.matrixAc core - (s.core core).resetAt) % 1024

/-- The rotation counter of a core has passed from 1023 to 0 since the pending table was written (R187). -/
def State.tableDue (s : State) (core : Nat) : Bool :=
  let k := s.core core
  k.pendAt.any (fun t => decide ((t - k.resetAt) / 1024 < (s.matrixAc core - k.resetAt) / 1024))

/-- The slot table and the STRICT bit in effect on a core (R187). -/
def State.slotTable (s : State) (core : Nat) : Word × Bool :=
  let k := s.core core
  if s.tableDue core then (k.pendSlot, k.pendStrict) else (k.mxslot, k.strict)

/-- MX_SLOT_NONE holds for a slot of a core (R187). -/
def State.noSlot (s : State) (core slot : Nat) : Bool :=
  let k := s.core core
  let (t, strict) := s.slotTable core
  strict && k.pendStrict && !tableGrants t slot && !tableGrants k.pendSlot slot

/-! ### Roped pairs -/

/-- The channel of a strand's position: the lead's core and slot (R238). -/
def pairId (core slot : Nat) : Nat := (core - 16 * (core / 16 % 2)) * 8 + slot

/-- The strand is the lead of its pair (R238). -/
def Ctx.isLead (x : Ctx) : Bool := x.core / 16 % 2 = 0

/-- The channel of a strand. -/
def State.pair? (s : State) (id : Nat) : Option PairCh := s.pairs.find? (fun p => p.id = id)

/-- Set or free a channel. -/
def State.setPair (s : State) (p : PairCh) : State := { s with pairs := p :: s.pairs.filter (fun q => q.id ≠ p.id) }
def State.freePair (s : State) (id : Nat) : State := { s with pairs := s.pairs.filter (fun q => q.id ≠ id) }

/-- A side's current gemm.t.pair raises a condition with its DETAIL (R239, R255). -/
def State.pairRaise (s : State) (c : Nat) (cause : Cause) (detail : Nat := 0) : State :=
  match s.ctx? c with
  | none => s
  | some x =>
    match x.cur with
    | none => s
    | some ex =>
      match ex.mx.seq with
      | none => s
      | some q =>
        let ex1 := ex.mxRaise q.idx (Raw.of cause detail)
        let rec_ := cause == .pairPartnerFault
        s.setCtx { x with cur := some { ex1 with
          faults := ex1.faults.map (fun f => if f.idx = some q.idx then { f with recov := rec_ } else f)
          trapped := if rec_ then ex1.trapped ||| BitVec.ofNat 64 (2 ^ q.idx) else ex1.trapped } }

/-- The pitch of one side of a pair faults, traps or is squashed with a condition's code before it has belayed (R239): in RUN the other
side raises PAIR_PARTNER_FAULT; a request in HALF or REISSUE is withdrawn. -/
def State.pairDrop (s : State) (c code : Nat) : State :=
  match s.pairs.find? (fun p => p.sides.any (fun d => d.ctx = c && !d.belayed)) with
  | none => s
  | some p =>
    let s1 := s.freePair p.id
    if p.stage = .run then (p.sides.filter (fun d => d.ctx ≠ c)).foldl (fun t d => t.pairRaise d.ctx .pairPartnerFault code) s1
    else s1

/-- The pitch of a strand belays: a side of its that has completed is over (R239). -/
def State.pairBelay (s : State) (c : Nat) : State :=
  { s with pairs := s.pairs.map (fun p => { p with sides := p.sides.map (fun d => if d.ctx = c then { d with belayed := true } else d) }) }

/-- The awaited partner's strand has retired (R239). -/
def State.pairRetire (s : State) (x : Ctx) : State :=
  match s.pair? (pairId x.core x.slot) with
  | some p => if p.stage = .late ∧ p.first.lead ≠ x.isLead then s.freePair p.id else s
  | none => s

/-- Two requests match (R239). -/
def PairSide.fits (a b : PairSide) : Bool := a.launch = b.launch && a.nstep = b.nstep && a.asrc = b.asrc && a.desc = b.desc

/-- Each strand of a pair asks for its first grant as steps begin (R187). -/
def State.pairGrant (s : State) (c : Nat) : State :=
  match s.ctx? c with
  | some x => if s.noSlot x.core x.slot then (s.pairRaise c .mxSlotNone).pairDrop c Cause.mxSlotNone.code else s
  | none => s

/-- A side posts its request (R239): the strand's sequencer already waits. Nothing while the channel serves another strand of its side, or
its own earlier request. -/
def State.pairPost (s : State) (x : Ctx) (req : PairSide) : Option State :=
  let id := pairId x.core x.slot
  match s.pair? id with
  | none => some (s.setPair ⟨id, .half, [req], s.ac16 (matrixIsland x.core), [], [], req, []⟩)
  | some p =>
    let other := p.party.any (fun c => c ≠ x.id && (s.ctx? c).any (fun y => y.isLead = x.isLead))
    if p.stage = .late then (if p.first.lead = req.lead then none else some ((s.pairRaise x.id .pairTimeout).freePair id))
    else if other ∨ p.sides.any (fun d => d.lead = req.lead) then none
    else
      match p.sides with
      | [] => some (s.setPair { p with sides := [req] })
      | o :: _ =>
        some (if o.fits req then
          ((s.setPair { p with stage := .run, sides := [o, req], blocks := [], ended := [], party := [] }).pairGrant o.ctx).pairGrant x.id
        else ((s.pairRaise o.ctx .pairMismatch).pairRaise x.id .pairMismatch).freePair id)

/-! ### Applying -/

/-- The blocks of a tile panel, copied from the working image (R207, R211), or MX_OPERAND. -/
def State.panel (s : State) (x : Ctx) (ex : Exec) (t nstep : Nat) : Except Raw (List Nat) :=
  let last := t + (nstep - 1) / 16
  if 7 < last ∨ x.tiles.length ≤ last then .error (Raw.of .mxOperand last)
  else .ok ((List.range nstep).map (fun b => natBits (s.tile x ex (t + b / 16)).toNat (2048 * (b % 16)) 2048))

/-- The run length in steps of SCL 0b10 (R208); 0 for the other scalings. -/
def runLen (d : Desc) (k : Nat) : Nat := if d.scl = 2 then 128 / k else 0

/-- An operand of gemm.t as it is applied: a multicast pointer lies in the own cluster (R210), a pointer is a multiple of 256
(R207), and a tile panel is copied. -/
def State.gemmSide (s : State) (x : Ctx) (ex : Exec) (src : PanelSrc) (t nstep : Nat) (p : Word) : Except Raw (List Nat) :=
  match src with
  | .tile => s.panel x ex t nstep
  | m =>
    if m = .mcast ∧ (spaceOf p ≠ 1 ∨ scratchCore p / 16 ≠ clusterOf x.core) then .error (Raw.of .mxOperand)
    else if spaceOf p ≠ 0 ∧ spaceOf p ≠ 1 then .error ⟨.spaceInvalid, 0, none, some p⟩
    else if p.toNat % 256 ≠ 0 then .error ⟨.misaligned, 256, none, some p⟩
    else .ok []

/-- gemm.t as it is applied: its sequence, or its fault. -/
def State.gemmSeq (s : State) (x : Ctx) (ex : Exec) (n : Nat) (o : GemmArgs) (v : Operands) (follower : Bool) : Except Raw MxSeq := do
  let d := Desc.ofWord (ex.img.d.getD o.ds.toNat 0)
  let k := (mxPack d).getD 1
  let nstep := o.nstep.toNat + 1
  need (!(d.scl == 1 && nstep * k % 32 != 0) && !(d.scl == 2 && nstep * k % 128 != 0)) (Raw.of .mxShape nstep)
  let a ← if follower then .ok [] else s.gemmSide x ex o.asrc o.ta.toNat nstep v.l.word
  let b ← s.gemmSide x ex o.bsrc o.tb.toNat nstep v.r.word
  .ok { idx := n, step := 0, total := if d.scl = 2 then nstep + nstep / runLen d k else nstep, acc := List.replicate 1024 0, bufA := a, bufB := b }

/-- A solver's blocks overlap (R213): windows and blocks of the destination, or of the panel of qr.t. -/
def solverOverlap (i : Instr) : Option Nat :=
  let at_ (o : BlockArgs) (hit : Bool) : Option Nat := if o.td = o.ts ∧ hit then some o.bs.toNat else none
  match i with
  | .trsmT o | .syrkT o => at_ o (o.bd == o.bs)
  | .qrT o => at_ o (o.bs.toNat % 4 == o.bd.toNat % 4)
  | _ => none

/-- An instruction with steps is applied: it waits for its grants, unless none can come (R187). -/
def State.mxBegin (s : State) (x : Ctx) (ex : Exec) (q : MxSeq) : State :=
  if s.noSlot x.core x.slot then s.setCtx { x with cur := some (ex.mxRaise q.idx (Raw.of .mxSlotNone)) }
  else s.setCtx { x with cur := some { ex with mx := { ex.mx with seq := some q } } }

/-- The rows of ldt and stt (R201): base, Δ and bytes. -/
def tileRows (o : TileArgs) (v : Operands) : List MxRegion :=
  let n := if o.pair then 256 else 128
  (List.range 32).flatMap (fun (i : Nat) => sectors v.l.word ((i : Int) * natToInt 64 v.r.val) n)

/-- Images of the tile store buffer in use on a core (R201). -/
def State.tsbUsed (s : State) (core : Nat) : Nat :=
  let imgs (els : List StElem) : Nat := (els.map (fun e => e.data.length)).foldl (· + ·) 0 / 4096
  ((s.ctxs.filter (fun x => x.core = core)).map (fun x =>
    ((x.stts.filter (fun t => t.2.any (fun i => (s.msg? i).isSome))).map (·.1)).foldl (· + ·) 0
      + (match x.cur with | some ex => (ex.mx.stt.map (fun t => imgs t.2)).foldl (· + ·) 0 | none => 0))).foldl (· + ·) 0

/-- The elements of the row or column of a move (R200). -/
def moveEl (o : TileMoveArgs) (c : Nat) : Nat := if o.col then 32 * c + o.idx.toNat else 32 * o.idx.toNat + c

/-- What an instruction of the matrix family does as it is applied (R191), or `none` while it must wait. -/
def State.mxApply (s : State) (x : Ctx) (ex : Exec) (n : Nat) (i : Instr) (v : Operands) : Option State :=
  let put (e : Exec) : State := s.setCtx { x with cur := some e }
  let ok (e : Exec) : Option State := some (put (e.mxApplied n))
  let bad (r : Raw) : Option State := some (put (ex.mxRaise n r))
  let skip := !predOpen v.p 0 || (usedTokens i v).any (·.isNull)
  match i with
  | .tz o =>
    if skip then ok ex
    else
      let e1 := ex.setTile o.td.toNat 0
      ok (if o.pair then e1.setTile (o.td.toNat + 1) 0 else e1)
  | .mvvt o =>
    let es := s.tileElems x ex o.td.toNat o.pair
    let live := (List.range (min ex.img.vl 32)).filter (fun c => predOpen v.p c && !v.l.nullAt c)
    ok (ex.setElems o.td.toNat o.pair (live.foldl (fun l c => l.set (moveEl o c) (v.l.elem (if o.pair then 6 else 5) c)) es))
  | .mvtv o =>
    let es := s.tileElems x ex o.td.toNat o.pair
    let tok := Token.vector (if o.pair then 6 else 5) ((List.range ex.img.vl).map (fun c =>
      if decide (c < 32) && predOpen v.p c then some (es.getD (moveEl o c) 0) else none))
    ok (ex.deliverAll n tok (outsAt n i))
  | .ldt o =>
    if skip then ok ex
    else
      (match s.mxFetch x ex n (tileRows o v) [] with
      | .error e => e.map put
      | .ok bs => ok (ex.setElems o.td.toNat o.pair (chunk (accW o.pair / 8) 1024 bs)))
  | .stt o =>
    if skip then ok ex
    else
      (match s.mxCheck x ex.user true (tileRows o v) with
      | .error (f, fs) => some (put (ex.mxFaults n f fs))
      | .ok ps =>
        if 16 < s.tsbUsed x.core + (if o.pair then 2 else 1) then none
        else
          let bytes := natLe (if o.pair then 8192 else 4096) (packNat (accW o.pair) (s.tileElems x ex o.td.toNat o.pair))
          let els : List StElem := (ps.zipIdx).map (fun p => ⟨p.2 / (if o.pair then 8 else 4), p.1.ptr, p.1.place, ((bytes.drop (32 * p.2)).take 32).map (fun b => (b, 255))⟩)
          ok { ex with mx := { ex.mx with stt := ex.mx.stt ++ [(n, els)] } })
  | .scld o =>
    if skip then ok ex
    else
      let w := match o.sf with | .s9 => 2 | .e8 => 1 | .f32 => 4
      let cnt := o.cnt.toNat + 1
      let rs : List MxRegion := (List.range cnt).map (fun (m : Nat) => ⟨v.l.word, (m : Int) * natToInt 64 v.r.val, w⟩)
      (match s.mxFetch x ex n rs [] with
      | .error e => e.map put
      | .ok bs =>
        let entry (b : Nat) : BitVec 32 := BitVec.ofNat 32 (match o.sf with | .s9 => b % 512 | .e8 => 2 * b | .f32 => b)
        ok (((chunk w cnt bs).zipIdx).foldl (fun (e : Exec) b =>
          { e with mx := { e.mx with scale := (o.e0.toNat + b.2, entry b.1) :: e.mx.scale.filter (fun k => k.1 ≠ o.e0.toNat + b.2) } }) ex))
  | .opa _ =>
    let closed := match v.p with | some (_, t) => !t.wide && !predOpen v.p 0 | none => false
    if closed then ok ex else some (s.mxBegin x ex ⟨n, 0, 1, [], [], []⟩)
  | .gemmT o =>
    if skip then ok ex
    else match s.gemmSeq x ex n o v false with
      | .error r => bad r
      | .ok q => some (s.mxBegin x ex q)
  | .gemmTPair o =>
    if skip then ok ex
    else match s.gemmSeq x ex n o v (!x.isLead) with
      | .error r => bad r
      | .ok q =>
        let src := match o.asrc with | .ptr => 0 | .tile => 1 | .mcast => 2
        (put { ex with mx := { ex.mx with seq := some q } }).pairPost x
          ⟨x.id, x.isLead, x.launchKey, o.nstep.toNat, src, ex.img.d.getD o.ds.toNat 0, false⟩
  | .cholT _ | .trsmT _ | .qrT _ =>
    if skip then ok ex
    else match solverOverlap i with
      | some b => bad (Raw.of .mxOperand b)
      | none => some (s.mxBegin x ex ⟨n, 0, 8, [], [], []⟩)
  | .syrkT _ =>
    if skip then ok ex
    else match solverOverlap i with
      | some b => bad (Raw.of .mxOperand b)
      | none => some (s.mxBegin x ex ⟨n, 0, 1, [], [], []⟩)
  | _ => none

/-- MATRIX_APPLY (R191): the next fired matrix instruction of a pitch that is not speculative. -/
def execMatrixApply (c k : Nat) (s : State) : Out :=
  match s.ctx? c with
  | some x =>
    (match x.cur with
    | some ex =>
      if x.place = .active ∧ ex.mxDue k then
        (match ex.instr? k with
        | some i =>
          (match (ex.operands k (slotsOf i)).bind (s.mxApply x ex k i) with
          | some t => .next t
          | none => .fault (.notEnabled "MATRIX_APPLY"))
        | none => .fault (.notEnabled "MATRIX_APPLY"))
      else .fault (.notEnabled "MATRIX_APPLY")
    | none => .fault (.notEnabled "MATRIX_APPLY"))
  | none => .fault (.notEnabled "MATRIX_APPLY")

/-- MATRIX_PASS_OVER (R191): nothing can fire, nothing is outstanding, and the matrix instructions that have fired wait behind one
that has not: every one that has not fired is passed over. -/
def execMatrixPassOver (c k : Nat) (s : State) : Out :=
  match s.ctx? c with
  | some x =>
    (match x.cur with
    | some ex =>
      let waiting := ex.matrices.filter (fun t => !ex.done t.1 && !ex.mxPast t.1)
      let quiet := !ex.canFire && ex.loads.isEmpty && ex.mx.seq.isNone && ex.mxBusy && ex.matrices.all (fun t => !ex.mxDue t.1)
      if x.place = .active ∧ quiet ∧ waiting.any (fun t => t.1 = k) then
        .next (s.setCtx { x with cur := some { ex with mx := { ex.mx with
          passed := waiting.foldl (fun b t => b ||| BitVec.ofNat 64 (2 ^ t.1)) ex.mx.passed } } })
      else .fault (.notEnabled "MATRIX_PASS_OVER")
    | none => .fault (.notEnabled "MATRIX_PASS_OVER"))
  | none => .fault (.notEnabled "MATRIX_PASS_OVER")

/-! ### Steps -/

/-- What a step does: it must wait, it faults, or it leaves the execution with its sequence advanced. -/
inductive StepRes where
  | wait
  | bad (ex : Exec)
  | ok (ex : Exec) (last : Bool)
  deriving DecidableEq, Repr

/-- Advance the sequence of an execution. -/
def Exec.mxNext (ex : Exec) (q : MxSeq) (last : Bool) : StepRes :=
  if last then .ok (ex.mxApplied q.idx) true
  else .ok { ex with mx := { ex.mx with seq := some { q with step := q.step + 1 } } } false

/-- Put a step's elements into the working image, or raise its fault (R195). -/
def Exec.mxResult (ex : Exec) (q : MxSeq) (td : Nat) (pair : Bool) (r : Except Raw StepOut) : StepRes :=
  match r with
  | .error e => .bad (ex.mxRaise q.idx e)
  | .ok o =>
    match o.trap with
    | some e => .bad (ex.mxRaise q.idx e)
    | none =>
      let e1 := ex.setElems td pair o.els
      { e1 with mx := { e1.mx with flags := e1.mx.flags ||| o.fl } }.mxNext q (q.step + 1 = q.total)

/-- The lanes of an operand of opa: null where the element, or for A its predicate, is null, and from vl on (R205). -/
def opaLanes (vl : Nat) (p : Pred) (t : Token) : List (Option Nat) :=
  (List.range 32).map (fun i => if decide (i < vl) && predOpen p i then t.elem? 6 i else none)

/-- The one step of opa. -/
def State.opaStep (s : State) (x : Ctx) (ex : Exec) (q : MxSeq) (o : OpaArgs) (v : Operands) : StepRes :=
  let env := ex.env x q.idx
  let d := Desc.ofWord (env.d.getD o.ds.toNat 0)
  let pair := d.fd = 8
  ex.mxResult q o.td.toNat pair (mxStep env.fe d o.ds.toNat o.neg (ex.scaleAt x) ((mxPack d).getD 1) 0
    (opaLanes env.vl v.p v.l) (opaLanes env.vl none v.r) (s.tileElems x ex o.td.toNat pair))

/-- The pieces of gemm.t from block `b` on in fetch order: for each block A before B (R196). -/
def gemmRest (pa pb : Option Word) (b nstep : Nat) : List MxRegion :=
  (List.range (nstep - b)).flatMap (fun k =>
    let at_ (p : Option Word) : List MxRegion := match p with | some w => sectors w (256 * (b + k) : Nat) 256 | none => []
    at_ pa ++ at_ pb)

/-- The two blocks of a step, read before it computes (R208, R212). -/
def State.gemmBlocks (s : State) (x : Ctx) (ex : Exec) (q : MxSeq) (o : GemmArgs) (v : Operands) (given : Option Nat) (b : Nat) :
    Except (Option Exec) (Nat × Nat) :=
  let pa := if given.isSome ∨ o.asrc = .tile then none else some v.l.word
  let pb := if o.bsrc = .tile then none else some v.r.word
  match s.mxFetch x ex q.idx (gemmRest pa pb b (b + 1)) (gemmRest pa pb (b + 1) (o.nstep.toNat + 1)) with
  | .error e => .error e
  | .ok bs =>
    let na := if pa.isSome then 256 else 0
    let av := match given with | some g => g | none => if pa.isSome then leNat (bs.take 256) else q.bufA.getD b 0
    .ok (av, if pb.isSome then leNat (bs.drop na) else q.bufB.getD b 0)

/-- One step of gemm.t (R208); `given` is the A block that the lead sent. The block of A goes with the result. -/
def State.gemmStep (s : State) (x : Ctx) (ex : Exec) (q : MxSeq) (o : GemmArgs) (v : Operands) (given : Option Nat) : StepRes × Option Nat :=
  let env := ex.env x q.idx
  let d := Desc.ofWord (env.d.getD o.ds.toNat 0)
  let k := (mxPack d).getD 1
  let pair := d.fd = 8
  let acc := s.tileElems x ex o.td.toNat pair
  let run := runLen d k
  if run ≠ 0 ∧ q.step % (run + 1) = run then
    (ex.mxResult { q with acc := List.replicate 1024 0 } o.td.toNat pair (promoteClose env.fe d o.ds.toNat (q.step / (run + 1)) (ex.scaleAt x) q.acc acc), none)
  else
    let b := if run = 0 then q.step else q.step / (run + 1) * run + q.step % (run + 1)
    match s.gemmBlocks x ex q o v given b with
    | .error none => (.wait, none)
    | .error (some e) => (.bad e, none)
    | .ok (a, c) =>
      let la := unpackNat 64 a 32
      let lb := unpackNat 64 c 32
      if run ≠ 0 then
        let r := promoteStep env.fe d o.ds.toNat k la lb q.acc
        (match r.trap with
        | some e => (.bad (ex.mxRaise q.idx e), none)
        | none => ({ ex with mx := { ex.mx with flags := ex.mx.flags ||| r.fl } }.mxNext { q with acc := r.els } false, some a))
      else (ex.mxResult q o.td.toNat pair (mxStep env.fe d o.ds.toNat false (ex.scaleAt x) k (b * k / 32) (la.map some) (lb.map some) acc), some a)

/-- One step of a solver (R214 to R217). -/
def State.solverStep (s : State) (x : Ctx) (ex : Exec) (q : MxSeq) (i : Instr) (o : BlockArgs) : StepRes :=
  let env := ex.env x q.idx
  let d := Desc.ofWord (env.d.getD o.ds.toNat 0)
  let st : SolSt := ⟨s.tileElems x ex o.td.toNat true, s.tileElems x ex o.ts.toNat true, [], false⟩
  let (pivot, r) : Option Nat × SolSt := match i with
    | .cholT _ => (cholStep d o.bd.toNat o.f1 q.step).run st
    | .trsmT _ => let (_, r) := (trsmStep d o.bd.toNat o.bs.toNat o.f1 o.f2 q.step).run st; (none, r)
    | .syrkT _ => let (_, r) := (syrkStep d o.bd.toNat o.bs.toNat o.f1).run st; (none, r)
    | _ => let (_, r) := (qrStep d (o.bd.toNat % 4) o.bs.toNat q.step).run st; (none, r)
  match solTrap env.fe o.ds.toNat r.log, pivot with
  | some t, _ => .bad (ex.mxRaise q.idx t)
  | none, some j => .bad (ex.mxRaise q.idx (Raw.of .mxPivot j))
  | none, none =>
    let e1 := ex.setElems o.td.toNat true r.p
    let e2 := match i with
      | .qrT _ =>
        let tau := blockEl o.bs.toNat 0 q.step
        e1.setElems o.ts.toNat true ((s.tileElems x e1 o.ts.toNat true).set tau (r.q.getD tau 0))
      | _ => e1
    { e2 with mx := { e2.mx with flags := r.log.foldl (fun (a : Flags) (l : Nat × Flags) => a ||| l.2) e2.mx.flags } }.mxNext q (r.stop || q.step + 1 = q.total)

/-- Put a step's outcome back. -/
def State.stepPut (s : State) (x : Ctx) : StepRes → Option State
  | .wait => none
  | .bad e => some (s.setCtx { x with cur := some e })
  | .ok e _ => some (s.setCtx { x with cur := some e })

/-- The steps of a pair go on (R239): it is in RUN, and each side is active or has completed its last step. -/
def State.pairActive (s : State) (p : PairCh) : Bool :=
  p.stage = .run && p.sides.all (fun d => p.ended.contains d.ctx || (s.ctx? d.ctx).any (fun y => y.place = .active))

/-- One step of gemm.t.pair (R238, R239): the lead reads and sends each A block, the follower uses it; both must be active. -/
def State.pairStep (s : State) (x : Ctx) (ex : Exec) (q : MxSeq) (o : GemmArgs) (v : Operands) : Option State :=
  match s.pair? (pairId x.core x.slot) with
  | none => none
  | some p =>
    if !s.pairActive p then none
    else
      let d := Desc.ofWord (ex.img.d.getD o.ds.toNat 0)
      let run := runLen d ((mxPack d).getD 1)
      let close : Bool := run ≠ 0 && q.step % (run + 1) = run
      if !close && x.isLead && 8 ≤ p.blocks.length then none
      else
        let given : Option Nat := if x.isLead then none else (p.blocks.head?).map (·.2)
        if !close && !x.isLead && given.isNone then none
        else
          let (r, a) := s.gemmStep x ex q o v given
          match r with
          | .wait => none
          | .bad e => some ((s.setCtx { x with cur := some e }).pairDrop x.id (((e.faults.getLast?).map (·.cause.code)).getD 0))
          | .ok e last =>
            let bl := if x.isLead then (match a with | some b => p.blocks ++ [(q.step, b)] | none => p.blocks)
              else (if close then p.blocks else p.blocks.drop 1)
            let p1 := { p with blocks := bl, ended := if last then p.ended ++ [x.id] else p.ended }
            let s1 := s.setCtx { x with cur := some e }
            some (if p1.ended.length = 2 then s1.freePair p.id else s1.setPair p1)

/-- The step that an active strand's sequencer has ready (R194). -/
def State.mxStepTry (s : State) (x : Ctx) : Option State := do
  let ex ← x.cur
  let q ← ex.mx.seq
  let i ← ex.instr? q.idx
  let v ← ex.operands q.idx (slotsOf i)
  if x.place ≠ .active then none
  else
    match i with
    | .opa o => s.stepPut x (s.opaStep x ex q o v)
    | .gemmT o => s.stepPut x (s.gemmStep x ex q o v none).1
    | .gemmTPair o => s.pairStep x ex q o v
    | .cholT o | .trsmT o | .syrkT o | .qrT o => s.stepPut x (s.solverStep x ex q i o)
    | _ => none

/-- The slot table grants the slot of a strand now (R186): an owner that has no step ready leaves its position to the others, unless STRICT
is set. -/
def State.granted (s : State) (x : Ctx) : Bool :=
  let (t, strict) := s.slotTable x.core
  let e := slotEntry t (s.rotation x.core / 64)
  if e = 8 then true
  else if e = 15 then !strict
  else if e = x.slot then true
  else !strict && s.ctxs.all (fun y => !(y.core = x.core && y.slot = e && (s.mxStepTry y).isSome))

/-- An active strand waits for a grant (R187): its sequencer holds a step, and its partner, if it has one, keeps it from none. -/
def State.waitsGrant (s : State) (x : Ctx) : Bool :=
  x.place = .active && (match x.cur with
    | some ex => ex.mx.seq.isSome && s.pairs.all (fun p => p.sides.all (fun d => d.ctx ≠ x.id) || p.ended.contains x.id || s.pairActive p)
    | none => false)

/-- MATRIX_STEP (R194): one step of a strand's sequencer under a grant of the slot table. -/
def execMatrixStep (c : Nat) (s : State) : Out :=
  match s.ctx? c with
  | some x =>
    if s.granted x then
      (match s.mxStepTry x with
      | some t => .next t
      | none => .fault (.notEnabled "MATRIX_STEP"))
    else .fault (.notEnabled "MATRIX_STEP")
  | none => .fault (.notEnabled "MATRIX_STEP")

/-- The timer of a pair has run out: 65,536 ac of the matrix array of the strand that waits (R239, R389). -/
def State.pairLate (s : State) (p : PairCh) : Bool :=
  decide (p.since + 65536 * 16 ≤ s.ac16 (matrixIsland (match s.ctx? p.first.ctx with | some x => x.core | none => p.id / 8)))

/-- PAIR_TIMER_EXPIRE (R239): the timer that started as a side posted has run out. -/
def execPairTimerExpire (ch : Nat) (s : State) : Out :=
  match s.pair? ch with
  | some p =>
    if p.stage = .half ∧ s.pairLate p then
      .next ((p.sides.foldl (fun t d => t.pairRaise d.ctx .pairTimeout) s).setPair { p with stage := .late, sides := [] })
    else .fault (.notEnabled "PAIR_TIMER_EXPIRE")
  | none => .fault (.notEnabled "PAIR_TIMER_EXPIRE")

/-! ### The pitch's end -/

/-- The applied and running matrix instructions of an execution are cleared and the working image is dropped (R193): they are
applied again from their captured operands. -/
def Exec.mxClearAll (ex : Exec) : Exec :=
  let keep := indexBits (fun n => ex.mx.applied.getLsbD n && (match ex.instr? n with | some (.mvtv _) => true | _ => false)) 64
  { ex with mx := { MxWork.start [] with applied := BitVec.ofNat 64 keep, passed := ex.mx.passed } }

/-- A spill is asked for a side of a running pair (R239): both sides clear their matrix instructions, and the other side, which
applies them again, posts at once. A side whose partner's result has become architectural runs on. -/
def State.pairReissue (s : State) (c : Nat) : State :=
  match s.pairs.find? (fun p => p.stage = .run && p.sides.any (fun d => d.ctx = c) && p.sides.all (fun d => !d.belayed)) with
  | none => s
  | some p =>
    let s1 := p.sides.foldl (fun t d => match t.ctx? d.ctx with
      | some y => t.setCtx { y with cur := y.cur.map Exec.mxClearAll }
      | none => t) s
    s1.setPair { p with stage := .reissue, sides := [], blocks := [], ended := [], party := p.sides.map (·.ctx) }

/-- The working image becomes the architectural one at the belay (R192), with the scale file; flags join the pitch's. -/
def State.mxCommit (s : State) (x : Ctx) (ex : Exec) : State × Ctx :=
  let k := s.core x.core
  let tiles := ex.mx.tiles.foldl (fun l t => match x.tiles[t.1]? with
    | some n => (n, t.2) :: l.filter (fun p => p.1 ≠ n)
    | none => l) k.tiles
  let sc := ex.mx.scale.foldl (fun (v : Vector (BitVec 32) 256) e => if h : e.1 < 256 then v.set e.1 e.2 else v) x.scale
  (if ex.mx.tiles.isEmpty then s else s.setCore x.core { k with tiles := tiles }, { x with scale := sc })

end Sys2Proof.Machine
end

