-- ==== Sys2Proof/Machine/Cluster.lean ====
section
/-!
DEFINITION. Sys2Proof/Machine/Cluster.lean: the cluster's barriers (R236, R237) and its stage router (R240 to R254).
-/

namespace Sys2Proof.Machine

/-- A cluster by its number on the chip. -/
def State.cluster (s : State) (n : Nat) : ClusterSt := ((s.clusters.find? (fun t => t.1 = n)).map (·.2)).getD ClusterSt.reset

/-- Replace a cluster. -/
def State.setCluster (s : State) (n : Nat) (k : ClusterSt) : State :=
  { s with clusters := (n, k) :: s.clusters.filter (fun u => u.1 ≠ n) }

/-! ### Barriers -/

/-- The barrier entries of a scope that a core belongs to (R236). -/
def State.barEntries (s : State) (core : Nat) : BarScope → List (Nat × BarEntry)
  | .crew => (s.core core).bars
  | .cluster => (s.cluster (clusterOf core)).bars
  | .rope => (s.cluster (clusterOf core / 2 * 2)).ropeBars

/-- Replace them. -/
def State.setBarEntries (s : State) (core : Nat) (bs : BarScope) (l : List (Nat × BarEntry)) : State :=
  match bs with
  | .crew => s.setCore core { s.core core with bars := l }
  | .cluster => s.setCluster (clusterOf core) { s.cluster (clusterOf core) with bars := l }
  | .rope =>
    let e := clusterOf core / 2 * 2
    s.setCluster e { s.cluster e with ropeBars := l }

/-- Set or free one entry. -/
def State.setBar (s : State) (core : Nat) (bs : BarScope) (bid : Nat) (e : Option BarEntry) : State :=
  let rest := (s.barEntries core bs).filter (fun t => t.1 ≠ bid)
  s.setBarEntries core bs (match e with | some b => (bid, b) :: rest | none => rest)

/-- The scope a barrier acquires and releases at (R236). -/
def barScope : BarScope → Scope
  | .crew => .crew
  | .cluster => .cluster
  | .rope => .rope

/-- A barrier's fault, charged to the pitch the strand enters next (R237). -/
def barFault (c : Cause) (x : Ctx) (bid : Nat) : FaultRec := ⟨c, x.pc, bid, none, none, false⟩

/-- The requests of some strands that have not performed: what their arrivals release (R236). -/
def State.unperformed (s : State) (cs : List Nat) : List Nat :=
  (s.net.filter (fun m => m.resp.isNone && !m.body.isLoad && !m.body.posted && cs.any (fun c => m.src = .ctx c))).map (·.id)

/-- A waiter of a completed or broken entry goes on (R236, R237): after a completion it acquires once the requests that the
arrivals release have performed; `ep` is the greatest acquire epoch of the arrivals (R265). -/
def State.barRelease (s : State) (bs : BarScope) (bid : Nat) (broken : Bool) (after : List Nat) (ep c : Nat) : State :=
  match s.ctx? c with
  | none => s
  | some x =>
    let ws := x.waits.filter (fun w => match w with | .barrier b _ k => !(b == bs && k == bid) | _ => true)
    s.setCtx (if broken then { x with waits := ws, charged := x.charged ++ [barFault .barBroken x bid] }
      else { x with waits := ws ++ [.msgs after, .acq (barScope bs) ep] })

/-- A strand arrives at a barrier (R236). -/
def State.barArrive (s : State) (c : Nat) (bs : BarScope) (bid count : Nat) : State :=
  match s.ctx? c with
  | none => s
  | some x =>
    let u := ((s.barEntries x.core bs).find? (fun t => t.1 = bid)).map (·.2)
    let e := u.getD ⟨x.launchKey, count, 0, [], [], 0⟩
    if u.isSome ∧ (e.launch ≠ x.launchKey ∨ e.cnt ≠ count) then s.setCtx { x with charged := x.charged ++ [barFault .barMismatch x bid] }
    else if e.arr + 1 = e.cnt then
      let s1 := s.setBar x.core bs bid none
      let after := s.unperformed (e.members ++ [c])
      (e.waiters ++ [c]).foldl (fun t w => t.barRelease bs bid false after (max e.epoch x.acqEpoch) w) s1
    else
      (s.setBar x.core bs bid (some { e with arr := e.arr + 1, waiters := e.waiters ++ [c], members := e.members ++ [c], epoch := max e.epoch x.acqEpoch })).setCtx
        { x with waits := x.waits ++ [.barrier bs x.core bid] }

/-- A strand retires: the entries within its scopes that are pending with its launch and have not counted it are broken
(R237). -/
def State.barRetire (s : State) (x : Ctx) : State :=
  [BarScope.crew, .cluster, .rope].foldl (fun t bs =>
    ((t.barEntries x.core bs).filter (fun e => e.2.launch = x.launchKey && !e.2.members.contains x.id)).foldl (fun t2 e =>
      e.2.waiters.foldl (fun t3 w => t3.barRelease bs e.1 true [] 0 w) (t2.setBar x.core bs e.1 none)) t) s

/-- bar (R236): its arrival is made at the belay. -/
def execBar (o : BarArgs) (s : State) : Out :=
  fireWhole (.bar o) s (fun _ _ => .ok (some (.bar o.bs o.bid.toNat (o.cnt.toNat + 1)), none))

/-! ### Router instructions -/

/-- An instruction that asks a unit for a scalar result, which fills its write slots when it returns (R27): `check` gives what is
buffered for the belay. -/
def fireOp (i : Instr) (s : State) (check : Site → Operands → Except Raw Effect) : Out :=
  fire i s (fun st o =>
    let n := st.f.idx
    let fail (r : Raw) : State := st.put s ((st.ex.raise n r).reformed n)
    let used := usedTokens i o
    if !(predScalarOk o.p && used.all okScalar) then fail tokenKind
    else if !predOpen o.p 0 || used.any (·.isNull) then st.put s (st.withEffect i none (some Token.nullScalar))
    else
      match check st o with
      | .error r => fail r
      | .ok e =>
        let ex0 := if st.f.reform then st.ex.reformed n else st.ex.markFired n
        st.put s ((ex0.buffer n e).reserve n (Token.scalar 0) (outsAt n i)))

/-- An operand check of R244: DETAIL is the SUB, fa the operand. -/
def rtNeed (sub : Nat) (t : Token) (b : Bool) : Except Raw Unit := need b ⟨.routerOperand, sub, none, some t.word⟩

/-- A record pointer of the strand's own cluster (R244). -/
def recordOk (x : Ctx) (p : Word) : Bool :=
  spaceOf p = 1 && spaceLegal p && scratchCore p / 16 = x.core / 16 && p.toNat % 64 = 0

/-- rt.decl. -/
def execRtDecl (o : BareArgs) (s : State) : Out :=
  fireOp (.rtDecl o) s (fun _ v => do
    rtNeed 0 v.l ((spaceOf v.l.word = 0 || spaceOf v.l.word = 1) && v.l.val % 128 = 0)
    .ok (.router (.decl v.l.word)))
/-- rt.push. -/
def execRtPush (o : RtSetArgs) (s : State) : Out :=
  fireOp (.rtPush o) s (fun st v => do
    rtNeed 1 v.l (recordOk st.x v.l.word)
    .ok (.router (.push o.set.toNat v.l.word (v.r.val % 2 ^ 48))))
/-- rt.take. -/
def execRtTake (o : RtTakeArgs) (s : State) : Out :=
  fireOp (.rtTake o) s (fun _ v => do
    rtNeed 2 v.l (decide (v.l.val < 256))
    .ok (.router (.take o.set.toNat o.poison (if v.l.val = 0 then 255 else v.l.val))))
/-- rt.done. -/
def execRtDone (o : BareArgs) (s : State) : Out :=
  fireOp (.rtDone o) s (fun st v => do
    rtNeed 3 v.l (natBits v.l.val 3 3 = 0 && recordOk st.x (setField v.l.word 0 3 0))
    rtNeed 3 v.r (decide (v.r.val ≤ 2))
    .ok (.router (.done (setField v.l.word 0 3 0) (natBits v.l.val 0 3) v.r.val)))
/-- rt.stat. -/
def execRtStat (o : RtStatArgs) (s : State) : Out :=
  fireOp (.rtStat o) s (fun _ v => do
    rtNeed 4 v.l (decide (v.l.val < 256))
    .ok (.router (.stat v.l.val o.close)))
/-- rt.drain. -/
def execRtDrain (o : RtDrainArgs) (s : State) : Out := fireOp (.rtDrain o) s (fun _ _ => .ok (.router (.drain o.set.toNat)))
/-- rt.seed. -/
def execRtSeed (o : BareArgs) (s : State) : Out :=
  fireOp (.rtSeed o) s (fun _ v => do
    rtNeed 6 v.l (decide (v.l.val < 2 ^ 32))
    .ok (.router (.seed v.l.val)))

/-! ### Sets, weights and windows -/

/-- A stage set of a cluster. -/
def ClusterSt.set (k : ClusterSt) (n : Nat) : RtSet := ((k.sets.find? (fun t => t.1 = n)).map (·.2)).getD RtSet.reset

/-- Replace a stage set. -/
def ClusterSt.setSet (k : ClusterSt) (n : Nat) (x : RtSet) : ClusterSt := { k with sets := (n, x) :: k.sets.filter (fun u => u.1 ≠ n) }

/-- w(i) (R249). -/
def RtStage.weight (g : RtStage) : Nat := max 1 (g.f / g.c)

/-- A stage as its window closes (R249). -/
def RtStage.close (g : RtStage) : RtStage :=
  let z := { g with n := 0, pass := 0, csum := 0 }
  if g.n = 0 then z else { z with f := 65536 * (g.n - g.pass) / g.n, c := min 65535 (max 1 (g.csum / g.n)) }

/-- Close the window of a set (R249). -/
def RtSet.close (x : RtSet) (now : Nat) : RtSet := { x with stages := x.stages.map RtStage.close, wcount := 0, wstart := now }

/-- The queue of a stage of a set: records in the order in which they were routed. -/
def ClusterSt.queue (k : ClusterSt) (set stage : Nat) : List RtRec := k.recs.filter (fun r => r.set = set && r.at_ == .queued stage)

/-- Records of a set in flight. -/
def ClusterSt.inflight (k : ClusterSt) (set : Nat) : Nat := (k.recs.filter (fun r => r.set = set)).length

/-- step(x) of R248. -/
def rtLfsrStep (x : BitVec 32) : BitVec 32 :=
  let b := (natBit x.toNat 31 + natBit x.toNat 21 + natBit x.toNat 1 + natBit x.toNat 0) % 2
  BitVec.ofNat 32 (x.toNat * 2 + b)

/-- The header of a record (R241). -/
def RtRec.header (r : RtRec) (fin pois : Bool) : Nat :=
  let b (c : Bool) (n : Nat) : Nat := if c then 2 ^ n else 0
  r.done % 256 + b r.drop 8 + b fin 9 + b pois 10 + r.set % 4 * 2 ^ 11 + r.fstg % 8 * 2 ^ 13 + r.fcnt % 4 * 2 ^ 16
    + r.seq % 2 ^ 32 * 2 ^ 32 + r.tag % 2 ^ 48 * 2 ^ 64 + r.sid % 2 ^ 15 * 2 ^ 112

/-- The router writes a record's header (R241, R252). -/
def State.writeHeader (s : State) (r : RtRec) (fin pois : Bool) : State :=
  s.poke (keyScratch (scratchCore r.ptr) (offsetOf r.ptr)) 16 (r.header fin pois)

/-- A router fault record (R254) goes to the die's fault queue. -/
def State.postRouter (s : State) (cl : Nat) (c : Cause) (set stage sid : Nat) (ptr : Word) (seq detail : Nat) : State :=
  s.postRecord (cl / 4) (natLe 1 c.code ++ natLe 1 (cl % 32) ++ natLe 1 (set % 4 * 64 + stage % 8) ++ natLe 1 0 ++ natLe 4 sid
    ++ natLe 8 ptr.toNat ++ natLe 4 seq ++ natLe 4 0 ++ natLe 8 detail)

/-! ### Routing -/

/-- A record's stages of kinds that pass `p` and are not done, ascending. -/
def RtSet.todo (x : RtSet) (r : RtRec) (p : Nat → Bool) : List Nat :=
  (List.range x.stages.length).filter (fun i => p ((x.stages.getD i ⟨0, 0, 0, 1, 0, 0, 0⟩).kind) && natBit r.done i = 0)

/-- Put a record at the tail of a stage's queue. -/
def ClusterSt.enqueue (k : ClusterSt) (r : RtRec) (w : RtWhere) : ClusterSt :=
  { k with recs := k.recs.filter (fun q => q.ptr ≠ r.ptr) ++ [{ r with at_ := w }] }

/-- Some record of the set with a lower SEQ has not left (R248). -/
def ClusterSt.lowerSeq (k : ClusterSt) (r : RtRec) : Bool := k.recs.any (fun q => q.set = r.set && decide (q.seq < r.seq))

/-- A record that waits for its effects' turn goes to its lowest EFFECT stage once its turn has come (R248, R251). -/
def ClusterSt.wakeFx (k : ClusterSt) (set : Nat) : ClusterSt :=
  match k.recs.find? (fun r => r.set = set && r.at_ == .waitfx && !k.lowerSeq r) with
  | some r => (match (k.set set).todo r (· = 2) with | i :: _ => k.enqueue r (.queued i) | [] => k)
  | none => k

/-- A set has become IDLE (R251): its drains deliver the records that left it, and the takes that wait for it deliver 0. -/
def State.rtIdle (s : State) (cl set left : Nat) (drains : List Nat) : State :=
  let k := s.cluster cl
  let mine (t : Nat) : Bool := (s.msg? t).any (fun m => match m.body with | .router (.take n _ _) _ _ => n = set | _ => false)
  let say (v : Nat) (t : State) (id : Nat) : State := match t.msg? id with | some m => t.answer m (.val (some (BitVec.ofNat 64 v))) | none => t
  (k.takes.filter mine).foldl (say 0) (drains.foldl (say left) (s.setCluster cl { k with takes := k.takes.filter (fun t => !mine t) }))

/-- A record leaves the router (R247, R248): its header is written, the window and the set count it, a DRAINING set that is now
empty becomes IDLE. -/
def State.rtLeave (s : State) (cl : Nat) (r : RtRec) (pois : Bool) : State :=
  let s0 := s.writeHeader r true pois
  let k0 := s0.cluster cl
  let x := k0.set r.set
  let x1 := { x with left := x.left + 1, wcount := x.wcount + 1, poisoned := x.poisoned + if pois then 1 else 0 }
  let x2 := if x1.wcount = 2 ^ x1.logw then x1.close s.now else x1
  let k1 := { k0 with recs := k0.recs.filter (fun q => q.ptr ≠ r.ptr) }
  let idle := x2.state = .draining ∧ k1.inflight r.set = 0
  let x3 := if idle then { x2 with state := .idle, drains := [] } else x2
  let s1 := s0.setCluster cl ((k1.setSet r.set x3).wakeFx r.set)
  if idle then s1.rtIdle cl r.set x2.left x2.drains else s1

/-- The stage a draw picks (R248): the first with d below the cumulative weight. -/
def pickStage : Nat → List (Nat × Nat) → Nat
  | _, [] => 0
  | _, [(i, _)] => i
  | d, (i, w) :: rest => if d < w then i else pickStage (d - w) rest

/-- route(r) (R248). -/
def State.rtRoute (s : State) (cl : Nat) (r : RtRec) : State :=
  let k := s.cluster cl
  let k0 := { k with recs := k.recs.filter (fun q => q.ptr ≠ r.ptr) }
  let x := k.set r.set
  match x.todo r (· ≠ 2) with
  | [i] => s.setCluster cl (k0.enqueue r (.queued i))
  | i :: j :: rest =>
    let es := i :: j :: rest
    let w (e : Nat) : Nat :=
      let g := x.stages.getD e ⟨0, 0, 0, 1, 0, 0, 0⟩
      if g.hwm < (k0.queue r.set e).length then max 1 (g.weight / 4) else g.weight
    let ws := es.map (fun e => (e, w e))
    let total := (ws.map (·.2)).foldl (· + ·) 0
    let l := rtLfsrStep k.lfsr
    s.setCluster cl ({ k0 with lfsr := l }.enqueue r (.queued (pickStage (l.toNat % total) ws)))
  | [] =>
    match x.todo r (· = 2) with
    | i :: _ => s.setCluster cl (k0.enqueue r (if x.ordered && k0.lowerSeq r then .waitfx else .queued i))
    | [] => s.rtLeave cl r false

/-- A stage's counters after a PASS or a DROP (R247). -/
def RtSet.count (x : RtSet) (stage cost : Nat) (passed : Bool) : RtSet :=
  { x with stages := (List.range x.stages.length).map (fun i =>
      let g := x.stages.getD i ⟨0, 0, 0, 1, 0, 0, 0⟩
      if i = stage then { g with n := g.n + 1, pass := g.pass + (if passed then 1 else 0), csum := g.csum + cost } else g) }

/-- A fault of a stage of a taken record (R247): the third in one stage poisons the record. -/
def State.rtFault (s : State) (cl : Nat) (r : RtRec) (stage holder : Nat) : State :=
  let r1 := if stage = r.fstg then { r with fcnt := r.fcnt + 1 } else { r with fstg := stage, fcnt := 1 }
  if r1.fcnt < 3 then s.rtRoute cl r1
  else
    let s1 := s.rtLeave cl r1 true
    let k := s1.cluster cl
    let p := r1.ptr + BitVec.ofNat 64 r1.fstg
    let k1 := if k.poison.length < 256 then { k with poison := k.poison ++ [p] } else { k with povf := true }
    (s1.setCluster cl k1).postRouter cl .routerPoison r1.set r1.fstg holder r1.ptr (r1.seq % 2 ^ 32) 0

/-- A retiring strand's taken records each count a FAULT (R247). -/
def State.routerRetire (s : State) (x : Ctx) : State :=
  let cl := clusterOf x.core
  ((s.cluster cl).recs.filter (fun r => match r.at_ with | .taken c _ _ _ => c = x.id | _ => false)).foldl (fun t r =>
    match r.at_ with
    | .taken _ sid stage _ => t.rtFault cl r stage sid
    | _ => t) s

/-! ### Router commands -/

/-- A router command that has reached its router in order (R240), after those its strand issued before, though takes and drains may still
wait there: the message and its issuer. -/
def State.rtMsg (s : State) (m : Nat) : Option (Msg × RtReq × Nat × Bool × Ctx) := do
  let msg ← s.msg? m
  match msg.body, msg.src with
  | .router r cl user, .ctx c =>
    let x ← s.ctx? c
    let k := s.cluster cl
    let before := (s.ahead m).filter (fun a => a.src = msg.src && a.resp.isNone && (match a.body with | .router .. => true | _ => false))
    if s.eligible msg && before.all (fun a => k.takes.contains a.id
      || k.sets.any (fun t => t.2.drains.contains a.id)) then some (msg, r, cl, user, x) else none
  | _, _ => none

/-- The words of a declaration record, or why they cannot be read (R242). -/
def State.rtDeclRead (s : State) (x : Ctx) (user : Bool) (p : Word) : Option (List Nat) :=
  (List.range 16).mapM (fun i =>
    match s.unitPlace x.wins user { rd := true } 8 8 (addOffset p (8 * i : Nat)).1 with
    | .ok a => if s.fenced a.place || s.isPoisoned a.place.key 8 then none else some (s.peek a.place.key 8)
    | .error _ => none)

/-- The offset of the first field of a declaration that fails (R242, R254). -/
def rtDeclBad (w : List Nat) : Option Nat :=
  let c := w.getD 0 0
  let nstg := natBits c 3 3 + 1
  let logw := natBits c 8 5
  let stage (i : Nat) : Bool :=
    let v := w.getD (2 + i) 0
    if nstg ≤ i then decide (v = 0) else natBits v 32 32 = 0 && natBits v 2 6 = 0 && natBits v 0 2 ≠ 3
  let checks : List (Nat × Bool) :=
    [(0, decide (8 ≤ logw) && decide (logw ≤ 16) && natBits c 13 3 = 0 && natBits c 32 32 = 0), (8, w.getD 1 0 = 0)]
    ++ (List.range 8).map (fun i => (0x10 + 8 * i, decide (stage i))) ++ (List.range 6).map (fun i => (0x50 + 8 * i, decide (w.getD (10 + i) 0 = 0)))
  (checks.find? (fun k => !k.2)).map (·.1)

/-- ROUTER_CMD_DECL (R242, R245). -/
def execRouterCmdDecl (m : Nat) (s : State) : Out :=
  match s.rtMsg m with
  | some (_, .decl p, cl, user, x) =>
    let k := s.cluster cl
    let reject (set detail : Nat) : State := (s.dropMsg m).postRouter cl .routerDecl set 0 (sidOf x) p 0 detail
    .next (match s.rtDeclRead x user p with
      | none => reject 0 0
      | some w =>
        let c := w.getD 0 0
        let n := natBits c 0 2
        match rtDeclBad w with
        | some off => reject n off
        | none =>
          if (k.set n).state ≠ .idle then reject n 0
          else
            let stages := (List.range (natBits c 3 3 + 1)).map (fun i =>
              let v := w.getD (2 + i) 0
              (⟨natBits v 0 2, natBits v 8 8, 32768, max 1 (natBits v 16 16), 0, 0, 0⟩ : RtStage))
            let x : RtSet := { RtSet.reset with state := .open_, ordered := natBit c 2 = 1, rsz := 64 * (natBits c 6 2 + 1)
                                                logw := natBits c 8 5, twin := natBits c 16 16, stages := stages, wstart := s.now }
            (s.dropMsg m).setCluster cl (k.setSet n x))
  | _ => .fault (.notEnabled "ROUTER_CMD_DECL")

/-- A record at `p` overlaps a record in flight in any set (R245). -/
def ClusterSt.overlapsRec (k : ClusterSt) (p : Word) (sz : Nat) : Bool :=
  k.recs.any (fun r => scratchCore r.ptr = scratchCore p && decide (offsetOf r.ptr < offsetOf p + sz)
    && decide (offsetOf p < offsetOf r.ptr + (k.set r.set).rsz))

/-- The push cannot be accepted at all (R245). -/
def ClusterSt.pushBad (k : ClusterSt) (set : Nat) (p : Word) : Bool :=
  let x := k.set set
  x.state ≠ .open_ || decide (2 ^ 19 < offsetOf p + x.rsz) || k.overlapsRec p x.rsz

/-- There is room for `n` more records of a set (R245). -/
def ClusterSt.room (k : ClusterSt) (set n : Nat) : Bool :=
  let x := k.set set
  decide (k.recs.length + n ≤ 1024) && (!x.ordered || decide (k.inflight set + n ≤ 2 ^ x.logw))

/-- The router accepts a push (R245): header, SEQ and routing. -/
def State.rtAccept (s : State) (cl set : Nat) (p : Word) (tag sid : Nat) : State :=
  let k := s.cluster cl
  let x := k.set set
  let r : RtRec := ⟨p, set, x.seq, tag, sid % 2 ^ 15, 0, false, 0, 0, .waitfx⟩
  ((s.setCluster cl (k.setSet set { x with seq := x.seq + 1 })).writeHeader r false false).rtRoute cl r

/-- The first held push that can be accepted or must be rejected now (R240, R245). -/
def State.rtAdmissible (s : State) (cl : Nat) : Option Nat :=
  let k := s.cluster cl
  k.held.find? (fun h => match s.rtMsg h with
    | some (_, .push t q _, _, _, _) => k.pushBad t q || k.room t 1
    | _ => false)

/-- A push to a set is held. -/
def State.rtHeld (s : State) (cl set : Nat) : Bool :=
  (s.cluster cl).held.any (fun h => (s.msg? h).any (fun m => match m.body with | .router (.push t _ _) _ _ => t = set | _ => false))

/-- ROUTER_CMD_PUSH (R240, R245): accepted, rejected, or held until there is room; those that came before it and can be accepted are
accepted first. -/
def execRouterCmdPush (m : Nat) (s : State) : Out :=
  match s.rtMsg m with
  | some (_, .push set p tag, cl, _, x) =>
    let k := s.cluster cl
    if k.held.contains m || (s.rtAdmissible cl).isSome then .fault (.notEnabled "ROUTER_CMD_PUSH")
    else if k.pushBad set p then .next ((s.dropMsg m).postRouter cl .routerSet set 0 (sidOf x) p 0 0)
    else if k.room set 1 && !s.rtHeld cl set then
      s.unitWrite ((s.dropMsg m).rtAccept cl set p tag (sidOf x)) (.unit (cl / 4)) "ROUTER_CMD_PUSH"
    else .next (s.setCluster cl { k with held := k.held ++ [m] })
  | _ => .fault (.notEnabled "ROUTER_CMD_PUSH")

/-- ROUTER_PUSH_ADMIT (R245): a held push is accepted when room appears, or rejected if its set has closed meanwhile. -/
def execRouterPushAdmit (m : Nat) (s : State) : Out :=
  match s.rtMsg m with
  | some (_, .push set p tag, cl, _, x) =>
    let k := s.cluster cl
    if s.rtAdmissible cl ≠ some m then .fault (.notEnabled "ROUTER_PUSH_ADMIT")
    else
      let s1 := (s.setCluster cl { k with held := k.held.filter (· ≠ m) }).dropMsg m
      if k.pushBad set p then .next (s1.postRouter cl .routerSet set 0 (sidOf x) p 0 0)
      else s.unitWrite (s1.rtAccept cl set p tag (sidOf x)) (.unit (cl / 4)) "ROUTER_PUSH_ADMIT"
  | _ => .fault (.notEnabled "ROUTER_PUSH_ADMIT")

/-- The record a take delivers: the one routed first among the masked queues of the set (R246). -/
def ClusterSt.takeable (k : ClusterSt) (set mask : Nat) : Option (RtRec × Nat) :=
  k.recs.findSome? (fun r => match r.at_ with
    | .queued i => if r.set = set ∧ natBit mask i = 1 then some (r, i) else none
    | _ => none)

/-- Serve a take, when it can be: the record becomes TAKEN and its cost clock starts; with its set IDLE it delivers 0 (R246). -/
def State.rtServe (s : State) (msg : Msg) (cl set mask : Nat) (x : Ctx) : Option State :=
  let k := s.cluster cl
  if (k.set set).state = .idle then some (s.answer msg (.val (some 0)))
  else
    match k.takeable set mask with
    | some (r, i) =>
      let k1 := { k with recs := k.recs.map (fun q => if q.ptr = r.ptr then { q with at_ := .taken x.id (sidOf x) i (s.ac16 (networkIsland cl)) } else q) }
      some ((s.setCluster cl k1).answer msg (.val (some (r.ptr + BitVec.ofNat 64 i))))
    | none => none

/-- The first waiting take that can be served (R246). -/
def State.rtServable (s : State) (cl : Nat) : Option Nat :=
  (s.cluster cl).takes.find? (fun t => match s.rtMsg t with
    | some (msg, .take set _ mask, _, _, y) => (s.rtServe msg cl set mask y).isSome
    | _ => false)

/-- ROUTER_CMD_TAKE (R246): served, unless one that came before it can be served, or queued at the router; the POISON form never
waits. -/
def execRouterCmdTake (m : Nat) (s : State) : Out :=
  match s.rtMsg m with
  | some (msg, .take set poison mask, cl, _, x) =>
    let k := s.cluster cl
    if k.takes.contains m then .fault (.notEnabled "ROUTER_CMD_TAKE")
    else if poison then
      (match k.poison with
      | p :: ps => .next ((s.setCluster cl { k with poison := ps }).answer msg (.val (some p)))
      | [] => .next (s.answer msg (.val (some 0))))
    else .next (((s.rtServe msg cl set mask x).filter (fun _ => (s.rtServable cl).isNone)).getD (s.setCluster cl { k with takes := k.takes ++ [m] }))
  | _ => .fault (.notEnabled "ROUTER_CMD_TAKE")

/-- ROUTER_TAKE_SERVE (R246): waiting takes are served in the order of their arrival. -/
def execRouterTakeServe (m : Nat) (s : State) : Out :=
  match s.rtMsg m with
  | some (msg, .take set _ mask, cl, _, x) =>
    if s.rtServable cl = some m then
      match s.rtServe msg cl set mask x with
      | some t => .next (t.setCluster cl { t.cluster cl with takes := (t.cluster cl).takes.filter (· ≠ m) })
      | none => .fault (.notEnabled "ROUTER_TAKE_SERVE")
    else .fault (.notEnabled "ROUTER_TAKE_SERVE")
  | _ => .fault (.notEnabled "ROUTER_TAKE_SERVE")

/-- ROUTER_CMD_DONE (R247). -/
def execRouterCmdDone (m : Nat) (s : State) : Out :=
  match s.rtMsg m with
  | some (_, .done p stage outcome, cl, _, x) =>
    let k := s.cluster cl
    let s1 := s.dropMsg m
    s.unitWrite (match k.recs.find? (fun r => r.ptr = p && (match r.at_ with | .taken c _ i _ => c = x.id && i = stage | _ => false)) with
      | none =>
        let seen := k.recs.find? (fun r => r.ptr = p)
        s1.postRouter cl .routerStale ((seen.map (·.set)).getD 0) stage (sidOf x) p ((seen.map (fun r => r.seq % 2 ^ 32)).getD 0) 0
      | some r =>
        let cost := match r.at_ with | .taken _ _ _ t => (s.ac16 (networkIsland cl) - t) / 16 | _ => 0
        if outcome = 2 then s1.rtFault cl r stage (sidOf x)
        else
          let r1 := { r with done := r.done ||| 2 ^ stage, drop := r.drop || outcome = 0 }
          let s2 := s1.setCluster cl (k.setSet r.set ((k.set r.set).count stage cost (outcome = 1)))
          if outcome = 1 then s2.rtRoute cl r1 else s2.rtLeave cl r1 false) (.unit (cl / 4)) "ROUTER_CMD_DONE"
  | _ => .fault (.notEnabled "ROUTER_CMD_DONE")

/-- ROUTER_WINDOW_TIMER (R242, R249): TWIN µs have passed since the window opened, at 2,000 ticks a µs. -/
def execRouterWindowTimer (cl set : Nat) (s : State) : Out :=
  let k := s.cluster cl
  let x := k.set set
  if x.state ≠ .idle ∧ x.twin ≠ 0 ∧ x.wstart + 2000 * x.twin ≤ s.now then .next (s.setCluster cl (k.setSet set (x.close s.now)))
  else .fault (.notEnabled "ROUTER_WINDOW_TIMER")

/-- The item a selector names (R250). -/
def ClusterSt.statItem (k : ClusterSt) (sel : Nat) : Nat :=
  let n := natBits sel 0 2
  let i := natBits sel 2 3
  let x := k.set n
  if natBits sel 5 3 = 7 then
    match i with
    | 0 => x.left
    | 1 => k.inflight n
    | 2 => x.wcount
    | 3 => x.poisoned
    | 4 => x.seq % 2 ^ 32
    | 5 => k.lfsr.toNat
    | _ => 0
  else
    match x.stages[i]? with
    | none => 0
    | some g =>
      match natBits sel 5 3 with
      | 0 => g.f
      | 1 => g.c
      | 2 => g.weight
      | 3 => g.n
      | 4 => g.pass
      | 5 => g.csum
      | _ => (k.queue n i).length

/-- ROUTER_CMD_STAT (R250). -/
def execRouterCmdStat (m : Nat) (s : State) : Out :=
  match s.rtMsg m with
  | some (msg, .stat sel close, cl, _, _) =>
    let k := s.cluster cl
    let n := natBits sel 0 2
    let k1 := if close then k.setSet n ((k.set n).close s.now) else k
    .next ((s.setCluster cl k1).answer msg (.val (some (BitVec.ofNat 64 (k1.statItem sel)))))
  | _ => .fault (.notEnabled "ROUTER_CMD_STAT")

/-- ROUTER_CMD_DRAIN (R250). -/
def execRouterCmdDrain (m : Nat) (s : State) : Out :=
  match s.rtMsg m with
  | some (msg, .drain set, cl, _, _) =>
    let k := s.cluster cl
    let x := k.set set
    if x.drains.contains m then .fault (.notEnabled "ROUTER_CMD_DRAIN")
    else if x.state = .idle then .next (s.answer msg (.val (some 0)))
    else if x.state = .open_ ∧ k.inflight set = 0 then
      .next ((s.setCluster cl (k.setSet set { x with state := .idle })).rtIdle cl set x.left [m])
    else .next (s.setCluster cl (k.setSet set { x with state := .draining, drains := x.drains ++ [m] }))
  | _ => .fault (.notEnabled "ROUTER_CMD_DRAIN")

/-- Set RTLFSR (R235, R250). -/
def State.rtSeed (s : State) (cl v : Nat) : State := s.setCluster cl { s.cluster cl with lfsr := BitVec.ofNat 32 v }

/-- ROUTER_CMD_SEED (R250). -/
def execRouterCmdSeed (m : Nat) (s : State) : Out :=
  match s.rtMsg m with
  | some (_, .seed v, cl, _, _) => .next ((s.dropMsg m).rtSeed cl v)
  | _ => .fault (.notEnabled "ROUTER_CMD_SEED")

end Sys2Proof.Machine
end

