-- ==== Sys2Proof/Machine/Contexts.lean ====
section
/-!
DEFINITION. Sys2Proof/Machine/Contexts.lean: which contexts of a core are blocked and which are ready (R301, R369).
-/

namespace Sys2Proof.Machine

/-- The waitv of an execution is watching its word (R135). -/
def State.watching (s : State) (x : Ctx) : Bool :=
  s.net.any (fun m => m.src = .ctx x.id && m.resp.isNone && (match m.body with
    | .watch serial _ _ _ _ seen => seen && (match x.cur with | some ex => ex.serial = serial && !ex.canFire | none => false)
    | _ => false))

/-- The strand waits as a roped partner (R239): it has posted, and the steps cannot begin. -/
def State.ropeWaits (s : State) (x : Ctx) : Bool :=
  s.pairs.any (fun p => p.sides.any (fun d => d.ctx = x.id) && p.stage != .run)

/-- A context is blocked (R301). -/
def State.blocked (s : State) (x : Ctx) : Bool :=
  x.offered || s.watching x || s.ropeWaits x
    || x.waits.any (fun w => match w with | .counts .. | .barrier .. => true | _ => false)

/-- A ready context (R301), which no block has selected (R369). -/
def State.ready? (s : State) (x : Ctx) : Bool :=
  (x.place = .bank || x.place = .spilled) && !s.blocked x && x.retiring.isNone && x.fillTo.isNone

end Sys2Proof.Machine
end

