-- ==== Sys2Proof/Machine/Sched.lean ====
section
/-!
DEFINITION. Sys2Proof/Machine/Sched.lean: nests and their placement (R281 to R290), cards and their queues (R292 to R303), the card,
future and job instructions (R296 to R299), remote posts and jobs (R306 to R308).
-/

namespace Sys2Proof.Machine

/-! ### Instructions -/

/-- An operand check of R297: DETAIL is the SUB, fa the operand. -/
def cardNeed (sub : Nat) (t : Token) (b : Bool) : Except Raw Unit := need b ⟨.cardOperand, sub, none, some t.word⟩

/-- Probe words as a store is (R26, R297): their parts, or the trap. -/
def State.probeWords (s : State) (st : Site) (ps : List Word) : Except (List (Nat × ElemFault)) (List Part) := do
  let l ← s.probe st { need := { wr := true }, w := 8, n := 8, user := st.ex.user } (ps.map (fun p => ⟨0, p, 0, 8⟩))
  .ok (l.map (·.2))

/-- An instruction of the card family fires (R297): its operands are checked and its pointers probed; what it asks for is
buffered for the belay. -/
def fireCard (i : Instr) (s : State) (check : Site → Operands → Except Raw (List Word)) (req : Operands → List Part → OpReq) : Out :=
  fire i s (fun st o =>
    let n := st.f.idx
    let fail (r : Raw) : State := st.put s ((st.ex.raise n r).reformed n)
    let used := usedTokens i o
    if !(predScalarOk o.p && used.all okScalar) then fail tokenKind
    else if !predOpen o.p 0 || used.any (·.isNull) then st.put s (st.withEffect i none (some Token.nullScalar))
    else
      match check st o with
      | .error r => fail r
      | .ok ps =>
        match s.probeWords st ps with
        | .error fs => st.put s ((st.ex.raiseProbe n fs).reformed n)
        | .ok parts =>
          let ex0 := if st.f.reform then st.ex.reformed n else st.ex.markFired n
          let e : Effect := .op (req o parts) (parts.filterMap (fun p => p.place.hold))
          st.put { s with free := s.free + 2 * ps.length } ((ex0.buffer n e).reserve n (Token.scalar 0) (outsAt n i)))

/-- PEER, OWN and the chip of a queue selector (R297). -/
def selPeer (q : Nat) : Bool := natBit q 22 = 1
def selOwn (q : Nat) : Bool := natBit q 9 = 1
def selChip (q : Nat) : Nat := natBits q 10 12

/-- card.post. -/
def execCardPost (o : BareArgs) (s : State) : Out :=
  fireCard (.cardPost o) s
    (fun _ v => do
      let q := v.r.val
      let c := v.l.word
      let peerForm := spaceOf c = 4 && chipOf c = selChip q && c.toNat % 64 = 0
      cardNeed 0 v.r (q / 2 ^ 23 = 0 && !(selOwn q && natBits q 0 9 ≠ 0))
      need (!selPeer q || groupOf (selChip q) = groupOf s.chip) ⟨.peerUnreachable, selChip q, none, some v.r.word⟩
      cardNeed 0 v.l (if selPeer q then peerForm else cardForm c)
      .ok [c])
    (fun v _ => .cardPost v.l.word v.r.val)

/-- card.sig. -/
def execCardSig (o : BareArgs) (s : State) : Out :=
  fireCard (.cardSig o) s
    (fun _ v => do
      cardNeed 1 v.l (cardForm v.l.word)
      .ok [v.l.word])
    (fun v _ => .cardSig v.l.word)

/-- A future pointer (R297). -/
def futForm (p : Word) : Bool := (spaceOf p = 0 || spaceOf p = 4) && p.toNat % 16 = 0

/-- fut.wait. -/
def execFutWait (o : ResArgs) (s : State) : Out :=
  fireCard (.futWait o) s
    (fun _ v => do
      cardNeed 2 v.l (futForm v.l.word)
      cardNeed 2 v.r (cardForm (quarterCard v.r.word) && natBits v.r.val 0 4 = 0 && decide (natBits v.r.val 4 2 < 2))
      .ok [v.l.word, v.r.word])
    (fun v ps => .futWait v.l.word v.r.word ((ps.map (·.place)).headD ⟨0, none, none⟩))

/-- fut.set. -/
def execFutSet (o : FutSetArgs) (s : State) : Out :=
  fireCard (.futSet o) s
    (fun _ v => do
      cardNeed 3 v.l (futForm v.l.word)
      .ok [v.l.word])
    (fun v ps => .futSet v.l.word v.r.word o.fail ((ps.map (·.place)).headD ⟨0, none, none⟩))

/-- jobq. -/
def execJobq (o : ResArgs) (s : State) : Out :=
  fireCard (.jobq o) s
    (fun _ v => do
      cardNeed 4 v.l (decide (1 ≤ v.l.val) && decide (v.l.val ≤ 255))
      .ok [])
    (fun v _ => .jobq v.l.val)

/-! ### Nest records -/

/-- Word `i` of a record. -/
def wordAt (ws : List Word) (i : Nat) : Nat := (ws.getD i 0).toNat

/-- A scratchpad window word breaks R287. -/
def windowBad (w : Nat) : Bool := w / 2 ^ 41 ≠ 0 || natBits w 39 2 = 3 || natBits w 0 5 ≠ 0 || decide (2 ^ 19 < natBits w 0 19 + natBits w 19 20)

/-- The windows of a record for a strand of a core (R287). -/
def windowsOf (ws : List Word) (core : Nat) : List ScrWindow :=
  ([wordAt ws 10, wordAt ws 11].filter (fun w => natBits w 19 20 ≠ 0)).map (fun w => ⟨core, natBits w 0 19, natBits w 19 20, natBits w 39 2⟩)

/-- The offset of the first failing field of a nest record; a TASK reads only the fields of R292 (R281). -/
def nestBad (ws : List Word) (task : Bool) : Option Nat :=
  let w := wordAt ws
  let ctl := w 1
  let loop (l : Nat) : Bool := task || (decide (w (12 + 2 * l) < 2 ^ 48) && decide (w (13 + 2 * l) < 2 ^ 7))
  let checks : List (Nat × Bool) :=
    [(0x08, decide (natBits ctl 16 4 ≤ 8) && (task || (ctl / 2 ^ 20 = 0 && natBits ctl 0 8 ≠ 0 && decide (natBits ctl 10 4 ≤ 11)))),
     (0x18, task || natBit (w 3) 63 = 0), (0x30, decide (w 6 < 2 ^ 16) && natBits (w 6) 2 6 = 0),
     (0x40, decide (w 8 % 2 ^ 16 = 0)), (0x48, decide (w 9 % 2 ^ 17 = 0)), (0x50, !windowBad (w 10)), (0x58, !windowBad (w 11))]
    ++ (List.range 6).map (fun l => (0x60 + 16 * l, loop l))
    ++ [(0xC8, natBit (w 25) 0 = 0 && decide (w 25 < 2 ^ 32)), (0xF0, task || (w 30 = 0 && w 31 = 0))]
  (checks.find? (fun c => !c.2)).map (·.1)

/-- A word that a command processor reads in global space (R281, R385). -/
def State.cpRead (s : State) (p : Word) : Except Cause Word :=
  if spaceOf p ≠ 0 then .error .spaceInvalid
  else
    match s.unitPlace [] false { rd := true } 8 8 p with
    | .error e => .error e.cause
    | .ok a => if s.isPoisoned a.place.key 8 then .error .dataPoison else .ok (BitVec.ofNat 64 (s.peek a.place.key 8))

/-- The fields of a host launch packet replace those of the nest record (R380). -/
def packetOver (ws packet : List Word) : List Word :=
  match packet with
  | [_, ctl, cairn, cseq] =>
    ((ws.set 1 (setField (ws.getD 1 0) 0 14 ctl.toNat)).set 2 cairn).set 3 cseq
  | _ => ws

/-- A nest record and its argument words, or the DETAIL of NEST_FORMAT with the record as far as it was read (R281, R309). -/
def State.nestRead (s : State) (p : Word) (packet : List Word) (task : Bool) : Except (Nat × List Word) (List Word × List (Nat × Word)) :=
  let bad (c : Cause) : Except (Nat × List Word) (List Word × List (Nat × Word)) := .error (0x10000 + c.code, [])
  if spaceOf p ≠ 0 then bad .spaceInvalid
  else if p.toNat % 256 ≠ 0 then bad .misaligned
  else
    match (List.range 32).mapM (fun i => s.cpRead (p + BitVec.ofNat 64 (8 * i))) with
    | .error c => bad c
    | .ok ws0 =>
      let ws := packetOver ws0 packet
      match nestBad ws task with
      | some off => .error (off, ws)
      | none =>
        let regs := (List.range 32).filter (fun n => natBit (wordAt ws 25) n = 1)
        match regs.mapM (fun n => (s.cpRead (addOffset (ws.getD 24 0) (8 * n : Nat)).1).map (fun v => (n, v))) with
        | .error _ => .error (0xC0, ws)
        | .ok args => .ok (ws, args)

/-! ### Positions and placement -/

/-- A context holds the bank beside its slot (R228). -/
def Ctx.inBank (x : Ctx) : Bool := x.place = .bank || x.place = .spilling || x.place = .filling

/-- A free context position of a core: the lowest empty slot whose bank holds no ready context, then the lowest empty bank (R283,
R370). A bank that was freed for a card is kept for the queue's cards (R303). -/
def State.freePos (s : State) (core : Nat) (card : Bool) : Option (Nat × Where) :=
  let xs := s.ctxs.filter (fun x => x.core = core)
  let kept := (s.core core).kept.map (·.1)
  let bare (k : Nat) : Bool := xs.all (fun x => !(x.slot = k && x.inBank))
  match kept.filter (fun k => card && bare k) with
  | some k => some (k, .bank)
  | none =>
    match (List.range 8).find? (fun k => xs.all (fun x => !(x.slot = k && (x.place = .active || (x.place = .bank && s.ready? x))))) with
    | some k => some (k, .active)
    | none => ((List.range 8).find? (fun k => bare k && kept ≠ some k)).map (fun k => (k, .bank))

/-- The tiles that no resident context of a core holds, ascending (R184). -/
def State.freeTiles (s : State) (core : Nat) : List Nat :=
  let used := (s.ctxs.filter (fun x => x.core = core && x.place ≠ .spilled)).flatMap (·.tiles)
  (List.range 64).filter (fun t => !used.contains t)

/-- The lowest context number that no other context of a launch holds on a core (R285). -/
def State.ctxNo (s : State) (core key : Nat) : Option Nat :=
  let used := (s.ctxs.filter (fun x => x.core = core && x.launchKey = key)).map (·.ctxno)
  (List.range 32).find? (fun c => !used.contains c)

/-- A strand with the starting state of R284. -/
def Ctx.initial (id core slot : Nat) (place : Where) (job : Job) (ctxno pri : Nat) (tiles : List Nat) (ws : List Word) (xr : List (Nat × Word))
    (seed : Word) (now : Nat) : Ctx :=
  let q := 32 * core + ctxno
  let sn : BitVec 48 := BitVec.ofNat 48 (wordAt ws 5)
  let sc := ws.getD 6 0
  let xs : Vector Word 32 := xr.foldl (fun v a => if h : a.1 < 32 then (if a.1 = 0 then v else v.set a.1 a.2) else v) (Vector.replicate 32 0)
  { id := id, core := core, slot := slot, place := place, job := job, ctxno := ctxno, pri := pri, tiles := tiles
    frame := ws.getD 8 0 + BitVec.ofNat 64 (2 ^ 16 * q), te := ws.getD 7 0, spill := ws.getD 9 0 + BitVec.ofNat 64 (2 ^ 17 * q)
    wins := windowsOf ws core, x := xs, v := Vector.replicate 32 0, m := (Vector.replicate 8 0).set 0 (BitVec.allOnes 256)
    d := Vector.replicate 8 0, k := Vector.replicate 16 0, scale := Vector.replicate 256 0
    sb := BitVec.ofNat 48 (wordAt ws 4), sn := sn, vl := grantVl sn sc, sc := sc
    lp := Vector.replicate 6 0, lm := Vector.replicate 6 0, ls := Vector.replicate 6 0, lc := Vector.replicate 6 0
    fc := 0, fa := 0, fb := 0, ff := 0, fr := 0, es := Vector.replicate 8 .idle, esAt := Vector.replicate 8 .idle, fx := 0, fe := 0, sl := seed
    sup := false, intrap := false, pc := ws.getD 0 0, sq := 2 ^ 48, sk := 0, acqEpoch := 0, next := some (ws.getD 0 0), waits := []
    retiring := none, cur := none, spec := none, pend := [], stts := [], charged := [], retStack := [], triggered := false, offered := false
    activeSince := now, wantSpill := false, fillTo := none, blockSeen := false, fresh := true, refill := false, saved := [], image := none, mismatch := false }

/-- A card's strand was placed in the bank freed for it, beside a context of a greater priority number, which it takes the slot
from (R303). -/
def State.takesSlot (s : State) (core slot pri : Nat) (pl : Where) : Bool :=
  pl = .bank && (s.core core).kept.any (fun k => k.1 = slot)
    && s.ctxs.any (fun x => x.core = core && x.slot = slot && x.place = .active && decide (pri < x.pri))

/-- Place a strand on a core, when a position and tiles are free (R283, R284, R285): an acquire of everything before it (R279,
R295). -/
def State.placeStrand (s : State) (core key pri tiles : Nat) (job : Job) (ws : List Word) (xr : List (Nat × Word)) (seed : Word) : Option State :=
  match s.freePos core (match job with | .card _ => true | _ => false), s.ctxNo core key with
  | some (slot, pl), some no =>
    let free := s.freeTiles core
    if free.length < tiles then none
    else
      let x := Ctx.initial s.nextId core slot pl job no pri (free.take tiles) ws xr seed s.now
      let s1 := s.raiseEpoch core
      let y := { x with acqEpoch := (s1.core core).epoch, fillTo := if s.takesSlot core slot pri pl then some slot else none }
      some { s1 with ctxs := s1.ctxs ++ [y], nextId := s.nextId + 1 }
  | _, _ => none

/-! ### The walk -/

/-- The spatial levels of a nest: level and trip, of the kinds that pass `p` (R282). -/
def spatial (ws : List Word) (p : Nat → Bool) : List (Nat × Nat) :=
  ((List.range 6).filter (fun l => p (natBits (wordAt ws (13 + 2 * l)) 0 2))).map (fun l => (l, wordAt ws (12 + 2 * l)))

/-- How many iterations a nest has (R282); a nest without spatial levels has one. -/
def iterations (ws : List Word) : Nat := ((spatial ws (2 ≤ ·)).map (·.2)).foldl (· * ·) 1

/-- The index of every spatial level in iteration `n`, level 0 varying slowest (R282). -/
def indicesOf : List (Nat × Nat) → Nat → List (Nat × Nat)
  | [], _ => []
  | (l, _) :: rest, n =>
    let inner := (rest.map (·.2)).foldl (· * ·) 1
    (l, n / inner) :: indicesOf rest (n % inner)

/-- Linearise the indices of some levels (R282). -/
def linearise (ws : List Word) (kind n : Nat) : Nat :=
  let idx := indicesOf (spatial ws (2 ≤ ·)) n
  (spatial ws (· = kind)).foldl (fun a l => a * l.2 + ((idx.find? (fun i => i.1 = l.1)).map (·.2)).getD 0) 0

/-- The dies of a DIEMASK, ascending. -/
def diesOf (ws : List Word) : List Nat := (List.range 8).filter (fun d => natBit (wordAt ws 1) d = 1)

/-- The die and the core within it of an iteration (R282). -/
def iterDie (ws : List Word) (n : Nat) : Nat :=
  let ds := diesOf ws
  ds.getD (linearise ws 3 n % ds.length) 0
def iterCore (ws : List Word) (n : Nat) : Nat := iterDie ws n * 64 + linearise ws 2 n % 64

/-- The first iteration of a die at or after `n` that has not retired (R283, R377). -/
def nextIter (ws : List Word) (retired : List Nat) (die : Nat) : Nat → Nat → Option Nat
  | 0, _ => none
  | fuel + 1, n => if iterDie ws n = die ∧ !retired.contains n then some n else nextIter ws retired die fuel (n + 1)

/-- XREG values of an iteration (R284): arguments, then each spatial index and each TEMPORAL trip, in level order. -/
def iterRegs (ws : List Word) (args : List (Nat × Word)) (n : Nat) : List (Nat × Word) :=
  let idx := indicesOf (spatial ws (2 ≤ ·)) n
  args ++ (List.range 6).filterMap (fun l =>
    let k := wordAt ws (13 + 2 * l)
    let reg := natBits k 2 5
    match natBits k 0 2 with
    | 0 => none
    | 1 => some (reg, BitVec.ofNat 64 (natBits (wordAt ws (12 + 2 * l)) 0 48))
    | _ => some (reg, BitVec.ofNat 64 (((idx.find? (fun i => i.1 = l)).map (·.2)).getD 0)))

/-! ### Completion of nests -/

/-- The launch with an id. -/
def State.launch? (s : State) (id : Nat) : Option Launch := s.launches.find? (fun l => l.id = id)

/-- Replace a launch. -/
def State.setLaunch (s : State) (l : Launch) : State := { s with launches := s.launches.map (fun m => if m.id = l.id then l else m) }

/-- Signal the successors of a nest with its error as it stands (R290). -/
def State.nestSignal (s : State) (l : Launch) : State :=
  ((List.range 4).filter (fun j => wordAt l.words (26 + j) ≠ 0)).foldl (fun t j => t.sendSignal l.die none (l.words.getD (26 + j) 0) l.err) s

/-- A nest moves on as its iterations trigger and retire (R289, R290): successors are signalled, and at completion the cairn is
written, its opens are closed (R318) and the card that launched it ends with the cairn. -/
def State.nestProgress (s : State) (id : Nat) : State :=
  match s.launch? id with
  | none => s
  | some l =>
    if !l.started then s
    else
      let total := iterations l.words
      let early := natBit (wordAt l.words 1) 15 = 1
      let done := l.retired.length = total
      let sig := !l.signalled && (if early then decide (l.counted.length = total) else decide done)
      let s1 := if sig then (s.nestSignal l).setLaunch { l with signalled := true } else s
      if !done then s1
      else
        let s2 := { s1 with launches := s1.launches.filter (fun m => m.id ≠ id) }
        (s2.cairn l.die (l.words.getD 2 0) (l.words.getD 3 0) l.err ⟨l.ptr, 0, none, l.card.map (fun c => (c, l.err)), 0⟩).closeOpens l.id

/-- An iteration counts toward the early trigger of its nest (R290). -/
def State.nestCount (s : State) (id ord : Nat) : State :=
  match s.launch? id with
  | none => s
  | some l => (s.setLaunch { l with counted := if l.counted.contains ord then l.counted else l.counted ++ [ord] }).nestProgress id

/-- An iteration retires (R289, R290). -/
def State.nestRetire (s : State) (id ord : Nat) (err : Bool) : State :=
  match s.launch? id with
  | none => s
  | some l =>
    (s.setLaunch { l with retired := l.retired ++ [ord], err := l.err || err
                          counted := if l.counted.contains ord then l.counted else l.counted ++ [ord] }).nestProgress id

/-- A strand's work met an error after its belay (R289, R291, R294). -/
def State.jobError (s : State) : Job → State
  | .nest l _ => (match s.launch? l with | some a => s.setLaunch { a with err := true } | none => s)
  | .card c => { s with running := s.running.map (fun r => if r.id = c then { r with err := true } else r) }
  | .none => s

/-- NEST_LAUNCH (R281): the record is read and checked, and the walk starts or the launch is rejected. -/
def execNestLaunch (launch : Nat) (s : State) : Out :=
  match s.launch? launch with
  | none => .fault (.notEnabled "NEST_LAUNCH")
  | some l =>
    if l.started ∨ (s.die l.die).dstate ≠ 0 then .fault (.notEnabled "NEST_LAUNCH")
    else
      s.unitWrite (match s.nestRead l.ptr l.packet false with
        | .error (detail, ws0) =>
          let ws := if ws0 = [] then packetOver (List.replicate 32 0) l.packet else ws0
          let d := if ws0 = [] then l.die else (diesOf ws).headD l.die
          let s1 := { s with launches := s.launches.filter (fun m => m.id ≠ launch) }
          let s2 := s1.postRecord d (record291 Cause.nestFormat.code 4 0 l.ptr l.ptr detail)
          let p := ws.getD 2 0
          let s3 := s2.cairnIfValid d p (ws.getD 3 0) l.ptr
          (match l.card with | some c => s3.endCard c true | none => s3)
        | .ok (ws, args) =>
          (s.setLaunch { l with started := true, die := (diesOf ws).headD l.die, words := ws, args := args
                                walks := (diesOf ws).map (fun d => (d, 0, s.now)), code := s.mem }).nestProgress launch) (.unit l.die) "NEST_LAUNCH"

/-! ### Cards -/

/-- A card's CTL obeys R292. -/
def cardCtlOk (w : Nat) : Bool :=
  natBits w 0 2 ≠ 3 && decide (natBits w 4 4 ≤ 11) && decide (natBits w 8 3 ≤ 3) && natBits w 22 2 = 0 && natBits w 48 16 = 0

/-- STATE and COUNT of a card (R292). -/
def cardState (w : Nat) : Nat := natBits w 8 3
def cardCount (w : Nat) : Nat := natBits w 32 16

/-- A CTL with STATE, ERR and COUNT replaced. -/
def cardPut (w st count : Nat) (err : Bool) : Nat :=
  let b : Word := setField (setField (BitVec.ofNat 64 w) 8 3 st) 32 16 count
  (if err then setField b 11 1 1 else b).toNat

/-- The priority of a queued card after it has aged: each four quanta of 100,000 ticks raise it by one (R300). -/
def QEntry.effPri (e : QEntry) (now : Nat) : Nat := e.pri - min e.pri ((now - e.entered) / 400000)

/-- A card enters the queue of a core, or the overflow list when its priority is full (R300, R307). -/
def State.enqueueCard (s : State) (core : Nat) (e : QEntry) : State :=
  let k := s.core core
  let s1 := s.qcInc (dieOf core) e.job
  if (k.queue.filter (fun q => q.effPri s.now = e.pri)).length < 256 then s1.setCore core { k with queue := k.queue ++ [e] }
  else
    let d := s1.schedOf (dieOf core)
    s1.setSched (dieOf core) { d with overflow := d.overflow ++ [(core, e)] }

/-- A queue entry has freed: the first overflowed card of the core that fits enters (R300). -/
def State.refillQueue (s : State) (core : Nat) : State :=
  let d := s.schedOf (dieOf core)
  let k := s.core core
  match d.overflow.find? (fun o => o.1 = core && decide ((k.queue.filter (fun q => q.effPri s.now = o.2.effPri s.now)).length < 256)) with
  | none => s
  | some o =>
    (s.setCore core { k with queue := k.queue ++ [o.2] }).setSched (dieOf core)
      { d with overflow := d.overflow.takeWhile (· ≠ o) ++ (d.overflow.dropWhile (· ≠ o)).drop 1 }

/-- Every overflowed card that fits enters its queue (R300). -/
def State.refillQueues (s : State) : State :=
  s.sched.foldl (fun (t : State) d => d.2.overflow.foldl (fun (u : State) o => u.refillQueue o.1) t) s

/-- A die that posts about a card address that fails: its home, or the sending die where it reaches none (R293). -/
def cardDie (die : Nat) (p : Word) : Nat :=
  match spaceOf p, globalOwner p with
  | 0, some (j, _) => j
  | _, _ => die

/-- A card becomes READY and enters a queue (R293); `w` is its CTL with COUNT and ERR as they now stand. -/
def State.makeReady (s : State) (key : Nat) (card : Word) (w core : Nat) (src : Option SigSrc) : State :=
  (s.poke key 8 (cardPut w 1 (cardCount w) false)).enqueueCard core ⟨card, natBits w 2 2, s.now, src, natBits w 24 8⟩

/-- A signal at the card's home (R293). -/
def State.signalCard (s : State) (card : Word) (err : Bool) (src : Option SigSrc) (die : Nat) : State :=
  match s.cardKey ((src.map (·.user)).getD false) card with
  | .error c => s.postCard (cardDie die card) .cardFormat src card c.code
  | .ok key =>
    let w := s.peek key 8
    let home := cardDie die card
    if cardState w ≠ 0 ∨ cardCount w = 0 then
      s.postCard home .cardState src card 0
    else
      let w1 := cardPut w 0 (cardCount w - 1) err
      let s1 := s.poke key 8 w1
      if cardCount w ≠ 1 then s1
      else if !cardCtlOk w then s1.postCard home .cardFormat src card 0
      else
        let core := match src with
          | some k => if natBit w 12 = 1 then k.core else natBits w 13 9
          | none => natBits w 13 9
        s1.makeReady key card w1 core src

/-- A signal or post is acknowledged: the sender's counters fall (R307), or the chip that sent it has its answer (R306). -/
def State.ackSignal (s : State) (m job die : Nat) : State :=
  match s.fab.served.find? (fun v => v.msg = m) with
  | some v => (s.dropMsg m).answerPeer v 0 []
  | none => (s.dropMsg m).tcDec die job

/-- CARD_SIGNAL_AT_HOME (R293). -/
def execCardSignalAtHome (m : Nat) (s : State) : Out :=
  match s.msg? m with
  | some msg =>
    (match msg.body with
    | .signal card err src job die =>
      if s.eligible msg then s.unitWrite ((s.signalCard card err src die).ackSignal m job die) (s.agentOf msg) "CARD_SIGNAL_AT_HOME"
      else .fault (.notEnabled "CARD_SIGNAL_AT_HOME")
    | _ => .fault (.notEnabled "CARD_SIGNAL_AT_HOME"))
  | none => .fault (.notEnabled "CARD_SIGNAL_AT_HOME")

/-- A post at the card's home (R293). -/
def State.postAtHome (s : State) (card : Word) (core : Nat) (src : Option SigSrc) (die : Nat) : State :=
  match s.cardKey ((src.map (·.user)).getD false) card with
  | .error c => s.postCard (cardDie die card) .cardFormat src card c.code
  | .ok key =>
    let w := s.peek key 8
    let home := cardDie die card
    if cardState w ∈ [1, 2, 3] ∨ cardCount w ≠ 0 then s.postCard home .cardState src card 0
    else if !cardCtlOk w then s.postCard home .cardFormat src card 0
    else s.makeReady key card w core src

/-- CARD_POST_AT_HOME (R293); a post to another chip is acknowledged by that chip's answer. -/
def execCardPostAtHome (m : Nat) (s : State) : Out :=
  match s.msg? m with
  | some msg =>
    (match msg.body with
    | .post card core src job die =>
      if s.eligible msg ∧ !s.isOut m then
        s.unitWrite ((s.postAtHome card core src die).ackSignal m job die) (s.agentOf msg) "CARD_POST_AT_HOME"
      else .fault (.notEnabled "CARD_POST_AT_HOME")
    | _ => .fault (.notEnabled "CARD_POST_AT_HOME"))
  | none => .fault (.notEnabled "CARD_POST_AT_HOME")

/-- The head card of a core's highest non-empty priority (R300, R301). -/
def headCard (now : Nat) : List QEntry → Option QEntry
  | [] => none
  | e :: es =>
    match headCard now es with
    | none => some e
    | some b =>
      let k (q : QEntry) : Nat × Nat := (q.effPri now, q.entered)
      if (k e).1 < (k b).1 ∨ ((k e).1 = (k b).1 ∧ (k e).2 ≤ (k b).2) then some e else some b

/-- The head card of a core leaves its queue and runs as a strand, a command or a nest (R293). -/
def State.dispatch (s : State) (core : Nat) (e : QEntry) : Option State :=
  let k := s.core core
  let rest := k.queue.takeWhile (· ≠ e) ++ (k.queue.dropWhile (· ≠ e)).drop 1
  let id := s.nextId
  let run : RunCard := ⟨id, e.card, core, e.job, false, false, s.mem⟩
  let s1 := { (s.setCore core { k with queue := rest }) with nextId := id + 1, running := s.running ++ [run] }
  match s.cardKey false e.card with
  | .error _ => some (s1.endCard id true)
  | .ok key =>
    let w := s.peek key 8
    let s2 := s1.poke key 8 (cardPut w 2 (cardCount w) false)
    let env : Word := BitVec.ofNat 64 (s.peek (key + 8) 8)
    match natBits w 0 2 with
    | 0 =>
      (match s.nestRead env [] true with
      | .error (detail, _) => some ((s2.postRecord (dieOf core) (record291 Cause.nestFormat.code 4 0 e.card env detail)).endCard id true)
      | .ok (ws, args) =>
        let regs := args ++ [(1, BitVec.ofNat 64 (s.peek (key + 16) 8)), (2, BitVec.ofNat 64 (natBit w 11))]
        s2.placeStrand core id (e.effPri s.now) (natBits (wordAt ws 1) 16 4) (.card id) ws regs 0)
    | 1 =>
      let c : Cmd := { id := s2.nextId, req := ⟨.cpy, e.pri, env, 0, 0, 0, (e.src.map (·.user)).getD true⟩, ctx := none
                       card := some id, sid := (e.src.map (·.sid)).getD 0, core := core, mdie := homeOf core
                       wins := (e.src.map (·.wins)).getD [], phase := .queued, words := [], fault := none, posted := false
                       slotFault := false, attached := false, aux := [] }
      some (({ s2 with cmds := s2.cmds ++ [c], nextId := s2.nextId + 1 }).send (.unit (dieOf core)) 15 (.cmd c.id))
    | _ =>
      let l : Launch := { id := s2.nextId, ptr := env, packet := [], card := some id, die := dieOf core, started := false, words := [], args := []
                          walks := [], placed := 0, retired := [], counted := [], err := false, signalled := false, code := [] }
      some { s2 with launches := s2.launches ++ [l], nextId := s2.nextId + 1 }

/-- The dispatch that a core can make now, and since when its card is ready (R301). -/
def State.dispatchNow (s : State) (core : Nat) : Option (Nat × QEntry × State) :=
  match headCard s.now (s.core core).queue, s.freePos core true with
  | some e, some _ => if (s.die (dieOf core)).dstate ≠ 0 then none else (s.dispatch core e).map (fun t => (e.entered, e, t))
  | _, _ => none

/-- The placement that the cox of a die can make now for a launch (R283): since when it is due, its core, and what it makes. -/
def State.placeNow (s : State) (die : Nat) (l : Launch) : Option (Nat × Nat × State) :=
  match l.walks.find? (fun w => w.1 = die) with
  | none => none
  | some (_, at_, since) =>
    match nextIter l.words l.retired die (iterations l.words - at_) at_ with
    | none => none
    | some n =>
      let ctl := wordAt l.words 1
      let seed : Word := BitVec.ofNat 64 ((n + 1) * 0x9E3779B97F4A7C15)
      let core := iterCore l.words n
      if !l.started ∨ (s.die die).dstate ≠ 0 then none
      else
        (s.placeStrand core l.id (natBits ctl 8 2) (natBits ctl 16 4) (.nest l.id n) l.words (iterRegs l.words l.args n) seed).map (fun t =>
          (since, core, t.setLaunch { l with walks := l.walks.map (fun w => if w.1 = die then (die, n + 1, s.now) else w), placed := l.placed + 1 }))

/-- Another placement on a core became ready before a time and can be made now (R301). -/
def State.placedBefore (s : State) (core since : Nat) : Bool :=
  s.launches.any (fun l => l.walks.any (fun w => match s.placeNow w.1 l with
    | some (t, c, _) => c = core && decide (t < since)
    | none => false))

/-- COX_PLACE (R283, R301): the cox of a die places the next iteration of its die, when no placement and no card of that core became
ready before it. -/
def execCoxPlace (die launch : Nat) (s : State) : Out :=
  let no : Out := .fault (.notEnabled "COX_PLACE")
  match (s.launch? launch).bind (s.placeNow die) with
  | none => no
  | some (since, core, t) =>
    if s.placedBefore core since || (s.dispatchNow core).any (fun d => decide (d.1 < since)) then no else .next t

/-- CARD_DISPATCH (R293, R301): the head card of a core with a free position is dispatched, when no placement on the core became ready
before it; a bank freed for a card is kept no longer once the card has left, or another has taken it (R303). -/
def execCardDispatch (core : Nat) (s : State) : Out :=
  let no : Out := .fault (.notEnabled "CARD_DISPATCH")
  match s.dispatchNow core with
  | none => no
  | some (since, e, t) =>
    if s.placedBefore core since then no
    else
      let k := t.core core
      let taken (q : Nat × Word) : Bool := q.2 = e.card || t.ctxs.any (fun x => x.core = core && x.slot = q.1 && x.place = .bank && x.fresh)
      s.unitWrite (t.setCore core { k with kept := k.kept.filter (fun q => !taken q) }) (.unit (dieOf core)) "CARD_DISPATCH"

/-- CARD_COMPLETE (R294): STATE and ERR are written, SUCC is signalled, and after the signal the cairn is written; the opens of the
card's launch are closed (R318), and its job counts it until the cairn is written (R307). -/
def execCardComplete (card : Nat) (s : State) : Out :=
  match s.running.find? (fun r => r.id = card) with
  | none => .fault (.notEnabled "CARD_COMPLETE")
  | some r =>
    if !r.ended then .fault (.notEnabled "CARD_COMPLETE")
    else
      let d := dieOf r.core
      let s1 := ({ s with running := s.running.filter (fun q => q.id ≠ card) }).closeOpens card
      s.unitWrite (match s1.cardKey false r.card with
        | .error _ => s1.qcDec d r.job
        | .ok key =>
          let w := s1.peek key 8
          let err := r.err || natBit w 11 = 1
          let s2 := s1.poke key 8 (cardPut w 3 (cardCount w) err)
          let succ : Word := BitVec.ofNat 64 (s2.peek (key + 24) 8)
          let s3 := if succ = 0 then s2 else s2.sendSignal d none succ err
          s3.cairn d (BitVec.ofNat 64 (s3.peek (key + 32) 8)) (BitVec.ofNat 64 (s3.peek (key + 40) 8)) err
            ⟨r.card, 0, if succ = 0 then none else some s2.nextId, none, r.job⟩) (.unit d) "CARD_COMPLETE"

/-! ### Futures at their homes -/

/-- The home die of a future (R262). -/
def futHome (p : Word) : Nat := match globalOwner p with | some (j, _) => j | none => 8 + natBits p.toNat 12 2

/-- fut_wait at the home (R298): the state and the old state word. -/
def State.futWaitAt (s : State) (src : SigSrc) (fut cq : Word) (key : Nat) : State × Nat :=
  let w := s.peek key 8
  let refuse : State := s.postCard (futHome fut) .futureFormat (some src) fut 0
  if 2 ≤ futSt w then (s.sendSignal src.die none (quarterCard cq) (futSt w = 3), w)
  else if futCnt w = 16383 ∨ (futSt w = 0 ∧ futHead w ≠ 0) then (refuse, w)
  else
    match s.cardKey src.user (quarterCard cq) with
    | .error c => (s.postCard (cardDie src.die cq) .cardFormat (some src) (quarterCard cq) c.code, w)
    | .ok ck =>
      if natBit (s.peek (ck + quarterLink cq) 8) 63 = 1 then (refuse, w)
      else
        let s1 := s.poke (ck + quarterLink cq) 8 (2 ^ 63 + futHead w)
        (s1.poke key 8 (2 ^ 62 + (futCnt w + 1) * 2 ^ 48 + natBits cq.toNat 4 48), w)

/-- A future operation answered: a poisoned word is a response error (R394). -/
def State.futAnswer (s : State) (msg : Msg) (p : Place) (act : State → State × Nat) : State :=
  if s.fenced p then s.answerFor msg (.err .remoteFailed 0xA0)
  else if s.isPoisoned p.key 16 then s.answerFor msg (.err .dataPoison 0)
  else
    let (t, w) := act s
    t.answerFor msg (.val (some (BitVec.ofNat 64 w)))

/-- A future operation at its home, in the order of its sector's queue (R276): this chip's, or a peer that is asked once (R298, R408). -/
def State.futAt (s : State) (name : String) (msg : Msg) (p : Place) (pay : Word → Pay) (act : State → State × Nat) : Out :=
  let no : Out := .fault (.notEnabled name)
  if !s.eligible msg || s.isOut msg.id || (p.peer.isNone && s.sectorBusy msg.id p.key 16) then no
  else
    match p.peer with
    | none => s.unitWrite (s.futAnswer msg p act) (s.agentOf msg) name
    | some chip =>
      match s.askPeer msg chip (pay (peerPtr p)) (fun t => t.answer msg (.err .remoteFailed 0xB3)) with
      | some t => .next t
      | none => no

/-- FUT_WAIT_AT_HOME (R298). -/
def execFutWaitAtHome (m : Nat) (s : State) : Out :=
  match s.msg? m with
  | some msg =>
    (match msg.body with
    | .op (.futWait f cq p) src =>
      s.futAt "FUT_WAIT_AT_HOME" msg p (fun a => .futWait m a cq src.user) (fun t => t.futWaitAt src f cq p.key)
    | _ => .fault (.notEnabled "FUT_WAIT_AT_HOME"))
  | none => .fault (.notEnabled "FUT_WAIT_AT_HOME")

/-- A strand's double resolve is charged to the pitch it enters next (R299). -/
def State.chargeDouble (s : State) (c : Src) (fut : Word) (w : Nat) : State :=
  match c with
  | .ctx id =>
    (match s.ctx? id with
    | some x => s.setCtx { x with charged := x.charged ++ [⟨.futureDoubleResolve, fut, natBits w 32 32, none, none, false⟩] }
    | none => s)
  | _ => s

/-- FUT_SET_AT_HOME (R298, R299); the second resolution that a peer's strand makes is reported and charged there. -/
def execFutSetAtHome (m : Nat) (s : State) : Out :=
  match s.msg? m with
  | some msg =>
    (match msg.body with
    | .op (.futSet f v fail p) src =>
      s.futAt "FUT_SET_AT_HOME" msg p (fun a => .futSet m a v fail src.user) (fun t =>
        let (t1, w, dbl) := t.futSetAt src.die (some src) p.key v fail
        (if dbl && !s.fab.served.any (fun v => v.msg = m) then (t1.postCard src.die .futureDoubleResolve (some src) f w).chargeDouble msg.src f w else t1, w))
    | _ => .fault (.notEnabled "FUT_SET_AT_HOME"))
  | none => .fault (.notEnabled "FUT_SET_AT_HOME")

/-! ### Remote posts and jobs -/

/-- The requests of its strand that a post is ordered after have performed (R296). -/
def State.proxyReady (s : State) (p : ProxyPost) : Bool :=
  s.net.all (fun m => m.src ≠ Src.ctx p.ctx || decide (p.upto ≤ m.id) || m.resp.isSome)

/-- A batch of posts leaves for another chip in one flit (R306): each waits for the answer. Where no port reaches the chip they are
lost. -/
def State.postBatch (s : State) (die chip : Nat) (ps : List ProxyPost) : State :=
  let id := s.nextId
  match s.fabRoute chip with
  | none => ps.foldl (fun (t : State) p => t.tcDec die p.job) (s.fabRecord none 0 .fabNoroute chip)
  | some _ =>
    let s1 := ps.foldl (fun (t : State) p => t.send (.unit die) 15 (.post p.card p.queue none p.job die)) s
    let s2 := s1.fabSend chip 0 .req (.posts id (ps.map (fun p => (stripedPtr (offsetOf p.card), p.queue, p.job))))
    { s2 with fab := { s2.fab with out := s2.fab.out ++ (List.range ps.length).map (fun i => ⟨id + i, chip, id⟩) } }

/-- Lists of at most 14. -/
def inBatches {α : Type} : Nat → List α → List (List α)
  | 0, _ => []
  | _ + 1, [] => []
  | fuel + 1, l => l.take 14 :: inBatches fuel (l.drop 14)

/-- Send the first posts of a proxy queue to a chip, at most `n` (R306): at the destination each acts as card.post. -/
def State.proxySend (s : State) (die chip n : Nat) : State :=
  let d := s.schedOf die
  let all := ((d.proxy.filter (fun p => p.chip = chip)).takeWhile s.proxyReady).take n
  let s1 := s.setSched die { d with proxy := d.proxy.filter (fun p => !all.contains p) }
  if chip = s.chip then
    all.foldl (fun (t : State) p => t.send (.unit die) 15 (.post (stripedPtr (offsetOf p.card)) p.queue none p.job die)) s1
  else (inBatches all.length all).foldl (fun (t : State) ps => t.postBatch die chip ps) s1

/-- PROXY_BATCH_SEND (R306): 14 posts are held, or the oldest has waited 2,000 ticks. -/
def execProxyBatchSend (die chip : Nat) (s : State) : Out :=
  let mine := (s.schedOf die).proxy.filter (fun p => p.chip = chip)
  if (14 ≤ mine.length ∨ mine.any (fun p => p.at_ + 2000 ≤ s.now)) ∧ (s.fabRoute chip).all (fun l => !l.2.full 0) then .next (s.proxySend die chip 14)
  else .fault (.notEnabled "PROXY_BATCH_SEND")

/-- QC + TC of a job over the C-dies (R307). -/
def State.jobSum (s : State) (j : Nat) : Nat :=
  ((List.range 8).map (fun d => let c := (s.schedOf d).job j; c.qc + c.tc)).foldl (· + ·) 0

/-- JOBDONE (R308): the release store of JSEQ to the job's cairn, or the record of one that cannot be written (R428). -/
def State.jobDone (s : State) (job : Nat) (cairn seq : Word) : State :=
  let d := job % 8
  let w : DoneWork := ⟨0, 0, none, none, 0⟩
  match s.donePlace (cpWindows cairn) false false cairn with
  | .ok a => s.send (.unit d) 15 (.done a cairn false seq false w)
  | .error c => s.doneFail d cairn w c 0

/-- JOB_FLUSH_ROUND (R308): the proxy queues are sent, every die reports, and after two rounds of zeros with unchanged INC the
job's cairn is written once. What the other chips of the group report is free. -/
def execJobFlushRound (job : Nat) (s : State) : Out :=
  match s.jcairns.find? (fun t => t.1 = job) with
  | none => .fault (.notEnabled "JOB_FLUSH_ROUND")
  | some (_, cairn, seq) =>
    let last := (s.rounds.find? (fun r => r.1 = job)).map (·.2)
    let due := match last with | none => true | some r => !r.made && decide (r.at_ + 100000 ≤ s.now)
    if cairn = 0 ∨ s.jobSum job ≠ 0 ∨ !due then .fault (.notEnabled "JOB_FLUSH_ROUND")
    else
      let s1 := (List.range 8).foldl (fun t d =>
        ((t.schedOf d).proxy.map (·.chip)).foldl (fun u c => u.proxySend d c ((u.schedOf d).proxy.length)) t) s
      let zero := s1.jobSum job = 0 ∧ Config.freeBool s.free
      let incs := (List.range 8).map (fun d => ((s1.schedOf d).job job).inc)
      let same := zero ∧ (last.bind (·.incs)) = some incs ∧ Config.freeBool (s.free + 1)
      let s2 := { s1 with free := s1.free + 2
                          rounds := (job, ⟨s.now, if zero then some incs else none, decide same⟩) :: s1.rounds.filter (fun r => r.1 ≠ job) }
      .next (if same then s2.jobDone job cairn seq else s2)

end Sys2Proof.Machine
end

