-- ==== Sys2Proof/Machine/Regs.lean ====
section
/-!
DEFINITION. Sys2Proof/Machine/Regs.lean: device-register space (R375): which register an offset names, what a read gives and what a
write does (R4, R188, R235, R308, R350, R376, R380 to R388, R415), with the loss of a die's contexts (R377, R378).
-/

namespace Sys2Proof.Machine

/-! ### The map -/

/-- The registers of the map (R375): of a die `d`, a cluster or core of the chip `n`, an M-die `j`, or the X-die. -/
inductive DevReg where
  | fqbase (d : Nat) | fqctl (d : Nat) | fqhead (d : Nat) | fqtail (d : Nat) | fqovf (d : Nat) | dstate (d : Nat) | drst (d : Nat)
  | clid (n : Nat) | rtlfsr (n : Nat) | rtstat (n : Nat) | rtsel (n : Nat) | rtdata (n : Nat) | mcgrp (n i : Nat)
  | cid (n : Nat) | cctl (n : Nat) | slotst (n : Nat) | meuse (n : Nat) | mxcfg (n : Nat) | mxslot (n : Nat) | mxpend (n : Nat)
  | mxpos (n : Nat) | cerr (n : Nat)
  | hepoch (j : Nat) | hfwd (j : Nat) | hreloc (j : Nat) | tlbsel (j : Nat) | tlbva (j : Nat) | tlbpa (j : Nat) | tlbcmd (j : Nat)
  | lqbase (q : Nat) | lqctl (q : Nat) | lqtail (q : Nat) | lqhead (q : Nat) | msitrig
  | featcap (i : Nat) | featen (i : Nat) | featneg (i : Nat) | featctl | jcairn (j : Nat) | jseq (j : Nat) | island (i : Nat) | bar2map
  | mailbox | fabctl | plight (p : Nat) | link (l k : Nat)
  | none
  deriving DecidableEq, Repr

/-- The registers that every die has (R376). -/
def dieReg (d : Nat) : Nat → DevReg
  | 0x00 => .fqbase d
  | 0x08 => .fqctl d
  | 0x10 => .fqhead d
  | 0x18 => .fqtail d
  | 0x20 => .fqovf d
  | 0x28 => .dstate d
  | 0x30 => if d < 8 then .drst d else .none
  | _ => .none

/-- A cluster's registers (R235). -/
def clusterReg (n r : Nat) : DevReg :=
  match r with
  | 0x00 => .clid n
  | 0x08 => .rtlfsr n
  | 0x10 => .rtstat n
  | 0x18 => .rtsel n
  | 0x20 => .rtdata n
  | r => if 0x40 ≤ r ∧ r < 0xC0 then .mcgrp n ((r - 0x40) / 8) else .none

/-- A core's registers (R188). -/
def coreReg (n : Nat) : Nat → DevReg
  | 0x00 => .cid n
  | 0x08 => .cctl n
  | 0x10 => .slotst n
  | 0x18 => .meuse n
  | 0x20 => .mxcfg n
  | 0x28 => .mxslot n
  | 0x30 => .mxpend n
  | 0x38 => .mxpos n
  | 0x40 => .cerr n
  | _ => .none

/-- The registers of an M-die beside those every die has (R350, R383). -/
def mdieReg (j : Nat) : Nat → DevReg
  | 0x1000 => .hepoch j
  | 0x1008 => .hfwd j
  | 0x1010 => .hreloc j
  | 0x2000 => .tlbsel j
  | 0x2008 => .tlbva j
  | 0x2010 => .tlbpa j
  | 0x2018 => .tlbcmd j
  | _ => .none

/-- The registers of the X-die beside those every die has (R375, R415). -/
def xdieReg (r : Nat) : DevReg :=
  if r < 0x1800 then
    (match r % 32 with | 0 => .lqbase ((r - 0x1000) / 32) | 8 => .lqctl ((r - 0x1000) / 32) | 16 => .lqtail ((r - 0x1000) / 32) | _ => .lqhead ((r - 0x1000) / 32))
  else if r = 0x1800 then .msitrig
  else if 0x2000 ≤ r ∧ r < 0x2020 then .featcap ((r - 0x2000) / 8)
  else if 0x2020 ≤ r ∧ r < 0x2040 then .featen ((r - 0x2020) / 8)
  else if 0x2040 ≤ r ∧ r < 0x2060 then .featneg ((r - 0x2040) / 8)
  else if r = 0x2060 then .featctl
  else if 0x3010 ≤ r ∧ r < 0x4000 then (if r % 16 = 0 then .jcairn ((r - 0x3000) / 16) else .jseq ((r - 0x3000) / 16))
  else if 0x4000 ≤ r ∧ r < 0x4400 then .island ((r - 0x4000) / 8)
  else if r = 0x5000 then .fabctl
  else if r = 0x6000 then .bar2map
  else if 0x8000 ≤ r ∧ r < 0x9000 then .mailbox
  else if 0x10000 ≤ r ∧ r < 0x10400 then (if r % 64 = 0 then .plight ((r - 0x10000) / 64) else .none)
  else if 0x14000 ≤ r ∧ r < 0x15000 then .link ((r - 0x14000) / 128) (r % 128 / 8)
  else .none

/-- The register at an offset (R375). -/
def devReg (off : Nat) : DevReg :=
  let d := off / 0x400000
  let r := off % 0x400000
  if off % 8 ≠ 0 ∨ 12 < d then .none
  else if r < 0x1000 then dieReg d r
  else if d < 8 then
    (if 0x8000 ≤ r ∧ r < 0x8400 then clusterReg (4 * d + (r - 0x8000) / 256) (r % 256)
    else if 0x10000 ≤ r ∧ r < 0x14000 then coreReg (64 * d + (r - 0x10000) / 256) (r % 256)
    else .none)
  else if d < 12 then mdieReg d r
  else xdieReg r

/-- The register still answers when no firmware runs (R393). -/
def DevReg.early : DevReg → Bool
  | .fqbase _ | .fqctl _ | .fqhead _ | .fqtail _ | .fqovf _ | .dstate _ | .drst _ | .mailbox => true
  | _ => false

/-! ### Reads -/

/-- A launch queue. -/
def State.lq (s : State) (q : Nat) : LaunchQ := ((s.xdie.lqs.find? (fun t => t.1 = q)).map (·.2)).getD LaunchQ.reset

/-- Replace a launch queue. -/
def State.setLq (s : State) (q : Nat) (x : LaunchQ) : State :=
  { s with xdie := { s.xdie with lqs := (q, x) :: s.xdie.lqs.filter (fun t => t.1 ≠ q) } }

/-- Replace an island's clock. -/
def State.setIsland (s : State) (i : Nat) (v : Island) : State :=
  { s with xdie := { s.xdie with islands := (i, v) :: s.xdie.islands.filter (fun t => t.1 ≠ i) } }

/-- The registers of a link block (R415). -/
def State.linkReg (s : State) (k : LinkSt) (i : Nat) : Nat :=
  let b (c : Bool) (n : Nat) : Nat := if c then 2 ^ n else 0
  match i with
  | 0 => b k.up 24 + k.pinc.getD 0 % 256 * 2 ^ 16 + k.peer % 4096
  | 1 => k.rxnext * 2 ^ 32 + k.acked * 2 ^ 16 + k.txnext
  | 2 => k.kcnt / 2 ^ 32 * 2 ^ 32 + b (k.roll != .idle) 3 + b k.rxprev 2 + b k.rxep 1 + b k.txep 0
  | 3 => s.lwork k
  | 4 => k.ltx
  | 5 => k.lrx
  | 6 => k.lreplay
  | 7 => k.lcrc
  | 8 => k.lauth
  | 9 => k.lstale
  | _ => 0

/-- What an active slot of a core shows in SLOTST (R188); where several fit, the first of retiring, barrier, waitc, waitv, matrix or
partner, trap handler. -/
def State.slotShow (s : State) (core k : Nat) : Nat :=
  match s.ctxs.find? (fun x => x.core = core && x.slot = k && x.place = .active) with
  | none => 0
  | some x =>
    if x.retiring.isSome then 5
    else if x.waits.any (fun w => match w with | .barrier .. => true | _ => false) then 7
    else if x.waits.any (fun w => match w with | .counts .. => true | _ => false) then 2
    else
      match x.cur with
      | some ex =>
        if ex.loads.any (fun l => match l.kind with | .watch .. => true | _ => false) then 3
        else if ex.mx.seq.isSome then 4
        else if x.intrap then 6 else 1
      | none => if x.intrap then 6 else 1

/-- The colour bits, the advance flag and the counters of a relocation engine (R350). -/
def State.relocQueued (s : State) (j : Nat) : Nat :=
  (s.cmds.filter (fun c => c.mdie = j && c.req.kind = .hpRelocate && c.phase = .running && c.aux.isEmpty)).length

/-- A read of a register: WO registers, reserved fields and unlisted offsets read as zero (R4, R375). The reserved fields of TLBVA and
TLBPA are held all the same, since a WRITE of an entry is refused for them (R382, R383). -/
def State.devGet (s : State) (off : Nat) : Nat :=
  let b (c : Bool) (n : Nat) : Nat := if c then 2 ^ n else 0
  let reg := devReg off
  if !s.xdie.firmware && !reg.early then 0 else
  match reg with
  | .fqbase d => (s.die d).fqbase.toNat
  | .fqctl d => (s.die d).logn
  | .fqhead d => (s.die d).head
  | .fqtail d => (s.die d).tail
  | .fqovf d => (s.die d).lost
  | .dstate d => (s.die d).dstate
  | .drst _ => 0
  | .clid n => n % 32
  | .rtlfsr n => (s.cluster n).lfsr.toNat
  | .rtstat n =>
    let k := s.cluster n
    let st (i : Nat) : Nat := match (k.set i).state with | .idle => 0 | .open_ => 1 | .draining => 2
    ((List.range 4).map (fun i => st i * 2 ^ (32 + 2 * i))).foldl (· + ·) 0 + b k.povf 25 + k.poison.length * 2 ^ 16 + k.recs.length
  | .rtsel n => (s.cluster n).sel
  | .rtdata n => (s.cluster n).statItem (s.cluster n).sel
  | .mcgrp n i => (((s.cluster n).mcgrp.find? (fun t => t.1 = i)).map (·.2)).getD 0xFFFF
  | .cid n => n
  | .cctl _ => 0
  | .slotst n => ((List.range 8).map (fun k => s.slotShow n k * 16 ^ k)).foldl (· + ·) 0
  | .meuse n => min 0x7FF (s.missUse n) + max (s.core n).peak (s.missUse n) % 4096 * 2 ^ 16
  | .mxcfg n => b (s.core n).pendStrict 0
  | .mxslot n => (s.slotTable n).1.toNat
  | .mxpend n => (s.core n).pendSlot.toNat
  | .mxpos n => s.rotation n
  | .cerr n => (s.core n).corr + b (s.core n).unc 16
  | .hepoch j => (s.heap j).epoch % 4 + b (s.heap j).trans 2
  | .hfwd j => 0x10000 * 2 ^ 32 + (s.heap j).fwd.length
  | .hreloc j => (s.heap j).done * 2 ^ 32 + min 255 (s.relocQueued j)
  | .tlbsel j => (s.tlb j).sel
  | .tlbva j => (s.tlb j).va.toNat &&& 0x00FFFFFFFFFFF0E7
  | .tlbpa j => (s.tlb j).pa.toNat &&& 0x0000001FFFFFF0FC
  | .tlbcmd j => b (s.tlb j).busy.isSome 63 + b (s.tlb j).err 62
  | .lqbase q => (s.lq q).base.toNat
  | .lqctl q => (s.lq q).logn + b (s.lq q).en 5 + b (s.lq q).irq 6
  | .lqtail q => (s.lq q).tail
  | .lqhead q => (s.lq q).head
  | .msitrig => 0
  | .featcap i => if i = 0 then 0x3F else 0
  | .featen i => (s.xdie.featEn.toList.getD i 0).toNat
  | .featneg i => (s.xdie.featNeg.toList.getD i 0).toNat
  | .featctl => b s.xdie.featDone 1
  | .jcairn j => (((s.jcairns.find? (fun (t : Nat × Word × Word) => t.1 = j)).map (fun (t : Nat × Word × Word) => t.2.1)).getD 0).toNat
  | .jseq j => (((s.jcairns.find? (fun (t : Nat × Word × Word) => t.1 = j)).map (fun (t : Nat × Word × Word) => t.2.2)).getD 0).toNat
  | .island i => (s.island i).mul + (s.island i).max * 2 ^ 8
  | .bar2map => s.xdie.bar2.toNat
  | .mailbox => (Config.freeWord s.free).toNat
  | .fabctl => s.chip + s.fab.inc * 2 ^ 12 + b s.fab.en 32
  | .plight p =>
    let lit := match s.fab.paired.find? (fun t => t.1 = p) with
      | some (_, c) => (match s.fab.links.find? (fun t => t.2.peer = c) with | some (_, k) => workOf k.rxw p | none => 0)
      | none => 0
    lit + ((s.fab.lasers.filter (fun g => g / 4 = p)).map (fun g => 2 ^ (16 + 4 * (g % 4)))).foldl (· + ·) 0
  | .link l k => (match s.link? l with | some x => s.linkReg x k | none => 0)
  | .none => 0

/-! ### A die's contexts are lost -/

/-- A core after the reset of its die: its counts start afresh, and the cards that wait in its queue stay (R377). -/
def State.coreAfresh (s : State) (n : Nat) : CoreSt :=
  { CoreSt.reset with resetAt := s.matrixAc n, quantumAt := s.now + 100000, queue := (s.core n).queue }

/-- The contexts of a die are lost (R377, R378): its requests that no home has accepted are dropped, and its counts of them fall (R307);
those that wait at a home or for a peer chip perform without an answer, its commands run on without their slots, and its cores and clusters start afresh, but for the cards that
wait in their queues. -/
def State.loseContexts (s : State) (d : Nat) : State :=
  let mine (c : Nat) : Bool := s.ctxs.any (fun x => x.id = c && dieOf x.core = d)
  let waiting (m : Nat) : Bool := s.heaps.any (fun h => h.2.fwd.any (fun f => f.waiting.contains m)) || s.fab.invals.any (fun i => i.msg = m) || s.isOut m
  let keep (m : Msg) : Option Msg := match m.src with
    | .ctx c =>
      if !mine c then some m
      else if waiting m.id || (match m.body with | .cmd _ => true | _ => false) then some { m with src := .unit d }
      else none
    | _ => some m
  let lost (t : State) (m : Msg) : State := match m.body with
    | .signal _ _ _ job die | .post _ _ _ job die => t.tcDec die job
    | _ => t
  { (s.net.filter (fun m => (keep m).isNone)).foldl lost s with
    ctxs := s.ctxs.filter (fun x => dieOf x.core ≠ d)
    net := s.net.filterMap keep
    cmds := s.cmds.map (fun c => match c.ctx with | some x => if mine x then { c with ctx := none, attached := false } else c | none => c)
    pairs := s.pairs.filter (fun p => p.id / 512 ≠ d)
    cores := (if d < 8 then (List.range 64).map (fun i => (64 * d + i, s.coreAfresh (64 * d + i))) else []) ++ s.cores.filter (fun k => dieOf k.1 ≠ d)
    clusters := s.clusters.filter (fun k => k.1 / 4 ≠ d) }

/-- A C-die is reset (R377): it is RESET until it recovers. `cause` is DETAIL of CDIE_RESET. -/
def State.dieReset (s : State) (d cause : Nat) : State :=
  if 8 ≤ d ∨ (s.die d).dstate ≠ 0 then s
  else (s.loseContexts d).setDie d { s.die d with dstate := 1, resetAt := s.now, cause := cause }

/-- A record of the package (R376, R332): UNIT is the die and its unit. SLOT, SID, CMD and a DETAIL that is not given are free. -/
def State.packageRecord (s : State) (queue die unit : Nat) (c : Cause) (addr : Word) (detail : Option Nat) : State :=
  { s with free := s.free + 3 }.postRecord queue (record225 c.code (16 * die + unit) (Config.freeNat s.free) (Config.freeNat (s.free + 1))
    (Config.freeWord s.free) addr (detail.getD (Config.freeNat (s.free + 2))))

/-! ### The slot table -/

/-- The pending slot table of a core takes effect, when the rotation has passed from 1023 to 0 since it was written (R187): a matrix
instruction that waits for a grant, and whose slot the new table grants nothing, raises MX_SLOT_NONE. -/
def State.switchTable (s : State) (core : Nat) : State :=
  if !s.tableDue core then s
  else
    let k := s.core core
    let k1 := { k with mxslot := k.pendSlot, strict := k.pendStrict, pendAt := none }
    let s1 := s.setCore core k1
    (s1.ctxs.filter (fun x => x.core = core && s1.waitsGrant x && k1.strict && !tableGrants k1.mxslot x.slot)).foldl (fun (u : State) x =>
      (u.pairRaise x.id .mxSlotNone).pairDrop x.id Cause.mxSlotNone.code) s1

/-- The pending slot table of a core is written, once one that is due has taken effect (R187). -/
def State.pendTable (s : State) (n : Nat) (f : CoreSt → CoreSt) : State :=
  let t := s.switchTable n
  t.setCore n { f (t.core n) with pendAt := some (t.matrixAc n) }

/-! ### Writes -/

/-- A TLB WRITE is refused (R383). -/
def tlbRefused (va pa : Word) : Bool :=
  let v := va.toNat
  let p := pa.toNat
  let size := natBits v 0 3
  let stripe := natBit v 5 = 1
  let log := pageLog size
  let occ := if stripe then 2 ^ (log - 2) else 2 ^ log
  let pfn := natBits p 12 25 * 4096
  natBits v 56 8 ≠ 0 || natBits v 8 4 ≠ 0 || natBits v 3 2 ≠ 0 || natBits p 37 27 ≠ 0 || natBits p 8 4 ≠ 0 || natBits p 0 2 ≠ 0
    || decide (4 < size) || natBits v 12 44 * 4096 % 2 ^ log ≠ 0 || (stripe && size = 0) || pfn % occ ≠ 0
    || decide (128000000000 < pfn + occ)

/-- An entry of the TLB by its number. -/
def Tlb.entry (t : Tlb) (i : Nat) : Word × Word := ((t.entries.find? (fun e => e.1 = i)).map (·.2)).getD (0, 0)

/-- TLBCMD.WRITE (R383, R384). -/
def Tlb.write (t : Tlb) : Tlb :=
  if tlbRefused t.va t.pa then { t with err := true }
  else
    let was := natBit (t.entry t.sel).1.toNat 7 = 1
    { t with entries := (t.sel, t.va, t.pa) :: t.entries.filter (fun e => e.1 ≠ t.sel), err := false, stamp := t.stamp + 1
             busy := if was then some ⟨some t.sel, t.stamp⟩ else none }

/-- TLBCMD.READ (R383). -/
def Tlb.read (t : Tlb) : Tlb := { t with va := (t.entry t.sel).1, pa := (t.entry t.sel).2 }

/-- TLBCMD.INVAL (R383, R384). -/
def Tlb.inval (t : Tlb) (all : Bool) : Tlb :=
  let clear (e : Nat × Word × Word) : Nat × Word × Word := if all || e.1 = t.sel then (e.1, e.2.1 &&& ~~~(128 : Word), e.2.2) else e
  { t with entries := t.entries.map clear, err := false, stamp := t.stamp + 1, busy := some ⟨if all then none else some t.sel, t.stamp⟩ }

/-- A write to a translation block; while BUSY it is ignored (R383). -/
def State.tlbPut (s : State) (j : Nat) (f : Tlb → Tlb) : State := if (s.tlb j).busy.isSome then s else s.setTlb j (f (s.tlb j))

/-- TLBCMD (R383). -/
def Tlb.command (v : Nat) (t : Tlb) : Tlb :=
  match natBits v 0 2 with
  | 1 => t.write
  | 2 => t.read
  | 3 => t.inval (natBit v 2 = 1)
  | _ => t

/-- The doorbell of a launch queue (R380, R381, R393). -/
def State.doorbell (s : State) (q v : Nat) : State :=
  let x := s.lq q
  if !s.xdie.featDone || !s.xdie.firmware then s
  else if 2 ^ x.logn < (v + 2 ^ 64 - x.head) % 2 ^ 64 then s.packageRecord 12 12 0 .launchFormat 0 none
  else s.setLq q { x with tail := v }

/-- A write to a link block: the counters are W1C (R415). -/
def LinkSt.write (k : LinkSt) (i v : Nat) : LinkSt :=
  let clear (old : Nat) : Nat := natBits old 0 64 - (natBits old 0 64 &&& v)
  match i with
  | 4 => { k with ltx := clear k.ltx }
  | 5 => { k with lrx := clear k.lrx }
  | 6 => { k with lreplay := clear k.lreplay }
  | 7 => { k with lcrc := clear k.lcrc }
  | 8 => { k with lauth := clear k.lauth }
  | 9 => { k with lstale := clear k.lstale }
  | _ => k

/-- BAR2MAP takes a global pointer whose OFFSET is a multiple of the BAR2 size (R386). -/
def bar2Ok (size : Nat) (v : Word) : Bool := spaceOf v = 0 && (globalOwner v).isSome && offsetOf v % size = 0

/-- Change a job's cairn registers (R308). -/
def State.setJob (s : State) (j : Nat) (f : Word × Word → Word × Word) : State :=
  let old := ((s.jcairns.find? (fun t => t.1 = j)).map (·.2)).getD (0, 0)
  { s with jcairns := (j, f old) :: s.jcairns.filter (fun t => t.1 ≠ j) }

/-- The pending slot table takes a write (R186, R187). -/
def tableStored (v : Word) : Word := BitVec.ofNat 64 (((List.range 16).map (fun p => slotEntry v p * 16 ^ p)).foldl (· + ·) 0)

/-- A write of a register: reserved and read-only fields keep their values (R4), and a register with behaviour of its own acts. -/
def State.devPut (s : State) (off : Nat) (w : Word) : State :=
  let v := w.toNat
  let w1c (old lo len : Nat) : Nat := old - (old &&& natBits v lo len)
  let reg := devReg off
  if !s.xdie.firmware && !reg.early then s else
  match reg with
  | .fqbase d => s.setDie d { s.die d with fqbase := w }
  | .fqctl d => s.setDie d { s.die d with logn := min 16 (v % 32) }
  | .fqhead d => s.setDie d { s.die d with head := v % 2 ^ 16 }
  | .fqovf d => s.setDie d { s.die d with lost := w1c (s.die d).lost 0 32 }
  | .drst d => if v % 2 = 1 then s.dieReset d 0 else s
  | .rtlfsr n => s.rtSeed n (v % 2 ^ 32)
  | .rtstat n => if natBit v 25 = 1 then s.setCluster n { s.cluster n with povf := false } else s
  | .rtsel n => s.setCluster n { s.cluster n with sel := v % 256 }
  | .mcgrp n i =>
    let k := s.cluster n
    s.setCluster n { k with mcgrp := (i, v % 2 ^ 16) :: k.mcgrp.filter (fun t => t.1 ≠ i) }
  | .cctl n => if v % 2 = 1 then s.setCore n { s.core n with cache := [] } else s
  | .meuse n => if natBits v 16 12 ≠ 0 then s.setCore n { s.core n with peak := s.missUse n } else s
  | .mxcfg n => s.pendTable n (fun k => { k with pendStrict := v % 2 = 1 })
  | .mxslot n => s.pendTable n (fun k => { k with pendSlot := tableStored w })
  | .cerr n => s.setCore n { s.core n with corr := w1c (s.core n).corr 0 16, unc := (s.core n).unc && natBit v 16 = 0 }
  | .hreloc j => s.setHeap j { s.heap j with done := w1c (s.heap j).done 32 32 }
  | .tlbsel j => s.tlbPut j (fun t => { t with sel := v % 2 ^ 14 })
  | .tlbva j => s.tlbPut j (fun t => { t with va := w })
  | .tlbpa j => s.tlbPut j (fun t => { t with pa := w })
  | .tlbcmd j => s.tlbPut j (Tlb.command v)
  | .lqbase q => s.setLq q { s.lq q with base := w }
  | .lqctl q => s.setLq q { s.lq q with logn := v % 32, en := natBit v 5 = 1, irq := natBit v 6 = 1 }
  | .lqtail q => s.doorbell q v
  | .msitrig => if 128 ≤ v ∧ v < 2048 then { s with msix := s.msix ++ [v] } else s
  | .featen i => if h : i < 4 then { s with xdie := { s.xdie with featEn := s.xdie.featEn.set i w } } else s
  | .featctl =>
    if v % 2 = 1 ∧ !s.xdie.featDone then
      { s with xdie := { s.xdie with
          featNeg := Vector.ofFn (fun i => (if i.val = 0 then 0x3F else 0) &&& s.xdie.featEn.toList.getD i.val 0), featDone := true } }
    else s
  | .jcairn j => s.setJob j (fun t => (w, t.2))
  | .jseq j => s.setJob j (fun t => (t.1, w))
  | .island i => s.setIsland i { s.island i with max := max 4 (min 16 (natBits v 8 5)) }
  | .bar2map => if bar2Ok s.xdie.bar2Size w then { s with xdie := { s.xdie with bar2 := w } } else s
  | .fabctl =>
    let s1 := if s.fab.en then s else { s with chip := v % 4096, fab := { s.fab with inc := natBits v 12 8 } }
    { s1 with fab := { s1.fab with en := natBit v 32 = 1 } }
  | .link l k => (match s.link? l with | some x => s.setLink l (x.write k v) | none => s)
  | _ => s

/-! ### The events of register writes -/

/-- A write arrives at a register that has an event of its own, after the host's earlier writes (R279). -/
def regEvent (name : String) (p : DevReg → Bool) (off : Nat) (v : Word) (s : State) : Out :=
  if p (devReg off) ∧ s.net.all (fun m => m.src ≠ .host) then .next (s.devPut off v) else .fault (.notEnabled name)

/-- RTLFSR_WRITE (R235). -/
def execRtlfsrWrite (off : Nat) (val : Word) (s : State) : Out :=
  regEvent "RTLFSR_WRITE" (fun r => match r with | .rtlfsr _ => true | _ => false) off val s
/-- SCINV_WRITE (R181). -/
def execScinvWrite (off : Nat) (val : Word) (s : State) : Out :=
  regEvent "SCINV_WRITE" (fun r => match r with | .cctl _ => true | _ => false) off val s
/-- MEUSE_PEAK_CLEAR (R188). -/
def execMeusePeakClear (off : Nat) (val : Word) (s : State) : Out :=
  regEvent "MEUSE_PEAK_CLEAR" (fun r => match r with | .meuse _ => true | _ => false) off val s
/-- MXSLOT_WRITE (R187). -/
def execMxslotWrite (off : Nat) (val : Word) (s : State) : Out :=
  regEvent "MXSLOT_WRITE" (fun r => match r with | .mxslot _ | .mxcfg _ => true | _ => false) off val s
/-- DRST_WRITE (R377). -/
def execDrstWrite (off : Nat) (val : Word) (s : State) : Out :=
  regEvent "DRST_WRITE" (fun r => match r with | .drst _ => true | _ => false) off val s
/-- LAUNCH_DOORBELL (R380). -/
def execLaunchDoorbell (off : Nat) (val : Word) (s : State) : Out :=
  regEvent "LAUNCH_DOORBELL" (fun r => match r with | .lqtail _ => true | _ => false) off val s
/-- MSITRIG_WRITE (R375). -/
def execMsitrigWrite (off : Nat) (val : Word) (s : State) : Out := regEvent "MSITRIG_WRITE" (fun r => r == .msitrig) off val s
/-- FEATURE_COMMIT (R381). -/
def execFeatureCommit (off : Nat) (val : Word) (s : State) : Out := regEvent "FEATURE_COMMIT" (fun r => r == .featctl) off val s
/-- A command register of a translation block with an OP. -/
def tlbOp (op : Nat) (val : Word) (r : DevReg) : Bool := natBits val.toNat 0 2 = op && (match r with | .tlbcmd _ => true | _ => false)
/-- TLB_WRITE (R383, R384). -/
def execTlbWrite (off : Nat) (val : Word) (s : State) : Out := regEvent "TLB_WRITE" (tlbOp 1 val) off val s
/-- TLB_READ (R383). -/
def execTlbRead (off : Nat) (val : Word) (s : State) : Out := regEvent "TLB_READ" (tlbOp 2 val) off val s
/-- TLB_INVAL (R383, R384). -/
def execTlbInval (off : Nat) (val : Word) (s : State) : Out := regEvent "TLB_INVAL" (tlbOp 3 val) off val s
/-- BAR2MAP_WRITE (R386). -/
def execBar2mapWrite (off : Nat) (val : Word) (s : State) : Out := regEvent "BAR2MAP_WRITE" (fun r => r == .bar2map) off val s
/-- ISLAND_MAX_WRITE (R388). -/
def execIslandMaxWrite (off : Nat) (val : Word) (s : State) : Out :=
  regEvent "ISLAND_MAX_WRITE" (fun r => match r with | .island _ => true | _ => false) off val s

/-- The register has an event of its own (R4 and the rows of the opcode table). -/
def DevReg.special : DevReg → Bool
  | .rtlfsr _ | .cctl _ | .meuse _ | .mxslot _ | .mxcfg _ | .drst _ | .lqtail _ | .msitrig | .featctl | .tlbcmd _ | .bar2map | .island _ => true
  | _ => false

/-- REGISTER_WRITE (R4): any other register, or an offset that is not listed, which ignores it. -/
def execRegisterWrite (off : Nat) (val : Word) (s : State) : Out := regEvent "REGISTER_WRITE" (fun r => !r.special) off val s

/-! ### The slot table and the translation block -/

/-- SLOT_TABLE_SWITCH (R187): the pending table takes effect. -/
def execSlotTableSwitch (core : Nat) (s : State) : Out :=
  if s.tableDue core then .next (s.switchTable core) else .fault (.notEnabled "SLOT_TABLE_SWITCH")

/-- A probe that holds an old translation (R384). -/
def TlbBusy.holds (b : TlbBusy) (j : Nat) : Option Hold → Bool
  | none => false
  | some h => h.mdie = j && decide (h.stamp ≤ b.stamp) && (match b.entries with | none => true | some i => h.entry = i)

/-- The translations that a buffered effect holds. -/
def Effect.holds : Effect → List (Option Hold)
  | .store _ _ _ els | .vsadd els => els.map (·.place.hold)
  | .atomic _ _ _ _ _ _ els => els.map (·.place.hold)
  | .refStore _ _ _ els => els.map (·.hold)
  | .heal _ _ _ _ _ p _ _ => [p.hold]
  | .op _ hs => hs.map some
  | _ => []

/-- The translations that a request in flight holds. -/
def Body.holds : Body → List (Option Hold)
  | .load _ _ _ _ p _ _ _ | .watch _ _ p _ _ _ | .store p _ _ _ | .heal _ _ _ p _ _ _ | .atomic _ _ _ p _ _ _ _ _ => [p.hold]
  | .op (.futWait _ _ p) _ | .op (.futSet _ _ _ p) _ | .op (.hpMake _ _ p _) _ | .done p _ _ _ _ _ => [p.hold]
  | _ => []

/-- The translations that an execution holds. -/
def Exec.holds (ex : Exec) : List (Option Hold) :=
  ex.bufs.flatMap (fun b => b.2.holds) ++ ex.mx.stt.flatMap (fun t => t.2.map (·.place.hold))

/-- TLB_CMD_DRAIN (R384): no request or probe still uses the old translation. -/
def execTlbCmdDrain (mdie : Nat) (s : State) : Out :=
  let t := s.tlb mdie
  match t.busy with
  | none => .fault (.notEnabled "TLB_CMD_DRAIN")
  | some b =>
    let held (l : List (Option Hold)) : Bool := l.any (b.holds mdie)
    if s.net.any (fun m => m.resp.isNone && held m.body.holds)
        || s.ctxs.any (fun x => (x.cur.any (fun ex => held ex.holds)) || (x.spec.any (fun ex => held ex.holds))) then
      .fault (.notEnabled "TLB_CMD_DRAIN")
    else .next (s.setTlb mdie { t with busy := none })

end Sys2Proof.Machine
end

