-- ==== Sys2Proof/Machine/Heap.lean ====
section
/-!
DEFINITION. Sys2Proof/Machine/Heap.lean: the heap instructions as they fire (R344 to R348). What a home does with them is in
Home.lean, and the relocation engine in HeapRun.lean.
-/

namespace Sys2Proof.Machine

/-- A heap instruction that a home serves (R344): `check` is its operand rules, `probe` its probes (R26), and `req` what is buffered
for the belay. -/
def fireHeap (i : Instr) (s : State) (check : Site → Operands → Except Raw Unit)
    (probe : Site → Operands → Except (List (Nat × ElemFault)) (Option Place × List Hold)) (req : Operands → Option Place → OpReq) : Out :=
  fire i s (fun st o =>
    let n := st.f.idx
    let fail (r : Raw) : State := st.put s ((st.ex.raise n r).reformed n)
    let used := usedTokens i o
    if !(predScalarOk o.p && used.all okScalar) then fail tokenKind
    else if !predOpen o.p 0 || used.any (·.isNull) then st.put s (st.withEffect i none (some Token.nullScalar))
    else
      match check st o with
      | .error r => fail r
      | .ok _ =>
        match probe st o with
        | .error fs => st.put s ((st.ex.raiseProbe n fs).reformed n)
        | .ok (p, holds) =>
          let ex0 := if st.f.reform then st.ex.reformed n else st.ex.markFired n
          st.put { s with free := s.free + 2 } ((ex0.buffer n (.op (req o p) holds)).reserve n (Token.scalar 0) (outsAt n i)))

/-- The probe of a reference's page (R26, R344): it must be mapped, and its header readable (R385). -/
def State.probeRef (s : State) (user : Bool) (ref : Word) : Except (List (Nat × ElemFault)) (List Hold) :=
  match s.heapPlace { need := { rd := true }, w := 1, n := 1, user := user } (refHint ref) (refHa ref) with
  | .ok (_, p) => .ok p.hold.toList
  | .error f => .error [(0, f)]

/-- pin (R345). -/
def execPin (o : ResArgs) (s : State) : Out :=
  fireHeap (.pin o) s (fun _ v => need (v.l.word != 0) (Raw.of .refNull))
    (fun st v => do .ok (none, ← s.probeRef st.ex.user v.l.word)) (fun v _ => .pin v.l.word)

/-- unpin (R345). -/
def execUnpin (o : BareArgs) (s : State) : Out :=
  fireHeap (.unpin o) s (fun _ v => need (v.l.word != 0) (Raw.of .refNull))
    (fun st v => do .ok (none, ← s.probeRef st.ex.user v.l.word)) (fun v _ => .unpin v.l.word)

/-- refeq (R346): a null reference is not probed. -/
def execRefeq (o : ResArgs) (s : State) : Out :=
  fireHeap (.refeq o) s (fun _ _ => .ok ())
    (fun st v => do
      let a ← if v.l.word = 0 then .ok [] else s.probeRef st.ex.user v.l.word
      let b ← if v.r.word = 0 then .ok [] else s.probeRef st.ex.user v.r.word
      .ok (none, a ++ b))
    (fun v _ => .refeq v.l.word v.r.word)

/-- hp.make (R347): its checks in the order of the rule, then the probes of the header and of the word. -/
def execHpMake (o : HpMakeArgs) (s : State) : Out :=
  fireHeap (.hpMake o) s
    (fun _ v => do
      let w := v.l.word
      let h := v.r.word
      need (o.size16 != 0) (Raw.of .hpFormat 1)
      need (spaceOf h = 2) ⟨.spaceInvalid, 0, none, some h⟩
      need (spaceOf w = 0 || spaceOf w = 1) ⟨.spaceInvalid, 0, none, some w⟩
      need (w.toNat % 8 = 0) ⟨.misaligned, 8, none, some w⟩
      need (refColour h = 0 && natBits h.toNat 0 4 = 0) ⟨.hpFormat, 3, none, some h⟩)
    (fun st v => do
      let (_, p) ← (s.heapPlace { need := { wr := true }, w := 16, n := 16, user := st.ex.user } (refHint v.r.word) (refHa v.r.word)).mapError (fun f => [(0, f)])
      let parts ← s.probe st { need := { wr := true }, w := 8, n := 8, user := st.ex.user } [⟨0, v.l.word, 0, 8⟩]
      .ok ((parts.head?).map (fun t => t.2.place), p.hold.toList ++ parts.filterMap (fun t => t.2.place.hold)))
    (fun v p => .hpMake v.l.word v.r.word (p.getD ⟨0, none, none⟩) (16 * o.size16.toNat))

/-- hp.relocate (R348): the reference is not null and its colour is legal. -/
def execHpRelocate (o : CmdArgs) (s : State) : Out :=
  fireCmd (.hpRelocate o) .hpRelocate o.pri.toNat 0 s (fun _ v => do
    let ref := v.l.word
    let legal := refColour ref = s.heapE % 4 || refColour ref = (s.heapE + 3) % 4 || (s.heapAdvancing && refColour ref = (s.heapE + 1) % 4)
    need (ref != 0) (Raw.of .refNull)
    need legal ⟨.cmdOperand, 0, none, some ref⟩
    .ok (ref, v.r.word))

/-- hp.epoch (R348): supervisor mode only. -/
def execHpEpoch (o : CmdArgs) (s : State) : Out :=
  fireCmd (.hpEpoch o) .hpEpoch o.pri.toNat 0 s (fun st _ => do
    need (!st.ex.user) (Raw.of .protection)
    .ok (0, 0))

end Sys2Proof.Machine
end

