-- ==== Sys2Proof/Machine/Home.lean ====
section
/-!
DEFINITION. Sys2Proof/Machine/Home.lean: what a home does with a request that reaches it (R262 to R264, R276): loads, stores,
atomics, heals and engine granules, accesses to heap objects with the relocation rules of R280, the heap instructions, and the
invalidation of copies that other chips hold (R408).
-/

namespace Sys2Proof.Machine

/-! ### Answers -/

/-- A failed request is answered with its error. -/
def State.replyErr (s : State) (m : Msg) (f : ElemFault) : State := s.reply m (.err f.cause f.detail)

/-- A strand's write also updates the sector of its core's cache, and releases at what it writes are noted (R120, R265). -/
def State.cacheWrite (s : State) (m : Msg) (p : Place) (d : List (Byte × Byte)) : State :=
  let s1 := if p.peer.isNone then s.noteWrite m p.key d.length else s
  match s1.srcCore m with
  | some k => if p.peer.isNone then s1.setCore k ((s1.core k).update p.key d) else s1
  | none => s1

/-- Bytes reach their place: a device register acts on the word it is given (R4). -/
def State.placeWrite (s : State) (p : Place) (d : List (Byte × Byte)) : State :=
  if p.peer.isNone ∧ 2 ^ 62 ≤ p.key then s.devPut (p.key - 2 ^ 62) (BitVec.ofNat 64 (leNat (d.map (·.1))))
  else s.storePlace p d

/-- Bytes a place of this chip gives. -/
def State.placeRead (s : State) (p : Place) (n : Nat) : List Byte :=
  if 2 ^ 62 ≤ p.key then natLe n (s.devGet (p.key - 2 ^ 62))
  else memReadN s.mem p.key n

/-- An error the place itself gives a read: a fenced die (R378) or a poisoned sector (R394). -/
def State.placeErr (s : State) (p : Place) (n : Nat) (read : Bool) : Option Resp :=
  if s.fenced p then some (.err .remoteFailed 0xA0)
  else if read && p.peer.isNone && s.isPoisoned p.key n then some (.err .dataPoison 0)
  else none

/-! ### Loads, stores and atomics -/

/-- A read of global space has its bytes: the reads that merged with it have them too, but for one that something of its own strand
still orders after it, which is made on its own (R121, R183). -/
def State.answerMerged (s : State) (m : Msg) (r : Resp) : State :=
  (s.net.filter (fun a => a.merge = some m.id && a.id ≠ m.id && a.resp.isNone)).foldl (fun (t : State) a =>
    match r with
    | .data _ => if t.eligible a then (t.setMsg { a with resp := some r }).acquireBy a else t.setMsg { a with merge := none }
    | _ => t.setMsg { a with merge := none }) s

/-- A load has its answer: it performs as the acquire that it is (R132), and the reads that merged with it are answered. -/
def State.answerLoad (s : State) (m : Msg) (r : Resp) : State := ((s.answer m r).acquireBy m).answerMerged m r

/-- A load performs: its core's sector cache serves it, or its home does and the sector is kept (R120, R180). Whether a sector that
is hit holds an uncorrectable error, and is dropped, is free (R181). -/
def State.homeLoad (s : State) (m : Msg) (ptr : Word) (p : Place) (n : Nat) (cache : Bool) : State :=
  match m.src with
  | .ctx c =>
    (match s.ctx? c with
    | none => s.dropMsg m.id
    | some x =>
      let line := if cache then (s.core x.core).hit ptr x.acqEpoch else none
      match line, Config.freeNat s.free % 2 with
      | some l, 0 => ({ s with free := s.free + 1 }.setMsg { m with resp := some (.data l.data), merge := some m.id })
      | _, _ =>
        let s0 := if line.isSome then { s with free := s.free + 1 } else s
        match s0.placeErr p n true with
        | some r => s0.answerLoad m r
        | none =>
          let d := s0.placeRead p n
          let s1 := { s0 with free := s0.free + 32 }.answerLoad m (.data d)
          if cache then s1.setCore x.core ((s1.core x.core).fill ptr (p.key / 32) d) else s1)
  | _ => s.dropMsg m.id

/-- A store performs (R263). -/
def State.homeStore (s : State) (m : Msg) (p : Place) (d : List (Byte × Byte)) : State :=
  match s.placeErr p d.length false with
  | some r => s.reply m r
  | none => ((s.placeWrite p d).cacheWrite m p d).dropMsg m.id

/-- The value an atomic writes (R136). -/
def amoNew (op : AmoOp) (w old y z : Nat) : Nat :=
  let sg (v : Nat) : Int := natToInt (8 * w) v
  match op with
  | .add => (old + y) % 2 ^ (8 * w)
  | .and => old &&& y
  | .or => old ||| y
  | .xor => old ^^^ y
  | .min => if sg y < sg old then y else old
  | .max => if sg old < sg y then y else old
  | .swap => y
  | .cas => if old = y then z else old

/-- An element of an atomic performs (R136, R276). -/
def State.homeAtomic (s : State) (m : Msg) (p : Place) (op : AmoOp) (w y z : Nat) : State :=
  match s.placeErr p w true with
  | some r => s.reply m r
  | none =>
    let old := leNat (s.placeRead p w)
    let d := fullBytes w (amoNew op w old (y % 2 ^ (8 * w)) (z % 2 ^ (8 * w)))
    let s1 := s.acquireBy m
    let s2 := if op = .cas ∧ old ≠ y % 2 ^ (8 * w) then s1 else (s1.placeWrite p d).cacheWrite m p d
    { s2 with free := s2.free + 32 }.reply m (.val (some (BitVec.ofNat 64 old)))

/-- The count of its core's vector island, in sixteenths of an ac, at which a watch of `t` ac ends (R1, R135). -/
def State.watchEnd (s : State) (m : Msg) (t : Nat) : Nat := s.ac16 (vectorIsland ((s.srcCore m).getD 0)) + 16 * t

/-- The first read of a watched word (R135). -/
def State.homeWatch (s : State) (m : Msg) (serial idx : Nat) (p : Place) (x : Word) (t : Nat) : State :=
  match s.placeErr p 8 true with
  | some r => s.reply m r
  | none =>
    let bs := s.placeRead p 8
    let s1 := { s with free := s.free + 32 }
    if leNat bs ≠ x.toNat then s1.reply m (.data bs)
    else s1.setMsg { m with body := .watch serial idx p x (s.watchEnd m t) true }

/-- The owner of a watched word sees the first value that differs (R135). -/
def State.noticeWatch (s : State) (m : Msg) : State :=
  match m.body, m.resp with
  | .watch _ _ p x _ true, none =>
    let bs := s.placeRead p 8
    if p.peer.isNone ∧ (s.placeErr p 8 true).isNone ∧ leNat bs ≠ x.toNat then s.reply m (.data bs) else s
  | _, _ => s

/-- Every watched word is looked at. -/
def State.noticeWatches (s : State) : State := s.net.foldl (fun t m => t.noticeWatch m) s

/-! ### Heap objects -/

/-- The pin-view pointer of heap bytes (R335). -/
def pinView (home va : Nat) : Word := BitVec.ofNat 64 ((home - 8) % 4 * 2 ^ 56 + va % 2 ^ 56)

/-- What a heap access needs (R385). -/
def refReq (user wr : Bool) (n : Nat) : AccReq := { need := { rd := !wr, wr := wr }, w := 1, n := n, user := user }

/-- An access through a reference with the place it has now: the object's copy and the bytes, or why not (R141, R338). -/
def State.refAt (s : State) (user wr : Bool) (ref : Word) (off : Int) (n : Nat) : Except ElemFault (HeapObj × Place) :=
  s.refPlace (refReq user wr n) ref off n

/-- A load through a reference performs (R141). -/
def State.homeRefLoad (s : State) (m : Msg) (ref : Word) (off : Int) (n : Nat) (user : Bool) : State :=
  match s.refAt user false ref off n with
  | .error f => s.replyErr m f
  | .ok (_, p) =>
    match s.placeErr p n true with
    | some r => s.reply m r
    | none => s.reply m (.data (memReadN s.mem p.key n))

/-- A store through a reference performs on the present copy (R141, R142, R280). -/
def State.homeRefStore (s : State) (m : Msg) (ref : Word) (off : Int) (d : List Byte) (user : Bool) : State :=
  match s.refAt user true ref off d.length with
  | .error f => s.replyErr m f
  | .ok (_, p) => s.homeStore m p (d.map (fun b => (b, 255)))

/-- The heal of ldref.h (R140): a compare-and-swap at the word's home. -/
def State.homeHeal (s : State) (m : Msg) (ptr : Word) (viaRef : Bool) (off : Int) (place : Place) (old new : Word) (user : Bool) : State :=
  let swap (p : Place) : State :=
    match s.placeErr p 8 true with
    | some r => s.reply m r
    | none => if s.peek p.key 8 = old.toNat then s.homeStore m p (fullBytes 8 new.toNat) else s.dropMsg m.id
  if viaRef then
    match s.refAt user true ptr off 8 with
    | .error f => s.replyErr m f
    | .ok (_, p) => swap p
  else swap place

/-- pin and unpin change PINCNT of the present copy (R345). -/
def State.homePin (s : State) (m : Msg) (ref : Word) (src : SigSrc) (up : Bool) : State :=
  match s.barrier src.user true ref with
  | .error f => s.replyErr m f
  | .ok o =>
    let w := s.peek o.hdr 8
    match s.placeErr ⟨o.hdr, none, none⟩ 16 true with
    | some r => s.reply m r
    | none =>
    if up then
      if o.pins = 65535 then s.reply m (.err .hpPin 0)
      else (s.poke o.hdr 8 (w + 2 ^ 32)).reply m (.val (some (pinView o.dest.home (o.dest.ha + 16))))
    else if o.pins = 0 then s.reply m (.err .hpPin 0)
    else (s.poke o.hdr 8 (w - 2 ^ 32)).dropMsg m.id

/-- refeq (R346). A failure of the right reference is answered as of an operation on that one, so that it is the one reported. -/
def State.homeRefeq (s : State) (m : Msg) (a b : Word) (src : SigSrc) : State :=
  let dest (r : Word) : Except ElemFault (Option (Nat × Nat)) :=
    if r = 0 then .ok none
    else (s.refDest src.user false r).map (fun d => some (d.home, d.ha))
  match dest a, dest b with
  | .ok x, .ok y => s.reply m (.val (some (if x = y then 1 else 0)))
  | .error f, _ => s.replyErr m f
  | _, .error f => s.replyErr { m with body := .op (.refeq b a) src } f

/-- hp.make at its home: the header is written, and then the current reference, by a class-15 store of the strand (R347). -/
def State.homeMake (s : State) (m : Msg) (w h : Word) (wp : Place) (size : Nat) (src : SigSrc) : State :=
  match s.heapPlace (refReq src.user true 16) (refHint h) (refHa h) with
  | .error f => s.replyErr m f
  | .ok (j, p) =>
    match s.placeErr p 16 false with
    | some r => s.reply m r
    | none => (s.poke p.key 16 (2 ^ 48 + size)).setMsg { m with
        body := .store wp (fullBytes 8 (mkRef (s.heap j).epoch j (refHa h) 0).toNat) none w }

/-- A cairn is written or an engine's future is resolved at its home (R278, R288, R298, R299), or its failure is posted (R428). -/
def State.homeDone (s : State) (m : Msg) (p : Place) (ptr : Word) (fut : Bool) (val : Word) (fail : Bool) (work : DoneWork) : State :=
  let d := match m.src with | .unit d => d | _ => 12
  match s.placeErr p (if fut then 16 else 8) fut with
  | some (.err c det) => (s.dropMsg m.id).doneFail d ptr work c det
  | _ =>
    let t := if fut then
        let (t, w, dbl) := s.futSetAt d none p.key val fail
        if dbl then t.postCard d .futureDoubleResolve none ptr w else t
      else (s.placeWrite p (fullBytes 8 val.toNat)).noteWrite m p.key 8
    (t.dropMsg m.id).endWork d work

/-- The request that a cairn follows has performed (R294). -/
def State.followed (s : State) (m : Msg) : Bool :=
  match m.body with
  | .done _ _ _ _ _ work => (match work.after with | some a => (s.msg? a).isNone | none => true)
  | _ => true

/-! ### Waiting for a relocation -/

/-- The entry of an object that is being copied. -/
def State.copyingEntry (s : State) (d : RefDest) : Option (Nat × FwdEntry) :=
  if d.copying then ((s.heap d.home).fwd.find? (fun f => f.old = d.ha && f.copying)).map (fun f => (d.home, f)) else none

/-- The table entry at which a request must wait (R280, R340), if its object is being copied: stores, heals and pins, and loads of
bytes that a waiting store covers. -/
def State.mustWait (s : State) (b : Body) : Option (Nat × FwdEntry) :=
  let entry (user : Bool) (r : Word) : Option (Nat × FwdEntry) := match s.refDest user true r with | .ok d => s.copyingEntry d | .error _ => none
  match b with
  | .refStore r _ _ u => entry u r
  | .heal r true _ _ _ _ u => entry u r
  | .op (.pin r) src => entry src.user r
  | .refLoad _ _ _ r off n u =>
    (entry u r).filter (fun e => e.2.waiting.any (fun w => match s.msg? w with | some a => a.body.covers off n | none => false))
  | _ => none

/-- A request waits at its home (R280). -/
def State.waitAt (s : State) (j : Nat) (f : FwdEntry) (m : Nat) : State :=
  let h := s.heap j
  s.setHeap j { h with fwd := h.fwd.map (fun g => if g.old = f.old then { g with waiting := g.waiting ++ [m] } else g) }

/-- The request already waits. -/
def State.isWaiting (s : State) (m : Nat) : Bool := s.heaps.any (fun h => h.2.fwd.any (fun f => f.waiting.contains m))

/-! ### Copies on other chips -/

/-- The keys that a request writes, where its place is fixed or known now. -/
def State.writesTo (s : State) (m : Msg) : Option (Nat × Nat) :=
  match m.body with
  | .store p d _ _ => if p.peer.isNone then some (p.key, d.length) else none
  | .atomic _ _ w p _ _ _ _ _ => if p.peer.isNone then some (p.key, w) else none
  | .heal _ false _ p _ _ _ => some (p.key, 8)
  | .heal r true o _ _ _ u => (match s.refAt u true r o 8 with | .ok (_, p) => some (p.key, 8) | .error _ => none)
  | .refStore r o d u => (match s.refAt u true r o d.length with | .ok (_, p) => some (p.key, d.length) | .error _ => none)
  | .gran c _ _ dst dd (some _) =>
    (match s.cmd? c with
    | some k => (match s.cmdPlace k { wr := true } 32 32 dst dd with | .ok a => if a.place.peer.isNone then some (a.place.key, 32) else none | .error _ => none)
    | none => none)
  | .op (.pin r) src | .op (.unpin r) src => (match s.barrier src.user true r with | .ok o => some (o.hdr, 8) | .error _ => none)
  | .op (.hpMake _ h _ _) src =>
    (match s.heapPlace (refReq src.user true 16) (refHint h) (refHa h) with | .ok (_, p) => some (p.key, 16) | .error _ => none)
  | .op (.futWait _ _ p) _ | .op (.futSet _ _ _ p) _ => if p.peer.isNone then some (p.key, 16) else none
  | .done p _ fut _ _ _ => if p.peer.isNone then some (p.key, if fut then 16 else 8) else none
  | _ => none

/-- The chip for which this chip serves a request. -/
def State.servedChip (s : State) (m : Nat) : Option Nat := (s.fab.served.find? (fun v => v.msg = m)).map (·.chip)

/-- The copies that must be invalidated before a request performs (R408): every other chip's. -/
def State.copiesFor (s : State) (m : Msg) : List PeerCopy :=
  match s.writesTo m with
  | some (k, n) => s.copiesAt k n (s.servedChip m.id)
  | none => []

/-- The keys that a request reads or writes at its home are in the queue of a sector that waits (R276). -/
def State.queueBusy (s : State) (m : Msg) : Bool :=
  (match m.body with
    | .load _ _ _ _ p n _ _ => p.peer.isNone && s.sectorBusy m.id p.key n
    | .watch _ _ p _ _ _ => p.peer.isNone && s.sectorBusy m.id p.key 8
    | .refLoad _ _ _ r o n u => (match s.refAt u false r o n with | .ok (_, p) => s.sectorBusy m.id p.key n | .error _ => false)
    | _ => (match s.writesTo m with | some (k, n) => s.sectorBusy m.id k n | none => false))

/-- A request is made with user rights: its strand runs in user mode, or its command has them. -/
def State.srcUser (s : State) (m : Msg) : Bool :=
  match m.src with
  | .ctx c => (s.ctx? c).any (fun x => !x.sup)
  | .cmd i => (s.cmd? i).any (fun c => c.req.user)
  | _ => false

/-- The number of an atomic's operation in a flit. -/
def amoNum : AmoOp → Nat
  | .add => 0
  | .and => 1
  | .or => 2
  | .xor => 3
  | .min => 4
  | .max => 5
  | .swap => 6
  | .cas => 7

/-- A peer's sector that the LLC keeps. -/
def State.heldAt (s : State) (chip sector : Nat) : Option Held := s.fab.held.find? (fun h => h.chip = chip && h.sector = sector)

/-- A store updates the kept sector of a peer (R408). -/
def Held.update (h : Held) (chip off : Nat) (d : List (Byte × Byte)) : Held :=
  if h.chip = chip then { h with data := overlayBytes (32 * h.sector) off d 0 h.data } else h

/-- A request to a peer chip fails with a condition's code (R131, R401, R407, R410): its strand is answered, its command faults, and a cairn
or future that was to be written is reported (R428). -/
def State.peerFails (s : State) (m : Msg) (code : Nat) : State :=
  let c : Cause := if code = 0x4E then .dataPoison else .remoteFailed
  let detail := if code = 0x4E then 0 else code
  match m.body, m.src with
  | .done _ ptr _ _ _ work, .unit d => (s.dropMsg m.id).doneFail d ptr work c detail
  | .store _ _ _ ptr, .cmd i =>
    (match s.cmd? i with
    | some k => (s.dropMsg m.id).cmdFault { k with aux := [] } (engFault .cpyRemote ptr code)
    | none => s.dropMsg m.id)
  | _, _ => s.reply m (.err c detail)

/-- A request to a peer chip (R408): `none` where it asks none; within, the state once it has left or was served from the local copy,
or `none` while its queue is full or it waits for the answer. -/
def State.peerStep (s : State) (m : Msg) : Option (Option State) :=
  let u := s.srcUser m
  let ask (t : State) (c : Nat) (pay : Pay) : Option State := t.askPeer m c pay (fun v => v.peerFails m 0xB3)
  let chipOf (p : Place) (f : Nat → Option State) : Option (Option State) := p.peer.map (fun c => if s.isOut m.id then none else f c)
  match m.body with
  | .load _ _ _ _ p _ _ _ => chipOf p (fun c => match s.heldAt c (p.key / 32) with
    | some h => some (s.answerLoad m (.data h.data))
    | none => ask s c (.read m.id (stripedPtr (p.key / 32 * 32)) u))
  | .watch _ _ p _ _ false => chipOf p (fun c => ask s c (.read m.id (stripedPtr (p.key / 32 * 32)) u))
  | .store p d _ _ => chipOf p (fun c =>
    ask { s with fab := { s.fab with held := s.fab.held.map (fun (h : Held) => h.update c p.key d) } } c (.write m.id (peerPtr p) u d))
  | .atomic _ op w p y z _ _ _ => chipOf p (fun c =>
    ask { s with fab := { s.fab with held := s.fab.held.filter (fun h => !(h.chip = c && h.sector = p.key / 32)) } } c
      (.amo m.id (peerPtr p) u (amoNum op) w y z))
  | .heal _ false _ p old new _ => chipOf p (fun c =>
    ask { s with fab := { s.fab with held := s.fab.held.filter (fun h => !(h.chip = c && h.sector = p.key / 32)) } } c
      (.amo m.id (peerPtr p) u 7 8 old.toNat new.toNat))
  | .done p _ fut v fail _ => chipOf p (fun c =>
    let t := { s with fab := { s.fab with held := s.fab.held.map (fun (h : Held) => if fut then h else h.update c p.key (fullBytes 8 v.toNat)) } }
    ask t c (if fut then .futSet m.id (peerPtr p) v fail u else .write m.id (peerPtr p) u (fullBytes 8 v.toNat)))
  | _ => none

/-- A transfer whose bytes have all been written is answered to the chip whose command it is (R411). -/
def State.rxFinish (s : State) (org cmd : Nat) : State :=
  match s.fab.rx.find? (fun r => r.org = org && r.cmd = cmd) with
  | none => s
  | some r =>
    if r.left ≠ 0 ∨ org = s.chip ∨ s.fab.served.any (fun v => v.xfer && v.chip = org && v.rid = cmd) then s
    else
      { s with fab := { s.fab with rx := s.fab.rx.filter (fun q => !(q.org = org && q.cmd = cmd)) } }.fabSend org 2 .engine
        (.done cmd r.fin.code r.fin.addr r.fin.detail)

/-- A home has performed a peer's request, which is answered: `old` is the state before (R408, R411). -/
def State.servedDone (s old : State) (m : Msg) : State :=
  match s.fab.served.find? (fun v => v.msg = m.id) with
  | none => s
  | some v =>
    if (s.msg? m.id).isSome then s
    else
      let s1 := { s with fab := { s.fab with served := s.fab.served.filter (fun u => u.msg ≠ m.id) } }
      let err (p : Place) (n : Nat) (rd : Bool) : Nat := match old.placeErr p n rd with | some (.err .dataPoison _) => 0x4E | some _ => 0xA0 | none => 0
      if v.xfer then
        let fin : Ending := match m.body with
          | .store p d _ a => if err p d.length false = 0 then Ending.ok else ⟨Cause.cpyRemote.code, granuleOf a, err p d.length false⟩
          | _ => Ending.ok
        { s1 with fab := { s1.fab with rx := s1.fab.rx.map (fun (r : RxCopy) =>
            if r.org = v.chip && r.cmd = v.rid && r.fin.code = 0 then { r with fin := fin } else r) } }.rxFinish v.chip v.rid
      else
        match m.body with
        | .load _ _ _ ptr p n _ _ =>
          if err p n true ≠ 0 then s1.answerPeer v (err p n true) []
          else
            let e : PeerCopy := ⟨p.key / 32, v.chip, offsetOf ptr / 32, s.incOf v.chip⟩
            { s1 with fab := { s1.fab with copies := e :: s1.fab.copies.filter (fun c => !(c.sector = e.sector && c.chip = e.chip)) } }.answerPeer v 0
              (old.placeRead p n)
        | .store p d _ _ => s1.answerPeer v (err p d.length false) []
        | .atomic _ _ w p _ _ _ _ _ => s1.answerPeer v (err p w true) (old.placeRead p w)
        | _ => s1

/-! ### Requests -/

/-- A request performs at its home (R276). -/
def State.perform (s : State) (m : Msg) : Option State :=
  match m.body with
  | .load _ _ _ ptr p n cache _ => some (s.homeLoad m ptr p n cache)
  | .refLoad _ _ _ r off n u => some (s.homeRefLoad m r off n u)
  | .watch serial idx p x t false => some (s.homeWatch m serial idx p x t)
  | .watch _ _ _ _ _ true => none
  | .store p d _ _ => some (s.homeStore m p d)
  | .refStore r off d u => some (s.homeRefStore m r off d u)
  | .heal ptr via off p old new u => some (s.homeHeal m ptr via off p old new u)
  | .atomic _ op w p y z _ _ _ => some (s.homeAtomic m p op w y z)
  | .fence _ _ => some (s.dropMsg m.id)
  | .trigger l n => some ((s.dropMsg m.id).nestCount l n)
  | .done p ptr fut v fail work => some (s.homeDone m p ptr fut v fail work)
  | .gran c src sd dst dd data =>
    (match s.cmd? c with
    | some k => if k.phase = .running then some (s.granStep m k src sd dst dd data) else none
    | none => none)
  | .op (.pin r) src => some (s.homePin m r src true)
  | .op (.unpin r) src => some (s.homePin m r src false)
  | .op (.refeq a b) src => some (s.homeRefeq m a b src)
  | .op (.hpMake w h p n) src => some (s.homeMake m w h p n src)
  | _ => none

/-- The home of a request is on a die in reset, which does not serve (R377). -/
def State.homeDown (s : State) (b : Body) : Bool :=
  match b with
  | .load _ _ _ _ p _ _ _ | .watch _ _ p _ _ _ | .store p _ _ _ | .atomic _ _ _ p _ _ _ _ _ | .done p _ _ _ _ _ => s.placeDown p
  | _ => false

/-- The read that a request merged with is still outstanding, and answers it (R183). -/
def State.mergedOut (s : State) (m : Msg) : Bool :=
  match m.merge with
  | some o => (match s.msg? o with | some a => a.resp.isNone | none => false)
  | none => false

/-- A request may perform at its home now (R121, R182, R263, R276, R377): its strand's order lets it, or lets it pass; it has entries of the
miss engine; its home serves; and nothing that came to its home before it keeps it waiting. -/
def State.homeReady (s : State) (m : Msg) : Bool :=
  (s.eligible m || s.mayPass m) && !s.mergedOut m && s.hasEntry m && !s.homeDown m.body && !s.isWaiting m.id && s.followed m
    && !s.fab.invals.any (fun i => i.msg = m.id) && !s.queueBusy m
    && (m.body.posted || m.body.isFence || !s.behindEarly (s.agentOf m) m.body.bytes (!m.body.isLoad))

/-- HOME_REQUEST (R276, R280, R408): in the order of its strand, a request performs, leaves for a peer chip, waits for a relocation, or
first has the copies on other chips invalidated. -/
def execHomeRequest (m : Nat) (s : State) : Out :=
  let no : Out := .fault (.notEnabled "HOME_REQUEST")
  match s.msg? m with
  | none => no
  | some msg =>
    if !s.homeReady msg then no
    else
      let s1 := s.notePassed msg
      match s1.peerStep msg, s.mustWait msg.body with
      | some none, _ => no
      | some (some t), _ => .next t
      | none, some (j, f) => .next (s1.waitAt j f m)
      | none, none =>
        if !(s.copiesFor msg).isEmpty then .next (s.sendInvals m (s.copiesFor msg))
        else
          match s1.perform msg with
          | none => no
          | some t =>
            let more := (s.copiesChanged t).filter (fun c => some c.chip ≠ s.servedChip m)
            if more.isEmpty then .next (t.servedDone s msg) else .next (s.sendInvals m more)

/-- SHARER_ACK_TIMEOUT (R409): a chip has been silent for 1 ms; it is dropped from the directory and refused until it rejoins. -/
def execSharerAckTimeout (m : Nat) (s : State) : Out :=
  match s.fab.invals.find? (fun i => i.msg = m && decide (i.since + 2000000 ≤ s.now)) with
  | none => .fault (.notEnabled "SHARER_ACK_TIMEOUT")
  | some i =>
    let k := (s.fab.links.find? (fun t => t.2.peer = i.chip)).map (·.2)
    let inc := s.incOf i.chip
    let s1 := { s with fab := { s.fab with
      invals := s.fab.invals.filter (fun j => j.chip ≠ i.chip), copies := s.fab.copies.filter (fun c => c.chip ≠ i.chip)
      refused := (i.chip, inc) :: s.fab.refused } }
    .next (s1.fabRecord k 0 .invTimeout (stripedPtr (32 * i.va)).toNat)

/-- WAITV_VALUE_CHANGE (R135): the watched word has taken another value, which the strand is given as the load's data. -/
def State.watchReady (s : State) (m : Msg) : Option (List Byte) :=
  match (s.noticeWatch m).msg? m.id with
  | some a => (match a.body, a.resp with | .watch _ _ _ _ _ true, some (.data b) => some b | _, _ => none)
  | none => none

end Sys2Proof.Machine
end

