-- ==== Sys2Proof/Machine/HeapRun.lean ====
section
/-!
DEFINITION. Sys2Proof/Machine/HeapRun.lean: the relocation engine (R339 to R341, R348, R349) and the advance of the heap's epoch
(R342).
-/

namespace Sys2Proof.Machine

/-- A command of the relocation engine that has reached it and has not been accepted. -/
def Cmd.relocWaits (c : Cmd) : Bool := c.req.kind = .hpRelocate && c.phase = .running && c.fault.isNone && c.aux.isEmpty

/-- A command is the next of its engine (R340, R348): the highest priority first, then arrival order. -/
def State.relocNext (s : State) (c : Cmd) : Bool :=
  let mine := s.cmds.filter (fun d => d.mdie = c.mdie && d.relocWaits)
  c.relocWaits && (mine.takeWhile (fun d => d.id ≠ c.id)).all (fun d => decide (c.req.pri < d.req.pri))
    && mine.all (fun d => decide (c.req.pri ≤ d.req.pri))
    && s.cmds.all (fun d => !(d.mdie = c.mdie && d.req.kind = .hpRelocate && d.phase = .running && d.fault.isNone && !d.aux.isEmpty))

/-- The engine's code for a failure of its barrier or of a copy (R348, R349). -/
def relocCause (c : Cause) : Cause :=
  match c with
  | .transNotPresent => .cpyTrans
  | .protection => .cpyProtection
  | .dataPoison => .cpyPoison
  | .remoteFailed => .cpyRemote
  | c => c

/-- DETAIL of the relocation engine's records: the old HA and, for 0x9F, the case (R349). -/
def relocDetail (ha : Nat) (case : Nat) : Nat := ha % 2 ^ 56 + case * 2 ^ 56

/-- The heap pages of `n` bytes from an address are all homed at one M-die, which is the answer (R341). -/
def State.rangeHome (s : State) (hint va n : Nat) : Option Nat :=
  let pages := (List.range ((va + n - 1) / 4096 - va / 4096 + 1)).map (fun i => if i = 0 then va else (va / 4096 + i) * 4096)
  match pages.map (s.heapHomeOf hint) with
  | some j :: rest => if rest.all (· = some j) then some j else none
  | _ => none

/-- The destination obeys R341. -/
def State.destOk (s : State) (d : Word) (src size : Nat) : Option Nat :=
  let new := refHa d
  if spaceOf d ≠ 2 ∨ refColour d ≠ 0 ∨ natBits d.toNat 0 4 ≠ 0 then none
  else if new < src + 16 + size ∧ src < new + 16 + size then none
  else s.rangeHome (refHint d) new (16 + size)

/-- The address that a failure of the engine's barrier reports (R349): the page or header that failed, or the object's own address for an
illegal colour. -/
def State.relocAddr (s : State) (user : Bool) (ref : Word) (f : ElemFault) : Word :=
  match f.cause, s.refDest user true ref with
  | .hpFormat, .ok d | .dataPoison, .ok d => heapPtr d.home d.ha
  | .refColour, _ => heapPtr (refHint ref) (refHa ref)
  | _, _ => f.fa

/-- HP_RELOCATE_RUN (R340, R348): the engine accepts the command and the object becomes COPYING, or it is refused. A full table makes
the command wait, and one whose object has moved goes on to the engine of its present home. -/
def execHpRelocateRun (cmd : Nat) (s : State) : Out :=
  match s.cmd? cmd with
  | none => .fault (.notEnabled "HP_RELOCATE_RUN")
  | some c =>
    if !s.relocNext c then .fault (.notEnabled "HP_RELOCATE_RUN")
    else
      let ref := c.req.p0
      match s.barrier c.req.user true ref with
      | .error f => .next (s.cmdFault c (engFault (relocCause f.cause) (s.relocAddr c.req.user ref f) (relocDetail (refHa ref) 0)))
      | .ok o =>
        let old := o.dest.ha
        let h := s.heap o.dest.home
        if o.dest.home ≠ c.mdie then .next (s.setCmd { c with mdie := o.dest.home })
        else if o.dest.copying ∨ 65536 ≤ h.fwd.length then .fault (.notEnabled "HP_RELOCATE_RUN")
        else if o.pins ≠ 0 then .next (s.cmdFault c (engFault .hpPinned c.req.p1 (relocDetail old 0)))
        else
          match s.destOk c.req.p1 old o.size with
          | none => .next (s.cmdFault c (engFault .hpFormat c.req.p1 (relocDetail old 2)))
          | some nh =>
            let e : FwdEntry := { old := old, new := refHa c.req.p1, size := o.size, nhome := nh, epoch := h.epoch, copying := true, cmd := cmd, waiting := [] }
            .next ((s.setHeap o.dest.home { h with fwd := h.fwd ++ [e] }).setCmd { c with aux := [o.dest.home, old] })

/-- The keys of `n` heap bytes, piece by piece in pages of 4 KiB, or the fault that the relocation engine meets. -/
def State.heapSpan (s : State) (user wr : Bool) (home : Nat) : Nat → Nat → Nat → Except ElemFault (List (Nat × Nat))
  | 0, _, _ => .ok []
  | fuel + 1, va, n =>
    if n = 0 then .ok []
    else do
      let k := min n (4096 - va % 4096)
      let (_, p) ← s.heapPlace (refReq user wr k) home va
      let rest ← s.heapSpan user wr home fuel (va + k) (n - k)
      if s.fenced p then .error ⟨.remoteFailed, 0xA0, heapPtr home va, none⟩
      else if !wr && s.isPoisoned p.key k then .error ⟨.dataPoison, 0, heapPtr home va, none⟩
      else .ok ((p.key, k) :: rest)

/-- Write bytes over a span. -/
def State.spanWrite (s : State) : List (Nat × Nat) → List Byte → State
  | [], _ => s
  | (k, n) :: ps, bs => (s.store k ((bs.take n).map (fun b => (b, 255)))).spanWrite ps (bs.drop n)

/-- The copy of an object as the engine makes it: the spans of the old and new copies. -/
def State.copySpans (s : State) (c : Cmd) (home : Nat) (f : FwdEntry) : Except ElemFault (List (Nat × Nat) × List (Nat × Nat)) := do
  let a ← s.heapSpan c.req.user false home (f.size / 4096 + 2) f.old (16 + f.size)
  let b ← s.heapSpan c.req.user true f.nhome (f.size / 4096 + 2) f.new (16 + f.size)
  .ok (a, b)

/-- The running relocation of a command. -/
def State.relocation (s : State) (cmd : Nat) : Option (Cmd × Nat × FwdEntry) := do
  let c ← s.cmd? cmd
  match c.aux with
  | [home, old] =>
    let f ← (s.heap home).fwd.find? (fun f => f.old = old && f.copying && f.cmd = cmd)
    if c.phase = .running && c.fault.isNone then some (c, home, f) else none
  | _ => none

/-- The requests that waited perform in arrival order (R280, R340). -/
def State.serveWaiting (s : State) (ids : List Nat) : State :=
  ids.foldl (fun t id => match t.msg? id with
    | some m => (match t.perform m with | some u => u | none => t)
    | none => t) s

/-- The header of a new copy: UTYPE and SIZE as they were, LIVE 1 and no pins; and of an old one, LIVE 0 (R340). -/
def headerNew (w size : Nat) : Nat := w / 2 ^ 64 * 2 ^ 64 + 2 ^ 48 + size
def headerOld (w : Nat) : Nat := w - natBit w 48 * 2 ^ 48

/-- Every entry that names the old copy names the new one (R339). -/
def State.redirect (s : State) (home old nhome new : Nat) : State :=
  { s with heaps := s.heaps.map (fun h => (h.1, { h.2 with fwd := h.2.fwd.map (fun f =>
      if !f.copying && f.nhome = home && f.new = old then { f with nhome := nhome, new := new } else f) })) }

/-- RELOCATION_COPY_DONE (R339, R340): the bytes are copied, the object becomes FORWARDED, and the requests that waited are served on
the new copy. -/
def execRelocationCopyDone (cmd : Nat) (s : State) : Out :=
  match s.relocation cmd with
  | none => .fault (.notEnabled "RELOCATION_COPY_DONE")
  | some (c, home, f) =>
    match s.copySpans c home f with
    | .error _ => .fault (.notEnabled "RELOCATION_COPY_DONE")
    | .ok (a, b) =>
      let bs := a.flatMap (fun p => memReadN s.mem p.1 p.2)
      let hdr := leNat (bs.take 16)
      let s1 := s.spanWrite b (natLe 16 (headerNew hdr f.size) ++ bs.drop 16)
      let s2 := s1.spanWrite a (natLe 16 (headerOld hdr))
      let s3 := s2.redirect home f.old f.nhome f.new
      let h := s3.heap home
      let s4 := s3.setHeap home { h with done := min (h.done + 1) (2 ^ 32 - 1)
                                         fwd := h.fwd.map (fun g => if g.old = f.old then { g with copying := false, waiting := [] } else g) }
      s.unitWrite ((s4.serveWaiting f.waiting).cmdDone c false) (.engine c.mdie c.ctx) "RELOCATION_COPY_DONE"

/-- RELOCATION_COPY_FAULT (R340): the entry is deleted, the requests that waited perform on the old copy, and the command stops. -/
def execRelocationCopyFault (cmd : Nat) (s : State) : Out :=
  match s.relocation cmd with
  | none => .fault (.notEnabled "RELOCATION_COPY_FAULT")
  | some (c, home, f) =>
    match s.copySpans c home f with
    | .ok _ => .fault (.notEnabled "RELOCATION_COPY_FAULT")
    | .error e =>
      let h := s.heap home
      let s1 := s.setHeap home { h with fwd := h.fwd.filter (fun g => g.old ≠ f.old) }
      s.unitWrite ((s1.serveWaiting f.waiting).cmdFault { c with aux := [] } (engFault (relocCause e.cause) e.fa (relocDetail f.old 0)))
        (.engine c.mdie c.ctx) "RELOCATION_COPY_FAULT"

/-- One step of an advance of the heap's epoch (R342), which has made `n` of them: TRANS on each M-die in order, then E_h on each in
order, then the freeing of the entries created in epoch E − 1, then the clearing of TRANS. -/
def State.epochStep (s : State) (n : Nat) : State :=
  if n < 4 then s.setHeap (8 + n) { s.heap (8 + n) with trans := true }
  else if n < 8 then s.setHeap (4 + n) { s.heap (4 + n) with epoch := s.heapE + 1 }
  else if n = 8 then
    { s with heaps := s.heaps.map (fun h => (h.1, { h.2 with fwd := h.2.fwd.filter (fun f => f.epoch + 1 ≠ s.heapE) })) }
  else { s with heapE := s.heapE + 1, heaps := s.heaps.map (fun h => (h.1, { h.2 with trans := false })) }

/-- HP_EPOCH_RUN (R342): the first command of the package makes the next step of its advance, and is done with the last. It begins once
no entry created in epoch E − 1 is COPYING. -/
def execHpEpochRun (cmd : Nat) (s : State) : Out :=
  match s.cmd? cmd with
  | none => .fault (.notEnabled "HP_EPOCH_RUN")
  | some c =>
    let mine := s.cmds.filter (fun d => d.req.kind = .hpEpoch && d.phase = .running)
    let copying := s.heaps.any (fun h => h.2.fwd.any (fun f => f.copying && f.epoch + 1 = s.heapE))
    let n := c.aux.length
    if !(c.req.kind = .hpEpoch && c.phase = .running) || ((mine.head?).map (·.id)) ≠ some cmd || (n = 0 && copying) then
      .fault (.notEnabled "HP_EPOCH_RUN")
    else if n < 9 then .next ((s.epochStep n).setCmd { c with aux := n :: c.aux })
    else .next ((s.epochStep n).cmdDone { c with aux := [] } false)

end Sys2Proof.Machine
end

