-- ==== Sys2Proof/Machine/Pitch.lean ====
section
/-!
DEFINITION. Sys2Proof/Machine/Pitch.lean: the life of a pitch execution up to its end. Entry (R37, R58, R150), the
speculative successor (R29, R30, R162), the return of loads (R124, R131, R135, R140), and quiescence (R23, R164).
-/

namespace Sys2Proof.Machine

/-! ### Blocked and ready contexts -/

/-- The context in an active slot, and the one in the bank beside it. -/
def State.inSlot (s : State) (core slot : Nat) : Option Ctx := s.ctxs.find? (fun x => x.core = core && x.slot = slot && x.place = .active)
def State.inBank (s : State) (core slot : Nat) : Option Ctx := s.ctxs.find? (fun x => x.core = core && x.slot = slot && x.inBank)

/-- The nest and ordinal of a strand. -/
def Ctx.ordinal (x : Ctx) : Option (Nat × Nat) :=
  match x.job with
  | .nest l n => some (l, n)
  | _ => none

/-- The context of least ordinal among some. -/
def lowestOrdinal : List Ctx → Option Ctx
  | [] => none
  | x :: xs =>
    match lowestOrdinal xs with
    | none => some x
    | some y => if ((x.ordinal.map (·.2)).getD 0) ≤ ((y.ordinal.map (·.2)).getD 0) then some x else some y

/-- The context that a block of the strand in a slot has selected (R305, R369). -/
def State.selected (s : State) (core slot : Nat) : Option Ctx := s.ctxs.find? (fun e => e.core = core && e.fillTo = some slot)

/-- The context that a strand selects as it blocks in waitv or yields (R305): the ready one of its nest and core of the lowest ordinal
below its own, unless its slot has selected one (R369). -/
def State.selects (s : State) (x : Ctx) : Option Ctx :=
  match x.ordinal with
  | none => none
  | some (l, n) =>
    if (s.selected x.core x.slot).isSome then none
    else lowestOrdinal (s.ctxs.filter (fun e => e.core = x.core && s.ready? e && (match e.ordinal with
      | some (k, j) => k = l && decide (j < n)
      | none => false)))

/-- A strand that blocks in waitv or yields makes its choice once, at the block (R305); the block is over when the strand waits no
longer. -/
def State.noteBlock (s : State) (x : Ctx) : State :=
  let b := x.offered || s.watching x
  if b = x.blockSeen then s
  else
    let t := match (if b && x.place = .active then s.selects x else none) with
      | some e => s.setCtx { e with fillTo := some x.slot }
      | none => s
    t.setCtx { x with blockSeen := b }

/-- Every strand that blocks makes its choice. -/
def State.noteBlocks (s : State) : State := s.ctxs.foldl (fun (t : State) x => match t.ctx? x.id with | some y => t.noteBlock y | none => t) s

/-- A strand that has offered its slot is to be swapped out (R157, R301, R305). -/
def State.offerTaken (s : State) (x : Ctx) : Bool :=
  x.offered && ((s.selected x.core x.slot).isSome || (match s.inBank x.core x.slot with | some b => b.place = .bank && s.ready? b | none => false))

/-! ### Entry -/

/-- A wait has ended by itself: the requests it names have performed and returned. -/
def State.waitDone (s : State) : Wait → Bool
  | .msgs ids => ids.all (fun i => (s.msg? i).isNone)
  | .acq _ _ => true
  | _ => false

/-- The strand may enter its next pitch. -/
def State.entryDue (s : State) (x : Ctx) : Bool :=
  x.place = .active && x.cur.isNone && x.retiring.isNone && x.waits.all s.waitDone && !s.offerTaken x

/-- A context enters a pitch: its waits are over, and those that acquire do so (R236). -/
def State.enter (s : State) (x : Ctx) (pc : Word) : State :=
  x.waits.foldl (fun t w => match w with | .acq sc ep => t.acquireAt x.id sc ep | _ => t)
    (s.setCtx { x with waits := [], offered := false, pc := pc })

/-- A fault of the pitch as a whole (R175). -/
def pitchFault (c : Cause) (pc : Word) (detail : Nat) : FaultRec := ⟨c, pc, detail, none, none, false⟩

/-- Whether a pitch with LKIND runs (R150): skipped or not, or LOOP_STATE. -/
def Ctx.loopRuns (x : Ctx) (pc : Word) (h : Header) : Except FaultRec Bool :=
  if h.lkind = 0 then .ok true
  else
    let lc := x.lc.toList.getD h.llvl 0
    let lp := (x.lp.toList.getD h.llvl 0).toNat
    let lm := (x.lm.toList.getD h.llvl 0).toNat
    if !loopAct lc || (h.lkind = 2 && loopKind lc = 2) then .error (pitchFault .loopState pc h.llvl)
    else .ok (if h.lkind = 1 then lp = 0 else lp + 1 = lm)

/-- Deliver the read map (R21): entries whose register `hold` names are kept for later. -/
def Exec.readRegs (ex : Exec) (x : Ctx) (hold : Nat → Bool) : Exec :=
  (ex.hdr.rmap.zipIdx).foldl (fun (e : Exec) r =>
    if hold r.1.1 then { e with heldReads := e.heldReads ++ [r.2] }
    else
      let t := x.regToken e.img.vl (lsewOf e.img.sc) r.1.1
      (e.deliver none t r.1.2.1).deliver none t r.1.2.2) ex

/-- The execution of an empty pitch, whose fetch trapped (R37, R167). -/
def Exec.untouched (serial : Nat) (x : Ctx) (pc : Word) (f : FaultRec) : Exec :=
  let p : Pitch := ⟨1, ⟨0, 0, 0, 0, 0, false, 0, [], []⟩, []⟩
  { Exec.start serial pc p x (!x.sup) with
    fetchTrap := some f, pages := [(0, 0, setField f.fa 0 12 (if f.cause = .protection then 2 else 0))] }

/-- A register that the pitch reads, or a descriptor of its image, waits for responses (R27). -/
def Ctx.readsPending (x : Ctx) (h : Header) : Bool :=
  x.pendingRegs.any (fun r => (72 ≤ r && r < 80) || h.rmap.any (fun m => m.1 = r))

/-- PITCH_ENTRY (R37, R58, R150): a fault of entry ends the pitch; a pitch that its loop skips leads to its fall-through; otherwise
its execution begins. -/
def execPitchEntry (c : Nat) (s : State) : Out :=
  let no : Out := .fault (.notEnabled "PITCH_ENTRY")
  match s.ctx? c with
  | none => no
  | some x0 =>
    match x0.next with
    | none => no
    | some pc =>
      if !s.entryDue x0 then no
      else
        let s1 := s.enter x0 pc
        match s1.ctx? c with
        | none => no
        | some x =>
          let s2 := { s1 with free := s1.free + 8 }
          let stop (f : FaultRec) : Out :=
            .next (if f.recov then s2.takeTrap { x with charged := [] } (Exec.untouched s.nextId x pc f) f
              else s2.setCtx ({ x with charged := [] }.discard f))
          match s1.decodeHead (s1.decMode x) pc with
          | .error f => stop f
          | .ok (lines, h, content, at1, _, _) =>
            match x.charged, x.loopRuns pc h with
            | [], .error f => stop f
            | [], .ok false => .next (s2.setCtx { x with next := some (lineAt pc lines) })
            | charged, _ =>
              match decodeRest (s1.decMode x) pc lines h content at1 with
              | .error f => stop f
              | .ok p =>
                match charged with
                | f :: _ => stop f
                | [] =>
                  if x.readsPending p.hdr then no
                  else
                    let ex := (Exec.start s1.nextId pc p x (!x.sup)).readRegs x (fun _ => false)
                    .next ({ s2 with nextId := s2.nextId + 1 }.setCtx { x with next := none, cur := some ex, spec := none })

/-! ### What a taken exit does -/

/-- Apply what a taken exit does to the strand's state (R147 to R152, R157, R160), and the stride it adds to an x register. `y` is the
strand after the csrw writes of the pitch. -/
def Ctx.takeExit (y : Ctx) (ex : Exec) (fx : ExitFx) : Ctx × List RegWrite :=
  let ft := lineAt ex.pc ex.nlines
  let at_ (a : Word) : Ctx := { y with next := some a }
  let off (d : Int) : Word := (offTarget ex.pc d).getD ex.pc
  match fx with
  | .goto a => (at_ a, [])
  | .call a => ({ at_ a with retStack := (ft :: y.retStack).take 16 }, [])
  | .ret a => ({ at_ a with retStack := y.retStack.drop 1 }, [])
  | .fall => (at_ ft, [])
  | .strip d =>
    let v := ex.ffmin.getD ex.img.vl
    let sn := y.sn.toNat - min v y.sn.toNat
    let z := { y with sb := y.sb + BitVec.ofNat 48 v, sn := BitVec.ofNat 48 sn }
    if 0 < sn then ({ z with sq := sn, sk := if sn < y.sq then 0 else y.sk + 1, next := some (off d) }, [])
    else ({ z with sq := 2 ^ 48, sk := 0, next := some ft }, [])
  | .loopClose l leave d =>
    if h : l < 6 then
      let lp := (ex.img.lp[l]).toNat
      let z := { y with lp := y.lp.set l (BitVec.ofNat 48 (lp + 1)) }
      if leave ∨ lp + 1 = (ex.img.lm[l]).toNat then ({ z with lc := y.lc.set l (setField y.lc[l] 7 1 0), next := some ft }, [])
      else ({ z with next := some (off d) }, [.addX (natBits (ex.img.lc[l]).toNat 0 5) y.ls[l]])
    else (at_ ft, [])
  | .loopSet l isWhile xreg trip stride d =>
    if h : l < 6 then
      let kind := if isWhile then 2 else 1
      let lc : Word := BitVec.ofNat 64 ((if trip = 0 then 0 else 128) + kind * 32 + xreg % 32)
      let deeper : Vector Word 6 := Vector.ofFn (fun j => if l < j.val then setField y.lc[j] 7 1 0 else y.lc[j])
      ({ y with lp := y.lp.set l 0, lm := y.lm.set l (BitVec.ofNat 48 trip), ls := y.ls.set l stride, lc := deeper.set l lc
                next := some (if trip = 0 then off d else ft) }, [])
    else (at_ ft, [])
  | .yield => ({ at_ ft with offered := true }, [])
  | .rtp => ({ y with next := none }, [])
  | .fin => ({ y with next := none, retiring := some y.intrap }, [])

/-- A csrw reaches its register (R10, R11, R12, R13, R161). -/
def Ctx.csrPut (x : Ctx) (n : Nat) (v : Word) : Ctx :=
  let v48 : BitVec 48 := BitVec.ofNat 48 v.toNat
  let lvl (base : Nat) (f : Fin 6 → Ctx) : Ctx := if h : n - base < 6 then (if base ≤ n then f ⟨n - base, h⟩ else x) else x
  if n = 0 then { x with sb := v48 }
  else if n = 1 then { x with sn := v48 }
  else if n = 3 then { x with sc := v &&& 0xFF03 }
  else if 0x10 ≤ n ∧ n ≤ 0x15 then lvl 0x10 (fun i => { x with lp := x.lp.set i v48 })
  else if 0x18 ≤ n ∧ n ≤ 0x1D then lvl 0x18 (fun i => { x with lm := x.lm.set i v48 })
  else if 0x20 ≤ n ∧ n ≤ 0x25 then lvl 0x20 (fun i => { x with ls := x.ls.set i v })
  else if 0x28 ≤ n ∧ n ≤ 0x2D then lvl 0x28 (fun i => { x with lc := x.lc.set i (v &&& 0xFF) })
  else if n = 0x33 then { x with ff := setField v 0 16 0 }
  else if n = 0x34 then { x with fr := v }
  else if n = 0x50 then { x with fx := v &&& 0x3F }
  else if n = 0x51 then { x with fe := v &&& 0x1F }
  else if n = 0x52 then { x with sl := v }
  else x

/-- The buffered effects of an execution in index order. -/
def Exec.inOrder (ex : Exec) : List (Nat × Effect) := (List.range 64).flatMap (fun n => ex.bufs.filter (fun b => b.1 = n))

/-- The csrw writes of a pitch in ascending index order (R146). -/
def Ctx.csrWrites (x : Ctx) (ex : Exec) : Ctx :=
  ex.inOrder.foldl (fun (y : Ctx) b => match b.2 with | .csrw n v => y.csrPut n v | _ => y) x

/-- The pitch writes a CSR. -/
def Exec.writesCsr (ex : Exec) (p : Nat → Bool) : Bool := ex.bufs.any (fun b => match b.2 with | .csrw n _ => p n | _ => false)

/-- A taken strip exit. -/
def ExitFx.isStrip : ExitFx → Bool
  | .strip _ => true
  | _ => false

/-- The strand after the csrw writes, the exit and the updates of vl, fx, sl and fr (R14, R76, R83, R127, R146, R156). -/
def Ctx.afterPitch (x : Ctx) (ex : Exec) (fx : ExitFx) : Ctx × List RegWrite :=
  let y := x.csrWrites ex
  let (z, adds) := y.takeExit ex fx
  let grant := fx.isStrip || ex.writesCsr (fun n => n = 1 || n = 3)
  let vl := if grant then grantVl z.sn z.sc else ex.ffmin.getD z.vl
  let draws := ex.drawsBefore 64
  let sl := if ex.writesCsr (· = 0x52) ∨ draws = 0 then z.sl else BitVec.ofNat 64 (lfsrSteps (32 * draws) z.sl.toNat)
  let fr := ex.inOrder.foldl (fun a b => match b.2 with | .setrecov w => w | _ => a) z.fr
  ({ z with vl := vl, sl := sl, fr := fr, fx := z.fx ||| ((ex.flags ||| ex.mx.flags).setWidth 64) }, adds)

/-! ### Quiescence -/

/-- The condition reported first (R164): one without an index, then the lowest index. -/
def firstFault (fs : List FaultRec) : Option FaultRec :=
  match fs.find? (fun f => f.idx.isNone) with
  | some f => some f
  | none => (List.range 64).findSome? (fun n => fs.find? (fun f => f.idx = some n))

/-- Every declared write slot and store LSID holds a token (R23). -/
def Exec.slotsFull (ex : Exec) : Bool :=
  (List.range ex.hdr.wcnt).all (fun k => ex.wslots.any (fun w => w.1 = k) || ex.reserved.any (fun w => w.1 = k))
    && (List.range 32).all (fun l => !ex.hdr.smask.getLsbD l || ex.instrs.any (fun t => ex.fired.getLsbD t.1 && lsidOf t.2 = some (l, .store)))

/-- NOPROG_LOOP or NOPROG_STRIP (R149, R152). -/
def Ctx.noProgress (x : Ctx) (ex : Exec) (fx : ExitFx) : Option FaultRec :=
  match fx with
  | .loopClose l leave _ =>
    if h : l < 6 then
      if !leave && (ex.img.lp[l]).toNat + 1 = (ex.img.lm[l]).toNat && loopKind ex.img.lc[l] = 2 then some (pitchFault .noprogLoop ex.pc l) else none
    else none
  | .strip _ =>
    let y := x.csrWrites ex
    let sn := y.sn.toNat - min (ex.ffmin.getD ex.img.vl) y.sn.toNat
    if 0 < sn ∧ y.sq ≤ sn ∧ y.sk = 1 then some (pitchFault .noprogStrip ex.pc ex.img.vl) else none
  | _ => none

/-- How the pitch ends, apart from a belay: the fault it reports (R164). -/
def Ctx.pitchEnd (x : Ctx) (ex : Exec) : Option FaultRec :=
  match firstFault (ex.faults.filter (fun f => !f.recov)) with
  | some f => some f
  | none =>
    match firstFault ex.faults with
    | some f => some f
    | none =>
      match ex.taken with
      | [] => some (pitchFault .pitchStall ex.pc 0)
      | [(_, fx)] =>
        if ex.multi then some (pitchFault .multiExit ex.pc 2)
        else if !ex.slotsFull then some (pitchFault .pitchStall ex.pc 1)
        else x.noProgress ex fx
      | l => some (pitchFault .multiExit ex.pc l.length)

/-- PITCH_QUIESCENCE (R23, R164): with nothing able to fire and no load outstanding, waiting loads are sent, or the pitch's end is
decided: a discard, a trap, or the belay to come. -/
def execPitchQuiescence (c : Nat) (s : State) : Out :=
  let no : Out := .fault (.notEnabled "PITCH_QUIESCENCE")
  match s.ctx? c with
  | none => no
  | some x =>
    match x.cur with
    | none => no
    | some ex =>
      if x.place ≠ .active ∨ ex.decided ∨ ex.canFire ∨ ex.mxBusy ∨ ex.loads.any (·.sent) then no
      else
        match (List.range 32).findSome? ex.unsent with
        | some ld => .next ((s.sendLoad x false ex ld).settle c false)
        | none =>
          match x.pitchEnd ex with
          | some f =>
            let t := s.pairDrop c f.cause.code
            .next (if f.recov then t.takeTrap x ex f else t.setCtx (x.discard f))
          | none => .next (s.setCtx { x with cur := some { ex with decided := true } })

/-! ### Speculation -/

/-- A pitch that ends speculation (R123, R158), or whose belay the successor must wait for (R236, R299). -/
def Exec.endsSpec (ex : Exec) : Bool :=
  ex.hdr.lkind ≠ 0 || ex.instrs.any (fun t => match t.2 with
    | .fence _ | .lda _ | .waitv _ | .waitc _ | .yield _ | .rtp _ | .fin _ | .csrw _ | .bar _ | .futSet _ => true
    | .amoAdd o | .amoAnd o | .amoOr o | .amoXor o | .amoMin o | .amoMax o | .amoSwap o | .amoCas o => (match o.ord with | .acq | .ar | .sc => true | _ => false)
    | _ => false)

/-- What an exit that has not fired is predicted to do. -/
def Ctx.predict (x : Ctx) (ex : Exec) (i : Instr) : List ExitFx :=
  let off (d : Int) : Word := (offTarget ex.pc d).getD ex.pc
  match i with
  | .br o => [.goto (off o.off.toInt)]
  | .brCall o => [.call (off o.off.toInt)]
  | .brRet _ => x.retStack.head?.toList.map .ret
  | .brStrip o => [.strip o.off.toInt]
  | .brEs o => [.fall, .goto (off o.off.toInt)]
  | .loop o => [.loopClose o.lvl.val false o.off.toInt]
  | _ => []

/-- SPECULATIVE_START (R29, R30, R162): the strand begins the pitch that it predicts from the current pitch's exits, on the strip and
loop state that it predicts. Which of the exits is predicted is free. -/
def execSpeculativeStart (c : Nat) (s : State) : Out :=
  let no : Out := .fault (.notEnabled "SPECULATIVE_START")
  match s.ctx? c with
  | none => no
  | some x =>
    match x.cur with
    | none => no
    | some ex =>
      let fxs : List ExitFx := match ex.taken with
        | [] => ex.instrs.flatMap (fun (t : Nat × Instr) => if ex.done t.1 then [] else x.predict ex t.2)
        | l => l.map (fun (t : Nat × ExitFx) => t.2)
      match fxs[Config.freeNat s.free % fxs.length]? with
      | none => no
      | some fx =>
        let (y, adds) := x.afterPitch ex fx
        if x.place ≠ .active ∨ x.spec.isSome ∨ ex.decided ∨ x.pend ≠ [] ∨ x.charged ≠ [] ∨ ex.endsSpec then no
        else
          match y.next with
          | none => no
          | some pc =>
            match { s with free := s.free + 1 }.decodePitch (s.decMode x) pc with
            | .error _ => no
            | .ok p =>
              if p.hdr.lkind ≠ 0 then no
              else
                let sp := { (Exec.start s.nextId pc p y (!x.sup)).readRegs (x.applyWrites adds) (fun r => ex.hdr.wmap.contains r && r ≠ 0 && r ≠ 64)
                  with adds := adds }
                .next ({ s with nextId := s.nextId + 1, free := s.free + 9 }.setCtx { x with spec := some sp })

/-- The prediction of a speculative execution holds (R29, R162): its pitch, and the values it started from. -/
def Exec.holdsFor (sp : Exec) (y : Ctx) : Bool :=
  y.next = some sp.pc && { sp.img with fr := y.fr, fx := y.fx } = y.startImage

/-- The speculative execution becomes the current one (R29): it receives the registers that its predecessor wrote. -/
def Exec.adopt (sp : Exec) (y : Ctx) : Exec :=
  let held := sp.heldReads
  let e0 := { sp with img := y.startImage, heldReads := [], adds := [] }
  held.foldl (fun (e : Exec) k => match e.hdr.rmap[k]? with
    | some r =>
      let t := y.regToken e.img.vl (lsewOf e.img.sc) r.1
      (e.deliver none t r.2.1).deliver none t r.2.2
    | none => e) e0

/-! ### Loads return -/

/-- The execution, instruction and element that a load's request serves. -/
def Body.loadKey : Body → Option (Nat × Nat × Nat)
  | .load serial idx els _ _ _ _ _ => some (serial, idx, els.foldl (fun a t => min a t.e) 255)
  | .refLoad serial idx e _ _ _ _ | .opRead serial idx e _ => some (serial, idx, e)
  | .watch serial idx _ _ _ _ => some (serial, idx, 0)
  | _ => none

/-- The requests of the same load as a key's. -/
def Body.sameLoad (b : Body) (serial idx : Nat) : Bool :=
  match b.loadKey with
  | some (a, n, _) => decide (a = serial) && decide (n = idx)
  | none => false

/-- A response fault of a load is raised (R131): nothing is delivered, and its other requests are dropped. -/
def State.loadFault (s : State) (x : Ctx) (spec : Bool) (ex : Exec) (ld : LoadRec) (f : FaultRec) (access : Option Nat) : State :=
  let rec_ := Cause.recov f.cause
  let ex1 := ex.failLoad ld rec_
  let ex2 := { ex1 with
    bufs := ex1.bufs.filter (fun b => b.1 ≠ ld.idx)
    pages := ex1.pages ++ (access.map (fun a => (ld.idx, f.elem.getD 0, setField f.fa 0 12 a))).toList }
  { s with net := s.net.filter (fun m => !(m.src = Src.ctx x.id && m.body.sameLoad ex.serial ld.idx)) }.setCtx
    (x.putExec spec (ex2.fault { f with idx := some ld.idx, recov := rec_ }))

/-- The address that a failed element reports. -/
def respAddr (b : Body) : Word :=
  match b with
  | .load _ _ els ptr _ _ _ _ =>
    let first := els.foldl (fun a t => min a t.e) 255
    ptr + BitVec.ofNat 64 (((els.find? (fun t => t.e = first)).map (·.off)).getD 0)
  | .refLoad _ _ _ ref off _ _ => heapPtr (refHint ref) ((refHa ref : Int) + 16 + off).toNat
  | .opRead _ _ _ (.nbr h ..) => h
  | _ => 0

/-- The fault of a failed response (R131, R141, R322). -/
def respFault (ld : LoadRec) (b : Body) (e : Nat) (c : Cause) (detail : Nat) : FaultRec :=
  match b with
  | .opRead _ _ _ (.nbr h face _ _ _) => ⟨c, h, face, if detail < 256 then some detail else none, some ld.idx, false⟩
  | .refLoad _ _ _ ref _ _ _ =>
    if wholeCause c then ⟨c, ref, detail, none, some ld.idx, false⟩ else ⟨c, respAddr b, detail, some e, some ld.idx, false⟩
  | .watch .. => ⟨c, (ld.els.headD ⟨0, 0, 0, 0, none, none⟩).base, detail, some 0, some ld.idx, false⟩
  | _ => ⟨c, respAddr b, detail, some (if ld.shape = .mask then 0 else e), some ld.idx, false⟩

/-- The bytes that a load takes from a response: the pitch's own lower stores lie over them (R25). -/
def State.respBytes (s : State) (ex : Exec) (ld : LoadRec) (b : Body) (bs : List Byte) : List Byte :=
  match b with
  | .load _ _ _ _ p _ _ _ => if ld.kind = .vsadd then bs else s.loadData ex ld.idx p.peer p.key bs
  | .watch _ _ p _ _ _ => s.loadData ex ld.idx p.peer p.key bs
  | .refLoad _ _ _ ref off n _ =>
    (match s.refKey ref off n with
    | some k => s.loadData ex ld.idx none k bs
    | none => bs)
  | _ => bs

/-- A load with the bytes of one response: of the elements that its request serves, or of every element of a neighbour query. -/
def LoadRec.fill (ld : LoadRec) (b : Body) (e : Nat) (bs : List Byte) : LoadRec :=
  match b with
  | .opRead .. => { ld with els := (ld.els.zipIdx).map (fun (t : LdElem × Nat) => { t.1 with val := some ((bs.drop (8 * t.2)).take 8) }) }
  | .load _ _ els .. => { ld with els := ld.els.map (fun el => match els.find? (fun t => t.e = el.e) with
      | some t => { el with val := some ((bs.drop t.off).take t.n) }
      | none => el) }
  | _ => { ld with els := ld.els.map (fun el => if el.e = e then { el with val := some bs } else el) }

/-- The word that ldref read has come (R140): it must be a reference or zero, and the barrier runs on it; its present reference is delivered, and healed where it differs from the word in any bit
(R334, R338). -/
def State.refWordDone (s : State) (x : Ctx) (spec : Bool) (ex : Exec) (ld : LoadRec) (viaRef heal : Bool) : State :=
  let el := ld.els.headD ⟨0, 0, 0, 0, none, none⟩
  let w : Word := BitVec.ofNat 64 (leNat (el.val.getD []))
  let finish (v : Word) : State :=
    let e0 := ex.dropLoad ld.idx
    let e1 := match e0.bufs.find? (fun b => b.1 = ld.idx), heal with
      | some (_, .heal l k p via off pl _ _), true =>
        if v = w then { e0 with bufs := e0.bufs.filter (fun b => b.1 ≠ ld.idx) } else e0.buffer ld.idx (.heal l k p via off pl w v)
      | _, _ => e0
    let e2 := if ld.deliver then
        (match ex.instr? ld.idx with
        | some i => e1.deliverAll ld.idx { Token.scalar v.toNat with ref := true } (outsAt ld.idx i)
        | none => e1)
      else e1
    s.setCtx (x.putExec spec e2)
  if w = 0 then finish 0
  else if spaceOf w ≠ 2 then
    s.loadFault x spec ex ld (if viaRef then ⟨.refInvalid, el.base, intToNat 32 el.delta, none, none, false⟩
      else ⟨.refInvalid, (addOffset el.base el.delta).1, 0, none, none, false⟩) none
  else
    match s.barrier ex.user false w with
    | .error f => s.loadFault x spec ex ld ⟨f.cause, f.fa, f.detail, none, none, false⟩ f.access
    | .ok o => finish o.dest.present

/-- A load whose every element has returned is completed: its token is delivered, with the acquire that its kind makes. -/
def State.loadDone (s : State) (x : Ctx) (spec : Bool) (ex : Exec) (ld : LoadRec) : State :=
  let put (e : Exec) : State := s.setCtx (x.putExec spec e)
  match ld.kind with
  | .watch _ _ => (put (ex.finishLoad ld)).acquire x.id
  | .refObj true heal => s.refWordDone x spec ex ld true heal
  | .refWord heal => s.refWordDone x spec ex ld false heal
  | .vsadd => put (ex.vsaddForm x ld)
  | .plain | .first | .acquire _ | .refObj false _ | .matrix | .nbr => put (ex.finishLoad ld)

/-- A load's request has been answered: `r` reaches the strand that waits for it. One whose execution has gone is dropped (R29). -/
def State.loadReturn (s : State) (m : Msg) (r : Resp) : State :=
  let s1 := s.dropMsg m.id
  match m.src, m.body.loadKey with
  | .ctx c, some (serial, idx, e) =>
    (match s1.ctx? c with
    | none => s1
    | some x =>
      match x.bySerial serial with
      | none => s1
      | some (spec, ex) =>
        match ex.loads.find? (fun k => k.idx = idx), r with
        | some ld, .err cause detail =>
          (s1.loadFault x spec ex ld (respFault ld m.body e cause detail)
            (if cause = .transNotPresent then some 0 else if cause = .protection then some 2 else none)).settle c spec
        | some ld, .data bs =>
          let ld1 := ld.fill m.body e (s1.respBytes ex ld m.body bs)
          if ld1.complete then (s1.loadDone x spec ex ld1).settle c spec else s1.setCtx (x.putExec spec (ex.setLoad ld1))
        | _, _ => s1)
  | _, _ => s1

/-- A lower element of the same load has not returned: its fault would be the one reported (R131). -/
def State.lowerOut (s : State) (m : Msg) : Bool :=
  match m.body.loadKey with
  | some (serial, idx, e) => s.net.any (fun a => a.src = m.src && (match a.body.loadKey with
      | some (p, n, k) => p = serial && n = idx && decide (k < e)
      | none => false))
  | none => false

/-- A watched word is being watched, or its first read is still to come. -/
def Body.isSeenWatch : Body → Bool
  | .watch _ _ _ _ _ seen => seen
  | _ => false

/-- LOAD_RESPONSE (R124, R131, R135): the data of one request of a load, or its fault. -/
def execLoadResponse (m : Nat) (s : State) : Out :=
  let no : Out := .fault (.notEnabled "LOAD_RESPONSE")
  match s.msg? m with
  | none => no
  | some msg =>
    match msg.resp with
    | none => no
    | some r =>
      let late := match r with | .err _ _ => s.lowerOut msg | _ => false
      if msg.body.loadKey.isNone || (msg.body.isSeenWatch && (match r with | .data _ => true | _ => false)) || late then no
      else .next (s.loadReturn msg r)

/-- WAITV_VALUE_CHANGE (R135): the watched word has taken a value other than X, the first of which is delivered. -/
def execWaitvValueChange (m : Nat) (s : State) : Out :=
  match s.msg? m with
  | none => .fault (.notEnabled "WAITV_VALUE_CHANGE")
  | some msg =>
    match s.watchReady msg with
    | some bs => .next (s.loadReturn msg (.data bs))
    | none => .fault (.notEnabled "WAITV_VALUE_CHANGE")

/-- WAITV_TIMEOUT (R135): the word has held X for T ac from the first read. -/
def execWaitvTimeout (m : Nat) (s : State) : Out :=
  match s.msg? m with
  | none => .fault (.notEnabled "WAITV_TIMEOUT")
  | some msg =>
    match msg.body with
    | .watch _ _ _ x deadline true =>
      if msg.resp.isNone ∧ (s.watchReady msg).isNone ∧ deadline ≤ s.ac16 (vectorIsland ((s.srcCore msg).getD 0)) then .next (s.loadReturn msg (.data (natLe 8 x.toNat)))
      else .fault (.notEnabled "WAITV_TIMEOUT")
    | _ => .fault (.notEnabled "WAITV_TIMEOUT")

/-! ### Waitc -/

/-- The counters of waitc for a class (R134): loads, stores, copies and tiles. -/
def State.waitCounts (s : State) (x : Ctx) (cls : Nat) : Nat × Nat × Nat × Nat :=
  let mine := s.net.filter (fun m => m.src = .ctx x.id && (cls = 15 || m.cls = cls))
  let isStore (b : Body) : Bool := match b with | .store .. | .refStore .. | .atomic .. | .op (.hpMake ..) _ => true | _ => false
  ((mine.filter (fun m => m.body.isLoad && !m.body.unordered)).length, (mine.filter (fun m => isStore m.body)).length,
   (x.es.toList.filter (· == .busy)).length, (x.stts.filter (fun t => t.2.any (fun i => (s.msg? i).isSome))).length)

/-- WAITC_COMPLETE (R134): the first of the strand's waits whose four counts hold ends, as an acquire at ENGINE scope where one of copies
and tiles was awaited. -/
def execWaitcComplete (c : Nat) (s : State) : Out :=
  let no : Out := .fault (.notEnabled "WAITC_COMPLETE")
  match s.ctx? c with
  | none => no
  | some x =>
    let ended (w : Wait) : Bool := match w with
      | .counts cls l t p q _ =>
        let (a, b, d, e) := s.waitCounts x cls
        decide (a ≤ l) && decide (b ≤ t) && decide (d ≤ p) && decide (e ≤ q)
      | _ => false
    match x.waits.find? ended with
    | some w =>
      let s1 := s.setCtx { x with waits := x.waits.takeWhile (· ≠ w) ++ (x.waits.dropWhile (· ≠ w)).drop 1 }
      .next (match w with | .counts _ _ _ _ _ true => s1.acquireAt c .engine 0 | _ => s1)
    | none => no

end Sys2Proof.Machine
end

