-- ==== Sys2Proof/Machine/Belay.lean ====
section
/-!
DEFINITION. Sys2Proof/Machine/Belay.lean: the belay (R27, R146), what returns after it (R27, R131, R291), and the retirement of a
strand (R160, R174).
-/

namespace Sys2Proof.Machine

/-! ### Releasing the pitch's effects -/

/-- What a belay has sent so far: requests that fill write slots, requests that the strand's next pitch waits for, and stt
instructions with their images. -/
structure Belay where
  s      : State
  awaits : List (Nat × Nat × List Nat)
  waits  : List Nat
  stts   : List (Nat × List Nat)
  deriving DecidableEq, Repr

/-- Send one request of the strand, in the group of an instruction's requests; its core notes it (R183). -/
def Belay.sendIn (b : Belay) (grp : Nat) (x : Ctx) (cls : Nat) (body : Body) : Belay :=
  let t := b.s.sendIn grp (.ctx x.id) cls body
  { b with s := match t.msg? b.s.nextId with | some m => if body.bytes.isSome then t.noteSent x.id m else t | none => t }

/-- Send one request of the strand. -/
def Belay.send (b : Belay) (x : Ctx) (cls : Nat) (body : Body) : Belay := b.sendIn b.s.nextId x cls body

/-- Send the requests of one instruction. -/
def Belay.sendAll (b : Belay) (x : Ctx) (cls : Nat) (bs : List Body) : Belay := bs.foldl (fun (a : Belay) y => a.sendIn b.s.nextId x cls y) b

/-- Send a request whose answer fills registers, or that the next pitch waits for. -/
def Belay.askIn (b : Belay) (grp : Nat) (x : Ctx) (cls : Nat) (body : Body) (kind : Nat) (regs : List Nat) (must : Bool) : Belay :=
  let id := b.s.nextId
  { b.sendIn grp x cls body with
    awaits := if regs.isEmpty then b.awaits else b.awaits ++ [(id, kind, regs)]
    waits := if must then b.waits ++ [id] else b.waits }

/-- Send such a request by itself. -/
def Belay.ask (b : Belay) (x : Ctx) (cls : Nat) (body : Body) (kind : Nat) (regs : List Nat) (must : Bool) : Belay :=
  b.askIn b.s.nextId x cls body kind regs must

/-- The registers that the write slots reserved by an instruction name. -/
def Exec.regsFor (ex : Exec) (n : Nat) : List Nat := (ex.reserved.filter (fun r => r.2.2 = n)).map (·.2.1)

/-- The LSID of a buffered access. -/
def Effect.lsid? : Effect → Option Nat
  | .store l _ _ _ | .refStore l _ _ _ | .atomic l .. | .heal l .. | .fence l _ _ => some l
  | _ => none

/-- An ORD that acquires (R137). -/
def ordAcquires : AmoOrd → Bool
  | .acq | .ar | .sc => true
  | _ => false

/-- Release one buffered access (R27 steps 1 and 2). -/
def Belay.access (b : Belay) (x : Ctx) (ex : Exec) (n : Nat) : Effect → Belay
  | .store _ cls rel els => b.sendAll x cls (els.map (fun el => .store el.place el.data rel el.ptr))
  | .refStore _ cls _ els => b.sendAll x cls (els.map (fun el => .refStore el.ref el.off el.data ex.user))
  | .atomic _ op w sc ord vec els =>
    els.foldl (fun (a : Belay) el =>
      a.askIn b.s.nextId x 15 (.atomic el.e op w el.place el.y el.z sc ord el.ptr) (if vec then el.e + 1 else 0) (ex.regsFor n) (ordAcquires ord)) b
  | .heal _ cls p via off place old new => if old = new then b else b.send x cls (.heal p via off place old new ex.user)
  | .fence _ sc mask => b.ask x 15 (.fence sc mask) 0 [] true
  | _ => b

/-- The M-die a command goes to (R223, R348): the mesh engines read their record at the home group first. -/
def State.cmdDie (s : State) (x : Ctx) (r : CmdReq) : Nat :=
  match r.kind with
  | .hpRelocate => (match s.refDest r.user true r.p0 with | .ok d => d.home | .error _ => refHint r.p0)
  | _ => homeOf x.core

/-- Issue one buffered command (R27 step 3, R28, R240, R293, R306). The job of a card on another chip is not known here: it is free. -/
def Belay.issue (b : Belay) (x : Ctx) (ex : Exec) (n : Nat) : Effect → Belay
  | .cmd r =>
    let c : Cmd := { id := b.s.nextId, req := r, ctx := some x.id, card := none, sid := sidOf x, core := x.core, mdie := b.s.cmdDie x r
                     wins := x.wins, phase := .queued, words := [], fault := none, posted := false, slotFault := false, attached := true
                     aux := [] }
    { b with s := { b.s with cmds := b.s.cmds ++ [c], nextId := b.s.nextId + 1 } }.send x 15 (.cmd c.id)
  | .router r => b.ask x 15 (.router r (clusterOf x.core) ex.user) 0 (ex.regsFor n) false
  | .op (.cardPost card sel) _ =>
    let d := dieOf x.core
    if selPeer sel then
      let job := if selChip sel = b.s.chip then b.s.cardJob (stripedPtr (offsetOf card)) else Config.freeNat b.s.free % 256
      let s1 := { b.s with free := b.s.free + 1 }.tcInc d job
      let sc := s1.schedOf d
      { b with s := s1.setSched d { sc with proxy := sc.proxy ++ [⟨selChip sel, card, natBits sel 0 9, job, s1.now, x.id, s1.nextId⟩] } }
    else
      let job := b.s.cardJob card
      { b with s := b.s.tcInc d job }.ask x 15 (.post card (if selOwn sel then x.core else natBits sel 0 9) (some (b.s.sigSrc x)) job d) 0 [] false
  | .op (.cardSig card) _ =>
    let d := dieOf x.core
    let job := b.s.cardJob card
    { b with s := b.s.tcInc d job }.send x 15 (.signal card false (some (b.s.sigSrc x)) job d)
  | .op r _ => b.ask x 15 (.op r { b.s.sigSrc x with idx := n }) 0 (ex.regsFor n) (match r with | .futSet .. => true | _ => false)
  | .vsadd els => b.sendAll x 15 (els.map (fun el => .store el.place el.data none el.ptr))
  | .trigger =>
    (match x.job with
    | .nest l k => if x.triggered then b else b.send x 15 (.trigger l k)
    | _ => b)
  | _ => b

/-- Release the rows of an stt (R202). -/
def Belay.stt (b : Belay) (x : Ctx) (els : List StElem) : Belay :=
  let first := b.s.nextId
  let b1 := b.sendAll x 15 (els.map (fun el => .store el.place el.data none el.ptr))
  { b1 with stts := b1.stts ++ [((els.map (fun e => e.data.length)).foldl (· + ·) 0 / 4096, (List.range els.length).map (first + ·))] }

/-- Steps 1 to 3 of R27: the accesses in LSID order, then what the commands and stt instructions issue in index order. -/
def State.releasePitch (s : State) (x : Ctx) (ex : Exec) : Belay :=
  let b0 : Belay := ⟨s, [], [], []⟩
  let b1 := (List.range 32).foldl (fun (b : Belay) l =>
    ex.bufs.foldl (fun (a : Belay) e => if e.2.lsid? = some l then a.access x ex e.1 e.2 else a) b) b0
  (List.range 64).foldl (fun (b : Belay) n =>
    let b2 := (ex.mx.stt.filter (fun t => t.1 = n)).foldl (fun (a : Belay) t => a.stt x t.2) b
    (ex.bufs.filter (fun e => e.1 = n)).foldl (fun (a : Belay) e => a.issue x ex n e.2) b2) b1

/-- The es slots after the belay: issued commands show BUSY, acknowledged slots IDLE (R219, R226). -/
def Ctx.esAfter (x : Ctx) (ex : Exec) : Ctx :=
  let y := ex.inOrder.foldl (fun (z : Ctx) b => match b.2 with
    | .esack k => z.setEs k .idle
    | .cmd r => z.setEs r.es .busy
    | _ => z) x
  { y with esAt := y.es }

/-- An esack detaches a faulted command from its slot (R224). -/
def State.detach (s : State) (x : Ctx) (ex : Exec) : State :=
  { s with cmds := s.cmds.map (fun c =>
      if c.ctx = some x.id && c.attached && ex.bufs.any (fun b => b.2 == .esack c.req.es) then { c with attached := false } else c) }

/-- The waits of the waitc instructions, as acquires where a counter is above its count (R134). -/
def State.waitcs (s : State) (x : Ctx) (ex : Exec) : List Wait :=
  ex.inOrder.filterMap (fun b => match b.2 with
    | .waitc cls l t p q =>
      let (_, _, copies, tiles) := s.waitCounts x cls
      some (.counts cls l t p q (decide (p < copies) || decide (q < tiles)))
    | _ => none)

/-! ### When the belay must wait -/

/-- The core and the priority that a card.post asks to queue its card at, when it names a card of this chip. -/
def State.postSlot (s : State) (x : Ctx) (user : Bool) : Effect → Option (Nat × Nat)
  | .op (.cardPost card sel) _ =>
    if selPeer sel then none
    else
      match s.cardKey user card with
      | .ok key => some (if selOwn sel then x.core else natBits sel 0 9, natBits (s.peek key 8) 2 2)
      | .error _ => none
  | _ => none

/-- How many posts on their way ask for a core's queue at a priority. -/
def State.postsTo (s : State) (q : Nat × Nat) : Nat :=
  (s.net.filter (fun m => match m.body with
    | .post card core _ _ _ => core = q.1 && (match s.cardKey false card with | .ok key => natBits (s.peek key 8) 2 2 = q.2 | .error _ => false)
    | _ => false)).length

/-- How many pushes on their way to a router pass a test of their set. -/
def State.pushesTo (s : State) (cl : Nat) (p : Nat → Bool) : Nat :=
  (s.net.filter (fun m => m.resp.isNone && (match m.body with | .router (.push t _ _) c _ => c = cl && p t | _ => false))).length

/-- The router has no room for a pitch's pushes to a set, beside those that are on their way (R245). -/
def State.pushWaits (s : State) (x : Ctx) (ex : Exec) (set : Nat) : Bool :=
  let cl := clusterOf x.core
  let k := s.cluster cl
  let mine (p : Nat → Bool) : Nat := (ex.bufs.filter (fun a => match a.2 with | .router (.push t q _) => p t && !k.pushBad t q | _ => false)).length
  let y := k.set set
  decide (1024 < k.recs.length + s.pushesTo cl (fun _ => true) + mine (fun _ => true))
    || (y.ordered && decide (2 ^ y.logw < k.inflight set + s.pushesTo cl (· = set) + min (mine (· = set)) (2 ^ y.logw)))

/-- The belay waits for room for all that the pitch issues (R221, R245, R300): in an engine queue of 64, in a router for its pushes, or in
a card queue for its posts; or for the register that a loop's stride is added to (R27). -/
def State.belayWaits (s : State) (x : Ctx) (ex : Exec) : Bool :=
  let key (r : CmdReq) : Nat × Nat × Nat := (s.cmdDie x r, r.pri, r.kind.unit)
  let count (p : Effect → Bool) : Nat := (ex.bufs.filter (fun b => p b.2)).length
  ex.bufs.any (fun b => match b.2 with
    | .cmd r =>
      decide (64 < (s.cmds.filter (fun c => c.phase = .queued && (c.mdie, c.req.pri, c.req.kind.unit) = key r)).length
        + count (fun e => match e with | .cmd q => key q = key r | _ => false))
    | .router (.push set p _) => !(s.cluster (clusterOf x.core)).pushBad set p && s.pushWaits x ex set
    | e => (match s.postSlot x ex.user e with
      | some q => decide (256 < ((s.core q.1).queue.filter (fun c => c.effPri s.now = q.2)).length + s.postsTo q
          + count (fun f => s.postSlot x ex.user f = some q))
      | none => false))
  || ex.taken.any (fun t => (x.afterPitch ex t.2).2.any (fun w => x.pendingRegs.contains w.reg))

/-! ### The belay -/

/-- The register effects of a pitch: its write slots, then a loop's stride (R18, R146, R149). -/
def Exec.writes (ex : Exec) (adds : List RegWrite) : List RegWrite :=
  ex.wslots.map (fun w => .slot w.2.1 w.2.2 ex.img.vl (lsewOf ex.img.sc)) ++ adds

/-- The strand after its pitch has belayed (R27 step 4, R146), before a successor is adopted. -/
def Ctx.commit (x : Ctx) (ex : Exec) (fx : ExitFx) (b : Belay) (waitcs : List Wait) : Ctx :=
  let (y, adds) := x.afterPitch ex fx
  let pend : PendPitch := { awaits := b.awaits, writes := ex.writes adds, later := [], vl := ex.img.vl, lsew := lsewOf ex.img.sc
                            wmap := ex.reserved.map (·.2.1) }
  let z := { y with cur := none, stts := y.stts ++ b.stts
                    waits := (if b.waits.isEmpty then [] else [Wait.msgs b.waits]) ++ waitcs
                    mismatch := false, triggered := y.triggered || ex.bufs.any (fun e => e.2 == Effect.trigger) }
  (z.esAfter ex).flushPend (x.pend ++ [pend])

/-- The barriers that a pitch arrives at (R236). -/
def State.arrivals (s : State) (x : Ctx) (ex : Exec) : State :=
  ex.inOrder.foldl (fun t b => match b.2 with | .bar bs bid cnt => t.barArrive x.id bs bid cnt | _ => t) s

/-- A speculative successor becomes current when its prediction holds, and is squashed otherwise (R29). -/
def State.succeed (s : State) (c : Nat) : State :=
  match s.ctx? c with
  | none => s
  | some y =>
    match y.spec with
    | none => s
    | some sp =>
      if sp.holdsFor y ∧ y.pend = [] ∧ y.waits = [] ∧ y.charged = [] ∧ y.retiring.isNone then
        (s.setCtx { y with spec := none, cur := some (sp.adopt y), next := none, pc := sp.pc }).settle c false
      else s.setCtx { y with spec := none }

/-- BELAY (R27): the pitch commits as one step. -/
def execBelay (c : Nat) (s : State) : Out :=
  let no : Out := .fault (.notEnabled "BELAY")
  match s.ctx? c with
  | none => no
  | some x =>
    match x.cur with
    | none => no
    | some ex =>
      match ex.taken with
      | [(_, fx)] =>
        if x.place ≠ .active ∨ !ex.decided ∨ s.belayWaits x ex then no
        else
          let b := s.releasePitch x ex
          let y := x.commit ex fx b []
          let (s1, z) := (b.s.detach x ex).mxCommit y ex
          let s2 := s1.setCtx { z with waits := z.waits ++ (s1.setCtx z).waitcs z ex }
          let s3 := (s2.arrivals x ex).pairBelay c
          .next (match fx, s3.ctx? c with
            | .rtp, some w => s3.returnFromTrap { w with spec := none }
            | _, _ => s3.succeed c)
      | _ => no

/-! ### Answers after the belay -/

/-- A request's answer fills the write slots that wait for it (R27): `tok` for its kind, 0 for a scalar or the element number and 1. -/
def PendPitch.resolve (p : PendPitch) (id : Nat) (tok : Nat → Option Token) : PendPitch :=
  match p.awaits.find? (fun a => a.1 = id) with
  | none => p
  | some (_, k, regs) =>
    { p with awaits := p.awaits.filter (fun a => a.1 ≠ id)
             writes := (match tok k with | some t => regs.map (fun r => .slot r t p.vl p.lsew) | none => []) ++ p.writes }

/-- The registers of the strand after an answer (R27): a pitch's writes become architectural with the last of its answers. -/
def Ctx.resolve (x : Ctx) (id : Nat) (tok : Nat → Option Token) : Ctx := x.flushPend (x.pend.map (fun p => p.resolve id tok))

/-- A vector of vl elements of which only element `e` is not null. -/
def oneElem (lw vl e v : Nat) : Token := Token.vector lw ((List.range vl).map (fun i => if i = e then some v else none))

/-- A response error after the belay (R131, R291): the die posts a record and the strand's cairn carries ERR. -/
def State.lateError (s : State) (x : Ctx) (kind : Nat) (addr : Word) (c : Cause) (detail : Nat) : State :=
  (s.postRecord (dieOf x.core) (record291 c.code kind (sidOf x) (s.launchWord x) addr detail)).jobError x.job

/-- ATOMIC_RESPONSE (R27, R131, R136): the old value of an element returns, or a null with its error reported. -/
def execAtomicResponse (m : Nat) (s : State) : Out :=
  let no : Out := .fault (.notEnabled "ATOMIC_RESPONSE")
  match s.msg? m with
  | none => no
  | some msg =>
    match msg.src, msg.body, msg.resp with
    | .ctx c, .atomic _ _ w _ _ _ _ _ ptr, some r =>
      let s1 := s.dropMsg m
      (match s1.ctx? c with
      | none => .next s1
      | some x =>
        let vl := ((x.pend.find? (fun p => p.awaits.any (fun a => a.1 = m))).map (·.vl)).getD 0
        let tok (v : Word) (k : Nat) : Option Token :=
          if k = 0 then some (Token.scalar v.toNat) else some (oneElem (if w = 8 then 6 else 5) vl (k - 1) v.toNat)
        match r with
        | .val (some v) => .next (s1.setCtx (x.resolve m (tok v)))
        | .err cause detail => .next ((s1.setCtx (x.resolve m (fun _ => none))).lateError x 6 ptr cause detail)
        | _ => .next (s1.setCtx (x.resolve m (fun _ => none))))
    | _, _, _ => no

/-- A fatal response fault of a belayed pitch's command (R318, R345, R346): its register writes are dropped, and the fault is
charged to the strand's current pitch, or to the one that it enters next. A strand that has stopped fetching discards at once (R173). -/
def Ctx.lateFault (x : Ctx) (m : Nat) (f : FaultRec) : Ctx :=
  let y := x.flushPend (x.pend.filter (fun p => !p.awaits.any (fun a => a.1 = m)))
  match y.retiring, y.cur with
  | some true, _ => { y with fc := fcWord f false y.intrap y.sup, fa := f.fa, fb := y.sb }
  | some false, _ => { y with retiring := none }.discard f
  | none, some ex => { y with cur := some { ex.fault f with decided := false } }
  | none, none => { y with charged := y.charged ++ [f] }

/-- The address that a response fault of a command names. -/
def OpReq.addr : OpReq → Word
  | .cardPost c _ | .cardSig c | .meshOpen c | .meshClose c | .pin c | .unpin c | .refeq c _ => c
  | .futWait f _ _ | .futSet f _ _ _ => f
  | .hpMake _ h _ _ => h
  | .nbr h _ _ _ _ => h
  | .jobq _ => 0

/-- What fa holds for a response fault of a command: the reference, or the heap address whose page is missing (R175, R345, R346). -/
def OpReq.faultAddr (r : OpReq) (c : Cause) : Word :=
  match r with
  | .pin p | .unpin p | .refeq p _ =>
    (match c with | .transNotPresent | .protection | .dataPoison | .remoteFailed => heapPtr (refHint p) (refHa p) | _ => p)
  | r => r.addr

/-- COMMAND_RESULT_RETURN (R27, R252): the answer of a router, card, future, mesh or heap operation; jobq is answered here from the
counters of the dies (R307). -/
def execCommandResultReturn (m : Nat) (s : State) : Out :=
  let no : Out := .fault (.notEnabled "COMMAND_RESULT_RETURN")
  match s.msg? m with
  | none => no
  | some msg =>
    match msg.src with
    | .ctx c =>
      let s1 := s.dropMsg m
      let value (v : Word) (take : Bool) : Out :=
        .next (match s1.ctx? c with
          | none => s1
          | some x =>
            let t := s1.setCtx (x.resolve m (fun _ => some (Token.scalar v.toNat)))
            if take then t.acquireAt c .cluster 0 else t)
      (match msg.body, msg.resp with
      | .op (.jobq j) _, none => if s.eligible msg then value (BitVec.ofNat 64 (s.jobSum j)) false else no
      | .router r _ _, some (.val (some v)) => value v (match r with | .take _ _ _ => v != 0 | _ => false)
      | .op _ _, some (.val (some v)) => value v false
      | .op r@(.futWait ..) _, some (.err cause detail) | .op r@(.futSet ..) _, some (.err cause detail) =>
        .next (match s1.ctx? c with
          | none => s1
          | some x => (s1.setCtx (x.resolve m (fun _ => none))).lateError x 6 r.addr cause detail)
      | .op r src, some (.err cause detail) =>
        .next (match s1.ctx? c with
          | none => s1
          | some x => s1.setCtx (x.lateFault m ⟨cause, r.faultAddr cause, detail, none, some src.idx, false⟩))
      | _, _ => no)
    | _ => no

/-- STORE_RESPONSE_ERROR (R131, R142, R291): a released write has failed. -/
def execStoreResponseError (m : Nat) (s : State) : Out :=
  let no : Out := .fault (.notEnabled "STORE_RESPONSE_ERROR")
  match s.msg? m with
  | none => no
  | some msg =>
    match msg.src, msg.resp with
    | .ctx c, some (.err cause detail) =>
      let s1 := s.dropMsg m
      let report (kind : Nat) (a : Word) : Out := .next (match s1.ctx? c with | none => s1 | some x => s1.lateError x kind a cause detail)
      (match msg.body with
      | .store _ _ _ p => report (match s.ctx? c with | some x => if x.stts.any (fun t => t.2.contains m) then 3 else 1 | none => 1) p
      | .heal p via off _ _ _ _ => report 2 (if via then heapPtr (refHint p) ((refHa p : Int) + 16 + off).toNat else (addOffset p off).1)
      | .refStore r off _ _ => report 5 (heapPtr (refHint r) ((refHa r : Int) + 16 + off).toNat)
      | _ => no)
    | _, _ => no

/-! ### Retirement -/

/-- A request waits at its router and need not be waited for: a take for a record (R160), or a drain for records of which the strand
itself holds one, which its retirement frees (R247). -/
def State.routerHolds (s : State) (x : Ctx) (m : Nat) : Bool :=
  let k := s.cluster (clusterOf x.core)
  k.takes.contains m || k.sets.any (fun t => t.2.drains.contains m)
    && k.recs.any (fun r => match r.at_ with | .taken c _ _ _ => c = x.id | _ => false)

/-- A request of a retiring strand that is still to be waited for: a write or an atomic that is not acknowledged (R160), a drain, which
delivers its count (R259), or an operation that has not reached its unit. -/
def State.stillOut (s : State) (x : Ctx) (m : Msg) : Bool :=
  m.src = .ctx x.id && !m.body.isLoad
    && (match m.resp with
      | none => !s.routerHolds x m.id
      | some (.val _) => (match m.body with | .atomic .. | .router (.drain _) .. => true | _ => false)
      | some _ => true)

/-- The strand leaves the machine (R160, R174, R237, R247, R289, R294): what it held is released, its requests that wait at the router are
withdrawn, its fault registers stay to be read, and its iteration or card counts as retired. -/
def State.retire (s : State) (x : Ctx) (err : Bool) : State :=
  let s1 := (((s.pairDrop x.id (natBits x.fc.toNat 0 8)).pairRetire x).routerRetire x).barRetire x
  let gone := (s1.net.filter (fun m => m.src = Src.ctx x.id)).map (·.id)
  let cl := clusterOf x.core
  let k := s1.cluster cl
  let k1 := { k with takes := k.takes.filter (fun m => !gone.contains m)
                     sets := k.sets.map (fun t => (t.1, { t.2 with drains := t.2.drains.filter (fun m => !gone.contains m) })) }
  let s2 := { (if gone.isEmpty then s1 else s1.setCluster cl k1) with
    ctxs := s1.ctxs.filter (fun y => y.id ≠ x.id), net := s1.net.filter (fun m => m.src ≠ Src.ctx x.id)
    gone := s1.gone ++ [⟨sidOf x, x.core, s.launchWord x, err, x.fc, x.fa, x.fb, x.ff⟩] }
  match x.job with
  | .nest l n => s2.nestRetire l n err
  | .card q => s2.endCard q err
  | .none => s2

/-- STRAND_RETIRE (R160, R174): every write and atomic that the strand released is acknowledged and no es slot shows BUSY. -/
def execStrandRetire (c : Nat) (s : State) : Out :=
  let no : Out := .fault (.notEnabled "STRAND_RETIRE")
  match s.ctx? c with
  | none => no
  | some x =>
    match x.retiring with
    | none => no
    | some err =>
      if x.es.toList.any (· == .busy) ∨ s.net.any (s.stillOut x) ∨ x.place = .spilling ∨ x.place = .filling then no
      else s.unitWrite (s.retire x err) (.unit (dieOf x.core)) "STRAND_RETIRE"

end Sys2Proof.Machine
end

