-- ==== Sys2Proof/Machine/Compressed.lean ====
section
/-!
DEFINITION. Sys2Proof/Machine/Compressed.lean: the compressed instructions (R54).
-/

namespace Sys2Proof.Machine

/-- Operands of a compressed operation: vectors of width SEW and scalars, or, where masks are accepted, masks and scalars. -/
def compOk (env : Env) (masks : Bool) (ts : List Token) : Bool :=
  ts.all (okVec env.lsew) || (masks && ts.all okMask)

/-- A compressed operation on elements: 64 bits for scalars, SEW bits for vectors, one bit for masks. -/
def compOp (masks : Bool) (f : Nat → List Nat → Nat) (env : Env) (ts : List Token) : OpOut := do
  need (compOk env masks ts) tokenKind
  let isMask := ts.any (fun t => t.kind == .mask)
  let lw := if isMask then 0 else if ts.any Token.wide then env.lsew else 6
  elementwise env none (ts.map (fun t => (t, lw))) (if isMask then .mask else .vec env.lsew)
    (fun _ xs => .ok (f (2 ^ lw) xs % 2 ^ (2 ^ lw), 0))

/-- One operand. -/
def comp1 (i : Instr) (masks : Bool) (f : Nat → Nat → Nat) (s : State) : Out :=
  fireTok i s (fun env v => compOp masks (fun w xs => f w (xs.getD 0 0)) env [v.l])

/-- Two operands. -/
def comp2 (i : Instr) (masks : Bool) (f : Nat → Nat → Nat → Nat) (s : State) : Out :=
  fireTok i s (fun env v => compOp masks (fun w xs => f w (xs.getD 0 0) (xs.getD 1 0)) env [v.l, v.r])

/-- No operand. -/
def comp0 (i : Instr) (f : Env → Token) (s : State) : Out := fireTok i s (fun env _ => okTok (f env))

/-- c.mov: the token unchanged, with its reference mark (R54, R139). -/
def execCMov (o : CArgs) (s : State) : Out := fireTok (.cMov o) s (fun _ v => okTok v.l)
/-- c.fan: also to the left slot of n+1. -/
def execCFan (o : CArgs) (s : State) : Out := fireTok (.cFan o) s (fun _ v => okTok v.l)
/-- c.vl. -/
def execCVl (o : CArgs) (s : State) : Out := comp0 (.cVl o) (fun env => Token.scalar env.vl) s
/-- c.sb. -/
def execCSb (o : CArgs) (s : State) : Out := comp0 (.cSb o) (fun env => Token.scalar env.sb) s
/-- c.sn. -/
def execCSn (o : CArgs) (s : State) : Out :=
  fire (.cSn o) s (fun st _ => st.put s (st.complete (.cSn o) (okTok (Token.scalar st.ex.img.sn.toNat))))
/-- c.eidx. -/
def execCEidx (o : CArgs) (s : State) : Out :=
  comp0 (.cEidx o) (fun env => Token.vector env.lsew ((List.range env.vl).map some)) s
/-- c.li: the 4-bit constant less 8. -/
def execCLi (o : CliArgs) (s : State) : Out :=
  comp0 (.cLi o) (fun _ => Token.scalar (intToNat 64 ((o.n.toNat : Int) - 8))) s
/-- c.neg. -/
def execCNeg (o : CArgs) (s : State) : Out := comp1 (.cNeg o) false (fun w a => 2 ^ w - a % 2 ^ w) s
/-- c.not: masks accepted. -/
def execCNot (o : CArgs) (s : State) : Out := comp1 (.cNot o) true (fun w a => 2 ^ w - 1 - a % 2 ^ w) s
/-- c.inc. -/
def execCInc (o : CArgs) (s : State) : Out := comp1 (.cInc o) false (fun _ a => a + 1) s
/-- c.dec. -/
def execCDec (o : CArgs) (s : State) : Out := comp1 (.cDec o) false (fun w a => a + 2 ^ w - 1) s
/-- c.shl1. -/
def execCShl1 (o : CArgs) (s : State) : Out := comp1 (.cShl1 o) false (fun _ a => 2 * a) s
/-- c.shr1. -/
def execCShr1 (o : CArgs) (s : State) : Out := comp1 (.cShr1 o) false (fun _ a => a / 2) s
/-- c.sar1. -/
def execCSar1 (o : CArgs) (s : State) : Out :=
  comp1 (.cSar1 o) false (fun w a => a / 2 + (if natBit a (w - 1) = 1 then 2 ^ (w - 1) else 0)) s

/-- A scalar-only operation. -/
def compScalar (i : Instr) (f : Nat → Nat) (s : State) : Out :=
  fireTok i s (fun env v => do
    need (okScalar v.l) tokenKind
    compOp false (fun _ xs => f (xs.getD 0 0)) env [v.l])

/-- c.sext32. -/
def execCSext32 (o : CArgs) (s : State) : Out := compScalar (.cSext32 o) (fun a => intToNat 64 (natToInt 32 a)) s
/-- c.zext32. -/
def execCZext32 (o : CArgs) (s : State) : Out := compScalar (.cZext32 o) (fun a => a % 2 ^ 32) s
/-- c.isz. -/
def execCIsz (o : CArgs) (s : State) : Out := comp1 (.cIsz o) false (fun _ a => if a = 0 then 1 else 0) s
/-- c.nez. -/
def execCNez (o : CArgs) (s : State) : Out := comp1 (.cNez o) false (fun _ a => if a = 0 then 0 else 1) s
/-- c.add. -/
def execCAdd (o : CArgs) (s : State) : Out := comp2 (.cAdd o) false (fun _ a b => a + b) s
/-- c.sub. -/
def execCSub (o : CArgs) (s : State) : Out := comp2 (.cSub o) false (fun w a b => a + 2 ^ w - b % 2 ^ w) s
/-- c.and: masks accepted. -/
def execCAnd (o : CArgs) (s : State) : Out := comp2 (.cAnd o) true (fun _ a b => a &&& b) s
/-- c.or: masks accepted. -/
def execCOr (o : CArgs) (s : State) : Out := comp2 (.cOr o) true (fun _ a b => a ||| b) s
/-- c.xor: masks accepted. -/
def execCXor (o : CArgs) (s : State) : Out := comp2 (.cXor o) true (fun _ a b => a ^^^ b) s
/-- c.null. -/
def execCNull (o : CArgs) (s : State) : Out := comp0 (.cNull o) (fun _ => Token.nullScalar) s
/-- c.nullv. -/
def execCNullv (o : CArgs) (s : State) : Out :=
  comp0 (.cNullv o) (fun env => Token.vector env.lsew (List.replicate env.vl none)) s
/-- c.nullm. -/
def execCNullm (o : CArgs) (s : State) : Out := comp0 (.cNullm o) (fun env => Token.mask (List.replicate env.vl none)) s

/-- A per-element operation that reads null states itself: scalars give a scalar (R54). -/
def compElems (k : ResKind) (env : Env) (wide : Bool) (f : Nat → Option Nat) : OpOut :=
  okTok (k.build wide ((List.range (if wide then env.vl else 1)).map f))

/-- c.nullif and c.keepif: element e is dropped where the mask bit is null or equals `drop`; a scalar mask operand is
broadcast and counts as 1 when it is not zero. -/
def compMaskIf (i : Instr) (drop : Bool) (s : State) : Out :=
  fireTok i s (fun env v => do
    need (okVec env.lsew v.l && okMask v.r) tokenKind
    let wide := v.l.wide || v.r.wide
    compElems (.vec env.lsew) env wide (fun e =>
      if v.r.nullAt e || (predOpen (some (true, v.r)) e == drop) then none else v.l.elem? (if wide then env.lsew else 6) e))

/-- c.nullif. -/
def execCNullif (o : CArgs) (s : State) : Out := compMaskIf (.cNullif o) true s
/-- c.keepif. -/
def execCKeepif (o : CArgs) (s : State) : Out := compMaskIf (.cKeepif o) false s

/-- c.zfill. -/
def execCZfill (o : CArgs) (s : State) : Out :=
  fireTok (.cZfill o) s (fun env v => do
    need (okVec env.lsew v.l) tokenKind
    compElems (.vec env.lsew) env v.l.wide (fun e => some ((v.l.elem? (if v.l.wide then env.lsew else 6) e).getD 0)))

/-- c.isnull: a mask of vl bits, a scalar operand broadcast (R16, R54; DEDUCED, log 116). -/
def execCIsnull (o : CArgs) (s : State) : Out :=
  fireTok (.cIsnull o) s (fun env v => do
    need (okVec env.lsew v.l) tokenKind
    compElems .mask env true (fun e => some (if v.l.nullAt e then 1 else 0)))

end Sys2Proof.Machine
end

