-- ==== Sys2Proof/Machine/Fabric.lean ====
section
/-!
DEFINITION. Sys2Proof/Machine/Fabric.lean: the Urfin fabric. Regatta tables and heats (R398 to R400, R414, R415), the link layer (R400
to R407, R422), what arrives from peers (R401, R408 to R410), cross-chip copies and multicast (R411 to R413). Fabric time counts two
ticks to the nanosecond (R398).
-/

namespace Sys2Proof.Machine

/-! ### The command forms -/

/-- rg.load: PROTECTION in user mode (R414). -/
def execRgLoad (o : CmdArgs) (s : State) : Out :=
  fireCmd (.rgLoad o) .rgLoad o.pri.toNat 0 s (fun st v => do
    need (!st.ex.user) (Raw.of .protection)
    recordPtr v)
/-- mcx (R412, R414). -/
def execMcx (o : CmdArgs) (s : State) : Out := fireRecord (.mcx o) o .mcx s

/-! ### Regatta tables -/

/-- GUARD in ns: 0 stands for 1,000 (R398). -/
def guardNs (g : Nat) : Nat := if g = 0 then 1000 else g

/-- The peers a table names, ascending and without repeats. -/
def heatPeers (hs : List Heat) : List Nat := (List.range 4096).filter (fun c => hs.any (fun h => h.pmap.any (fun m => m.2 = c)))

/-- A table as its bytes give it: the first failing field's offset, or its heats (R398, R399). Fields of heats beyond NHEAT are not
used. -/
def tableParse (chip : Nat) (bs : List Byte) : Except Nat (List Heat) :=
  let n (off len : Nat) : Nat := leNat ((bs.drop off).take len)
  let nheat := n 0 8 % 16 + 1
  let hs := List.range nheat
  let pm (h p : Nat) : Nat := n (0x48 + 64 * h + 2 * p) 2
  let mapped (h p : Nat) : Bool := natBit (pm h p) 15 = 1
  let before (h p : Nat) : List Nat :=
    (hs.flatMap (fun a => (List.range 16).filterMap (fun q =>
      if (a < h ∨ (a = h ∧ q ≤ p)) ∧ mapped a q then some (pm a q % 4096) else none))).eraseDups
  let headers : List (Nat × Bool) := (0, n 0 8 / 16 = 0) :: (List.range 7).map (fun i => (8 + 8 * i, decide (n (8 + 8 * i) 8 = 0)))
  let heat (h : Nat) : List (Nat × Bool) :=
    let dur := n (0x40 + 64 * h) 4
    let g := n (0x44 + 64 * h) 4
    [(0x40 + 64 * h, decide (1000 ≤ dur) && decide (dur ≤ 10000000) && (g = 0 || (decide (500 ≤ g) && decide (g ≤ 100000))))]
      ++ (List.range 16).map (fun p =>
        let c := pm h p % 4096
        (0x48 + 64 * h + 2 * p, natBits (pm h p) 12 3 = 0
          && (!mapped h p || (c ≠ chip && groupOf c = groupOf chip && decide ((before h p).length ≤ 32)))))
      ++ (List.range 3).map (fun i => (0x68 + 64 * h + 8 * i, decide (n (0x68 + 64 * h + 8 * i) 8 = 0)))
  let reach (h : Nat) : List (Nat × Bool) := (List.range 16).map (fun p =>
    let off := 0x440 + 2048 * h + 128 * p
    (off, decide (natBit (n off 128) (chip % 1024) = 0)))
  match (headers ++ hs.flatMap heat ++ hs.flatMap reach).find? (fun c => !c.2) with
  | some (off, _) => .error off
  | none => .ok (hs.map (fun h =>
      { dur := n (0x40 + 64 * h) 4, guard := guardNs (n (0x44 + 64 * h) 4)
        pmap := (List.range 16).filterMap (fun p => if mapped h p then some (p, pm h p % 4096) else none)
        reach := (List.range 16).filterMap (fun p =>
          let v := n (0x440 + 2048 * h + 128 * p) 128
          if v = 0 then none else some (p, BitVec.ofNat 1024 v)) }))

/-- The record of rg.load breaks R414. -/
def Cmd.rgBad (c : Cmd) : Bool :=
  ctlBad .rgLoad (c.w 0) (c.w 11) || natBits (c.w 2) 60 4 ≠ 0 || c.w 2 % 4096 ≠ 0 || [1, 4, 5, 6, 7, 8, 9, 12, 13, 14, 15].any (fun i => c.w i ≠ 0)

/-- RG_LOAD_RUN (R399): the table is checked; an accepted one waits for its boundary, and its command stays BUSY. -/
def execRgLoadRun (cmd : Nat) (s : State) : Out :=
  match s.ready cmd .rgLoad with
  | none => .fault (.notEnabled "RG_LOAD_RUN")
  | some c =>
    if s.fab.pending.isSome then .fault (.notEnabled "RG_LOAD_RUN")
    else
      s.withRecord c "RG_LOAD_RUN" (fun s c =>
        if c.rgBad then some (s.cmdFault c (engFault .cpyRecord c.req.p0))
        else
          ranTo (s.runEng (engRead c 32 0x8440 (c.words.getD 2 0) 0)) (s.cmdFault c) (fun bs t =>
            match tableParse t.chip bs with
            | .error off => (t.fabRecord none 0 .regattaFormat off).cmdDone c true
            | .ok hs => { t with fab := { t.fab with pending := some ⟨cmd, hs, c.w 3⟩ } }))

/-! ### Heats -/

/-- The link of a peer. -/
def State.linkOf (s : State) (chip : Nat) : Option (Nat × LinkSt) := s.fab.links.find? (fun t => t.2.peer = chip)

/-- A heat maps some port to a chip. -/
def Heat.maps (h : Heat) (chip : Nat) : Bool := h.pmap.any (fun m => m.2 = chip)

/-- The peer through which a heat relays to a chip that it does not map: that of the lowest port, with a circuit, whose REACH bit is
set (R400). -/
def State.relayPeer (s : State) (chip : Nat) : Option Nat :=
  match s.heatNow with
  | none => none
  | some h =>
    if h.maps chip then none
    else (((List.range 16).find? (fun p => h.reach.any (fun r => r.1 = p && r.2.getLsbD (chip % 1024)))).bind
      (fun p => s.fab.paired.find? (fun t => t.1 = p))).map (fun (t : Nat × Nat) => t.2)

/-- The present heat serves a link (R400). -/
def State.serves (s : State) (chip : Nat) : Bool := s.fab.running && (!(s.portsTo chip).isEmpty || (s.relayPeer chip).isSome)

/-- The timers of a link that a heat serves go on, in mapped time (R404). -/
def LinkSt.resume (k : LinkSt) (now : Nat) : LinkSt :=
  match k.pausedAt with
  | some t => { k with ackAt := k.ackAt + (now - t), pausedAt := none }
  | none => k

/-- A heat begins (R398, R399): how many ports each peer maps back is a free choice; the lowest ports are paired, and a port without a
partner is reported once for the heat of the table. -/
def State.beginHeat (s : State) (h : Nat) : State :=
  match s.fab.heats[h]? with
  | none => s
  | some ht =>
    let peers := heatPeers [ht]
    let ports (c : Nat) : List Nat := (List.range 16).filter (fun p => ht.pmap.contains (p, c))
    let got (i c : Nat) : List Nat := (ports c).take (Config.freeNat (s.free + i) % ((ports c).length + 1))
    let pairs := (List.range peers.length).flatMap (fun i => let c := peers.getD i 0; (got i c).map (fun p => (p, c)))
    let s1 := { s with free := s.free + peers.length, fab := { s.fab with heat := h, running := true, since := s.now, paired := pairs } }
    let s2 := { s1 with fab := { s1.fab with links := s1.fab.links.map (fun t => if s1.serves t.2.peer then (t.1, t.2.resume s.now) else t) } }
    (ht.pmap.filter (fun m => !pairs.contains m && !s2.fab.mism.contains (m.1, h))).foldl (fun (t : State) m =>
      ({ t with fab := { t.fab with mism := (m.1, h) :: t.fab.mism } } : State).fabRecord ((t.linkOf m.2).map (fun (l : Nat × LinkSt) => l.2)) m.1 .regattaMismatch h) s2

/-- The rotation stands at its boundary (R399): no table is in effect, or its last heat's GUARD is over. -/
def State.atBoundary (s : State) : Bool :=
  match s.heatNow with
  | none => true
  | some h => !s.fab.running && decide (s.fab.heat + 1 = s.fab.heats.length) && decide (s.fab.since + 2 * h.guard ≤ s.now)

/-- The pending table can take effect now (R399). -/
def State.switchDue (s : State) : Option RgPending :=
  s.fab.pending.filter (fun p => s.atBoundary && decide (p.start ≤ s.now)
    && s.fab.links.all (fun t => (heatPeers p.heats).contains t.2.peer || (t.2.queues.isEmpty && t.2.buffer.isEmpty)))

/-- Links take blocks, in ascending order of peer, each the lowest free one (R415). -/
def takeBlocks (now : Nat) : List Nat → List (Nat × LinkSt) → List (Nat × LinkSt)
  | [], ls => ls
  | c :: cs, ls =>
    match (List.range 32).find? (fun b => ls.all (fun t => t.1 ≠ b)) with
    | some b => takeBlocks now cs (ls ++ [(b, LinkSt.start c now)])
    | none => ls

/-- REGATTA_SWITCH (R399, R415): the new table takes effect, its heat 0 begins, and rg.load completes. -/
def execRegattaSwitch (s : State) : Out :=
  match s.switchDue with
  | none => .fault (.notEnabled "REGATTA_SWITCH")
  | some p =>
    let peers := heatPeers p.heats
    let kept := s.fab.links.filter (fun t => peers.contains t.2.peer)
    let links := takeBlocks s.now (peers.filter (fun c => kept.all (fun t => t.2.peer ≠ c))) kept
    let s1 := { s with fab := { s.fab with heats := p.heats, pending := none, mism := [], links := links } }.beginHeat 0
    .next (match s1.cmd? p.cmd with
      | some c => s1.cmdDone c false
      | none => s1)

/-- HEAT_START (R398): the GUARD before it is over, and no new table takes its place. -/
def execHeatStart (s : State) : Out :=
  match s.heatNow with
  | none => .fault (.notEnabled "HEAT_START")
  | some h =>
    if s.fab.running ∨ s.now < s.fab.since + 2 * h.guard ∨ s.switchDue.isSome then .fault (.notEnabled "HEAT_START")
    else .next (s.beginHeat ((s.fab.heat + 1) % s.fab.heats.length))

/-- HEAT_DUR_END (R400): each queue of a link that the heat served and that still holds flits is reported. -/
def execHeatDurEnd (s : State) : Out :=
  match s.heatNow with
  | none => .fault (.notEnabled "HEAT_DUR_END")
  | some h =>
    if !s.fab.running ∨ s.now < s.fab.since + 2 * h.dur then .fault (.notEnabled "HEAT_DUR_END")
    else
      let mine := s.fab.links.filter (fun t => s.serves t.2.peer)
      let links := s.fab.links.map (fun t => if s.serves t.2.peer then (t.1, { t.2 with pausedAt := some s.now }) else t)
      let s1 := { s with fab := { s.fab with running := false, since := s.fab.since + 2 * h.dur, paired := [], links := links } }
      .next (mine.foldl (fun (t : State) l =>
        (List.range 4).foldl (fun (u : State) vc =>
          let n := (l.2.queues.filter (fun q => q.1 = vc)).length
          if n = 0 then u else u.fabRecord (some l.2) 0 .regattaOverrun n) t) s1)

/-! ### Links going down and up -/

/-- Replace the working set of a port. -/
def setWork (l : List (Nat × Nat)) (p m : Nat) : List (Nat × Nat) := (p, m) :: l.filter (fun t => t.1 ≠ p)

/-- The ports that the table in effect maps to a chip. -/
def State.mappedPorts (s : State) (chip : Nat) : List Nat := (List.range 16).filter (fun p => s.fab.heats.any (fun h => h.pmap.contains (p, chip)))

/-- Wavelengths in a mask. -/
def lit (m : Nat) : Nat := ((List.range 16).filter (fun i => natBit m i = 1)).length

/-- Working wavelengths of a direction over some ports. -/
def workCount (l : List (Nat × Nat)) (ps : List Nat) : Nat := (ps.map (fun p => lit (workOf l p))).foldl (· + ·) 0

/-- A link goes down (R404, R406): `before` is the link before the event. -/
def State.linkDown (s : State) (l : Nat) (before : LinkSt) (detail : Nat) : State :=
  match s.link? l with
  | none => s
  | some k =>
    if !k.up then s
    else (s.setLink l { k with up := false, downAt := some s.now }).fabRecord (some before) 0 .linkDown detail

/-- A link with light again comes up. -/
def LinkSt.lightBack (k : LinkSt) : LinkSt := if k.downAt.isSome then { k with up := true, downAt := none, resends := 0 } else k

/-- Resend from the oldest unacknowledged flit (R404); the sixteenth resend of one flit takes the link down. -/
def State.resend (s : State) (l : Nat) (k : LinkSt) : State :=
  if k.buffer.isEmpty then s.setLink l { k with ackAt := s.now }
  else
    let s1 := s.setLink l { k with replay := k.buffer, resends := k.resends + 1, ackAt := s.now }
    if 16 ≤ k.resends + 1 then s1.linkDown l k 1 else s1

/-! ### Sending -/

/-- Feed one flit of the read that a peer has asked for (R411), when the engine channel is free for it. -/
def State.feedReads (s : State) (l : Nat) : State :=
  match s.link? l with
  | none => s
  | some k =>
    match k.reads with
    | [] => s
    | r :: rest =>
      if (k.chan.isSome && k.chan != some (k.peer, r.cmd)) || k.queues.any (fun q => q.1 = 2) then s
      else
        let n := min r.left 232
        let grans := (n - r.buf.length + 31) / 32
        let got : Except Ending (List (List Byte)) := (List.range grans).mapM (fun i =>
          let q := (addOffset r.at_ (32 * i : Nat)).1
          match s.checkElem [] { need := { rd := true, rmt := true }, w := 32, n := 32, user := r.user } s.free q 0 with
          | .ok (a :: _) =>
            if s.fenced a.place then .error ⟨Cause.cpyRemote.code, q, 0xA0⟩
            else if s.isPoisoned a.place.key 32 then .error ⟨Cause.cpyPoison.code, q, 0⟩
            else .ok (memReadN s.mem a.place.key 32)
          | .ok [] => .error ⟨Cause.cpyRecord.code, q, 0⟩
          | .error e => .error ⟨(engCause e.cause).code, q, 0⟩)
        match got with
        | .error e =>
          (s.setLink l { k with reads := rest, chan := none }).fabPut l 2 (s.newFlit k.peer .engine (.done r.cmd e.code e.addr e.detail))
        | .ok bs =>
          let all := r.buf ++ bs.flatten
          let r1 := { r with at_ := (addOffset r.at_ (32 * grans : Nat)).1, left := r.left - n, buf := all.drop n }
          let k1 := if r1.left = 0 then { k with reads := rest, chan := none } else { k with reads := r1 :: rest, chan := some (k.peer, r.cmd) }
          (s.setLink l k1).fabPut l 2 (s.newFlit k.peer .engine (.data k.peer r.cmd (all.take n)))

/-- The next queue of a link to serve after `turn` among request, response and engine, and its first flit (R400). -/
def LinkSt.pick (k : LinkSt) : Option (Nat × FlitIn) :=
  [0, 1, 2].findSome? (fun i => k.queues.find? (fun q => q.1 = (k.turn + i) % 3))

/-- A flit that carries a sequence number (R422). -/
def FlitTypeSequenced : FlitType → Bool
  | .ack | .lane | .idle => false
  | _ => true

/-- A link's queues without one flit. -/
def LinkSt.unqueue (k : LinkSt) (q : Nat × FlitIn) : LinkSt :=
  { k with queues := k.queues.takeWhile (· ≠ q) ++ (k.queues.dropWhile (· ≠ q)).drop 1, turn := if q.1 < 3 then (q.1 + 1) % 3 else k.turn }

/-- A flit is formed on a link (R404, R405): encrypted under the transmit key and, when it is sequenced, numbered and kept. -/
def State.formFlit (s : State) (l : Nat) (f : FlitIn) : State :=
  match s.link? l with
  | none => s
  | some k =>
    let k1 := { k with kcnt := k.kcnt + 1 }
    let k2 := if FlitTypeSequenced f.type then
        { k1 with txnext := (k.txnext + 1) % 4096, ltx := (k.ltx + 1) % 2 ^ 64, ackAt := if k.buffer.isEmpty then s.now else k.ackAt
                  buffer := k.buffer ++ [{ f with seq := k.txnext, epoch := k.txep }] }
      else k1
    let s1 := s.setLink l k2
    if k1.kcnt = 2 ^ 32 then s1.fabRecord (some k) 0 .keyExhausted 0 else s1

/-- FLIT_SEND (R400, R404, R413): a port that serves the link begins its next flit: management first, then what is being replayed, then
the other queues in rotation, while the flit's last beat ends before DUR ends. Management flits are the link's own and are not relayed;
of a link that is down only a LANE flit leaves, where its direction has light (R406). -/
def execFlitSend (link : Nat) (s0 : State) : Out :=
  let no : Out := .fault (.notEnabled "FLIT_SEND")
  let s := s0.feedReads link
  match s.link? link, s.heatNow with
  | some k, some h =>
    let direct := !(s.portsTo k.peer).isEmpty
    let via := if direct then some (link, k) else (s.relayPeer k.peer).bind s.linkOf
    (match via with
    | none => no
    | some (l, c) =>
      let w := workCount c.txw (s.portsTo c.peer)
      let lane := if direct then k.queues.find? (fun q => q.1 = 3 && q.2.type = .lane) else none
      if !s.fab.en ∨ !s.fab.running ∨ w = 0 ∨ s.fab.since + 2 * h.dur < s.now + 4 * ((16 + w - 1) / w) then no
      else if !c.up then (match lane with | some q => .next ((s.setLink link (k.unqueue q)).formFlit l q.2) | none => no)
      else
        let form (q : Nat × FlitIn) : Out :=
          if 2 ^ 32 ≤ c.kcnt ∨ (FlitTypeSequenced q.2.type ∧ 512 ≤ c.buffer.length) then no
          else .next ((s.setLink link (k.unqueue q)).formFlit l q.2)
        match (if direct then k.queues.find? (fun q => q.1 = 3) else none), c.replay with
        | some q, _ => form q
        | none, f :: rest => if direct then .next (s.setLink link { k with replay := rest, lreplay := (k.lreplay + 1) % 2 ^ 64 }) else no
        | none, [] => (match k.pick with | some q => form q | none => no))
  | _, _ => no

/-! ### Receiving -/

/-- Queue an ACK or NAK, which covers every flit accepted so far (R422). -/
def State.sendAck (s : State) (l : Nat) (nak : Bool) : State :=
  match s.link? l with
  | none => s
  | some k =>
    (s.setLink l { k with accepted := 0, firstAt := none, nakSent := nak }).fabPut l 3 (s.newFlit k.peer .ack (.ack k.rxnext nak))

/-- A 32-bit counter that saturates (R415). -/
def satInc (n : Nat) : Nat := min (n + 1) (2 ^ 32 - 1)

/-- A flit fails its tag, or its epoch bit names a key that is not held (R405). -/
def LinkSt.tagBad (k : LinkSt) (f : FlitIn) : Bool := !f.tag || (f.epoch != k.rxep && !k.rxprev)

/-- The incarnation of a flit differs from the one recorded for its source (R410). -/
def State.stale (s : State) (k : LinkSt) (f : FlitIn) : Bool :=
  match (match s.linkOf f.src with | some (_, x) => x.pinc | none => if f.src = k.peer then k.pinc else none) with
  | some i => i ≠ f.inc
  | none => false

/-- A flit that is checked and dropped: CRC, tag or incarnation (R404, R410, R422). `control` flits cause no NAK. -/
def State.rxCheck (s : State) (l : Nat) (k : LinkSt) (f : FlitIn) (control : Bool) : Option State :=
  let nak (t : State) : State := if control || k.nakSent then t else t.sendAck l true
  if !f.crc then some (nak (s.setLink l { k with lcrc := satInc k.lcrc }))
  else if s.stale k f then some (s.setLink l { k with lstale := satInc k.lstale })
  else if k.tagBad f then
    let run := k.authRun + 1
    let s1 := nak (s.setLink l { k with lauth := satInc k.lauth, authRun := if run = 64 then 0 else run })
    some (if run = 64 then s1.fabRecord (some k) 0 .linkAuth f.seq else s1)
  else none

/-- A sequenced flit is accepted: the receive sequence advances, and the 64th since the last ACK or NAK is acknowledged (R404,
R422). -/
def State.rxAccept (s : State) (l : Nat) (k : LinkSt) : State :=
  let k1 := { k with rxnext := (k.rxnext + 1) % 4096, lrx := (k.lrx + 1) % 2 ^ 64, accepted := k.accepted + 1, nakSent := false, authRun := 0
                     firstAt := some (k.firstAt.getD s.now) }
  let s1 := s.setLink l k1
  if 64 ≤ k1.accepted then s1.sendAck l false else s1

/-! ### What a flit brings -/

/-- The answer that a request flit asks for. -/
def payReq : Pay → Option Nat
  | .read id .. | .write id .. | .amo id .. | .futWait id .. | .futSet id .. | .posts id _ => some id
  | _ => none

/-- A relayed flit goes on toward its destination, or is dropped and its request or transfer fails at its source (R396, R401). -/
def State.relay (s : State) (f : FlitIn) : State :=
  let drop : State :=
    let s1 := s.fabRecord none 0 .fabNoroute f.dst
    match payReq f.pay, f.pay with
    | some id, _ => s1.fabSend f.src 1 .resp (.answer id 0xB3 [])
    | none, .openWrite cmd .. | none, .openRead cmd .. | none, .mcast _ cmd .. => s1.fabSend f.src 2 .engine (.done cmd 0xB3 0 0)
    | none, _ => s1
  if f.hops ≤ 1 then drop
  else
    match s.fabRoute f.dst with
    | none => drop
    | some (l, _) =>
      s.fabPut l (match f.type with | .req => 0 | .resp => 1 | .engine => 2 | .mcast => 2 | _ => 3) { f with hops := f.hops - 1 }

/-- Where a peer's request falls in this chip's memory: the place, or the code of its failure (R385, R409). -/
def State.servePlace (s : State) (f : FlitIn) (addr : Word) (n : Nat) (need : Need) (user : Bool) : Except Nat Part :=
  if s.fab.refused.contains (f.src, f.inc) then .error 0xB2
  else
    match s.checkElem [] { need := { need with rmt := true }, w := 1, n := n, user := user } s.free addr 0 with
    | .ok (a :: _) => .ok a
    | .ok [] => .error Cause.spaceInvalid.code
    | .error e => .error e.cause.code

/-- A peer's request is handed to its home, whose answer goes back (R408). -/
def State.serveAt (s : State) (f : FlitIn) (id : Nat) (body : Body) : State :=
  let m := s.nextId
  let s1 := s.send (.unit 12) 15 body
  { s1 with fab := { s1.fab with served := s1.fab.served ++ [⟨m, f.src, id, false⟩] } }

/-- The operation that a flit's number names. -/
def amoOf : Nat → AmoOp
  | 0 => .add
  | 1 => .and
  | 2 => .or
  | 3 => .xor
  | 4 => .min
  | 5 => .max
  | 6 => .swap
  | _ => .cas

/-- The strand that a peer's operation stands for: none of this chip. -/
def peerSrc (user : Bool) : SigSrc := ⟨0, 12, 0, 0, user, [], 0⟩

/-- A peer's request joins the queue of its home (R276, R306, R408, R409). -/
def State.serve (s : State) (f : FlitIn) : State :=
  let answer (t : State) (id code : Nat) (d : List Byte) : State := t.fabSend f.src 1 .resp (.answer id code d)
  let at_ (id : Nat) (p : Word) (n : Nat) (need : Need) (user : Bool) (body : Place → Body) : State :=
    match s.servePlace f p n need user with
    | .error c => answer s id c []
    | .ok a => s.serveAt f id (body a.place)
  let rw : Need := { rd := true, wr := true }
  match f.pay with
  | .read id addr user => at_ id addr 32 { rd := true } user (fun p => .load 0 0 [] addr p 32 false none)
  | .write id addr user d => at_ id addr d.length { wr := true } user (fun p => .store p d none addr)
  | .amo id addr user op w y z => at_ id addr w rw user (fun p => .atomic 0 (amoOf op) w p y z .fabric .rlx addr)
  | .futWait id a card user => at_ id a 16 rw user (fun p => .op (.futWait a card p) (peerSrc user))
  | .futSet id a v fail user => at_ id a 16 rw user (fun p => .op (.futSet a v fail p) (peerSrc user))
  | .posts id l =>
    if l.isEmpty then answer s id 0 [] else l.foldl (fun (t : State) (q : Word × Nat × Nat) => t.serveAt f id (.post q.1 q.2.1 none 0 12)) s
  | _ => s

/-- A watched word of a peer is read again once its copy is gone (R135, R408). -/
def State.rewatch (s : State) (chip sector : Nat) : State :=
  s.net.foldl (fun (t : State) m => match m.body, m.resp with
    | .watch _ _ p _ _ true, none =>
      if p.peer = some chip ∧ p.key / 32 = sector ∧ !t.isOut m.id then
        let t1 := t.fabSend chip 0 .req (.read m.id (stripedPtr (32 * sector)) (t.srcUser m))
        { t1 with fab := { t1.fab with out := t1.fab.out ++ [⟨m.id, chip, m.id⟩] } }
      else t
    | _, _ => t) s

/-- A peer's answer reaches the request that waits for it (R404, R408): code 0, or why it failed. -/
def State.peerAnswer1 (s : State) (chip code : Nat) (d : List Byte) (m : Msg) : State :=
  let bad (t : State) : State := t.peerFails m code
  let keep (p : Place) : State :=
    { s with fab := { s.fab with held := ⟨chip, p.key / 32, d⟩ :: s.fab.held.filter (fun h => !(h.chip = chip && h.sector = p.key / 32)) } }
  match m.body with
  | .load _ _ _ _ p _ _ _ => if code ≠ 0 then bad s else (keep p).answerLoad m (.data d)
  | .watch serial idx p x t seen =>
    if code ≠ 0 then bad s
    else
      let bs := (d.drop (p.key % 32)).take 8
      if leNat bs ≠ x.toNat then (keep p).reply m (.data bs)
      else if seen then keep p
      else (keep p).setMsg { m with body := .watch serial idx p x (s.watchEnd m t) true }
  | .store .. | .heal .. => if code ≠ 0 then bad s else s.dropMsg m.id
  | .atomic .. => if code ≠ 0 then bad s else (s.acquireBy m).reply m (.val (some (BitVec.ofNat 64 (leNat d))))
  | .op (.futSet fut _ _ _) src =>
    if code ≠ 0 then bad s
    else
      let w := leNat (d.take 8)
      let s1 := if 2 ≤ futSt w then (s.postCard src.die .futureDoubleResolve (some src) fut w).chargeDouble m.src fut w else s
      s1.answer m (.val (some (BitVec.ofNat 64 w)))
  | .op _ _ => if code ≠ 0 then bad s else s.answer m (.val (some (BitVec.ofNat 64 (leNat (d.take 8)))))
  | .post _ _ _ job die => s.ackSignal m.id job die
  | .done _ ptr fut _ _ work =>
    let die := match m.src with | .unit d => d | _ => 12
    let s1 := s.dropMsg m.id
    let w := leNat (d.take 8)
    if code ≠ 0 then bad s
    else if fut && decide (2 ≤ futSt w) then (s1.postCard die .futureDoubleResolve none ptr w).endWork die work
    else s1.endWork die work
  | _ => s.dropMsg m.id

/-- The requests that wait for answer `rid` of a chip are answered. -/
def State.peerAnswer (s : State) (chip rid code : Nat) (d : List Byte) : State :=
  let mine := s.fab.out.filter (fun o => o.chip = chip && o.rid = rid)
  let s1 := { s with fab := { s.fab with out := s.fab.out.filter (fun o => !(o.chip = chip && o.rid = rid)) } }
  mine.foldl (fun (t : State) o => match t.msg? o.msg with | some m => t.peerAnswer1 chip code d m | none => t) s1

/-! ### Transfers -/

/-- A peer's bytes in pieces that no sector boundary cuts. -/
def sectorPieces : Nat → Word → List Byte → List (Word × List Byte)
  | 0, _, _ => []
  | fuel + 1, p, bs =>
    if bs.isEmpty then []
    else
      let n := 32 - p.toNat % 32
      (p, bs.take n) :: sectorPieces fuel (addOffset p (n : Nat)).1 (bs.drop n)

/-- Bytes of a transfer are written as engine stores (R411): a fault is kept, and what follows it is not written. -/
def State.rxWrite (s : State) (org cmd : Nat) (bs : List Byte) : State :=
  match s.fab.rx.find? (fun r => r.org = org && r.cmd = cmd) with
  | none => s
  | some r =>
    let setRx (t : State) (r : RxCopy) : State :=
      { t with fab := { t.fab with rx := t.fab.rx.map (fun q => if q.org = org && q.cmd = cmd then r else q) } }
    let place (t : State) (p : Word) (n : Nat) : Except Ending Place :=
      let bad (c : Cause) (detail : Nat) : Except Ending Place := .error ⟨c.code, granuleOf p, detail⟩
      if org = t.chip then
        match t.cmd? cmd with
        | some c => (match t.cmdPlace c { wr := true } 1 n p 0 with | .ok a => .ok a.place | .error f => bad f.cause f.detail)
        | none => bad .cpyAborted 0
      else
        match t.checkElem [] { need := { wr := true, rmt := true }, w := 1, n := n, user := r.user } t.free p 0 with
        | .ok (a :: _) => if t.fenced a.place then bad .cpyRemote 0xA0 else .ok a.place
        | .ok [] => bad .cpyRecord 0
        | .error e => bad (engCause e.cause) 0
    let step (a : State × RxCopy) (q : Word × List Byte) : State × RxCopy :=
      if a.2.fin.code ≠ 0 then a
      else
        match place a.1 q.1 q.2.length with
        | .error e => (a.1, { a.2 with fin := e })
        | .ok pl =>
          let m := a.1.nextId
          let t := a.1.send (.unit 12) 15 (.store pl (q.2.map (fun b => (b, 255))) none q.1)
          ({ t with fab := { t.fab with served := t.fab.served ++ [⟨m, org, cmd, true⟩] } }, a.2)
    let (t, r1) := (sectorPieces (bs.length + 1) r.at_ bs).foldl step (s, r)
    (setRx t { r1 with at_ := (addOffset r.at_ (bs.length : Nat)).1, left := r.left - bs.length }).rxFinish org cmd

/-- A transfer opens here. -/
def State.rxOpen (s : State) (org cmd : Nat) (p : Word) (len : Nat) (user : Bool) : State :=
  { s with fab := { s.fab with rx := s.fab.rx ++ [(⟨org, cmd, p, len, Ending.ok, user⟩ : RxCopy)] } }.rxFinish org cmd

/-- The multicast that a switch holds (R413). -/
def State.mcast? (s : State) (org cmd : Nat) : Option McDesc := s.fab.mcasts.find? (fun d => d.org = org && d.cmd = cmd)

/-- Replace a multicast. -/
def State.setMcast (s : State) (d : McDesc) : State :=
  { s with fab := { s.fab with mcasts := s.fab.mcasts.map (fun e => if e.org = d.org && e.cmd = d.cmd then d else e) } }

/-- What a fabric engine keeps of a transfer that has stopped, to go on from byte `n` of it, or with the members of a multicast that have
not acknowledged (R224). -/
def State.restartAux (s : State) (c : Cmd) (n : Nat) : List Nat :=
  if c.req.kind = .mcx then (match s.mcast? s.chip c.id with | some d => 5 :: d.ask | none => c.aux) else [4, n]

/-- The engine channel of links is freed. -/
def State.freeChan (s : State) (ls : List Nat) : State :=
  ls.foldl (fun (t : State) l => match t.link? l with | some k => t.setLink l { k with chan := none } | none => t) s

/-- A data flit of a multicast follows its descriptor to every port that received a copy (R412). -/
def State.mcData (s : State) (d : McDesc) (bs : List Byte) : State :=
  let ls := d.links.getD []
  let s1 := ls.foldl (fun (t : State) l => match t.link? l with
    | some k => t.fabPut l 2 (t.newFlit k.peer .engine (.data d.org d.cmd bs))
    | none => t) s
  let left := d.left - bs.length
  let s2 := if left = 0 then s1.freeChan ls else s1
  if left = 0 ∧ d.org ≠ s.chip then { s2 with fab := { s2.fab with mcasts := s2.fab.mcasts.filter (fun e => !(e.org = d.org && e.cmd = d.cmd)) } }
  else s2.setMcast { d with left := left }

/-- The fault that a transfer's ending stands for at an address of the command: a copy-engine code of the peer, or a condition of the
fabric (R225, R411). -/
def Ending.fault (e : Ending) (a : Word) : FaultRec :=
  match [Cause.cpyTrans, .cpyProtection, .cpyRecord, .cpyScratch, .cpyPoison, .cpyAborted, .cpyRemote].find? (fun c => c.code = e.code) with
  | some c => engFault c a e.detail
  | none => engFault .cpyRemote a e.code

/-- A command of this chip learns how its transfer ended. -/
def State.noteDone (s : State) (cmd : Nat) (e : Ending) : State := { s with fab := { s.fab with dones := s.fab.dones ++ [(cmd, e)] } }

/-- A completion flit reaches the command it is for (R411, R412). -/
def State.doneArrives (s : State) (chip cmd : Nat) (e : Ending) : State :=
  match s.mcast? s.chip cmd, s.cmd? cmd with
  | some d, _ => if e.code = 0 then s.setMcast { d with ask := d.ask.filter (· ≠ chip % 1024) } else s.noteDone cmd e
  | none, some c => if c.req.kind = .mcx ∧ e.code = 0 then s else s.noteDone cmd e
  | none, none => s

/-- What a flit for this chip does. -/
def State.deliver (s : State) (link : Nat) (f : FlitIn) : State :=
  match f.pay with
  | .inval sec =>
    let s1 := { s with fab := { s.fab with held := s.fab.held.filter (fun h => !(h.chip = f.src && h.sector = sec)) } }
    (s1.fabSend f.src 1 .resp (.invAck sec)).rewatch f.src sec
  | .invAck sec =>
    { s with fab := { s.fab with invals := s.fab.invals.filter (fun i => !(i.chip = f.src && i.va = sec))
                                 copies := s.fab.copies.filter (fun c => !(c.chip = f.src && c.va = sec)) } }
  | .answer id code d => s.peerAnswer f.src id code d
  | .openWrite cmd dst len user => s.rxOpen f.src cmd (stripedPtr (offsetOf dst)) len user
  | .openRead cmd src len user =>
    (match s.link? link with
    | some k => s.setLink link { k with reads := k.reads ++ [⟨cmd, stripedPtr (offsetOf src), len, [], user⟩] }
    | none => s)
  | .data org cmd bs =>
    let s1 := match s.mcast? org cmd with
      | some d => if org = s.chip then s else s.mcData d bs
      | none => s
    s1.rxWrite org cmd bs
  | .done cmd code addr detail => s.doneArrives f.src cmd ⟨code, addr, detail⟩
  | .mcast org cmd dst len members user =>
    let rest := members.filter (fun i => i ≠ s.chip % 1024)
    let s1 := if rest.isEmpty then s else { s with fab := { s.fab with mcasts := s.fab.mcasts ++ [(⟨org, cmd, dst, len, rest, none, len, [], user⟩ : McDesc)] } }
    if members.contains (s.chip % 1024) then s1.rxOpen org cmd dst len user else s1
  | _ => s.serve f

/-- A data flit of a multicast that is not yet split must wait at its switch. -/
def State.unsplit (s : State) (f : FlitIn) : Bool :=
  match f.pay with
  | .data org cmd _ => org ≠ s.chip && (s.mcast? org cmd).any (fun d => d.links.isNone)
  | _ => false

/-- FLIT_RECEIVE (R401, R402, R404, R410, R422): a REQ, RESP, ENGINE or MCAST flit, or the IDLE on which the receiver aligns. -/
def execFlitReceive (link : Nat) (f : FlitIn) (s : State) : Out :=
  let no : Out := .fault (.notEnabled "FLIT_RECEIVE")
  match s.link? link with
  | none => no
  | some k =>
    if !s.fab.en ∨ !k.up ∨ f.type = .ack ∨ f.type = .lane ∨ f.type = .keyRetire ∨ s.unsplit f then no
    else if f.type = .idle then
      .next (if !k.align then s
        else match s.rxCheck link k f true with
          | some t => t
          | none => (s.setLink link { k with align := false }).fabRecord (some k) 0 .linkDegraded 0)
    else if k.align then .next s
    else
      match s.rxCheck link k f false with
      | some t => .next t
      | none =>
        if f.seq ≠ k.rxnext then .next (s.setLink link { k with authRun := 0 })
        else
          let s1 := s.rxAccept link k
          .next (if f.dst ≠ s.chip then s1.relay f else s1.deliver link f)

/-- KEY_RETIRE_RECEIVE (R405): the old receive key is discarded. -/
def execKeyRetireReceive (link : Nat) (f : FlitIn) (s : State) : Out :=
  let no : Out := .fault (.notEnabled "KEY_RETIRE_RECEIVE")
  match s.link? link with
  | none => no
  | some k =>
    if !s.fab.en ∨ !k.up ∨ f.type ≠ .keyRetire then no
    else if k.align then .next s
    else
      match s.rxCheck link k f false with
      | some t => .next t
      | none => if f.seq ≠ k.rxnext then .next (s.setLink link { k with authRun := 0 }) else .next (s.rxAccept link { k with rxprev := false })

/-! ### Acknowledgement and keys -/

/-- ACK_TIMER (R422): 200 ns after the first acceptance that no ACK or NAK covers. -/
def execAckTimer (link : Nat) (s : State) : Out :=
  match s.link? link with
  | none => .fault (.notEnabled "ACK_TIMER")
  | some k => if k.firstAt.any (fun t => decide (t + 400 ≤ s.now)) then .next (s.sendAck link false) else .fault (.notEnabled "ACK_TIMER")

/-- The key rollover of the transmit direction goes on (R405): KEY_RETIRE is sent once no flit of the old epoch is unacknowledged, and
the rollover is over once it is acknowledged. -/
def State.rollOn (s : State) (l : Nat) : State :=
  match s.link? l with
  | none => s
  | some k =>
    match k.roll with
    | .idle => s
    | .rolling =>
      if k.buffer.any (fun f => f.epoch != k.txep) then s
      else (s.setLink l { k with roll := .retiring }).fabPut l 3 (s.newFlit k.peer .keyRetire .none)
    | .retiring =>
      if k.buffer.any (fun f => f.type = .keyRetire) || k.queues.any (fun q => q.2.type = .keyRetire) then s
      else s.setLink l { k with roll := .idle }

/-- KEY_ROLLOVER (R405): the transmit direction takes its new key, or the receive direction (`dir` false) a second key; refused while the
rollover before it has not completed. -/
def execKeyRollover (link : Nat) (dir : Bool) (s : State) : Out :=
  match s.link? link with
  | none => .fault (.notEnabled "KEY_ROLLOVER")
  | some k =>
    if (if dir then k.roll != .idle else k.rxprev) then .next (s.fabRecord (some k) 0 .keyEpochRefused 0)
    else if dir then .next ((s.setLink link { k with txep := !k.txep, kcnt := 0, roll := .rolling }).rollOn link)
    else .next (s.setLink link { k with rxep := !k.rxep, rxprev := true })

/-- ACK_RECEIVE (R404): flits below its number are freed, and a NAK resends from the oldest that is left. -/
def execAckReceive (link : Nat) (f : FlitIn) (s : State) : Out :=
  let no : Out := .fault (.notEnabled "ACK_RECEIVE")
  match s.link? link, f.pay with
  | some k, .ack next nak =>
    if !s.fab.en ∨ !k.up ∨ f.type ≠ .ack then no
    else if k.align then .next s
    else
      match s.rxCheck link k f true with
      | some t => .next t
      | none =>
        let n := (next + 4096 - k.acked) % 4096
        if k.buffer.length < n then .next s
        else
          let left := k.buffer.drop n
          let k1 := { k with authRun := 0, acked := next % 4096, buffer := left, replay := k.replay.filter (fun g => left.contains g)
                             ackAt := if n = 0 then k.ackAt else s.now, resends := if n = 0 then k.resends else 0 }
          let s1 := if nak then s.resend link k1 else s.setLink link k1
          .next (s1.rollOn link)
  | _, _ => no

/-- RESEND_TIMEOUT (R404): 4 µs of mapped time without progress of the ACK. -/
def execResendTimeout (link : Nat) (s : State) : Out :=
  match s.link? link with
  | none => .fault (.notEnabled "RESEND_TIMEOUT")
  | some k =>
    if !s.serves k.peer ∨ !k.up ∨ k.buffer.isEmpty ∨ s.now < k.ackAt + 8000 then .fault (.notEnabled "RESEND_TIMEOUT")
    else .next (s.resend link k)

/-! ### Light -/

/-- LOSS_OF_LIGHT_DETECT (R406): the monitors of a port of a link lose wavelengths; the number holds the block in its low five bits and
the port above them. -/
def execLossOfLightDetect (link : Nat) (lost : BitVec 16) (s : State) : Out :=
  let l := link % 32
  let p := link / 32
  match s.link? l with
  | none => .fault (.notEnabled "LOSS_OF_LIGHT_DETECT")
  | some k =>
    let m := workOf k.rxw p
    if !s.fab.running ∨ !(s.portsTo k.peer).contains p ∨ lost = 0 ∨ m &&& lost.toNat ≠ lost.toNat then .fault (.notEnabled "LOSS_OF_LIGHT_DETECT")
    else
      let rx := setWork k.rxw p (m - lost.toNat)
      let gone := ((List.range 16).filter (fun i => lost.getLsbD i)).map (fun i => (0, 16 * p + i, s.now))
      let s1 := (s.fabRecord (some k) p .linkLossOfLight lost.toNat).setLink l { k with rxw := rx, align := true, steady := k.steady ++ gone }
      let s2 := s1.fabPut l 3 (s1.newFlit k.peer .lane (.lane (m - lost.toNat)))
      .next (if workCount rx (s.mappedPorts k.peer) = 0 then s2.linkDown l k 0 else s2)

/-- LANE_RECEIVE (R406): the sender takes the mask as the working set of a port, sends one IDLE, and replays; the number holds block and
port as above. -/
def execLaneReceive (link : Nat) (f : FlitIn) (s : State) : Out :=
  let no : Out := .fault (.notEnabled "LANE_RECEIVE")
  let l := link % 32
  let p := link / 32
  match s.link? l, f.pay with
  | some k, .lane mask =>
    if !s.fab.en ∨ k.pinc.isNone ∨ f.type ≠ .lane ∨ !(s.portsTo k.peer).contains p then no
    else
      match s.rxCheck l k f true with
      | some t => .next t
      | none =>
        let m := workOf k.txw p
        let new := mask % 2 ^ 16
        let gone := ((List.range 16).filter (fun i => natBit m i = 1 && natBit new i = 0)).map (fun i => (1, 16 * p + i, s.now))
        let tx := setWork k.txw p new
        let n := k.buffer.length
        let k1 := { k with txw := tx, steady := k.steady ++ gone, authRun := 0 }
        if workCount tx (s.mappedPorts k.peer) = 0 then .next ((s.setLink l k1).linkDown l k 0)
        else
          let s1 := (s.setLink l k1.lightBack).fabPut l 3 (s.newFlit k.peer .idle .none)
          let s2 := s1.fabRecord (some k) 0 .linkDegraded n
          .next (match s2.link? l with | some k2 => s2.resend l k2 | none => s2)
  | _, _ => no

/-- WAVELENGTH_REJOIN (R406): at a heat that maps the link, a wavelength whose light was steady for 1 ms rejoins. `w` counts the receive
wavelengths of the 16 ports, then the transmit ones. -/
def execWavelengthRejoin (link w : Nat) (s : State) : Out :=
  let no : Out := .fault (.notEnabled "WAVELENGTH_REJOIN")
  match s.link? link with
  | none => no
  | some k =>
    let dir := w / 256
    let x := w % 256
    let p := x / 16
    match k.steady.find? (fun e => e.1 = dir && e.2.1 = x) with
    | none => no
    | some e =>
      if !s.serves k.peer ∨ s.fab.since < e.2.2 + 2000000 then no
      else
        let old := workOf (if dir = 0 then k.rxw else k.txw) p
        let new := old ||| 2 ^ (x % 16)
        let k1 := { k with steady := k.steady.filter (fun q => q ≠ e), align := k.align && (dir ≠ 0 || k.downAt.isNone)
                           rxw := if dir = 0 then setWork k.rxw p new else k.rxw, txw := if dir = 0 then k.txw else setWork k.txw p new }
        .next ((s.setLink link k1.lightBack).fabRecord (some k) p .linkRestored new)

/-- LASER_FAULT (R397, R415): laser `port`, four to a port, fails; the receiver at the other end sees its wavelengths go dark. -/
def execLaserFault (port : Nat) (s : State) : Out :=
  if 64 ≤ port ∨ port ∈ s.fab.lasers then .fault (.notEnabled "LASER_FAULT")
  else .next { s with fab := { s.fab with lasers := port :: s.fab.lasers } }

/-! ### Failed links and new incarnations -/

/-- A fabric command uses a link. -/
def State.cmdUses (s : State) (l : Nat) (c : Cmd) : Bool :=
  c.phase = .running && c.fault.isNone &&
    (match c.req.kind with
    | .cpyx => [1, 2].any (fun i => natBits (c.w i) 60 4 = 4 && (s.fabRoute (natBits (c.w i) 48 12)).any (fun t => t.1 = l))
    | .mcx => (s.mcast? s.chip c.id).any (fun d => (d.links.getD []).contains l || d.ask.any (fun i =>
        (s.fabRoute (s.chip / 1024 * 1024 + i % 1024)).any (fun t => t.1 = l)))
    | _ => false)

/-- A fabric command names a chip (R410). -/
def State.cmdNames (s : State) (chip : Nat) (c : Cmd) : Bool :=
  c.phase = .running && c.fault.isNone &&
    (match c.req.kind with
    | .cpyx => [1, 2].any (fun i => natBits (c.w i) 60 4 = 4 && natBits (c.w i) 48 12 = chip)
    | .mcx => groupOf chip = groupOf s.chip && (s.mcast? s.chip c.id).any (fun d => d.members.contains (chip % 1024) || d.ask.contains (chip % 1024))
    | _ => false)

/-- Requests that wait for peers fail with REMOTE_FAILED and a DETAIL (R407, R410). -/
def State.failReqs (s : State) (code : Nat) (p : PeerReq → Bool) : State :=
  (s.fab.out.filter p).foldl (fun (t : State) o => match t.msg? o.msg with | some m => t.peerAnswer1 o.chip code [] m | none => t)
    { s with fab := { s.fab with out := s.fab.out.filter (fun o => !p o) } }

/-- Fabric commands fault with CPY_REMOTE and a DETAIL (R407, R410). -/
def State.failCmds (s : State) (code : Nat) (q : Cmd → Bool) : State :=
  (s.cmds.filter q).foldl (fun (t : State) c =>
    (t.dropTransfer c.id).cmdFault { c with aux := t.restartAux c 0 } (engFault .cpyRemote (c.words.getD 1 0) code)) s

/-- What waits on a link fails (R407): the requests `p`, and the commands whose transfers use the link. -/
def State.failPeer (s : State) (l code : Nat) (p : PeerReq → Bool) : State :=
  let t := s.failReqs code p
  t.failCmds code (t.cmdUses l)

/-- LINK_DOWN_TIMEOUT (R407): what waits on a link that has been down for 10 ms fails. -/
def execLinkDownTimeout (link : Nat) (s : State) : Out :=
  match s.link? link with
  | none => .fault (.notEnabled "LINK_DOWN_TIMEOUT")
  | some k =>
    let mine (o : PeerReq) : Bool := (s.fabRoute o.chip).any (fun t => t.1 = link)
    if !k.downAt.any (fun t => decide (t + 20000000 ≤ s.now)) ∨ !(s.fab.out.any mine || s.cmds.any (s.cmdUses link)) then
      .fault (.notEnabled "LINK_DOWN_TIMEOUT")
    else .next (s.failPeer link 0xAA mine)

/-- PEER_INCARNATION_CHANGE (R410): the link comes up with its peer's incarnation; where another was recorded, everything of the old
peer is purged first. -/
def execPeerIncarnationChange (chip inc : Nat) (s : State) : Out :=
  match s.linkOf chip with
  | none => .fault (.notEnabled "PEER_INCARNATION_CHANGE")
  | some (l, k) =>
    if 256 ≤ inc ∨ k.pinc = some inc ∨ !s.fab.en then .fault (.notEnabled "PEER_INCARNATION_CHANGE")
    else
      let welcome (t : State) (k : LinkSt) : State := t.setLink l { k with pinc := some inc, up := true, downAt := none }
      match k.pinc with
      | none => .next (welcome s k)
      | some _ =>
        let s0 := s.failReqs 0xB0 (fun o => o.chip = chip)
        let s1 := s0.failCmds 0xB0 (s0.cmdNames chip)
        let dropped := ((List.range 8).map (fun d => ((s1.schedOf d).proxy.filter (fun p => p.chip = chip)).length)).foldl (· + ·) 0
        let s2 := (List.range 8).foldl (fun (t : State) d =>
          let x := t.schedOf d
          let (gone, rest) := x.proxy.partition (fun p => p.chip = chip)
          gone.foldl (fun (u : State) p => u.tcDec d p.job) (if gone.isEmpty then t else t.setSched d { x with proxy := rest })) s1
        let s3 := { s2 with fab := { s2.fab with
          copies := s2.fab.copies.filter (fun c => c.chip ≠ chip), invals := s2.fab.invals.filter (fun i => i.chip ≠ chip)
          held := s2.fab.held.filter (fun h => h.chip ≠ chip), served := s2.fab.served.filter (fun v => v.chip ≠ chip)
          rx := s2.fab.rx.filter (fun r => r.org ≠ chip), mcasts := s2.fab.mcasts.filter (fun d => d.org ≠ chip)
          refused := s2.fab.refused.filter (fun r => r.1 ≠ chip) } }
        let fresh := LinkSt.start chip s.now
        .next (welcome (s3.fabRecord (some k) 0 .peerReset dropped)
          { fresh with rxw := k.rxw, txw := k.txw, steady := k.steady, ltx := k.ltx, lrx := k.lrx, lreplay := k.lreplay, lcrc := k.lcrc
                       lauth := k.lauth, lstale := k.lstale, pausedAt := if s.serves chip then none else some s.now })

/-! ### cpyx -/

/-- The fault of a fabric command that no port serves (R396). -/
def noRoute (p : Word) : FaultRec := engFault .cpyRemote p 0xB3

/-- Read on from byte `at_` of a transfer's source until `n` bytes are in hand. -/
def State.srcBytes (s : State) (c : Cmd) (src : Word) (at_ n : Nat) (buf : List Byte) : Except FaultRec (List Byte) :=
  ((List.range ((n - buf.length + 31) / 32)).mapM (fun i => s.cmdRead c 32 32 src ((at_ + buf.length + 32 * i : Nat) : Int))).map
    (fun bs => buf ++ bs.flatten)

/-- What a fabric engine keeps of a transfer it sends: the bytes sent, and those read ahead. -/
def txAux (sent : Nat) (buf : List Byte) : List Nat := 1 :: sent :: buf.map (fun b => b.toNat)

/-- The byte from which a transfer is still to be made: 0, or where it faulted (R224); nothing once it has begun. -/
def Cmd.resumeAt (c : Cmd) : Option Nat :=
  match c.aux with
  | [] => some 0
  | [4, n] => some n
  | _ => none

/-- A cpyx of which `sent` bytes have left sends its next data flit, once its queue has room (R411). -/
def State.cpyxData (s : State) (c : Cmd) (l : Nat) (k : LinkSt) (sent : Nat) (buf : List Byte) : Option State :=
  let len := c.w 3
  if len ≤ sent ∨ k.full 2 then none
  else
    let n := min 232 (len - sent)
    some (match s.srcBytes c (c.words.getD 2 0) sent n buf with
      | .error f => s.cmdFault c f
      | .ok all =>
        let last := decide (len ≤ sent + n)
        let s1 := s.setCmd { c with aux := txAux (sent + n) (all.drop n) }
        (s1.setLink l { k with chan := if last then none else some (s.chip, c.id) }).fabPut l 2
          (s1.newFlit (chipOf (c.words.getD 1 0)) .engine (.data s.chip c.id (all.take n))))

/-- CPYX_RUN (R411): a cpyx that sends opens its transfer, once the engine channel is free, and then sends its data flits one at a
time; one that fetches asks the peer to send. A peer pointer to this chip is served here (R119). -/
def execCpyxRun (cmd : Nat) (s : State) : Out :=
  let no : Out := .fault (.notEnabled "CPYX_RUN")
  match s.ready cmd .cpyx with
  | none => no
  | some c =>
    let dst := c.words.getD 1 0
    let src := c.words.getD 2 0
    let out := spaceOf dst = 4
    let far := if out then dst else src
    let chip := chipOf far
    match c.resumeAt, c.aux with
    | some d, _ =>
      if groupOf chip ≠ groupOf s.chip then .next (s.cmdFault c (noRoute far))
      else if chip = s.chip then
        .next ((List.range (c.w 3 / 32)).foldl (fun (t : State) g => t.send (.cmd cmd) 15 (.gran cmd src (32 * g : Nat) dst (32 * g : Nat) none))
          (s.setCmd { c with aux := [3] }))
      else
        (match s.fabRoute chip with
        | none => .next ((s.fabRecord none 0 .fabNoroute chip).cmdFault c (noRoute far))
        | some (l, k) =>
          if k.full 2 ∨ k.chan.isSome then no
          else if out then
            let s1 := s.setLink l { k with chan := if c.w 3 ≤ d then none else some (s.chip, cmd) }
            .next ((s1.setCmd { c with aux := txAux d [] }).fabPut l 2
              (s.newFlit chip .engine (.openWrite cmd (addOffset dst (d : Nat)).1 (c.w 3 - d) c.req.user)))
          else
            let s1 := (s.setCmd { c with aux := [2] }).fabPut l 2
              (s.newFlit chip .engine (.openRead cmd (addOffset src (d : Nat)).1 (c.w 3 - d) c.req.user))
            .next (s1.rxOpen s.chip cmd (addOffset dst (d : Nat)).1 (c.w 3 - d) c.req.user))
    | none, 1 :: sent :: buf =>
      (match s.fabRoute chip with
      | none => no
      | some (l, k) =>
        match s.cpyxData c l k sent (buf.map (BitVec.ofNat 8)) with
        | some t => .next t
        | none => no)
    | _, _ => no

/-- The bytes that a cpyx fetches have all been written, or their first fault (R411). -/
def State.fetched (s : State) (cmd : Nat) : Option Ending :=
  match s.fab.rx.find? (fun r => r.org = s.chip && r.cmd = cmd) with
  | some r => if r.left = 0 ∧ !s.fab.served.any (fun v => v.xfer && v.chip = s.chip && v.rid = cmd) then some r.fin else none
  | none => none

/-- CPYX_COMPLETION (R411, R412): the peer's completion, the last byte fetched, or every member's acknowledgement; a peer's fault becomes
the command's. -/
def execCpyxCompletion (cmd : Nat) (s : State) : Out :=
  let no : Out := .fault (.notEnabled "CPYX_COMPLETION")
  match s.cmd? cmd with
  | none => no
  | some c =>
    let dst := c.words.getD 1 0
    let far := if c.req.kind = .cpyx ∧ spaceOf dst ≠ 4 then c.words.getD 2 0 else dst
    let done (e : Ending) (base : Word) : Nat := if e.addr = 0 then 0 else offsetOf e.addr - offsetOf base
    let ended (e : Ending) (base : Word) : Out :=
      let s1 := s.dropTransfer cmd
      .next (if e.code = 0 then s1.cmdDone c false
        else s1.cmdFault { c with aux := s.restartAux c (done e base) } (e.fault (addOffset base (done e base : Nat)).1))
    if c.phase ≠ .running ∨ c.fault.isSome ∨ !(c.req.kind = .cpyx ∨ c.req.kind = .mcx) then no
    else
      match s.fab.dones.find? (fun d => d.1 = cmd), s.fetched cmd, s.mcast? s.chip cmd with
      | some d, _, _ => ended d.2 far
      | none, some e, _ => ended e dst
      | none, none, some d => if d.left = 0 ∧ d.ask = [] then ended Ending.ok dst else no
      | none, none, none => if c.aux = [3] ∧ s.net.all (fun m => m.src ≠ Src.cmd cmd) then ended Ending.ok dst else no

/-! ### mcx -/

/-- MCX_RUN (R412): the descriptor is handed to this chip's switch; once it is split, the data flits follow one at a time. -/
def execMcxRun (cmd : Nat) (s : State) : Out :=
  let no : Out := .fault (.notEnabled "MCX_RUN")
  match s.ready cmd .mcx with
  | none => no
  | some c =>
    let again := match c.aux with | 5 :: l => some l | _ => none
    match (if again.isSome then [] else c.aux), s.mcast? s.chip cmd with
    | [], _ =>
      .next (match s.runEng (engRead c 8 128 (c.words.getD 9 0) 0) with
        | .error f => s.cmdFault c f
        | .ok (bs, t) =>
          let str := leNat bs
          let members := (List.range 1024).filter (fun i => natBit str i = 1 && i != s.chip % 1024 && (again.all (fun l => l.contains i)))
          let len := if members.isEmpty then 0 else c.w 3
          let d : McDesc := ⟨s.chip, cmd, c.words.getD 1 0, c.w 3, members, if members.isEmpty then some [] else none, len, members, c.req.user⟩
          { t with fab := { t.fab with mcasts := t.fab.mcasts ++ [d] } }.setCmd { c with aux := txAux 0 [] })
    | 1 :: sent :: buf, some d =>
      (match d.links with
      | none => no
      | some ls =>
        if d.left = 0 ∨ ls.any (fun l => (s.link? l).any (fun k => k.full 2)) then no
        else
          let n := min 232 d.left
          .next (match s.srcBytes c (c.words.getD 2 0) sent n (buf.map (BitVec.ofNat 8)) with
            | .error f => s.cmdFault c f
            | .ok all => (s.setCmd { c with aux := txAux (sent + n) (all.drop n) }).mcData d (all.take n)))
    | _, _ => no

/-- The members that each port of the current heat takes: each goes to the lowest port that maps or reaches it (R412). -/
def mcastPorts (h : Heat) (members : List Nat) : List (Nat × List Nat) :=
  let holds (p : Nat × Nat) (i : Nat) : Bool := p.2 % 1024 = i || h.reach.any (fun r => r.1 = p.1 && r.2.getLsbD i)
  (h.pmap.map (fun p => (p.2, members.filter (fun i => ((h.pmap.find? (fun q => holds q i)).map (·.1)) = some p.1)))).filter (fun t => !t.2.isEmpty)

/-- The members that no port takes. -/
def mcastMissed (h : Heat) (members : List Nat) : List Nat :=
  members.filter (fun i => !h.pmap.any (fun p => p.2 % 1024 = i || h.reach.any (fun r => r.1 = p.1 && r.2.getLsbD i)))

/-- MCAST_SPLIT (R412, R413): the switch splits a descriptor over the ports of the current heat, once their engine channels are free;
members that no port reaches are reported, and the command faults. -/
def execMcastSplit (m : Nat) (s : State) : Out :=
  let no : Out := .fault (.notEnabled "MCAST_SPLIT")
  match s.fab.mcasts[m]?, s.heatNow with
  | some d, some h =>
    let parts := (mcastPorts h d.members).filterMap (fun t => (s.linkOf t.1).map (fun l => (l.1, t.1, t.2)))
    let ls := (parts.map (·.1)).eraseDups
    if d.links.isSome ∨ !s.fab.running ∨ ls.any (fun l => (s.link? l).any (fun k => k.chan.isSome || k.full 2)) then no
    else
      let s1 := parts.foldl (fun (t : State) p =>
        t.fabPut p.1 2 (t.newFlit p.2.1 .mcast (.mcast d.org d.cmd d.dst d.len p.2.2 d.user))) (s.setMcast { d with links := some ls })
      let s2 := if d.left = 0 then s1
        else ls.foldl (fun (t : State) l => match t.link? l with | some k => t.setLink l { k with chan := some (d.org, d.cmd) } | none => t) s1
      let base := s.chip / 1024 * 1024
      let miss := mcastMissed h d.members
      let s3 := miss.foldl (fun (t : State) i => t.fabRecord none 0 .fabNoroute (base + i)) s2
      .next (if miss.isEmpty then s3
        else if d.org ≠ s.chip then s3.fabSend d.org 2 .engine (.done d.cmd 0xB3 0 0)
        else s3.noteDone d.cmd ⟨0xB3, 0, 0⟩)
  | _, _ => no

end Sys2Proof.Machine
end

