-- ==== Sys2Proof/Machine/Spill.lean ====
section
/-!
DEFINITION. Sys2Proof/Machine/Spill.lean: pre-emption. The swap of a slot with its bank (R32, R227, R301, R305, R370), the quantum
(R302), and spills and fills (R228 to R230, R303, R305).
-/

namespace Sys2Proof.Machine

/-! ### Swap -/

/-- A buffered effect is formed again when a filled context becomes active (R230): everything that R171 forms again but a heal. -/
def formsAgain (i : Instr) : Bool := reforms i && (match i with | .ldrefH _ => false | _ => true)

/-- The buffered effects of a filled execution are due to be formed again. -/
def Exec.formAgain (ex : Exec) : Exec :=
  { ex with decided := false, reserved := []
            resumed := BitVec.ofNat 64 (indexBits (fun n => ex.fired.getLsbD n && (match ex.instr? n with | some i => formsAgain i | none => false)) 64) }

/-- A heal keeps the word it read, and its address is probed again (R230). -/
def State.probeHeal (s : State) (x : Ctx) (ex : Exec) (n : Nat) : Effect → Exec
  | .heal l cls p via off _ old new =>
    let r : AccReq := { need := { rd := true, wr := true }, w := 8, n := 8, user := ex.user }
    if via then
      match s.checkRefEls ex.pc r p off 8 [(0, off, 8)] with
      | .error fs => (ex.unfire n).raiseElems n fs
      | .ok ps => ex.buffer n (.heal l cls p via off ((ps.map (·.2)).headD ⟨0, none, none⟩) old new)
    else
      match s.checkElem x.wins r s.free p off with
      | .error f => (ex.unfire n).raiseElems n [(0, f)]
      | .ok ps => ex.buffer n (.heal l cls p via off ((ps.map (·.place)).headD ⟨0, none, none⟩) old new)
  | _ => ex

/-- A context becomes active (R227, R230). -/
def State.activate (s : State) (x : Ctx) : State :=
  let y := { x with place := .active, activeSince := s.now, fillTo := none, fresh := false, refill := false, retStack := [] }
  if !x.refill then s.setCtx y
  else
    match x.cur with
    | none => s.setCtx y
    | some ex =>
      s.setCtx { y with cur := some (ex.bufs.foldl (fun (e : Exec) b => s.probeHeal y e b.1 b.2) ex.formAgain) }

/-- Exchange the contexts of a slot and its bank (R227): a speculative pitch is squashed. -/
def State.swap (s : State) (core slot : Nat) : State :=
  let s1 := match s.inSlot core slot with
    | some a => s.setCtx { a with place := .bank, offered := false, spec := none, retStack := [] }
    | none => s
  match s.inBank core slot with
  | some b => s1.activate b
  | none => s1

/-- The core swaps a slot with its bank outside the quantum boundaries (R301, R303, R305, R370). A blocked strand that has selected
another context waits for that one. -/
def State.swapDue (s : State) (core slot : Nat) : Bool :=
  match s.inBank core slot with
  | none => false
  | some b =>
    if b.place ≠ .bank then false
    else
      match s.inSlot core slot with
      | none => b.fillTo = some slot || s.ready? b
      | some a => b.fillTo = some slot || (s.ready? b && s.blocked a && (s.selected core slot).isNone)

/-- CONTEXT_SWAP (R227). -/
def execContextSwap (core slot : Nat) (s : State) : Out :=
  if s.swapDue core slot then .next (s.swap core slot) else .fault (.notEnabled "CONTEXT_SWAP")

/-- QUANTUM_BOUNDARY (R302): each slot in ascending order. -/
def execQuantumBoundary (core : Nat) (s : State) : Out :=
  let k := s.core core
  if s.now < k.quantumAt then .fault (.notEnabled "QUANTUM_BOUNDARY")
  else
    .next ((List.range 8).foldl (fun (t : State) slot =>
      match t.inSlot core slot, t.inBank core slot with
      | some a, some b =>
        if a.activeSince + 100000 ≤ t.now ∧ b.place = .bank ∧ t.ready? b ∧ b.pri ≤ a.pri then t.swap core slot else t
      | _, _ => t) (s.setCore core { k with quantumAt := k.quantumAt + 100000 }))

/-! ### Spills -/

/-- A context may be spilled (R229). -/
def State.spillable (s : State) (x : Ctx) : Bool :=
  x.place = .bank && x.es.toList.all (· != .busy) && s.net.all (fun m => m.src != Src.ctx x.id || !m.body.isLoad)
    && s.pairs.all (fun p => p.sides.all (fun d => d.ctx ≠ x.id || d.belayed))

/-- Of two contexts the one that a card pre-empts first (R303): the greater priority number, then the later placed. -/
def preemptFirst : List Ctx → Option Ctx
  | [] => none
  | x :: xs =>
    match preemptFirst xs with
    | none => some x
    | some y => if x.pri < y.pri ∨ (x.pri = y.pri ∧ x.id < y.id) then some y else some x

/-- The card that has a context of the core spilled, and that context (R303). -/
def State.cardVictim (s : State) (core : Nat) : Option (Word × Ctx) :=
  match headCard s.now (s.core core).queue, s.freePos core true with
  | some e, none =>
    let mine := s.ctxs.filter (fun x => x.core = core)
    if (s.core core).kept.isSome ∨ mine.any (·.wantSpill) ∨ (s.core core).spilling.isSome then none
    else (preemptFirst (mine.filter (fun x => s.spillable x && decide (e.effPri s.now < x.pri)))).map (fun x => (e.card, x))
  | _, _ => none

/-- A slot's selected context needs a context spilled (R305): the bank beside the slot is occupied by another, or the selected one
lies in another bank. -/
def State.spillFor (s : State) (x : Ctx) : Bool :=
  x.place = .bank && (List.range 8).any (fun slot => (s.selected x.core slot).any (fun e => (x.slot = slot) != (x.id = e.id)))

/-- A spill of a context is asked for (R228): a side of a running pair clears its matrix instructions (R239). -/
def State.askSpill (s : State) (x : Ctx) (kept : Option (Nat × Word)) : State :=
  let k := s.core x.core
  (((s.setCtx { x with wantSpill := true }).setCore x.core { k with spillQ := k.spillQ ++ [(x.id, false)], kept := kept })).pairReissue x.id

/-- SPILL_REQUEST (R228, R303, R305): the bank that a card has freed is kept for the queue's cards. -/
def execSpillRequest (c : Nat) (s : State) : Out :=
  let no : Out := .fault (.notEnabled "SPILL_REQUEST")
  match s.ctx? c with
  | none => no
  | some x =>
    if x.wantSpill ∨ x.place ≠ .bank then no
    else if s.spillFor x then .next (s.askSpill x (s.core x.core).kept)
    else
      match s.cardVictim x.core with
      | some (card, v) => if v.id = c then .next (s.askSpill x (some (x.slot, card))) else no
      | none => no

/-! ### The spill engine -/

/-- The bank that a spilled context is filled into (R228, R305): beside the slot that has selected it, or the lowest that is empty. -/
def State.fillBank (s : State) (x : Ctx) : Option Nat :=
  let bare (b : Nat) : Bool := (s.inBank x.core b).isNone && (s.core x.core).kept.all (fun k => k.1 ≠ b)
  match x.fillTo with
  | some t => if bare t then some t else none
  | none => if s.ready? x then (List.range 8).find? bare else none

/-- A spilled context may be filled (R228): a bank is free for it, and the tiles are. -/
def State.fillable (s : State) (x : Ctx) : Bool :=
  x.place = .spilled && x.retiring.isNone && (s.fillBank x).isSome && decide (x.tiles.length ≤ (s.freeTiles x.core).length)

/-- The fill of a spilled context is asked for as its bank and tiles become free (R228). -/
def State.askFills (s : State) : State :=
  s.ctxs.foldl (fun (t : State) x =>
    let k := t.core x.core
    if t.fillable x && !k.spillQ.contains (x.id, true) then t.setCore x.core { k with spillQ := k.spillQ ++ [(x.id, true)] } else t) s

/-- What the spill engine of a core serves next (R229): the first request, of those that can be served. -/
def State.engineNext (s : State) (core : Nat) : Option (Nat × Bool) :=
  let k := s.core core
  if k.spilling.isSome then none
  else k.spillQ.find? (fun q => match s.ctx? q.1 with
    | some y => if q.2 then s.fillable y else y.wantSpill && s.spillable y
    | none => false)

/-- The spill engine takes a request of its queue. -/
def CoreSt.serveSpill (k : CoreSt) (c : Nat) : CoreSt := { k with spilling := some c, spillQ := k.spillQ.filter (fun q => q.1 ≠ c) }

/-- Probes are dropped: the held translations of buffered effects go (R228). -/
def Place.unheld (p : Place) : Place := { p with hold := none }

/-- A buffered effect without its held translations. -/
def Effect.unheld : Effect → Effect
  | .store l c r els => .store l c r (els.map (fun e => { e with place := e.place.unheld }))
  | .vsadd els => .vsadd (els.map (fun e => { e with place := e.place.unheld }))
  | .atomic l f w sc o v els => .atomic l f w sc o v (els.map (fun e => { e with place := e.place.unheld }))
  | .refStore l c w els => .refStore l c w (els.map (fun e => { e with hold := none }))
  | .heal l c p v o pl a b => .heal l c p v o pl.unheld a b
  | .op r _ => .op r []
  | e => e

/-- SPILL_START (R228, R229): the spill engine takes a context that is eligible, in request order. -/
def execSpillStart (c : Nat) (s : State) : Out :=
  let no : Out := .fault (.notEnabled "SPILL_START")
  match s.ctx? c with
  | none => no
  | some x =>
    if s.engineNext x.core ≠ some (c, false) then no
    else
      let cur := x.cur.map (fun ex => { ex.mxClearAll with bufs := ex.bufs.map (fun b => (b.1, b.2.unheld)), decided := false })
      .next ((s.setCtx { x with place := .spilling, cur := cur }).setCore x.core ((s.core x.core).serveSpill c))

/-- The pages of a context's image, or the first that fails with its code (R228, R229). -/
def State.imagePages (s : State) (x : Ctx) (write : Bool) : Except (Word × Nat) (List Nat) :=
  match s.framePages x.spill (if write then { wr := true } else { rd := true }) (16 + x.tiles.length) 0 with
  | .error e => .error e
  | .ok ps =>
    match ps.find? (fun p => (s.die (homeDie p.1)).dstate = 2 || (!write && s.isPoisoned p.1 4096)) with
    | some p => .error (p.2.1, if (s.die (homeDie p.1)).dstate = 2 then 0x4D else 0x4E)
    | none => .ok (ps.map (·.1))

/-- The free bytes of an image, numbered from `f`: its layout and its seal are not given (R230). -/
def imageBytes (f n : Nat) : List Byte := (List.range n).map (fun i => Config.freeByte (f + i))

/-- Write pages. -/
def State.putPages (s : State) : List Nat → List Byte → State
  | [], _ => s
  | k :: ks, bs => (s.store k ((bs.take 4096).map (fun b => (b, 255)))).putPages ks (bs.drop 4096)

/-- The spill engine is free again. -/
def State.spillDone (s : State) (core : Nat) : State := s.setCore core { s.core core with spilling := none }

/-- SPILL_COMPLETE (R228): the image is written, and the bank and the reserved tiles are released. -/
def execSpillComplete (c : Nat) (s : State) : Out :=
  let no : Out := .fault (.notEnabled "SPILL_COMPLETE")
  match s.ctx? c with
  | none => no
  | some x =>
    if x.place ≠ .spilling then no
    else
      match s.imagePages x true with
      | .error _ => no
      | .ok ps =>
        let n := 4096 * ps.length
        let saved := x.tiles.map (fun t => (((s.core x.core).tiles.find? (fun p => p.1 = t)).map (·.2)).getD 0)
        let s1 := { s.putPages ps (imageBytes s.free n) with free := s.free + n }
        .next ((s1.setCtx { x with place := .spilled, saved := saved, image := some s.free, wantSpill := false }).spillDone x.core)

/-- A context whose spill or fill fails retires in error (R228). -/
def Ctx.spillError (x : Ctx) (c : Cause) (fa : Word) (detail : Nat) : Ctx :=
  ({ x with place := .bank, fc := fcWord ⟨c, fa, detail, none, none, false⟩ false x.intrap x.sup, fa := fa, wantSpill := false
            fillTo := none }).retireError

/-- SPILL_ACCESS_FAULT (R228, R232): a write of a spill, or a read of a fill, fails. -/
def execSpillAccessFault (c : Nat) (s : State) : Out :=
  let no : Out := .fault (.notEnabled "SPILL_ACCESS_FAULT")
  match s.ctx? c with
  | none => no
  | some x =>
    if x.place ≠ .spilling ∧ x.place ≠ .filling then no
    else
      match s.imagePages x (x.place = .spilling) with
      | .ok _ => no
      | .error (a, code) => .next ((s.setCtx (x.spillError .spillFault a code)).spillDone x.core)

/-! ### Fills -/

/-- FILL_START (R228, R229): the bank and the tiles are free, and the fill's turn has come. -/
def execFillStart (c : Nat) (s : State) : Out :=
  let no : Out := .fault (.notEnabled "FILL_START")
  match s.ctx? c with
  | none => no
  | some x =>
    match s.fillBank x with
    | none => no
    | some b =>
      if s.engineNext x.core ≠ some (c, true) then no
      else
        .next ((s.setCtx { x with place := .filling, slot := b, tiles := (s.freeTiles x.core).take x.tiles.length }).setCore x.core
          ((s.core x.core).serveSpill c))

/-- FILL_COMPLETE (R228, R230): an unchanged image passes its check; any other retires the context in error. -/
def execFillComplete (c : Nat) (s : State) : Out :=
  let no : Out := .fault (.notEnabled "FILL_COMPLETE")
  match s.ctx? c with
  | none => no
  | some x =>
    if x.place ≠ .filling then no
    else
      match s.imagePages x false with
      | .error _ => no
      | .ok ps =>
        let bs := ps.flatMap (fun p => memReadN s.mem p 4096)
        if x.image.map (fun f => imageBytes f (4096 * ps.length)) ≠ some bs then
          .next ((s.setCtx (x.spillError .spillImage x.spill 0)).spillDone x.core)
        else
          let k := s.core x.core
          let tiles := (x.tiles.zip x.saved) ++ k.tiles.filter (fun t => !x.tiles.contains t.1)
          .next (((s.setCtx { x with place := .bank, saved := [], image := none, refill := true }).setCore x.core { k with tiles := tiles }).spillDone x.core)

end Sys2Proof.Machine
end

