-- ==== Sys2Proof/Machine/Package.lean ====
section
/-!
DEFINITION. Sys2Proof/Machine/Package.lean: the events of the package. Recovery of a reset die (R377), failed links and fenced dies
(R374, R378), detected hardware faults (R394), launch queues (R380), the host (R379, R381, R386), the power manager (R388) and
Hital (R393).
-/

namespace Sys2Proof.Machine

/-! ### Reset and split -/

/-- The iterations of a die in a launch that have not retired, when it has started. -/
def Launch.left (l : Launch) (d : Nat) : List Nat :=
  if l.started then (List.range (iterations l.words)).filter (fun n => iterDie l.words n = d && !l.retired.contains n) else []

/-- A launch's walk of a die starts afresh at a time, or is over. -/
def Launch.walkFrom (l : Launch) (d n now : Nat) : Launch := { l with walks := l.walks.map (fun w => if w.1 = d then (d, n, now) else w) }

/-- The unretired iterations of a die retire in error, and its walk is over (R377, R378). -/
def State.nestsFail (s : State) (d : Nat) (l : Launch) : State :=
  (l.left d).foldl (fun t n => t.nestRetire l.id n true) (s.setLaunch (l.walkFrom d (iterations l.words) s.now))

/-- A launch's nest is RESTARTABLE (R281). -/
def Launch.restartable (l : Launch) : Bool := natBit (wordAt l.words 1) 14 = 1

/-- A launch whose DIEMASK names a die. -/
def Launch.uses (l : Launch) (d : Nat) : Bool := l.started && (diesOf l.words).contains d

/-- A card RUNNING on a die as a strand. -/
def State.taskOn (s : State) (d : Nat) (r : RunCard) : Bool :=
  dieOf r.core = d && !r.ended && s.cmds.all (fun c => c.card ≠ some r.id) && s.launches.all (fun l => l.card ≠ some r.id)

/-- CDIE_RESET_RECOVER (R377): the die runs again; its nests go on or fail, its TASK cards end in error, and its queued cards stand as
they were. -/
def execCdieResetRecover (die : Nat) (s : State) : Out :=
  if (s.die die).dstate ≠ 1 then .fault (.notEnabled "CDIE_RESET_RECOVER")
  else
    let s1 := s.setDie die { s.die die with dstate := 0 }
    let s2 := (s.launches.filter (fun l => l.uses die)).foldl (fun (t : State) l =>
      if l.restartable then t.setLaunch (l.walkFrom die 0 s.now) else t.nestsFail die l) s1
    let s3 := (s.running.filter (s.taskOn die)).foldl (fun (t : State) r => t.endCard r.id true) s2
    .next (s3.packageRecord 12 die 0 .cdieReset 0 (some (s.die die).cause))

/-- The dies that each of the 22 links joins, in the order of R374. -/
def dieLinks : List (Nat × Nat) :=
  [(8, 0), (8, 1), (9, 2), (9, 3), (10, 4), (10, 5), (11, 6), (11, 7)] ++ [(0, 1), (1, 2), (2, 3), (3, 4), (4, 5), (5, 6), (6, 7), (7, 0)]
    ++ [(8, 9), (9, 10), (10, 11), (11, 8)] ++ [(12, 8), (12, 10)]

/-- Dies reached over live links in at most `fuel` links. -/
def dieReach (live : List (Nat × Nat)) : Nat → List Nat → List Nat
  | 0, ds => ds
  | fuel + 1, ds =>
    dieReach live fuel ((List.range 13).filter (fun d =>
      ds.contains d || live.any (fun l => (l.1 = d && ds.contains l.2) || (l.2 = d && ds.contains l.1))))

/-- The dies that the X-die does not reach (R378). -/
def splitDies (dead : List Nat) : List Nat :=
  let live := ((List.range 22).filter (fun i => !dead.contains i)).filterMap (fun i => dieLinks[i]?)
  let ok := dieReach live 13 [12]
  (List.range 13).filter (fun d => !ok.contains d)

/-- A die is FENCED (R378): its contexts are lost and its iterations retire in error. -/
def State.fence (s : State) (d : Nat) : State :=
  let s1 := (s.loseContexts d).setDie d { s.die d with dstate := 2 }
  (s1.launches.filter (fun l => l.uses d)).foldl (fun (t : State) l => t.nestsFail d l) s1

/-- DIE_LINK_FAILURE (R374, R378): traffic takes other links, or the dies that the X-die no longer reaches are FENCED. -/
def execDieLinkFailure (link : Nat) (s : State) : Out :=
  if 22 ≤ link ∨ link ∈ s.xdie.deadLinks then .fault (.notEnabled "DIE_LINK_FAILURE")
  else
    let dead := link :: s.xdie.deadLinks
    let s1 := { s with xdie := { s.xdie with deadLinks := dead } }
    let new := (splitDies dead).filter (fun d => (s.die d).dstate ≠ 2)
    .next (if new.isEmpty then s1
      else (new.foldl (fun (t : State) d => t.fence d) s1).packageRecord 12 12 0 .dieSplitFenced 0
        (some ((new.map (fun d => 2 ^ d)).foldl (· + ·) 0)))

/-! ### Detected hardware faults -/

/-- A command ends with ERR under a code of R394, whose record takes the place of CPY_ABORTED. -/
def State.cmdAbortAs (s : State) (c : Cmd) (cause : Cause) : State :=
  let s1 := { s with free := s.free + 1, net := s.net.filter (fun m => m.body ≠ Body.cmd c.id) }
  ((s1.slotFaults c).postRecord c.die (s1.cmdRecord c (engFault cause 0 (Config.freeNat s.free)))).abortCmd { c with posted := true }

/-- A pitch meets a residue mismatch (R394): it is squashed and runs again, or at a second mismatch the C-die is reset. -/
def State.residue (s : State) (x : Ctx) (ex : Exec) : State :=
  if x.mismatch then (s.dieReset (dieOf x.core) 2).packageRecord (dieOf x.core) (dieOf x.core) 0 .residueFail 0 none
  else (s.pairDrop x.id Cause.residueFail.code).setCtx { x with cur := none, spec := none, next := some ex.pc, mismatch := true }

/-- WATCHDOG_EXPIRE (R394): on an M-die, the running command `unit` is aborted; on a C-die, `unit` 0 resets the die, and any other
stands for a residue mismatch in the pitch of context unit − 1. -/
def execWatchdogExpire (die unit : Nat) (s : State) : Out :=
  let no : Out := .fault (.notEnabled "WATCHDOG_EXPIRE")
  if 8 ≤ die then
    match s.cmd? unit with
    | some c => if c.mdie = die ∧ c.phase = .running then .next (s.cmdAbortAs c .watchdog) else no
    | none => no
  else if (s.die die).dstate ≠ 0 then no
  else if unit = 0 then .next ((s.dieReset die 1).packageRecord die die 0 .watchdog 0 none)
  else
    match s.ctx? (unit - 1) with
    | none => no
    | some x =>
      match x.cur with
      | some ex => if dieOf x.core = die then .next (s.residue x ex) else no
      | none => no

/-- The line that UNCORRECTABLE_SRAM names: a scratchpad sector by its pointer; how it names another line is free. -/
def State.lineAddr (s : State) (key : Nat) : Word :=
  if 2 ^ 40 ≤ key ∧ key < 2 ^ 61 then BitVec.ofNat 64 (2 ^ 60 + (key - 2 ^ 40) / 2 ^ 19 * 2 ^ 48 + (key - 2 ^ 40) % 2 ^ 19 / 32 * 32)
  else Config.freeWord s.free

/-- A core counts a corrected bit, or shows an uncorrectable one (R188). -/
def State.countSram (s : State) (core : Nat) (dbl : Bool) : State :=
  let k := s.core core
  s.setCore core (if dbl then { k with unc := true } else { k with corr := min (k.corr + 1) 0xFFFF })

/-- SCRUB_PASS (R394): an error of one bit is corrected, one of two bits poisons its sector and is reported once. `a` is the key of a
byte of HBM or of a scratchpad; from 2^62 on it stands for a line of a core's sector cache, which two bits drop (R181), and from 2^63
on for the state of context a − 2^63, whose strand retires in error. -/
def execScrubPass (a : Nat) (dbl : Bool) (s : State) : Out :=
  let no : Out := .fault (.notEnabled "SCRUB_PASS")
  if 2 ^ 63 ≤ a then
    match s.ctx? (a - 2 ^ 63) with
    | none => no
    | some x =>
      let s1 := s.countSram x.core dbl
      if dbl then .next (({ s1 with free := s1.free + 1 }.setCtx x.retireError).packageRecord (dieOf x.core) (dieOf x.core) 0 .uncorrectableSram
        (Config.freeWord s1.free) none)
      else .next s1
  else if 2 ^ 62 ≤ a then
    let core := (a - 2 ^ 62) / 4096 % 512
    match (s.core core).cache[a % 4096]? with
    | none => no
    | some l =>
      let k := (s.countSram core dbl).core core
      .next (s.setCore core { k with cache := if dbl then k.cache.filter (· ≠ l) else k.cache })
  else if 2 ^ 61 ≤ a ∨ (2 ^ 39 ≤ a ∧ a < 2 ^ 40) ∨ 2 ^ 40 + 2 ^ 28 ≤ a then no
  else
    let s1 := if 2 ^ 40 ≤ a then s.countSram ((a - 2 ^ 40) / 2 ^ 19) dbl else s
    if !dbl ∨ s.isPoisoned a 1 then .next s1
    else
      let d := homeDie a
      .next ({ s1 with poison := a / 32 :: s1.poison, free := s1.free + 1 }.packageRecord d d 0 .uncorrectableSram (s.lineAddr a) none)

/-! ### Launch queues -/

/-- The packet at the head of a launch queue (R380), or nothing where it cannot be read. -/
def State.packetAt (s : State) (x : LaunchQ) : Option (List Word) :=
  match (List.range 16).mapM (fun i => s.cpRead (addOffset x.base (128 * (x.head % 2 ^ x.logn) + 8 * i : Nat)).1) with
  | .ok ws => some ws
  | .error _ => none

/-- A packet breaks R380 or the fields it replaces break R281. -/
def packetBad (ws : List Word) : Bool :=
  let w := wordAt ws
  w 1 / 2 ^ 14 ≠ 0 || natBits (w 1) 0 8 = 0 || decide (11 < natBits (w 1) 10 4) || natBit (w 3) 63 = 1
    || (List.range 12).any (fun i => w (4 + i) ≠ 0)

/-- A queue is served (R380, R381): enabled, with a packet, and its last launch accepted. -/
def State.lqReady (s : State) (q : Nat) : Bool :=
  let x := s.lq q
  x.en && decide (1 ≤ x.logn) && decide (x.logn ≤ 16) && x.head != x.tail
    && (decide (q < 16) || natBit (s.xdie.featNeg.toList.getD 0 0).toNat 0 = 1)
    && (match x.busy with | none => true | some l => s.launches.all (fun a => a.id ≠ l || a.started))

/-- LQHEAD advances, and the queue's vector is raised where IRQ is set (R380). -/
def State.lqAdvance (s : State) (q : Nat) : State :=
  let x := s.lq q
  let s1 := s.setLq q { x with head := (x.head + 1) % 2 ^ 64 }
  if x.irq then { s1 with msix := s1.msix ++ [16 + q] } else s1

/-- The cairn of a packet that is not launched is written with ERR when its address is valid (R380). -/
def State.packetCairn (s : State) (ws : List Word) : State := s.cairnIfValid 12 (ws.getD 2 0) (ws.getD 3 0) (ws.getD 0 0)

/-- LAUNCH_PACKET_TAKE (R380): the X-die takes the next packet of the queue whose turn it is. -/
def execLaunchPacketTake (q : Nat) (s : State) : Out :=
  let order := (List.range 64).map (fun i => (s.xdie.lqNext + i) % 64)
  if order.find? (fun k => s.lqReady k) ≠ some q ∨ !s.xdie.firmware then .fault (.notEnabled "LAUNCH_PACKET_TAKE")
  else
    let s0 := { s with xdie := { s.xdie with lqNext := (q + 1) % 64 } }
    let skip (ws : List Word) : Out := .next (((s0.packageRecord 12 12 0 .launchFormat 0 none).packetCairn ws).lqAdvance q)
    match s.packetAt (s.lq q) with
    | none => skip []
    | some ws =>
      if packetBad ws then skip ws
      else
        let die := ((List.range 8).find? (fun d => natBit (wordAt ws 1) d = 1)).getD 0
        let l : Launch := { id := s0.nextId, ptr := ws.getD 0 0, packet := ws.take 4, card := none, die := die, started := false, words := [], args := []
                            walks := [], placed := 0, retired := [], counted := [], err := false, signalled := false, code := [] }
        let s1 := { s0 with launches := s0.launches ++ [l], nextId := s0.nextId + 1 }
        .next ((s1.setLq q { s1.lq q with busy := some l.id }).lqAdvance q)

/-! ### Queue parity -/

/-- A queued card ends with ERR before it runs (R394). -/
def State.cardAbort (s : State) (core : Nat) (e : QEntry) : State :=
  let k := s.core core
  let rest := k.queue.takeWhile (· ≠ e) ++ (k.queue.dropWhile (· ≠ e)).drop 1
  let run : RunCard := ⟨s.nextId, e.card, core, e.job, true, true, []⟩
  let s1 := { (s.setCore core { k with queue := rest, kept := k.kept.filter (fun q => q.2 ≠ e.card) }) with
    nextId := s.nextId + 1, running := s.running ++ [run] }
  s1.packageRecord (dieOf core) (dieOf core) 0 .queueParity e.card none

/-- A queued record of a router leaves it as POIS (R394, R251). -/
def State.recordAbort (s : State) (cl : Nat) (r : RtRec) : State :=
  let stage := match r.at_ with | .queued i => i | _ => 0
  (s.rtFault cl { r with fstg := stage, fcnt := 2 } stage 0).packageRecord (cl / 4) (cl / 4) 0 .queueParity r.ptr none

/-- QUEUE_PARITY_ERROR (R394): the work of a queue entry is aborted with ERR. The low two bits of `m` say which queue it stands in: 0 an
engine's command, by its id; 1 a router's record, by cluster and place; 2 a card queue, by core and place; 3 the head of a launch queue. -/
def execQueueParityError (m : Nat) (s : State) : Out :=
  let no : Out := .fault (.notEnabled "QUEUE_PARITY_ERROR")
  let n := m / 4
  match m % 4 with
  | 0 =>
    (match s.cmd? n with
    | some c => if c.phase = .queued then .next (s.cmdAbortAs c .queueParity) else no
    | none => no)
  | 1 =>
    (match (s.cluster (n % 32)).recs[n / 32]? with
    | some r => if (match r.at_ with | .taken .. => true | _ => false) then no else .next (s.recordAbort (n % 32) r)
    | none => no)
  | 2 =>
    (match (s.core (n % 512)).queue[n / 512]? with
    | some e => .next (s.cardAbort (n % 512) e)
    | none => no)
  | _ =>
    if n < 64 ∧ s.lqReady n then
      .next (((s.packageRecord 12 12 0 .queueParity 0 none).packetCairn ((s.packetAt (s.lq n)).getD [])).lqAdvance n)
    else no

/-! ### The host -/

/-- The checked pieces of a host access through BAR2 (R386). -/
def State.bar2Parts (s : State) (off n : Nat) (rd wr : Bool) : Except ElemFault (List Part) :=
  s.checkElem [] { need := { rd := rd, wr := wr, hst := true }, w := 1, n := n, user := false } s.free (addOffset s.xdie.bar2 (off : Nat)).1 0

/-- HOST_ACCESS (R386). -/
def State.hostFault (s : State) (off : Nat) (f : ElemFault) : State := s.packageRecord 12 12 0 .hostAccess (BitVec.ofNat 64 off) (some f.cause.code)

/-- Put masked bytes in the order of some parts. -/
def partData : List Part → List Byte → List (Part × List (Byte × Byte))
  | [], _ => []
  | p :: ps, bs => (p, (bs.take p.n).map (fun b => (b, 255))) :: partData ps (bs.drop p.n)

/-- HOST_BAR2_ACCESS (R386): a read answers the host and changes nothing here; a write is posted to its home. -/
def execHostBar2Access (a : HostAccess) (s : State) : Out :=
  if a.bytes = 0 ∨ 8 < a.bytes ∨ s.xdie.bar2Size < a.off + a.bytes then .fault (.notEnabled "HOST_BAR2_ACCESS")
  else
    .next (match s.bar2Parts a.off a.bytes a.wdata.isNone a.wdata.isSome with
      | .error f => s.hostFault a.off f
      | .ok ps =>
        match a.wdata with
        | none => s
        | some v => (partData ps (natLe a.bytes v.toNat)).foldl (fun (t : State) d => t.send .host 15 (.store d.1.place d.2 none d.1.ptr)) s)

/-- The operation of a host AtomicOp. -/
def hostAmo (op : HostAtomicOp) : AmoOp :=
  match op with
  | .fetchAdd => .add
  | .swap => .swap
  | .cas => .cas

/-- HOST_ATOMICOP (R379): it is sent to the home LLC, which performs it under R276. -/
def execHostAtomicop (a : HostAtomic) (s : State) : Out :=
  if (a.bytes ≠ 4 ∧ a.bytes ≠ 8 ∧ a.bytes ≠ 16) ∨ a.off % a.bytes ≠ 0 ∨ s.xdie.bar2Size < a.off + a.bytes
      ∨ natBit (s.xdie.featNeg.toList.getD 0 0).toNat 1 = 0 then .fault (.notEnabled "HOST_ATOMICOP")
  else
    .next (match s.bar2Parts a.off a.bytes true true with
      | .error f => s.hostFault a.off f
      | .ok ps => ps.foldl (fun (t : State) p => t.send .host 15 (.atomic 0 (hostAmo a.op) a.bytes p.place a.y.toNat a.z.toNat .host .rlx p.ptr)) s)

/-- What a module reset leaves: every part at its reset value but memory, which no rule clears, and the counters of the model. -/
def State.moduleReset (s : State) : State :=
  { State.reset with now := s.now, nextId := s.nextId, free := s.free, agenda := s.agenda, mem := s.mem, poison := s.poison }

/-- HOST_LINK_DOWN (R378, R381): features are negotiated anew; whether the module is reset is a free choice. -/
def execHostLinkDown (s : State) : Out :=
  let s1 := { s with free := s.free + 1, xdie := { s.xdie with featDone := false } }
  .next (if Config.freeBool s.free then s1.moduleReset else s1)

/-- BAR2_RESIZE (R386): a power of two from 1 GiB to 512 GiB, above 64 GiB only with feature bit 2. -/
def execBar2Resize (size : Nat) (s : State) : Out :=
  if (List.range 10).any (fun k => size = 2 ^ (30 + k)) ∧ (size ≤ 2 ^ 36 ∨ natBit (s.xdie.featNeg.toList.getD 0 0).toNat 2 = 1) then
    .next { s with xdie := { s.xdie with bar2Size := size } }
  else .fault (.notEnabled "BAR2_RESIZE")

/-! ### Power and Hital -/

/-- POWER_MANAGER_TICK (R388): every 10 µs each MUL takes a value from 4 to its MAX, which is free. -/
def execPowerManagerTick (s : State) : Out :=
  if s.now < s.xdie.powerAt + 20000 then .fault (.notEnabled "POWER_MANAGER_TICK")
  else
    .next { s with
      free := s.free + 128
      xdie := { s.xdie with
        powerAt := s.now
        islands := (List.range 128).map (fun i =>
          let k := s.island i
          (i, k.setMul s.now (4 + Config.freeNat (s.free + i) % (k.max - 3)))) } }

/-- HITAL_BOOT (R393): a firmware image is verified and runs, or is not run and reported. -/
def execHitalBoot (ok : Bool) (s : State) : Out :=
  let s1 := { s with xdie := { s.xdie with firmware := ok } }
  .next (if ok then s1 else s1.packageRecord 12 12 5 .fwVerify 0 none)

end Sys2Proof.Machine
end

