-- ==== Sys2Proof/Machine/Select.lean ====
section
/-!
DEFINITION. Sys2Proof/Machine/Select.lean: comparisons, selection, permutes and masks (R106, R108 to R113).
-/

namespace Sys2Proof.Machine

/-- Whether a condition of cmp holds for two values of `w` bits (R106). -/
def condHolds (c : Cond) (w x y : Nat) : Bool :=
  match c with
  | .eq => x == y
  | .ne => x != y
  | .lt => decide (natToInt w x < natToInt w y)
  | .ge => decide (natToInt w y ≤ natToInt w x)
  | .ltu => decide (x < y)
  | .geu => decide (y ≤ x)

/-- A comparison: at SEW bits when an operand or the predicate is wide, at 64 bits for scalars (R106). -/
def compare (c : Cond) (env : Env) (p : Pred) (a b : Token) : OpOut := do
  need (predKindOk p && okVec env.lsew a && okVec env.lsew b) tokenKind
  let lw := if a.wide || b.wide || predWide p then env.lsew else 6
  elementwise env p [(a, lw), (b, lw)] .mask (fun _ xs =>
    .ok (if condHolds c (2 ^ lw) (xs.getD 0 0) (xs.getD 1 0) then 1 else 0, 0))

/-- cmp (R106). -/
def execCmp (o : CmpArgs) (s : State) : Out := fireTok (.cmp o) s (fun env v => compare o.cond env v.p v.l v.r)
/-- cmpi (R106). -/
def execCmpi (o : CmpiArgs) (s : State) : Out :=
  fireTok (.cmpi o) s (fun env v => compare o.cond env v.p v.l (Token.scalar (immValue o.imm9 o.pre)))

/-- Bit `e` of a mask operand; a scalar is broadcast and counts as 1 when it is not zero, as a predicate does (R16, R17). -/
def maskBit (t : Token) (e : Nat) : Nat := if t.wide then natBit t.bits.toNat e else if t.val = 0 then 0 else 1

/-- Build a vector or mask of vl elements, or a scalar of one, from a function of the element number, a predicate applied
(R17, R91). -/
def buildElems (wide : Bool) (env : Env) (p : Pred) (k : ResKind) (f : Nat → Option Nat) : OpOut := do
  need (predKindOk p) tokenKind
  okTok (k.build wide ((List.range (if wide then env.vl else 1)).map (fun e => if predOpen p e then f e else none)))

/-- Build a vector or mask. -/
def buildWide (env : Env) (p : Pred) (k : ResKind) (f : Nat → Option Nat) : OpOut := buildElems true env p k f

/-- sel: the null state of the element not chosen has no effect (R108). All-scalar operands deliver their low SEW bits (R91), and two
reference tokens the whole chosen one with its mark (R139). -/
def execSel (o : PlainArgs) (s : State) : Out :=
  fireTok (.sel o) s (fun env v => do
    need (predKindOk v.p && okMask v.l) tokenKind
    let maskOp := v.r.kind == .mask || v.t.kind == .mask
    let vecOp := v.r.kind == .vec || v.t.kind == .vec
    need (!(maskOp && vecOp) && (maskOp || (okVec env.lsew v.r && okVec env.lsew v.t))) tokenKind
    let wide := maskOp || vecOp || v.l.wide || predWide v.p
    let lw := if maskOp then 0 else if wide || !v.r.ref then env.lsew else 6
    let pick (e : Nat) : Option Nat :=
      if !predOpen v.p e || v.l.nullAt e then none
      else if maskBit v.l e = 1 then v.r.elem? lw e else v.t.elem? lw e
    if wide then okTok ((if maskOp then ResKind.mask else .vec env.lsew).build true ((List.range env.vl).map pick))
    else okTok { Token.scalarOpt (pick 0) with ref := v.r.ref })

/-- vperm: a scalar source is broadcast, and so is a scalar index operand (R91, R109). -/
def execVperm (o : PermArgs) (s : State) : Out :=
  fireTok (.vperm o) s (fun env v => do
    need (predKindOk v.p && okVec env.lsew v.l) tokenKind
    let wide := v.l.wide || predWide v.p || (o.op == .gather && v.r.wide)
    let src (i : Nat) : Option Nat := if i < env.vl then v.l.elem? env.lsew i else none
    let amount (f : Nat → Nat → Option Nat) : OpOut := do
      need (okScalar v.r) tokenKind
      buildElems wide env v.p (.vec env.lsew) (fun e => if v.r.isNull then none else f v.r.val e)
    match o.op with
    | .gather =>
      need (okVec env.lsew v.r) tokenKind
      buildElems wide env v.p (.vec env.lsew) (fun e => match v.r.elem? env.lsew e with | some i => src i | none => none)
    | .up => amount (fun n e => if n ≤ e then src (e - n) else none)
    | .dn => amount (fun n e => src (e + n))
    | .rev => buildElems wide env v.p (.vec env.lsew) (fun e => src (env.vl - 1 - e))
    | .bc => amount (fun n _ => src n))

/-- vext (R110): one scalar, so the predicate is a scalar (R427). -/
def execVext (o : FlagArgs) (s : State) : Out :=
  fireTok (.vext o) s (fun env v => do
    need (predScalarOk v.p && okVec env.lsew v.l && okScalar v.r) tokenKind
    let r : Option Nat :=
      if !predOpen v.p 0 || v.r.isNull || env.vl ≤ v.r.val then none
      else (v.l.elem? env.lsew v.r.val).map (fun x => if o.flag then intToNat 64 (natToInt (2 ^ env.lsew) x) else x)
    okTok (Token.scalarOpt r))

/-- vins (R110). -/
def execVins (o : PlainArgs) (s : State) : Out :=
  fireTok (.vins o) s (fun env v => do
    need (okVec env.lsew v.l && okScalar v.r && okScalar v.t) tokenKind
    buildElems (v.l.wide || predWide v.p) env v.p (.vec env.lsew) (fun e =>
      if v.r.isNull then none
      else if v.r.val = e then v.t.elem? env.lsew 0 else v.l.elem? env.lsew e))

/-- The bit function of mlog (R111). -/
def mlogBit (op a b : Nat) : Nat :=
  let nb := 1 - b
  match op with
  | 0 => a &&& b
  | 1 => a ||| b
  | 2 => a ^^^ b
  | 3 => a &&& nb
  | 4 => a ||| nb
  | 5 => 1 - (a &&& b)
  | 6 => 1 - (a ||| b)
  | _ => 1 - (a ^^^ b)

/-- mlog (R111). -/
def execMlog (o : MlogArgs) (s : State) : Out :=
  fireTok (.mlog o) s (fun env v => do
    need (okMask v.l && okMask v.r) tokenKind
    elementwise env v.p [(v.l, 0), (v.r, 0)] .mask (fun e _ =>
      .ok (mlogBit o.op.toNat (maskBit v.l e) (maskBit v.r e), 0)))

/-- Bit `e` of a mask operand is 1 and not null (R112). -/
def maskHas (t : Token) (e : Nat) : Bool := !t.nullAt e && maskBit t e == 1

/-- The lowest element whose bit is 1 and not null, or vl (R112). -/
def firstSet (env : Env) (t : Token) : Nat := ((List.range env.vl).find? (maskHas t)).getD env.vl

/-- A scalar result that a scalar predicate may make null. -/
def predScalar (p : Pred) (v : Nat) : OpOut := do
  need (predScalarOk p) tokenKind
  okTok (if predOpen p 0 then Token.scalar v else Token.nullScalar)

/-- mfirst: a null input bit counts as 0 (R112). -/
def execMfirst (o : FirstArgs) (s : State) : Out :=
  fireTok (.mfirst o) s (fun env v => do
    need (okMask v.l) tokenKind
    let f := firstSet env v.l
    let bits (c : Nat → Bool) : OpOut := buildWide env v.p .mask (fun e => some (if c e then 1 else 0))
    match o.op with
    | .idx => predScalar v.p f
    | .sbf => bits (fun e => decide (e < f))
    | .sif => bits (fun e => decide (e ≤ f))
    | .sof => bits (fun e => e == f))

/-- mpop (R113). -/
def execMpop (o : PlainArgs) (s : State) : Out :=
  fireTok (.mpop o) s (fun env v => do
    need (okMask v.l) tokenKind
    predScalar v.p ((List.range env.vl).countP (maskHas v.l)))

/-- viota (R113). -/
def execViota (o : PlainArgs) (s : State) : Out :=
  fireTok (.viota o) s (fun env v => do
    need (okMask v.l) tokenKind
    buildWide env v.p (.vec env.lsew) (fun e => some ((List.range e).countP (maskHas v.l))))

/-- vcomp: the selected elements packed in ascending order; a null selected element keeps its place (R113). -/
def execVcomp (o : PlainArgs) (s : State) : Out :=
  fireTok (.vcomp o) s (fun env v => do
    need (okVec env.lsew v.l && okMask v.r) tokenKind
    let l := ((List.range env.vl).filter (maskHas v.r)).map (fun e => v.l.elem? env.lsew e)
    buildWide env v.p (.vec env.lsew) (fun e => l.getD e none))

/-- mrange (R113). -/
def execMrange (o : FlagArgs) (s : State) : Out :=
  fireTok (.mrange o) s (fun env v => do
    need (okScalar v.l && okScalar v.r) tokenKind
    let b : Int := if o.flag then (env.sb : Int) else 0
    buildWide env v.p .mask (fun e =>
      if v.l.isNull || v.r.isNull then none
      else some (if natToInt 64 v.l.val ≤ b + e && b + e < natToInt 64 v.r.val then 1 else 0)))

end Sys2Proof.Machine
end

