-- ==== Sys2Proof/Machine/Dispatch.lean ====
section
/-!
DEFINITION. Sys2Proof/Machine/Dispatch.lean: which meaning runs for each constructor of Instr.
-/

namespace Sys2Proof.Machine

/-- Run one instruction or event. -/
def exec (i : Instr) (s : State) : Host.Outcome State Fault Refusal :=
  match i with
  | .add o => Sys2Proof.Machine.execAdd o s
  | .sub o => Sys2Proof.Machine.execSub o s
  | .and o => Sys2Proof.Machine.execAnd o s
  | .or o => Sys2Proof.Machine.execOr o s
  | .xor o => Sys2Proof.Machine.execXor o s
  | .andn o => Sys2Proof.Machine.execAndn o s
  | .sll o => Sys2Proof.Machine.execSll o s
  | .srl o => Sys2Proof.Machine.execSrl o s
  | .sra o => Sys2Proof.Machine.execSra o s
  | .min o => Sys2Proof.Machine.execMin o s
  | .max o => Sys2Proof.Machine.execMax o s
  | .minu o => Sys2Proof.Machine.execMinu o s
  | .maxu o => Sys2Proof.Machine.execMaxu o s
  | .addi o => Sys2Proof.Machine.execAddi o s
  | .andi o => Sys2Proof.Machine.execAndi o s
  | .slli o => Sys2Proof.Machine.execSlli o s
  | .mul o => Sys2Proof.Machine.execMul o s
  | .mulh o => Sys2Proof.Machine.execMulh o s
  | .mulhu o => Sys2Proof.Machine.execMulhu o s
  | .div o => Sys2Proof.Machine.execDiv o s
  | .divu o => Sys2Proof.Machine.execDivu o s
  | .rem o => Sys2Proof.Machine.execRem o s
  | .remu o => Sys2Proof.Machine.execRemu o s
  | .srli o => Sys2Proof.Machine.execSrli o s
  | .srai o => Sys2Proof.Machine.execSrai o s
  | .clz o => Sys2Proof.Machine.execClz o s
  | .ctz o => Sys2Proof.Machine.execCtz o s
  | .popc o => Sys2Proof.Machine.execPopc o s
  | .bfx o => Sys2Proof.Machine.execBfx o s
  | .padd o => Sys2Proof.Machine.execPadd o s
  | .pset o => Sys2Proof.Machine.execPset o s
  | .pget o => Sys2Proof.Machine.execPget o s
  | .vfadd o => Sys2Proof.Machine.execVfadd o s
  | .vfsub o => Sys2Proof.Machine.execVfsub o s
  | .vfmul o => Sys2Proof.Machine.execVfmul o s
  | .vfdiv o => Sys2Proof.Machine.execVfdiv o s
  | .vfsqrt o => Sys2Proof.Machine.execVfsqrt o s
  | .vfmin o => Sys2Proof.Machine.execVfmin o s
  | .vfmax o => Sys2Proof.Machine.execVfmax o s
  | .vfabs o => Sys2Proof.Machine.execVfabs o s
  | .vfneg o => Sys2Proof.Machine.execVfneg o s
  | .vfma o => Sys2Proof.Machine.execVfma o s
  | .vfms o => Sys2Proof.Machine.execVfms o s
  | .vfnma o => Sys2Proof.Machine.execVfnma o s
  | .vfnms o => Sys2Proof.Machine.execVfnms o s
  | .vfrcp o => Sys2Proof.Machine.execVfrcp o s
  | .vfrsq o => Sys2Proof.Machine.execVfrsq o s
  | .vfsgn o => Sys2Proof.Machine.execVfsgn o s
  | .vfclass o => Sys2Proof.Machine.execVfclass o s
  | .vfscale o => Sys2Proof.Machine.execVfscale o s
  | .vflogb o => Sys2Proof.Machine.execVflogb o s
  | .vfrnd o => Sys2Proof.Machine.execVfrnd o s
  | .vcvt o => Sys2Proof.Machine.execVcvt o s
  | .vcvtb o => Sys2Proof.Machine.execVcvtb o s
  | .vsumO o => Sys2Proof.Machine.execVsumO o s
  | .vsumT o => Sys2Proof.Machine.execVsumT o s
  | .vminR o => Sys2Proof.Machine.execVminR o s
  | .vmaxR o => Sys2Proof.Machine.execVmaxR o s
  | .vandR o => Sys2Proof.Machine.execVandR o s
  | .vorR o => Sys2Proof.Machine.execVorR o s
  | .cmp o => Sys2Proof.Machine.execCmp o s
  | .cmpi o => Sys2Proof.Machine.execCmpi o s
  | .vfeq o => Sys2Proof.Machine.execVfeq o s
  | .vflt o => Sys2Proof.Machine.execVflt o s
  | .vfle o => Sys2Proof.Machine.execVfle o s
  | .vfun o => Sys2Proof.Machine.execVfun o s
  | .sel o => Sys2Proof.Machine.execSel o s
  | .vperm o => Sys2Proof.Machine.execVperm o s
  | .vext o => Sys2Proof.Machine.execVext o s
  | .vins o => Sys2Proof.Machine.execVins o s
  | .mlog o => Sys2Proof.Machine.execMlog o s
  | .mfirst o => Sys2Proof.Machine.execMfirst o s
  | .mpop o => Sys2Proof.Machine.execMpop o s
  | .viota o => Sys2Proof.Machine.execViota o s
  | .vcomp o => Sys2Proof.Machine.execVcomp o s
  | .mrange o => Sys2Proof.Machine.execMrange o s
  | .ld o => Sys2Proof.Machine.execLd o s
  | .lds o => Sys2Proof.Machine.execLds o s
  | .ldg o => Sys2Proof.Machine.execLdg o s
  | .ldff o => Sys2Proof.Machine.execLdff o s
  | .ldgff o => Sys2Proof.Machine.execLdgff o s
  | .ldx o => Sys2Proof.Machine.execLdx o s
  | .ldm o => Sys2Proof.Machine.execLdm o s
  | .ldb o => Sys2Proof.Machine.execLdb o s
  | .ldref o => Sys2Proof.Machine.execLdref o s
  | .ldrefH o => Sys2Proof.Machine.execLdrefH o s
  | .ldk o => Sys2Proof.Machine.execLdk o s
  | .lda o => Sys2Proof.Machine.execLda o s
  | .st o => Sys2Proof.Machine.execSt o s
  | .sts o => Sys2Proof.Machine.execSts o s
  | .stg o => Sys2Proof.Machine.execStg o s
  | .stx o => Sys2Proof.Machine.execStx o s
  | .stm o => Sys2Proof.Machine.execStm o s
  | .stref o => Sys2Proof.Machine.execStref o s
  | .stk o => Sys2Proof.Machine.execStk o s
  | .stl o => Sys2Proof.Machine.execStl o s
  | .fence o => Sys2Proof.Machine.execFence o s
  | .waitc o => Sys2Proof.Machine.execWaitc o s
  | .waitv o => Sys2Proof.Machine.execWaitv o s
  | .amoAdd o => Sys2Proof.Machine.execAmoAdd o s
  | .amoAnd o => Sys2Proof.Machine.execAmoAnd o s
  | .amoOr o => Sys2Proof.Machine.execAmoOr o s
  | .amoXor o => Sys2Proof.Machine.execAmoXor o s
  | .amoMin o => Sys2Proof.Machine.execAmoMin o s
  | .amoMax o => Sys2Proof.Machine.execAmoMax o s
  | .amoSwap o => Sys2Proof.Machine.execAmoSwap o s
  | .amoCas o => Sys2Proof.Machine.execAmoCas o s
  | .br o => Sys2Proof.Machine.execBr o s
  | .brCall o => Sys2Proof.Machine.execBrCall o s
  | .brInd o => Sys2Proof.Machine.execBrInd o s
  | .brRet o => Sys2Proof.Machine.execBrRet o s
  | .brStrip o => Sys2Proof.Machine.execBrStrip o s
  | .brEs o => Sys2Proof.Machine.execBrEs o s
  | .loop o => Sys2Proof.Machine.execLoop o s
  | .loopc o => Sys2Proof.Machine.execLoopc o s
  | .loopw o => Sys2Proof.Machine.execLoopw o s
  | .trigger o => Sys2Proof.Machine.execTrigger o s
  | .yield o => Sys2Proof.Machine.execYield o s
  | .setrecov o => Sys2Proof.Machine.execSetrecov o s
  | .rtp o => Sys2Proof.Machine.execRtp o s
  | .fin o => Sys2Proof.Machine.execFin o s
  | .csrr o => Sys2Proof.Machine.execCsrr o s
  | .csrw o => Sys2Proof.Machine.execCsrw o s
  | .cMov o => Sys2Proof.Machine.execCMov o s
  | .cFan o => Sys2Proof.Machine.execCFan o s
  | .cVl o => Sys2Proof.Machine.execCVl o s
  | .cSb o => Sys2Proof.Machine.execCSb o s
  | .cSn o => Sys2Proof.Machine.execCSn o s
  | .cEidx o => Sys2Proof.Machine.execCEidx o s
  | .cLi o => Sys2Proof.Machine.execCLi o s
  | .cNeg o => Sys2Proof.Machine.execCNeg o s
  | .cNot o => Sys2Proof.Machine.execCNot o s
  | .cInc o => Sys2Proof.Machine.execCInc o s
  | .cDec o => Sys2Proof.Machine.execCDec o s
  | .cShl1 o => Sys2Proof.Machine.execCShl1 o s
  | .cShr1 o => Sys2Proof.Machine.execCShr1 o s
  | .cSar1 o => Sys2Proof.Machine.execCSar1 o s
  | .cSext32 o => Sys2Proof.Machine.execCSext32 o s
  | .cZext32 o => Sys2Proof.Machine.execCZext32 o s
  | .cIsz o => Sys2Proof.Machine.execCIsz o s
  | .cNez o => Sys2Proof.Machine.execCNez o s
  | .cAdd o => Sys2Proof.Machine.execCAdd o s
  | .cSub o => Sys2Proof.Machine.execCSub o s
  | .cAnd o => Sys2Proof.Machine.execCAnd o s
  | .cOr o => Sys2Proof.Machine.execCOr o s
  | .cXor o => Sys2Proof.Machine.execCXor o s
  | .cNull o => Sys2Proof.Machine.execCNull o s
  | .cNullv o => Sys2Proof.Machine.execCNullv o s
  | .cNullm o => Sys2Proof.Machine.execCNullm o s
  | .cNullif o => Sys2Proof.Machine.execCNullif o s
  | .cKeepif o => Sys2Proof.Machine.execCKeepif o s
  | .cZfill o => Sys2Proof.Machine.execCZfill o s
  | .cIsnull o => Sys2Proof.Machine.execCIsnull o s
  | .tz o => Sys2Proof.Machine.execTz o s
  | .opa o => Sys2Proof.Machine.execOpa o s
  | .mvvt o => Sys2Proof.Machine.execMvvt o s
  | .mvtv o => Sys2Proof.Machine.execMvtv o s
  | .ldt o => Sys2Proof.Machine.execLdt o s
  | .stt o => Sys2Proof.Machine.execStt o s
  | .scld o => Sys2Proof.Machine.execScld o s
  | .gemmT o => Sys2Proof.Machine.execGemmT o s
  | .gemmTPair o => Sys2Proof.Machine.execGemmTPair o s
  | .cholT o => Sys2Proof.Machine.execCholT o s
  | .trsmT o => Sys2Proof.Machine.execTrsmT o s
  | .syrkT o => Sys2Proof.Machine.execSyrkT o s
  | .qrT o => Sys2Proof.Machine.execQrT o s
  | .cpy o => Sys2Proof.Machine.execCpy o s
  | .cpyRec o => Sys2Proof.Machine.execCpyRec o s
  | .cpy2 o => Sys2Proof.Machine.execCpy2 o s
  | .cpy3 o => Sys2Proof.Machine.execCpy3 o s
  | .cpyg o => Sys2Proof.Machine.execCpyg o s
  | .cpyr o => Sys2Proof.Machine.execCpyr o s
  | .cpyx o => Sys2Proof.Machine.execCpyx o s
  | .esack o => Sys2Proof.Machine.execEsack o s
  | .rtDecl o => Sys2Proof.Machine.execRtDecl o s
  | .rtPush o => Sys2Proof.Machine.execRtPush o s
  | .rtTake o => Sys2Proof.Machine.execRtTake o s
  | .rtDone o => Sys2Proof.Machine.execRtDone o s
  | .rtStat o => Sys2Proof.Machine.execRtStat o s
  | .rtDrain o => Sys2Proof.Machine.execRtDrain o s
  | .rtSeed o => Sys2Proof.Machine.execRtSeed o s
  | .bar o => Sys2Proof.Machine.execBar o s
  | .cardPost o => Sys2Proof.Machine.execCardPost o s
  | .cardSig o => Sys2Proof.Machine.execCardSig o s
  | .futWait o => Sys2Proof.Machine.execFutWait o s
  | .futSet o => Sys2Proof.Machine.execFutSet o s
  | .jobq o => Sys2Proof.Machine.execJobq o s
  | .meshInit o => Sys2Proof.Machine.execMeshInit o s
  | .meshAdapt o => Sys2Proof.Machine.execMeshAdapt o s
  | .nbrStream o => Sys2Proof.Machine.execNbrStream o s
  | .colBuild o => Sys2Proof.Machine.execColBuild o s
  | .meshFree o => Sys2Proof.Machine.execMeshFree o s
  | .meshOpen o => Sys2Proof.Machine.execMeshOpen o s
  | .meshClose o => Sys2Proof.Machine.execMeshClose o s
  | .nbrLd o => Sys2Proof.Machine.execNbrLd o s
  | .nbrLd2 o => Sys2Proof.Machine.execNbrLd2 o s
  | .vsaddCol o => Sys2Proof.Machine.execVsaddCol o s
  | .pin o => Sys2Proof.Machine.execPin o s
  | .unpin o => Sys2Proof.Machine.execUnpin o s
  | .refeq o => Sys2Proof.Machine.execRefeq o s
  | .hpMake o => Sys2Proof.Machine.execHpMake o s
  | .hpRelocate o => Sys2Proof.Machine.execHpRelocate o s
  | .hpEpoch o => Sys2Proof.Machine.execHpEpoch o s
  | .rgLoad o => Sys2Proof.Machine.execRgLoad o s
  | .mcx o => Sys2Proof.Machine.execMcx o s
  | .lbCut o => Sys2Proof.Machine.execLbCut o s
  | .lbMigrate o => Sys2Proof.Machine.execLbMigrate o s
  | .ghostSync o => Sys2Proof.Machine.execGhostSync o s
  | .pitchEntry c => Sys2Proof.Machine.execPitchEntry c s
  | .speculativeStart c => Sys2Proof.Machine.execSpeculativeStart c s
  | .loadResponse m => Sys2Proof.Machine.execLoadResponse m s
  | .atomicResponse m => Sys2Proof.Machine.execAtomicResponse m s
  | .commandResultReturn m => Sys2Proof.Machine.execCommandResultReturn m s
  | .pitchQuiescence c => Sys2Proof.Machine.execPitchQuiescence c s
  | .belay c => Sys2Proof.Machine.execBelay c s
  | .strandRetire c => Sys2Proof.Machine.execStrandRetire c s
  | .matrixApply c k => Sys2Proof.Machine.execMatrixApply c k s
  | .matrixStep c => Sys2Proof.Machine.execMatrixStep c s
  | .matrixPassOver c k => Sys2Proof.Machine.execMatrixPassOver c k s
  | .pairTimerExpire ch => Sys2Proof.Machine.execPairTimerExpire ch s
  | .waitcComplete c => Sys2Proof.Machine.execWaitcComplete c s
  | .waitvValueChange m => Sys2Proof.Machine.execWaitvValueChange m s
  | .waitvTimeout m => Sys2Proof.Machine.execWaitvTimeout m s
  | .contextSwap core slot => Sys2Proof.Machine.execContextSwap core slot s
  | .spillRequest c => Sys2Proof.Machine.execSpillRequest c s
  | .spillStart c => Sys2Proof.Machine.execSpillStart c s
  | .spillComplete c => Sys2Proof.Machine.execSpillComplete c s
  | .spillAccessFault c => Sys2Proof.Machine.execSpillAccessFault c s
  | .fillStart c => Sys2Proof.Machine.execFillStart c s
  | .fillComplete c => Sys2Proof.Machine.execFillComplete c s
  | .quantumBoundary core => Sys2Proof.Machine.execQuantumBoundary core s
  | .coxPlace die launch => Sys2Proof.Machine.execCoxPlace die launch s
  | .cardDispatch core => Sys2Proof.Machine.execCardDispatch core s
  | .nestLaunch launch => Sys2Proof.Machine.execNestLaunch launch s
  | .cardSignalAtHome m => Sys2Proof.Machine.execCardSignalAtHome m s
  | .cardPostAtHome m => Sys2Proof.Machine.execCardPostAtHome m s
  | .cardComplete card => Sys2Proof.Machine.execCardComplete card s
  | .futWaitAtHome m => Sys2Proof.Machine.execFutWaitAtHome m s
  | .futSetAtHome m => Sys2Proof.Machine.execFutSetAtHome m s
  | .proxyBatchSend die chip => Sys2Proof.Machine.execProxyBatchSend die chip s
  | .jobFlushRound job => Sys2Proof.Machine.execJobFlushRound job s
  | .copyCommandStart m => Sys2Proof.Machine.execCopyCommandStart m s
  | .copyComplete cmd => Sys2Proof.Machine.execCopyComplete cmd s
  | .engineFault cmd => Sys2Proof.Machine.execEngineFault cmd s
  | .commandResume cmd => Sys2Proof.Machine.execCommandResume cmd s
  | .commandAbort cmd => Sys2Proof.Machine.execCommandAbort cmd s
  | .storeResponseError m => Sys2Proof.Machine.execStoreResponseError m s
  | .cpyrRun cmd => Sys2Proof.Machine.execCpyrRun cmd s
  | .meshInitRun cmd => Sys2Proof.Machine.execMeshInitRun cmd s
  | .meshAdaptRun cmd => Sys2Proof.Machine.execMeshAdaptRun cmd s
  | .meshFreeRun cmd => Sys2Proof.Machine.execMeshFreeRun cmd s
  | .nbrStreamRun cmd => Sys2Proof.Machine.execNbrStreamRun cmd s
  | .colBuildRun cmd => Sys2Proof.Machine.execColBuildRun cmd s
  | .meshOpenAtHome m => Sys2Proof.Machine.execMeshOpenAtHome m s
  | .meshCloseAtHome m => Sys2Proof.Machine.execMeshCloseAtHome m s
  | .nbrQueryAtHome m => Sys2Proof.Machine.execNbrQueryAtHome m s
  | .homeRequest m => Sys2Proof.Machine.execHomeRequest m s
  | .sharerAckTimeout m => Sys2Proof.Machine.execSharerAckTimeout m s
  | .hpRelocateRun cmd => Sys2Proof.Machine.execHpRelocateRun cmd s
  | .relocationCopyDone cmd => Sys2Proof.Machine.execRelocationCopyDone cmd s
  | .relocationCopyFault cmd => Sys2Proof.Machine.execRelocationCopyFault cmd s
  | .hpEpochRun cmd => Sys2Proof.Machine.execHpEpochRun cmd s
  | .lbCutRun cmd => Sys2Proof.Machine.execLbCutRun cmd s
  | .lbMigrateRun cmd => Sys2Proof.Machine.execLbMigrateRun cmd s
  | .ghostSyncRun cmd => Sys2Proof.Machine.execGhostSyncRun cmd s
  | .cpyxRun cmd => Sys2Proof.Machine.execCpyxRun cmd s
  | .cpyxCompletion cmd => Sys2Proof.Machine.execCpyxCompletion cmd s
  | .mcxRun cmd => Sys2Proof.Machine.execMcxRun cmd s
  | .mcastSplit m => Sys2Proof.Machine.execMcastSplit m s
  | .rgLoadRun cmd => Sys2Proof.Machine.execRgLoadRun cmd s
  | .regattaSwitch => Sys2Proof.Machine.execRegattaSwitch s
  | .routerCmdDecl m => Sys2Proof.Machine.execRouterCmdDecl m s
  | .routerCmdPush m => Sys2Proof.Machine.execRouterCmdPush m s
  | .routerPushAdmit m => Sys2Proof.Machine.execRouterPushAdmit m s
  | .routerCmdTake m => Sys2Proof.Machine.execRouterCmdTake m s
  | .routerTakeServe m => Sys2Proof.Machine.execRouterTakeServe m s
  | .routerCmdDone m => Sys2Proof.Machine.execRouterCmdDone m s
  | .routerWindowTimer cl set => Sys2Proof.Machine.execRouterWindowTimer cl set s
  | .routerCmdStat m => Sys2Proof.Machine.execRouterCmdStat m s
  | .routerCmdDrain m => Sys2Proof.Machine.execRouterCmdDrain m s
  | .routerCmdSeed m => Sys2Proof.Machine.execRouterCmdSeed m s
  | .rtlfsrWrite off val => Sys2Proof.Machine.execRtlfsrWrite off val s
  | .scinvWrite off val => Sys2Proof.Machine.execScinvWrite off val s
  | .meusePeakClear off val => Sys2Proof.Machine.execMeusePeakClear off val s
  | .mxslotWrite off val => Sys2Proof.Machine.execMxslotWrite off val s
  | .slotTableSwitch core => Sys2Proof.Machine.execSlotTableSwitch core s
  | .registerWrite off val => Sys2Proof.Machine.execRegisterWrite off val s
  | .drstWrite off val => Sys2Proof.Machine.execDrstWrite off val s
  | .cdieResetRecover die => Sys2Proof.Machine.execCdieResetRecover die s
  | .watchdogExpire die unit => Sys2Proof.Machine.execWatchdogExpire die unit s
  | .scrubPass a dbl => Sys2Proof.Machine.execScrubPass a dbl s
  | .queueParityError m => Sys2Proof.Machine.execQueueParityError m s
  | .dieLinkFailure link => Sys2Proof.Machine.execDieLinkFailure link s
  | .launchDoorbell off val => Sys2Proof.Machine.execLaunchDoorbell off val s
  | .launchPacketTake q => Sys2Proof.Machine.execLaunchPacketTake q s
  | .msitrigWrite off val => Sys2Proof.Machine.execMsitrigWrite off val s
  | .featureCommit off val => Sys2Proof.Machine.execFeatureCommit off val s
  | .tlbWrite off val => Sys2Proof.Machine.execTlbWrite off val s
  | .tlbRead off val => Sys2Proof.Machine.execTlbRead off val s
  | .tlbInval off val => Sys2Proof.Machine.execTlbInval off val s
  | .tlbCmdDrain mdie => Sys2Proof.Machine.execTlbCmdDrain mdie s
  | .bar2mapWrite off val => Sys2Proof.Machine.execBar2mapWrite off val s
  | .hostBar2Access a => Sys2Proof.Machine.execHostBar2Access a s
  | .hostAtomicop a => Sys2Proof.Machine.execHostAtomicop a s
  | .islandMaxWrite off val => Sys2Proof.Machine.execIslandMaxWrite off val s
  | .powerManagerTick => Sys2Proof.Machine.execPowerManagerTick s
  | .hitalBoot ok => Sys2Proof.Machine.execHitalBoot ok s
  | .keyRollover link dir => Sys2Proof.Machine.execKeyRollover link dir s
  | .heatStart => Sys2Proof.Machine.execHeatStart s
  | .heatDurEnd => Sys2Proof.Machine.execHeatDurEnd s
  | .flitReceive link f => Sys2Proof.Machine.execFlitReceive link f s
  | .ackTimer link => Sys2Proof.Machine.execAckTimer link s
  | .ackReceive link f => Sys2Proof.Machine.execAckReceive link f s
  | .resendTimeout link => Sys2Proof.Machine.execResendTimeout link s
  | .lossOfLightDetect link lost => Sys2Proof.Machine.execLossOfLightDetect link lost s
  | .laneReceive link f => Sys2Proof.Machine.execLaneReceive link f s
  | .wavelengthRejoin link w => Sys2Proof.Machine.execWavelengthRejoin link w s
  | .linkDownTimeout link => Sys2Proof.Machine.execLinkDownTimeout link s
  | .keyRetireReceive link f => Sys2Proof.Machine.execKeyRetireReceive link f s
  | .peerIncarnationChange chip inc => Sys2Proof.Machine.execPeerIncarnationChange chip inc s
  | .flitSend link => Sys2Proof.Machine.execFlitSend link s
  | .laserFault port => Sys2Proof.Machine.execLaserFault port s
  | .hostLinkDown => Sys2Proof.Machine.execHostLinkDown s
  | .bar2Resize size => Sys2Proof.Machine.execBar2Resize size s

end Sys2Proof.Machine
end

