-- ==== Sys2Proof/Machine/Events.lean ====
section
/-!
DEFINITION. Sys2Proof/Machine/Events.lean: what a step chooses from. Firing an instruction of a pitch, the instructions that can fire
(R20), the events that the machine's own units may have next, what every step ends with, and a pitch of one instruction.
-/

namespace Sys2Proof.Machine


/-- The largest occupancy of every core's miss engine is kept (R188). -/
def State.keepPeaks (s : State) : State :=
  s.ctxs.foldl (fun (t : State) x =>
    if (t.core x.core).peak < t.missUse x.core then t.setCore x.core { t.core x.core with peak := t.missUse x.core } else t) s

/-- What every step ends with: watched words are looked at (R135), strands that block make their choice (R305), overflowed cards and
fills take the room there is (R300, R228), occupancies are kept, and time passes. -/
def State.after (s : State) : State :=
  let t := s.noticeWatches.noteBlocks.refillQueues.askFills.keepPeaks
  { t with now := t.now + 1 }

/-- End a step. -/
def tick : Out → Out
  | .next s => .next s.after
  | o => o

/-- Clear the firing site after an instruction has run. -/
def endFiring : Out → Out
  | .next s => .next { s with firing := none }
  | o => o

/-- The parcels of the instruction at an index of a context's pitch. -/
def State.parcelsAt (s : State) (c : Nat) (spec : Bool) (idx : Nat) : Option (List Parcel) := do
  let x ← s.ctx? c
  let ex ← x.exec? spec
  let t ← ex.code.find? (fun t => t.1 = idx)
  some t.2.2

/-- The instruction at an index is due to be formed again after a return (R171). -/
def State.reformDue (s : State) (c : Nat) (spec : Bool) (idx : Nat) : Bool :=
  match (s.ctx? c).bind (fun x => x.exec? spec) with
  | some ex => ex.resumed.getLsbD idx
  | none => false

/-- Decode and run the instruction at an index. -/
def State.fireAt (s : State) (c : Nat) (spec : Bool) (idx : Nat) : Out :=
  match s.parcelsAt c spec idx with
  | none => .fault .noStrand
  | some ps =>
    match decInstr ps with
    | .error _ => .fault .badWord
    | .ok (i, _) => endFiring (exec i { s with firing := some ⟨c, spec, idx, s.reformDue c spec idx⟩ })

/-- The first index of a pitch whose instruction can fire. -/
def Exec.readyIndex (ex : Exec) : Option Nat :=
  (ex.instrs.find? (fun t =>
    if ex.resumed.getLsbD t.1 then (ex.operands t.1 (slotsOf t.2)).isSome
    else !ex.done t.1 && (ex.operands t.1 (slotsOf t.2)).isSome)).map (·.1)

/-- The first context and index that can fire. -/
def State.readyFiring (s : State) : Option (Nat × Nat) :=
  s.ctxs.findSome? (fun x =>
    if x.place = .active then
      (match x.cur with
        | some ex => ex.readyIndex.map (fun n => (x.id, n))
        | none => none)
    else none)

/-- The state after an event, when it can happen. -/
def State.try? (s : State) (e : State → Out) : Option State :=
  match e s with
  | .next t => some t
  | _ => none

/-- The first event of a list that can happen. -/
def State.tryAll (s : State) (es : List (State → Out)) : Option State := es.findSome? s.try?

/-- The events that a request in flight may have next. -/
def msgEvents (m : Msg) : List (State → Out) :=
  match m.resp, m.body with
  | some _, .load .. | some _, .refLoad .. | some _, .opRead .. => [execLoadResponse m.id]
  | some _, .watch .. => [execWaitvValueChange m.id, execLoadResponse m.id]
  | some _, .atomic .. => [execAtomicResponse m.id]
  | some _, .router .. | some _, .op .. => [execCommandResultReturn m.id]
  | some _, .store .. | some _, .refStore .. | some _, .heal .. => [execStoreResponseError m.id]
  | some _, _ => []
  | none, .cmd _ => [execCopyCommandStart m.id]
  | none, .router (.decl _) .. => [execRouterCmdDecl m.id]
  | none, .router (.push ..) .. => [execRouterCmdPush m.id, execRouterPushAdmit m.id]
  | none, .router (.take ..) .. => [execRouterCmdTake m.id, execRouterTakeServe m.id]
  | none, .router (.done ..) .. => [execRouterCmdDone m.id]
  | none, .router (.stat ..) .. => [execRouterCmdStat m.id]
  | none, .router (.drain _) .. => [execRouterCmdDrain m.id]
  | none, .router (.seed _) .. => [execRouterCmdSeed m.id]
  | none, .op (.meshOpen _) _ => [execMeshOpenAtHome m.id]
  | none, .op (.meshClose _) _ => [execMeshCloseAtHome m.id]
  | none, .op (.futWait ..) _ => [execFutWaitAtHome m.id]
  | none, .op (.futSet ..) _ => [execFutSetAtHome m.id]
  | none, .op (.jobq _) _ => [execCommandResultReturn m.id]
  | none, .opRead .. => [execNbrQueryAtHome m.id]
  | none, .signal .. => [execCardSignalAtHome m.id]
  | none, .post .. => [execCardPostAtHome m.id]
  | none, .watch .. => [execHomeRequest m.id, execWaitvTimeout m.id, execSharerAckTimeout m.id]
  | none, _ => [execHomeRequest m.id, execSharerAckTimeout m.id]

/-- The events that a context may have next. -/
def ctxEvents (x : Ctx) : List (State → Out) :=
  [execPitchEntry x.id] ++ (List.range 64).map (execMatrixApply x.id) ++ [execMatrixStep x.id] ++ (List.range 64).map (execMatrixPassOver x.id)
    ++ [execPitchQuiescence x.id, execBelay x.id, execWaitcComplete x.id, execStrandRetire x.id, execContextSwap x.core x.slot, execQuantumBoundary x.core
      , execSpillRequest x.id, execSpillStart x.id, execSpillAccessFault x.id, execSpillComplete x.id, execFillStart x.id, execFillComplete x.id]

/-- The events that a command may have next. -/
def cmdEvents (c : Cmd) : List (State → Out) :=
  execEngineFault c.id :: (match c.req.kind with
    | .cpyInline | .cpy | .cpy2 | .cpy3 | .cpyg => [execCopyComplete c.id]
    | .cpyr => [execCpyrRun c.id]
    | .cpyx => [execCpyxRun c.id, execCpyxCompletion c.id]
    | .meshInit => [execMeshInitRun c.id]
    | .meshAdapt => [execMeshAdaptRun c.id]
    | .nbrStream => [execNbrStreamRun c.id]
    | .colBuild => [execColBuildRun c.id]
    | .meshFree => [execMeshFreeRun c.id]
    | .hpRelocate => [execHpRelocateRun c.id, execRelocationCopyDone c.id, execRelocationCopyFault c.id]
    | .hpEpoch => [execHpEpochRun c.id]
    | .rgLoad => [execRgLoadRun c.id]
    | .mcx => [execMcxRun c.id, execCpyxCompletion c.id]
    | .lbCut => [execLbCutRun c.id]
    | .lbMigrate => [execLbMigrateRun c.id]
    | .ghostSync => [execGhostSyncRun c.id])

/-- The events that the units of the chip may have next, beside what a context, a request or a command has. -/
def State.unitEvents (s : State) : List (State → Out) :=
  s.xdie.lqs.map (fun q => execLaunchPacketTake q.1)
    ++ s.launches.flatMap (fun l => execNestLaunch l.id :: l.walks.map (fun w => execCoxPlace w.1 l.id))
    ++ (s.cores.filter (fun k => !k.2.queue.isEmpty)).map (fun k => execCardDispatch k.1)
    ++ s.running.map (fun r => execCardComplete r.id)
    ++ s.sched.flatMap (fun d => d.2.proxy.map (fun p => execProxyBatchSend d.1 p.chip))
    ++ s.jcairns.map (fun j => execJobFlushRound j.1)
    ++ s.clusters.flatMap (fun k => k.2.sets.map (fun t => execRouterWindowTimer k.1 t.1))
    ++ s.pairs.map (fun p => execPairTimerExpire p.id)
    ++ (s.cores.filter (fun k => k.2.pendAt.isSome)).map (fun k => execSlotTableSwitch k.1)
    ++ s.tlbs.map (fun t => execTlbCmdDrain t.1)
    ++ (s.dies.filter (fun d => d.2.dstate = 1)).map (fun d => execCdieResetRecover d.1)
    ++ (List.range s.fab.mcasts.length).map execMcastSplit
    ++ s.fab.links.flatMap (fun l => [execFlitSend l.1, execAckTimer l.1, execResendTimeout l.1, execLinkDownTimeout l.1])
    ++ s.fab.invals.map (fun i => execSharerAckTimeout i.msg)
    ++ [execRegattaSwitch, execHeatDurEnd, execHeatStart, execPowerManagerTick]

/-- Everything that may happen next without the world outside. -/
def State.mayHappen (s : State) : List (State → Out) :=
  s.net.flatMap msgEvents ++ s.ctxs.flatMap ctxEvents ++ s.cmds.flatMap cmdEvents ++ s.unitEvents

/-- The same in the order in which a step tries it: where it begins moves on with time, so that no unit waits for ever behind the
others. -/
def State.ownEvents (s : State) : List (State → Out) := s.mayHappen.rotateLeft s.now

/-! ### One instruction set up to run -/

/-- The parcels of a table row's bits. -/
def tableParcels (nbits w : Nat) : List Parcel :=
  if nbits ≤ 16 then [BitVec.ofNat 16 w] else [BitVec.ofNat 16 (w / 2 ^ 16), BitVec.ofNat 16 w]

/-- A pitch of one instruction, at index 0. -/
def onePitch (ps : List Parcel) : Pitch :=
  { lines := 1, hdr := ⟨1, 0, 0, 0, 0, false, 0, [], []⟩, code := match decInstr ps with | .ok (i, _) => [(0, 0, i, ps)] | .error _ => [] }

end Sys2Proof.Machine
end

