-- ==== Sys2Proof/Machine/Step.lean ====
section
/-!
DEFINITION. Sys2Proof/Machine/Step.lean: one step of the machine. The agenda, which any interleaving can be asked for with and through
which the world outside acts, comes first; with none, an instruction that can fire does, then the first event that can happen;
with neither, time passes.
-/

namespace Sys2Proof.Machine

/-- One step. -/
def step (s : State) : Host.Outcome State Fault Refusal :=
  match s.agenda with
  | .event i :: rest => tick (exec i { s with agenda := rest })
  | .fire c spec idx :: rest => tick ({ s with agenda := rest }.fireAt c spec idx)
  | [] =>
    match s.readyFiring with
    | some (c, idx) => tick (s.fireAt c false idx)
    | none =>
      match s.tryAll s.ownEvents with
      | some t => .next t.after
      | none => .next s.after

/-- The machine with a strand in slot 0 of core 0 that is running a pitch of one instruction, every operand slot of which holds a scalar;
the agenda asks for that instruction next. The pitch stands as PITCH_ENTRY leaves it. -/
def State.withFetchWord (s : State) (nbits w : Nat) : State :=
  let id := s.nextId
  let x := Ctx.initial id 0 0 .active .none 0 0 [] [] [] 1 s.now
  let ex := Exec.start (id + 1) 0 (onePitch (tableParcels nbits w)) x true
  let one := Token.scalar 1
  let full := { ex with toks := [(0, .left, one), (0, .right, one), (0, .pred, one), (1, .left, one)] }
  { s with
    ctxs := { x with cur := some full, next := none } :: s.ctxs.filter (fun y => !(y.core = 0 && y.slot = 0 && y.place = .active))
    nextId := id + 2, agenda := [.fire id false 0], firing := none }

end Sys2Proof.Machine
end

