-- ==== Sys2Proof/Safety.lean ====
section
/-!
DEFINITION. Sys2Proof/Safety.lean: the terms that claims about the machine use. What it takes for an instruction of a pitch to fire,
what may change while instructions fire, the element-by-element result of an operation, and the canonical form of memory.
-/

namespace Sys2Proof.Machine

/-! ### Firing -/

/-- The instruction at the firing site may fire with these operands: a strand is firing it, a speculative pitch admits it (R30), every
slot it uses holds a token and it has not fired (R20), and the reference marks of the tokens are as it asks (R139). -/
abbrev Fires (i : Instr) (s : State) (st : Site) (o : Operands) : Prop :=
  s.site = some st ∧ (st.f.spec = true → specOk i = true) ∧ st.operands? (slotsOf i) = some o ∧ marksOk i o = true

/-- The instruction fires for the first time: it is not being formed again after a return from a trap (R171). -/
abbrev FiresNew (i : Instr) (s : State) (st : Site) (o : Operands) : Prop := Fires i s st o ∧ st.f.reform = false

/-- The execution after an instruction that delivers one token without flags. -/
def Site.delivers (st : Site) (i : Instr) (t : Token) : Exec := (st.ex.markFired st.f.idx).deliverAll st.f.idx t (outsAt st.f.idx i)

/-- The execution after an instruction that buffers an effect for the belay and delivers nothing. -/
def Site.buffers (st : Site) (e : Effect) : Exec := (st.ex.buffer st.f.idx e).markFired st.f.idx

/-- A strand without its executions and its acquire epoch: what only a belay, a fault or a return changes. -/
def Ctx.outside (x : Ctx) : Ctx := { x with cur := none, spec := none, acqEpoch := 0 }

/-- `t` differs from `s` only in what firing may change: the executions of the firing strand, requests that join the end of those in
flight, and the model's counters. -/
def FiresOnly (s t : State) : Prop :=
  t = { s with ctxs := t.ctxs, cores := t.cores, net := t.net, nextId := t.nextId, free := t.free }
    ∧ (∀ c, (t.ctx? c).map Ctx.outside = (s.ctx? c).map Ctx.outside) ∧ s.net <+: t.net

/-! ### Results of operations on elements -/

/-- Element `e` of a result is computed: the predicate is open and no operand is null there (R17). -/
def liveAt (p : Pred) (ops : List (Token × Nat)) (e : Nat) : Bool := predOpen p e && ops.all (fun t => !t.1.nullAt e)

/-- Some operand or the predicate is a vector or mask, so the result has vl elements (R91, R427). -/
def wideOps (p : Pred) (ops : List (Token × Nat)) : Bool := predWide p || ops.any (fun t => t.1.wide)

/-- The operands' bits at element `e`. -/
def opBits (ops : List (Token × Nat)) (e : Nat) : List Nat := ops.map (fun t => t.1.elem t.2 e)

/-- The result whose element `e` is `f e` of the operands' bits where it is computed, and null elsewhere (R17, R91). -/
def elemResult (vl : Nat) (p : Pred) (ops : List (Token × Nat)) (k : ResKind) (f : Nat → List Nat → Nat × Flags) : OpRes :=
  let wide := wideOps p ops
  let es := List.range (if wide then vl else 1)
  ⟨k.build wide (es.map (fun e => if liveAt p ops e then some (f e (opBits ops e)).1 else none)),
    es.foldr (fun e fl => (if liveAt p ops e then (f e (opBits ops e)).2 else 0) ||| fl) 0⟩

/-- A vector result of vl elements fits a token (R90). -/
def fits (vl : Nat) (wide : Bool) : ResKind → Bool
  | .vec lw => !wide || decide (vl * 2 ^ lw ≤ 2048)
  | .mask => true

/-! ### Memory -/

/-- Memory is in its canonical form: keys rise strictly and no byte listed is the one an unlisted key reads as. -/
def State.Canonical (s : State) : Prop := Memory.wf s.mem = true

/-- Every byte outside `[a, a + n)` reads as before. -/
def SameOutside (s t : State) (a n : Nat) : Prop := ∀ k, (k < a ∨ a + n ≤ k) → memRead t.mem k = memRead s.mem k

/-- Every byte reads as before. -/
def SameMemory (s t : State) : Prop := ∀ k, memRead t.mem k = memRead s.mem k

end Sys2Proof.Machine
end

