-- ==== Sys2Proof/Certificates/Slice0/Obligations.lean ====
section
/-!
DEFINITION. Sys2Proof/Certificates/Slice0/Obligations.lean: the statements for the provers. Each `Obligations.<Name>` is a
proposition about the model; the tables and abbreviations that several of them use stand before them under Sys2Proof.Claims.
-/

namespace Sys2Proof.Claims

open Sys2Proof.Machine

/-! ### Writes of a die's units -/

/-- What a unit of agent `a` writes in going from `s` to `t` reaches no copy that another chip holds, and no bytes of an access that has not
performed toward the unit (R263, R276): its step is taken at once. -/
def Unhindered (s t : State) (a : Agent) : Prop := s.copiesChanged t = [] ∧ s.earlyChanged t a = false

/-- A unit's step to `t` (R263, R276, R277): it is taken at once where it is unhindered; where other chips hold copies of what it writes, and
no write of their sectors is waiting, the copies' invalidations leave and the step is to be taken once they are acknowledged. -/
def UnitStep (s t : State) (a : Agent) (out : Out) : Prop :=
  (Unhindered s t a → out = .next t)
  ∧ (s.earlyChanged t a = false → s.copiesChanged t ≠ [] → (∀ c ∈ s.copiesChanged t, s.sectorBusy s.nextId (32 * c.sector) 32 = false) →
      out = .next ({ s with nextId := s.nextId + 1 }.sendInvals s.nextId (s.copiesChanged t)))

/-- No other chip holds a copy of this chip's memory, and no access has performed early: every unit's write is unhindered. -/
def Alone (s : State) : Prop := s.fab.copies = [] ∧ s.early = []

/-! ### Operations that compute a token -/

/-- What an instruction reads beside its tokens. -/
abbrev envOf (st : Site) : Env := st.ex.env st.x st.f.idx

/-- The integer instructions: shape, exact operation, and second operand (R94, R95). -/
def intForm : Instr → Option (Shape × IntOp × (Operands → Token))
  | .add o => some (o.shape, opAdd, (·.r)) | .sub o => some (o.shape, opSub, (·.r))
  | .and o => some (o.shape, opAnd, (·.r)) | .or o => some (o.shape, opOr, (·.r))
  | .xor o => some (o.shape, opXor, (·.r)) | .andn o => some (o.shape, opAndn, (·.r))
  | .sll o => some (o.shape, opSll, (·.r)) | .srl o => some (o.shape, opSrl, (·.r))
  | .sra o => some (o.shape, opSra, (·.r)) | .min o => some (o.shape, opMin, (·.r))
  | .max o => some (o.shape, opMax, (·.r)) | .minu o => some (o.shape, opMinu, (·.r))
  | .maxu o => some (o.shape, opMaxu, (·.r)) | .mul o => some (o.shape, opMul, (·.r))
  | .mulh o => some (o.shape, opMulh, (·.r)) | .mulhu o => some (o.shape, opMulhu, (·.r))
  | .div o => some (o.shape, opDiv, (·.r)) | .divu o => some (o.shape, opDivu, (·.r))
  | .rem o => some (o.shape, opRem, (·.r)) | .remu o => some (o.shape, opRemu, (·.r))
  | .bfx o => some (o.shape, opBfx, (·.r))
  | .addi o => some (o.shape, opAdd, fun _ => Token.scalar (immValue o.imm9 o.pre))
  | .andi o => some (o.shape, opAnd, fun _ => Token.scalar (immValue o.imm9 o.pre))
  | .slli o => some (o.shape, opSll, fun _ => Token.scalar o.sh.toNat)
  | .srli o => some (o.shape, opSrl, fun _ => Token.scalar o.sh.toNat)
  | .srai o => some (o.shape, opSra, fun _ => Token.scalar o.sh.toNat)
  | .clz o => some (o.shape, opClz, fun _ => Token.scalar 0)
  | .ctz o => some (o.shape, opCtz, fun _ => Token.scalar 0)
  | .popc o => some (o.shape, opPopc, fun _ => Token.scalar 0)
  | _ => none

/-- The left operand is a widened one: VW takes a left vector of twice the width (R93). -/
def wideLeft (sh : Shape) (lw : Nat) (a : Token) : Bool := sh == .vw && a.kind == .vec && a.lw == lw + 1

/-- The kinds and widths of operands an integer shape takes (R91, R93). -/
def intKinds (sh : Shape) (env : Env) (p : Pred) (a b : Token) : Bool :=
  predKindOk p && (!shapeScalar sh || (okScalar a && okScalar b && predScalarOk p))
    && (okVec (shapeLw sh env.lsew) a || wideLeft sh (shapeLw sh env.lsew) a) && okVec (shapeLw sh env.lsew) b

/-- The kind of an integer result: VW doubles the width (R93). -/
def intKind (sh : Shape) (env : Env) : ResKind := if sh = .vw then .vec (shapeLw sh env.lsew + 1) else .vec (shapeLw sh env.lsew)

/-- The result of an integer instruction, element by element (R91, R93, R94). -/
def intResult (sh : Shape) (f : IntOp) (env : Env) (p : Pred) (a b : Token) : OpRes :=
  let lw := shapeLw sh env.lsew
  let w := 2 ^ lw
  elemResult env.vl p [(a, lw), (b, lw)] (intKind sh env)
    (fun _ xs => finishInt sh w (f (sh == .vsu) (if wideLeft sh lw a then 2 * w else w) w (xs.getD 0 0) (xs.getD 1 0)))

/-- The 64-bit scalar result of an integer instruction, in the arithmetic of words (R94 to R96). -/
def wordResult : Instr → Option (Word → Word → Word)
  | .add _ => some (fun a b => a + b) | .sub _ => some (fun a b => a - b)
  | .and _ => some (fun a b => a &&& b) | .or _ => some (fun a b => a ||| b)
  | .xor _ => some (fun a b => a ^^^ b) | .andn _ => some (fun a b => a &&& ~~~b)
  | .sll _ => some (fun a b => a <<< (b.toNat % 64)) | .srl _ => some (fun a b => a >>> (b.toNat % 64))
  | .sra _ => some (fun a b => a.sshiftRight (b.toNat % 64))
  | .min _ => some (fun a b => if a.toInt ≤ b.toInt then a else b) | .max _ => some (fun a b => if a.toInt ≤ b.toInt then b else a)
  | .minu _ => some (fun a b => if a ≤ b then a else b) | .maxu _ => some (fun a b => if a ≤ b then b else a)
  | .mul _ => some (fun a b => a * b)
  | .mulh _ => some (fun a b => BitVec.ofInt 64 (a.toInt * b.toInt / 2 ^ 64))
  | .mulhu _ => some (fun a b => BitVec.ofNat 64 (a.toNat * b.toNat / 2 ^ 64))
  | .div _ => some (fun a b => if b = 0 then -1 else BitVec.ofInt 64 (a.toInt.tdiv b.toInt))
  | .divu _ => some (fun a b => if b = 0 then -1 else a / b)
  | .rem _ => some (fun a b => if b = 0 then a else BitVec.ofInt 64 (a.toInt.tmod b.toInt))
  | .remu _ => some (fun a b => if b = 0 then a else a % b)
  | .addi o => some (fun a _ => a + BitVec.ofNat 64 (immValue o.imm9 o.pre))
  | .andi o => some (fun a _ => a &&& BitVec.ofNat 64 (immValue o.imm9 o.pre))
  | .slli o => some (fun a _ => a <<< o.sh.toNat) | .srli o => some (fun a _ => a >>> o.sh.toNat)
  | .srai o => some (fun a _ => a.sshiftRight o.sh.toNat)
  | _ => none

/-- The shape of an integer instruction is S64. -/
def isS64 : Instr → Bool
  | .add o | .sub o | .and o | .or o | .xor o | .andn o | .sll o | .srl o | .sra o | .min o | .max o | .minu o | .maxu o | .mul o
  | .mulh o | .mulhu o | .div o | .divu o | .rem o | .remu o => o.shape = .s64
  | .addi o | .andi o => o.shape = .s64
  | .slli o | .srli o | .srai o => o.shape = .s64
  | _ => false

/-- A floating-point form: the descriptor register, the fields it reads, the descriptors it accepts, its operands, the kind of its
result and what it makes of the bits of one element (R99 to R102, R107). -/
structure FpForm where
  d    : BitVec 3
  use  : DescUse
  ok   : Env → Desc → Bool
  ops  : Operands → List Token
  kind : Env → ResKind
  run  : Env → Desc → List Nat → Nat × Flags

/-- A form FA = FB = FD of two or three operands. -/
def fpSame (d : BitVec 3) (ops : Operands → List Token) (f : Desc → List Nat → FVal × Flags) : FpForm :=
  { d := d, use := useTwo, ok := fun env d => fpSource env true d && d.fb == d.fa && d.fd == d.fa, ops := ops
    kind := fun env => .vec env.lsew, run := fun _ d xs => deliver d.fd d.rm d.ftz (f d xs).1 (f d xs).2 }

/-- A form FA = FD of one operand. -/
def fpUnary (d : BitVec 3) (f : Desc → FVal → FVal × Flags) : FpForm :=
  { d := d, use := useOne, ok := fun env d => fpSource env true d && d.fd == d.fa, ops := fun o => [o.l], kind := fun env => .vec env.lsew
    run := fun _ d xs => deliver d.fd d.rm d.ftz (f d (rd d xs 0)).1 (f d (rd d xs 0)).2 }

/-- A comparison, which delivers a mask or a scalar 0 or 1; `quiet` when only a signalling NaN raises NV (R107). -/
def fpTest (d : BitVec 3) (quiet : Bool) (f : FVal → FVal → Bool) : FpForm :=
  { d := d, use := useCmp, ok := fun env d => fpSource env false d && d.fb == d.fa, ops := fun o => [o.l, o.r], kind := fun _ => .mask
    run := fun _ d xs => (if f (rd d xs 0) (rd d xs 1) then 1 else 0,
      if (rd d xs 0).isSig || (rd d xs 1).isSig || (!quiet && ((rd d xs 0).isNan || (rd d xs 1).isNan)) then flNV else 0) }

/-- The two operands of a form. -/
def leftRight (o : Operands) : List Token := [o.l, o.r]
/-- The three operands of a fused form. -/
def allThree (o : Operands) : List Token := [o.l, o.r, o.t]

/-- The floating-point instructions on elements (R99 to R102, R107). -/
def fpForm : Instr → Option FpForm
  | .vfadd o => some (fpSame o.d leftRight (fun d x => fAdd d.rm (rd d x 0) (rd d x 1)))
  | .vfsub o => some (fpSame o.d leftRight (fun d x => fAdd d.rm (rd d x 0) (fNeg (rd d x 1))))
  | .vfmul o => some (fpSame o.d leftRight (fun d x => fMul (rd d x 0) (rd d x 1)))
  | .vfdiv o => some (fpSame o.d leftRight (fun d x => fDiv (rd d x 0) (rd d x 1)))
  | .vfmin o => some (fpSame o.d leftRight (fun d x => fMinMax false (rd d x 0) (rd d x 1)))
  | .vfmax o => some (fpSame o.d leftRight (fun d x => fMinMax true (rd d x 0) (rd d x 1)))
  | .vfsgn o => some (fpSame o.d leftRight (fun d x => fSgn (rd d x 0) (rd d x 1)))
  | .vfma o => some (fpSame o.d allThree (fun d x => fFma d.rm (rd d x 0) (rd d x 1) (rd d x 2)))
  | .vfms o => some (fpSame o.d allThree (fun d x => fFma d.rm (rd d x 0) (rd d x 1) (fNeg (rd d x 2))))
  | .vfnma o => some (fpSame o.d allThree (fun d x => fFma d.rm (fNeg (rd d x 0)) (rd d x 1) (rd d x 2)))
  | .vfnms o => some (fpSame o.d allThree (fun d x => fFma d.rm (fNeg (rd d x 0)) (rd d x 1) (fNeg (rd d x 2))))
  | .vfsqrt o => some (fpUnary o.d (fun _ a => fSqrt a))
  | .vfabs o => some (fpUnary o.d (fun _ a => (withSign false a, nanFlags a)))
  | .vfneg o => some (fpUnary o.d (fun _ a => (fNeg a, nanFlags a)))
  | .vfrcp o => some (fpUnary o.d (fun _ a => fRcp a))
  | .vfrsq o => some (fpUnary o.d (fun _ a => fRsq a))
  | .vflogb o => some (fpUnary o.d (fun _ a => fLogb a))
  | .vfrnd o => some (fpUnary o.d (fun d a => fRnd d.rm a))
  | .vfclass o => some { fpUnary o.d (fun _ a => (a, 0)) with
      ok := fun env d => fpSource env true d && d.fd == signedFmt env.lsew, run := fun _ d xs => (fClass d.fa (xs.getD 0 0), 0) }
  | .vfscale o => some { fpSame o.d leftRight (fun _ _ => (.nan false, 0)) with
      ok := fun env d => fpSource env true d && d.fb == signedFmt env.lsew && d.fd == d.fa
      run := fun env d xs => deliver d.fd d.rm d.ftz (fScale (rd d xs 0) (natToInt (2 ^ env.lsew) (xs.getD 1 0))).1
        (fScale (rd d xs 0) (natToInt (2 ^ env.lsew) (xs.getD 1 0))).2 }
  | .vfeq o => some (fpTest o.d true fEq)
  | .vflt o => some (fpTest o.d false fLt)
  | .vfle o => some (fpTest o.d false (fun a b => fLt a b || fEq a b))
  | .vfun o => some (fpTest o.d true (fun a b => a.isNan || b.isNan))
  | _ => none

/-- The descriptor a floating-point form reads (R74). -/
def descOf (env : Env) (n : BitVec 3) : Desc := Desc.ofWord (env.d.getD n.toNat 0)

/-- The fields a form reads hold no reserved value, and the formats are ones it accepts (R74). -/
def descOk (env : Env) (n : BitVec 3) (u : DescUse) (ok : Desc → Bool) : Bool :=
  !(descOf env n).reservedBad true u.b u.d u.rm u.scl && ok (descOf env n)

/-- The operands of a floating-point form, at width SEW. -/
def FpForm.at (F : FpForm) (env : Env) (o : Operands) : List (Token × Nat) := (F.ops o).map (fun t => (t, env.lsew))

/-- The result of a floating-point form, element by element. -/
def FpForm.result (F : FpForm) (env : Env) (o : Operands) : OpRes :=
  elemResult env.vl o.p (F.at env o) (F.kind env) (fun _ xs => F.run env (descOf env F.d) xs)

/-- The flags of one element. -/
def FpForm.flagsAt (F : FpForm) (env : Env) (o : Operands) (e : Nat) : Flags := (F.run env (descOf env F.d) (opBits (F.at env o) e)).2

/-- The operands and the descriptor of a floating-point form are ones it takes. -/
def FpForm.accepts (F : FpForm) (env : Env) (o : Operands) : Bool :=
  descOk env F.d F.use (F.ok env) && predKindOk o.p && (F.ops o).all (okVec env.lsew) && fits env.vl (wideOps o.p (F.at env o)) (F.kind env)

/-- Elements of a result. -/
def elemsOf (vl : Nat) (wide : Bool) : Nat := if wide then vl else 1

/-- The compressed operations on elements: whether masks are taken, the operands, and the result of `w`-bit values (R54). -/
def compForm : Instr → Option (Bool × (Operands → List Token) × (Nat → List Nat → Nat))
  | .cNeg _ => some (false, fun o => [o.l], fun w x => 2 ^ w - x.getD 0 0 % 2 ^ w)
  | .cNot _ => some (true, fun o => [o.l], fun w x => 2 ^ w - 1 - x.getD 0 0 % 2 ^ w)
  | .cInc _ => some (false, fun o => [o.l], fun _ x => x.getD 0 0 + 1)
  | .cDec _ => some (false, fun o => [o.l], fun w x => x.getD 0 0 + 2 ^ w - 1)
  | .cShl1 _ => some (false, fun o => [o.l], fun _ x => 2 * x.getD 0 0)
  | .cShr1 _ => some (false, fun o => [o.l], fun _ x => x.getD 0 0 / 2)
  | .cSar1 _ => some (false, fun o => [o.l], fun w x => x.getD 0 0 / 2 + (if natBit (x.getD 0 0) (w - 1) = 1 then 2 ^ (w - 1) else 0))
  | .cIsz _ => some (false, fun o => [o.l], fun _ x => if x.getD 0 0 = 0 then 1 else 0)
  | .cNez _ => some (false, fun o => [o.l], fun _ x => if x.getD 0 0 = 0 then 0 else 1)
  | .cAdd _ => some (false, leftRight, fun _ x => x.getD 0 0 + x.getD 1 0)
  | .cSub _ => some (false, leftRight, fun w x => x.getD 0 0 + 2 ^ w - x.getD 1 0 % 2 ^ w)
  | .cAnd _ => some (true, leftRight, fun _ x => x.getD 0 0 &&& x.getD 1 0)
  | .cOr _ => some (true, leftRight, fun _ x => x.getD 0 0 ||| x.getD 1 0)
  | .cXor _ => some (true, leftRight, fun _ x => x.getD 0 0 ^^^ x.getD 1 0)
  | _ => none

/-- The width at which a compressed operation reads its operands: one bit for masks, SEW for vectors, 64 bits for scalars. -/
def compLw (env : Env) (ts : List Token) : Nat :=
  if ts.any (fun t => t.kind == .mask) then 0 else if ts.any Token.wide then env.lsew else 6

/-- The result of a compressed operation. -/
def compResult (env : Env) (ts : List Token) (f : Nat → List Nat → Nat) : OpRes :=
  let lw := compLw env ts
  elemResult env.vl none (ts.map (fun t => (t, lw))) (if ts.any (fun t => t.kind == .mask) then .mask else .vec env.lsew)
    (fun _ xs => (f (2 ^ lw) xs % 2 ^ (2 ^ lw), 0))

/-- Tokens that compressed instructions deliver without reading an operand's elements (R54). -/
def compConst (st : Site) (o : Operands) : Instr → Option Token
  | .cMov _ | .cFan _ => some o.l
  | .cVl _ => some (Token.scalar st.ex.img.vl)
  | .cSb _ => some (Token.scalar st.ex.img.sb.toNat)
  | .cSn _ => some (Token.scalar st.ex.img.sn.toNat)
  | .cEidx _ => some (Token.vector (lsewOf st.ex.img.sc) ((List.range st.ex.img.vl).map some))
  | .cLi a => some (Token.scalar (intToNat 64 ((a.n.toNat : Int) - 8)))
  | .cNull _ => some Token.nullScalar
  | .cNullv _ => some (Token.vector (lsewOf st.ex.img.sc) (List.replicate st.ex.img.vl none))
  | .cNullm _ => some (Token.mask (List.replicate st.ex.img.vl none))
  | _ => none

/-- The extension forms on a scalar operand (R54). -/
def compExtend : Instr → Option (Word → Word)
  | .cSext32 _ => some (fun a => (a.setWidth 32).signExtend 64)
  | .cZext32 _ => some (fun a => (a.setWidth 32).setWidth 64)
  | _ => none

end Sys2Proof.Claims

open Sys2Proof Sys2Proof.Machine Sys2Proof.Claims

/-! ### Instructions that deliver a token -/

/-- R91, R93 to R96: an integer instruction whose operands are of the kinds and widths its shape takes completes with the exact
result of each element narrowed by the shape, null where an operand is null or the predicate is closed. -/
def Sys2Proof.Claims.IntegerInstructionsComplete : Prop :=
  ∀ i sh f b, intForm i = some (sh, f, b) → ∀ s st o, Fires i s st o →
    intKinds sh (envOf st) o.p o.l (b o) = true → ¬ (sh = .vw ∧ (envOf st).lsew = 6) →
    fits (envOf st).vl (wideOps o.p [(o.l, 0), (b o, 0)]) (intKind sh (envOf st)) = true →
    exec i s = .next (st.put s (st.finish i (intResult sh f (envOf st) o.p o.l (b o))))

/-- R93, R91: an integer instruction whose operands are of a kind or width its shape does not take raises TOKEN_KIND and delivers
nothing; VW at SEW 64 raises WIDTH_RANGE. -/
def Sys2Proof.Claims.IntegerInstructionsFault : Prop :=
  ∀ i sh f b, intForm i = some (sh, f, b) → ∀ s st o, Fires i s st o →
    (intKinds sh (envOf st) o.p o.l (b o) = false → exec i s = .next (st.put s (st.ex.raise st.f.idx tokenKind)))
    ∧ (intKinds sh (envOf st) o.p o.l (b o) = true → sh = .vw → (envOf st).lsew = 6 →
        exec i s = .next (st.put s (st.ex.raise st.f.idx (Raw.of .widthRange ((envOf st).vl * 128)))))

/-- R94 to R96: the results of the S64 forms on two non-null scalars, in the arithmetic of 64-bit words. -/
def Sys2Proof.Claims.IntegerScalarResults : Prop :=
  ∀ i f, wordResult i = some f → isS64 i = true → ∀ s st o, Fires i s st o → o.l.kind = .scalar → o.r.kind = .scalar →
    o.l.isNull = false → o.r.isNull = false → predScalarOk o.p = true → predOpen o.p 0 = true →
    exec i s = .next (st.put s (st.delivers i (Token.scalar (f o.l.word o.r.word).toNat)))

/-- R99 to R102, R107: a floating-point instruction whose descriptor and operands it accepts and none of whose elements raises an
enabled trap completes with the result of each element. -/
def Sys2Proof.Claims.FloatInstructionsComplete : Prop :=
  ∀ i F, fpForm i = some F → ∀ s st o, Fires i s st o → F.accepts (envOf st) o = true →
    (∀ e, e < elemsOf (envOf st).vl (wideOps o.p (F.at (envOf st) o)) → liveAt o.p (F.at (envOf st) o) e = true →
      fpTrap (envOf st).fe (F.flagsAt (envOf st) o e) = none) →
    exec i s = .next (st.put s (st.finish i (F.result (envOf st) o)))

/-- R84: the lowest element that raises an enabled floating-point condition makes the instruction raise that trap: DETAIL is the
descriptor's number, ELEM the element, and no token is delivered. -/
def Sys2Proof.Claims.FloatTrapOnLowestElement : Prop :=
  ∀ i F, fpForm i = some F → ∀ s st o, Fires i s st o → F.accepts (envOf st) o = true →
    ∀ e c, e < elemsOf (envOf st).vl (wideOps o.p (F.at (envOf st) o)) → liveAt o.p (F.at (envOf st) o) e = true →
      fpTrap (envOf st).fe (F.flagsAt (envOf st) o e) = some c →
      (∀ k, k < e → liveAt o.p (F.at (envOf st) o) k = true → fpTrap (envOf st).fe (F.flagsAt (envOf st) o k) = none) →
      exec i s = .next (st.put s (st.ex.raise st.f.idx { Raw.of c F.d.toNat with elem := some e }))

/-- R54: the compressed instructions complete: relays, strand values and constants deliver theirs; arithmetic, logic, shifts and tests work
element by element; the null forms make, keep or fill nulls. -/
def Sys2Proof.Claims.CompressedInstructionsComplete : Prop :=
  (∀ i m ops f, compForm i = some (m, ops, f) → ∀ s st o, Fires i s st o → compOk (envOf st) m (ops o) = true →
    fits (envOf st).vl ((ops o).any Token.wide) (if (ops o).any (fun t => t.kind == .mask) then .mask else .vec (envOf st).lsew) = true →
    exec i s = .next (st.put s (st.finish i (compResult (envOf st) (ops o) f))))
  ∧ (∀ i s st o, Fires i s st o → ∀ t, compConst st o i = some t → exec i s = .next (st.put s (st.delivers i t)))
  ∧ (∀ i f, compExtend i = some f → ∀ s st o, Fires i s st o → o.l.kind = .scalar →
      exec i s = .next (st.put s (st.delivers i (if o.l.isNull then Token.nullScalar else Token.scalar (f o.l.word).toNat))))
  ∧ (∀ a s st o, Fires (.cNullif a) s st o → okVec (envOf st).lsew o.l = true → okMask o.r = true →
      exec (.cNullif a) s = .next (st.put s (st.delivers (.cNullif a) ((ResKind.vec (envOf st).lsew).build (o.l.wide || o.r.wide)
        ((List.range (elemsOf (envOf st).vl (o.l.wide || o.r.wide))).map (fun e =>
          if o.r.nullAt e || predOpen (some (true, o.r)) e then none
          else o.l.elem? (if o.l.wide || o.r.wide then (envOf st).lsew else 6) e))))))
  ∧ (∀ a s st o, Fires (.cKeepif a) s st o → okVec (envOf st).lsew o.l = true → okMask o.r = true →
      exec (.cKeepif a) s = .next (st.put s (st.delivers (.cKeepif a) ((ResKind.vec (envOf st).lsew).build (o.l.wide || o.r.wide)
        ((List.range (elemsOf (envOf st).vl (o.l.wide || o.r.wide))).map (fun e =>
          if o.r.nullAt e || !predOpen (some (true, o.r)) e then none
          else o.l.elem? (if o.l.wide || o.r.wide then (envOf st).lsew else 6) e))))))
  ∧ (∀ a s st o, Fires (.cZfill a) s st o → okVec (envOf st).lsew o.l = true →
      exec (.cZfill a) s = .next (st.put s (st.delivers (.cZfill a) ((ResKind.vec (envOf st).lsew).build o.l.wide
        ((List.range (elemsOf (envOf st).vl o.l.wide)).map (fun e =>
          some (if o.l.nullAt e then 0 else o.l.elem (if o.l.wide then (envOf st).lsew else 6) e)))))))
  ∧ (∀ a s st o, Fires (.cIsnull a) s st o → okVec (envOf st).lsew o.l = true →
      exec (.cIsnull a) s = .next (st.put s (st.delivers (.cIsnull a) (ResKind.mask.build true
        ((List.range (envOf st).vl).map (fun e => some (if o.l.nullAt e then 1 else 0)))))))

namespace Sys2Proof.Claims

/-- The tagged-pointer instructions: the operation on one pointer, and the second operand (R98). -/
def ptrForm : Instr → Option ((Nat → Nat → Except Raw (Nat × Flags)) × (Operands → Token))
  | .padd a => some (paddEl a.field, (·.r))
  | .pset a => some (psetEl a.field, (·.r))
  | .pget a => some (fun p _ => pgetEl a.field p, fun _ => Token.scalar 0)
  | _ => none

/-- The extents of the pointer fields (R97): the field, the space, the lowest bit and the width. -/
def pointerFields : List (PtrField × Nat × Nat × Nat) :=
  [(.offset, 0, 0, 56), (.offset, 1, 0, 19), (.offset, 3, 0, 60), (.offset, 4, 0, 48), (.offset, 6, 0, 60),
   (.place, 0, 56, 4), (.place, 1, 48, 9), (.place, 4, 48, 12)] ++ (List.range 16).map (fun sp => (.space, sp, 60, 4))

/-- Two scalars on which a scalar instruction computes: neither is null and the predicate is open. -/
def scalarPair (o : Operands) : Prop :=
  o.l.kind = .scalar ∧ o.r.kind = .scalar ∧ o.l.isNull = false ∧ o.r.isNull = false ∧ predScalarOk o.p = true ∧ predOpen o.p 0 = true

end Sys2Proof.Claims

/-- R91, R97, R98: padd, pset and pget complete with the result of each element when no element faults. -/
def Sys2Proof.Claims.PointerInstructionsComplete : Prop :=
  ∀ i f b, ptrForm i = some (f, b) → ∀ s st o, Fires i s st o → predKindOk o.p = true → okVec 6 o.l = true → okVec 6 (b o) = true →
    (wideOps o.p [(o.l, 6), (b o, 6)] = true → (envOf st).lsew = 6) → fits (envOf st).vl (wideOps o.p [(o.l, 6), (b o, 6)]) (.vec 6) = true →
    ∀ g : Nat → Nat → Nat, (∀ e, e < elemsOf (envOf st).vl (wideOps o.p [(o.l, 6), (b o, 6)]) → liveAt o.p [(o.l, 6), (b o, 6)] e = true →
      f (o.l.elem 6 e) ((b o).elem 6 e) = .ok (g (o.l.elem 6 e) ((b o).elem 6 e), 0)) →
    exec i s = .next (st.put s (st.finish i (elemResult (envOf st).vl o.p [(o.l, 6), (b o, 6)] (.vec 6)
      (fun _ xs => (g (xs.getD 0 0) (xs.getD 1 0), 0)))))

/-- R97, R98: on two scalars, padd adds the addend to the field, pset replaces the field and pget reads it; bits outside the field pass
unchanged. A sum or a value outside the field is POINTER_TAG_OVERFLOW. -/
def Sys2Proof.Claims.PointerFieldResults : Prop :=
  ∀ fd sp lo w, (fd, sp, lo, w) ∈ pointerFields → ∀ s st o, scalarPair o → (o.l.word.toNat / 2 ^ 60) = sp →
    (∀ a, a.field = fd → Fires (.pget a) s st o →
      exec (.pget a) s = .next (st.put s (st.delivers (.pget a) (Token.scalar (o.l.word.toNat / 2 ^ lo % 2 ^ w)))))
    ∧ (∀ a, a.field = fd → fd ≠ .space → Fires (.padd a) s st o → let v := ((o.l.word.toNat / 2 ^ lo % 2 ^ w : Nat) : Int) + o.r.word.toInt
        (0 ≤ v → v < 2 ^ w → exec (.padd a) s = .next (st.put s (st.delivers (.padd a) (Token.scalar (o.l.word + (o.r.word <<< lo)).toNat))))
        ∧ ((v < 0 ∨ 2 ^ w ≤ v) → exec (.padd a) s = .next (st.put s (st.ex.raise st.f.idx
            { Raw.of .pointerTagOverflow with fa := some o.l.word, elem := some 0 }))))
    ∧ (∀ a, a.field = fd → Fires (.pset a) s st o →
        (o.r.word.toNat < 2 ^ w → (fd = .space → o.r.word.toNat ∈ [0, 1, 3, 4, 6]) → ∃ v : Word, exec (.pset a) s = .next (st.put s (st.delivers (.pset a) (Token.scalar v.toNat)))
          ∧ ∀ j, j < 64 → v.getLsbD j = if lo ≤ j ∧ j < lo + w then o.r.word.getLsbD (j - lo) else o.l.word.getLsbD j)
        ∧ (fd ≠ .space → 2 ^ w ≤ o.r.word.toNat → exec (.pset a) s = .next (st.put s (st.ex.raise st.f.idx
            { Raw.of .pointerTagOverflow with fa := some o.l.word, elem := some 0 }))))

/-- R98: a field of a space that has no fields is SPACE_INVALID, a field that the pointer's space lacks is POINTER_TAG_OVERFLOW, and pset of
a space that is none of 0x0, 0x1, 0x3, 0x4 and 0x6 is SPACE_INVALID. -/
def Sys2Proof.Claims.PointerFieldFaults : Prop :=
  ∀ i f b, ptrForm i = some (f, b) → ∀ s st o, Fires i s st o → scalarPair o →
    (∀ a, (i = .padd a ∨ i = .pset a ∨ i = .pget a) → a.field ≠ .space →
      (o.l.word.toNat / 2 ^ 60 ∉ [0, 1, 3, 4, 6] →
        exec i s = .next (st.put s (st.ex.raise st.f.idx { Raw.of .spaceInvalid with fa := some o.l.word, elem := some 0 })))
      ∧ (a.field = .place → o.l.word.toNat / 2 ^ 60 ∈ [3, 6] →
        exec i s = .next (st.put s (st.ex.raise st.f.idx { Raw.of .pointerTagOverflow with fa := some o.l.word, elem := some 0 }))))
    ∧ (∀ a, i = .pset a → a.field = .space → o.r.word.toNat ∉ [0, 1, 3, 4, 6] →
        exec i s = .next (st.put s (st.ex.raise st.f.idx { Raw.of .spaceInvalid with fa := some o.l.word, elem := some 0 })))

namespace Sys2Proof.Claims

/-! ### Conversions and reductions -/

/-- The operand of vcvt as its elements are read: packed E2M1 elements have four bits (R68, R103). -/
def cvtView (d : Desc) (t : Token) : Token := if d.fa = 14 then e2m1View t else t

/-- The entry of the scale file for element `e` (R72). -/
def scaleIndex (d : Desc) (e : Nat) : Nat := e / 2 ^ d.blk + d.sba

/-- The value of that entry. -/
def scaleOf (env : Env) (d : Desc) (e : Nat) : Option (Nat × Int) := s9 (env.scale.getD (scaleIndex d e) 0).toNat

/-- What vcvt makes of the bits of element `e` (R103). -/
def cvtElem (env : Env) (d : Desc) (e x : Nat) : Nat × Flags :=
  let a := fpRead d.fa d.ftz x
  if d.scl = 1 then
    let b := scaledVal a (scaleOf env d e)
    let r := convert 9 d.fd d.rm d.ftz d.sat (env.draw e) b
    if b.isNan then (r.1, flNone) else r
  else convert d.fa d.fd d.rm d.ftz d.sat (env.draw e) a

/-- What vcvtb makes of the bits of element `e`: the value divided by its scale (R104). -/
def cvtbElem (env : Env) (d : Desc) (e x : Nat) : Nat × Flags :=
  match scaleOf env d e with
  | none => deliverNan d.fd flNV
  | some (m, y) =>
    let q := fDiv (fpRead d.fa d.ftz x) (.fin false m y)
    let r := convert 9 d.fd d.rm d.ftz d.sat (env.draw e) q.1
    (r.1, q.2 ||| r.2)

/-- The formats of vcvtb (R104). -/
def cvtbOk (env : Env) (d : Desc) : Bool := 9 ≤ d.fa && d.fa ≤ 11 && fmtLw d.fa == env.lsew && (d.fd == 12 || d.fd == 14) && d.blk == 5

/-- A reduction: its arguments, the formats it takes, and what it makes of init and the participants (R87, R105). -/
def redForm : Instr → Option (FpArgs × (Desc → Bool) × (Env → Desc → Nat → List (Option Nat) → Except Raw (Nat × Flags)))
  | .vsumO o => some (o, sumOk, fun env d init xs =>
      if fmtIsInt d.fa then .ok (intSum d init xs, 0)
      else if xs.all (·.isNone) then initAlone env o.d d init 0
      else sumOrdered env o.d d 0 xs (init, 0))
  | .vsumT o => some (o, sumOk, fun env d init xs =>
      if fmtIsInt d.fa then .ok (intSum d init xs, 0)
      else match (sumTerms env d 0 xs).bind (fun l => sumTree env o.d d 8 l 0) with
        | .error e => .error e
        | .ok (none, fl) => initAlone env o.d d init fl
        | .ok (some v, fl) => addIn env o.d d (fpRead d.fd d.ftz init) v fl)
  | .vminR o => some (o, minMaxOk, fun env d => redMinMax false env o.d d)
  | .vmaxR o => some (o, minMaxOk, fun env d => redMinMax true env o.d d)
  | .vandR o => some (o, bitsOk, fun _ _ init xs => .ok (xs.foldl (fun a x => match x with | some v => a &&& v | none => a) init, 0))
  | .vorR o => some (o, bitsOk, fun _ _ init xs => .ok (xs.foldl (fun a x => match x with | some v => a ||| v | none => a) init, 0))
  | _ => none

/-- The descriptor and operands a reduction takes. -/
def redAccepts (a : FpArgs) (ok : Desc → Bool) (env : Env) (o : Operands) : Bool :=
  descOk env a.d useCvt (fun d => ok d && fmtLw d.fa == env.lsew && d.rm != 5 && (d.scl == 0 || (d.scl == 1 && d.fa == 12 && d.blk == 5)))
    && predKindOk o.p && okVec env.lsew o.l && okScalar o.r

/-- A reduction has nothing to reduce into: a null init, or a closed scalar predicate (R87). -/
def redClosed (o : Operands) : Bool := o.r.isNull || (!predWide o.p && !predOpen o.p 0)

/-! ### Selection -/

/-- A vector or mask of vl elements, or a scalar of one, with the predicate applied (R17, R91). -/
def chosen (env : Env) (wide : Bool) (p : Pred) (k : ResKind) (f : Nat → Option Nat) : Token :=
  k.build wide ((List.range (elemsOf env.vl wide)).map (fun e => if predOpen p e then f e else none))

/-- The width of a comparison (R106). -/
def cmpLw (env : Env) (p : Pred) (a b : Token) : Nat := if a.wide || b.wide || predWide p then env.lsew else 6

/-- The result of a comparison (R106). -/
def cmpResult (c : Cond) (env : Env) (p : Pred) (a b : Token) : OpRes :=
  elemResult env.vl p [(a, cmpLw env p a b), (b, cmpLw env p a b)] .mask
    (fun _ xs => (if condHolds c (2 ^ cmpLw env p a b) (xs.getD 0 0) (xs.getD 1 0) then 1 else 0, 0))

/-- Operands of sel: both masks or scalars, or both vectors of SEW or scalars (R108). -/
def selKinds (env : Env) (o : Operands) : Bool :=
  let m := o.r.kind == .mask || o.t.kind == .mask
  predKindOk o.p && okMask o.l && (if m then okMask o.r && okMask o.t else okVec env.lsew o.r && okVec env.lsew o.t)

/-- Element `e` of sel (R108). -/
def selPick (o : Operands) (lw e : Nat) : Option Nat :=
  if o.l.nullAt e then none else if maskBit o.l e = 1 then o.r.elem? lw e else o.t.elem? lw e

/-- Element `e` of vperm (R109): `src` is a source element, null beyond vl. -/
def permPick (op : PermOp) (env : Env) (o : Operands) (e : Nat) : Option Nat :=
  let src (i : Nat) : Option Nat := if i < env.vl then o.l.elem? env.lsew i else none
  match op with
  | .gather => if o.r.nullAt e then none else src (o.r.elem env.lsew e)
  | .up => if o.r.isNull then none else if o.r.val ≤ e then src (e - o.r.val) else none
  | .dn => if o.r.isNull then none else src (e + o.r.val)
  | .rev => src (env.vl - 1 - e)
  | .bc => if o.r.isNull then none else src o.r.val

/-- The index operand vperm takes (R109). -/
def permKinds (op : PermOp) (env : Env) (o : Operands) : Bool :=
  predKindOk o.p && okVec env.lsew o.l && (match op with | .gather => okVec env.lsew o.r | .rev => true | _ => okScalar o.r)

/-- vperm delivers a vector (R91, R109). -/
def permWide (op : PermOp) (o : Operands) : Bool := o.l.wide || predWide o.p || (op == .gather && o.r.wide)

/-- Element `e` of a mask that mfirst derives (R112), and its scalar form. -/
def firstBit (op : FirstOp) (f e : Nat) : Bool :=
  match op with
  | .sbf => decide (e < f)
  | .sif => decide (e ≤ f)
  | .sof => e == f
  | .idx => false

end Sys2Proof.Claims

/-- R103, R104: vcvt and vcvtb complete with every element converted, where each element has its scale entry and raises no enabled
trap. -/
def Sys2Proof.Claims.ConversionsComplete : Prop :=
  (∀ a s st o, Fires (.vcvt a) s st o → predKindOk o.p = true → descOk (envOf st) a.d useCvt (cvtOk (envOf st)) = true →
    (okVec (envOf st).lsew o.l || ((descOf (envOf st) a.d).fa == 14 && okVec 2 o.l)) = true →
    let d := descOf (envOf st) a.d
    let ops := [(cvtView d o.l, if d.fa = 14 then 2 else (envOf st).lsew)]
    fits (envOf st).vl (wideOps o.p ops) (.vec (fmtLw d.fd)) = true →
    (∀ e, e < elemsOf (envOf st).vl (wideOps o.p ops) → liveAt o.p ops e = true →
      (d.scl = 1 → scaleIndex d e < 256) ∧ fpTrap (envOf st).fe (cvtElem (envOf st) d e ((opBits ops e).getD 0 0)).2 = none) →
    exec (.vcvt a) s = .next (st.put s (st.finish (.vcvt a)
      (elemResult (envOf st).vl o.p ops (.vec (fmtLw d.fd)) (fun e xs => cvtElem (envOf st) d e (xs.getD 0 0))))))
  ∧ (∀ a s st o, Fires (.vcvtb a) s st o → predKindOk o.p = true → descOk (envOf st) a.d useCvtb (cvtbOk (envOf st)) = true →
    okVec (envOf st).lsew o.l = true →
    let d := descOf (envOf st) a.d
    let ops := [(o.l, (envOf st).lsew)]
    fits (envOf st).vl (wideOps o.p ops) (.vec (fmtLw d.fd)) = true →
    (∀ e, e < elemsOf (envOf st).vl (wideOps o.p ops) → liveAt o.p ops e = true →
      scaleIndex d e < 256 ∧ fpTrap (envOf st).fe (cvtbElem (envOf st) d e ((opBits ops e).getD 0 0)).2 = none) →
    exec (.vcvtb a) s = .next (st.put s (st.finish (.vcvtb a)
      (elemResult (envOf st).vl o.p ops (.vec (fmtLw d.fd)) (fun e xs => cvtbElem (envOf st) d e (xs.getD 0 0))))))

/-- R72: an element whose scale entry lies beyond the scale file makes vcvt raise SCALE_RANGE with the lowest such element. -/
def Sys2Proof.Claims.ScaleRangeRaised : Prop :=
  ∀ a s st o, Fires (.vcvt a) s st o → predKindOk o.p = true → descOk (envOf st) a.d useCvt (cvtOk (envOf st)) = true →
    (okVec (envOf st).lsew o.l || ((descOf (envOf st) a.d).fa == 14 && okVec 2 o.l)) = true →
    let d := descOf (envOf st) a.d
    let ops := [(cvtView d o.l, if d.fa = 14 then 2 else (envOf st).lsew)]
    fits (envOf st).vl (wideOps o.p ops) (.vec (fmtLw d.fd)) = true → d.scl = 1 →
    ∀ e, e < elemsOf (envOf st).vl (wideOps o.p ops) → liveAt o.p ops e = true → 256 ≤ scaleIndex d e →
      (∀ k, k < e → liveAt o.p ops k = true →
        scaleIndex d k < 256 ∧ fpTrap (envOf st).fe (cvtElem (envOf st) d k ((opBits ops k).getD 0 0)).2 = none) →
      exec (.vcvt a) s = .next (st.put s (st.ex.raise st.f.idx { Raw.of .scaleRange (scaleIndex d e) with elem := some e }))

/-- R87, R105: a reduction completes with a scalar: null when init is null or a scalar predicate is closed, and otherwise what its
rule makes of init and the participants. -/
def Sys2Proof.Claims.ReductionsComplete : Prop :=
  ∀ i a ok run, redForm i = some (a, ok, run) → ∀ s st o, Fires i s st o → redAccepts a ok (envOf st) o = true →
    (redClosed o = true → exec i s = .next (st.put s (st.delivers i Token.nullScalar)))
    ∧ (redClosed o = false → (envOf st).fe = 0 →
        ((descOf (envOf st) a.d).scl = 1 → ∀ e, e < (envOf st).vl → scaleIndex (descOf (envOf st) a.d) e < 256) →
        ∃ r, run (envOf st) (descOf (envOf st) a.d) (o.r.val % 2 ^ fmtWidth (descOf (envOf st) a.d).fd) (participants (envOf st) o.p o.l) = .ok r
          ∧ exec i s = .next (st.put s (st.finish i ⟨Token.scalar r.1, r.2⟩)))

/-- R106, R108 to R110: the comparisons, sel, vperm, vext and vins complete with the element each rule gives. -/
def Sys2Proof.Claims.SelectionComplete : Prop :=
  (∀ a s st o, Fires (.cmp a) s st o → (predKindOk o.p && okVec (envOf st).lsew o.l && okVec (envOf st).lsew o.r) = true →
    exec (.cmp a) s = .next (st.put s (st.finish (.cmp a) (cmpResult a.cond (envOf st) o.p o.l o.r))))
  ∧ (∀ a s st o, Fires (.cmpi a) s st o → (predKindOk o.p && okVec (envOf st).lsew o.l) = true →
    exec (.cmpi a) s = .next (st.put s (st.finish (.cmpi a)
      (cmpResult a.cond (envOf st) o.p o.l (Token.scalar (immValue a.imm9 a.pre))))))
  ∧ (∀ a s st o, Fires (.sel a) s st o → selKinds (envOf st) o = true →
    let m := o.r.kind == .mask || o.t.kind == .mask
    let w := m || o.r.kind == .vec || o.t.kind == .vec || o.l.wide || predWide o.p
    (w = true → exec (.sel a) s = .next (st.put s (st.delivers (.sel a) (chosen (envOf st) true o.p
      (if m then .mask else .vec (envOf st).lsew) (selPick o (if m then 0 else (envOf st).lsew))))))
    ∧ (w = false → exec (.sel a) s = .next (st.put s (st.delivers (.sel a)
        { Token.scalarOpt (if predOpen o.p 0 then selPick o (if o.r.ref then 6 else (envOf st).lsew) 0 else none) with ref := o.r.ref }))))
  ∧ (∀ a s st o, Fires (.vperm a) s st o → permKinds a.op (envOf st) o = true →
    exec (.vperm a) s = .next (st.put s (st.delivers (.vperm a)
      (chosen (envOf st) (permWide a.op o) o.p (.vec (envOf st).lsew) (permPick a.op (envOf st) o)))))
  ∧ (∀ a s st o, Fires (.vext a) s st o → (predScalarOk o.p && okVec (envOf st).lsew o.l && okScalar o.r) = true →
    exec (.vext a) s = .next (st.put s (st.delivers (.vext a) (Token.scalarOpt
      (if predOpen o.p 0 && !o.r.isNull && decide (o.r.val < (envOf st).vl) then
        (o.l.elem? (envOf st).lsew o.r.val).map (fun x => if a.flag then intToNat 64 (natToInt (2 ^ (envOf st).lsew) x) else x)
      else none)))))
  ∧ (∀ a s st o, Fires (.vins a) s st o → (predKindOk o.p && okVec (envOf st).lsew o.l && okScalar o.r && okScalar o.t) = true →
    exec (.vins a) s = .next (st.put s (st.delivers (.vins a) (chosen (envOf st) (o.l.wide || predWide o.p) o.p (.vec (envOf st).lsew)
      (fun e => if o.r.isNull then none else if o.r.val = e then o.t.elem? (envOf st).lsew 0 else o.l.elem? (envOf st).lsew e)))))

/-- R111 to R113: the mask instructions complete with the element each rule gives. -/
def Sys2Proof.Claims.MaskInstructionsComplete : Prop :=
  (∀ a s st o, Fires (.mlog a) s st o → (predKindOk o.p && okMask o.l && okMask o.r) = true →
    exec (.mlog a) s = .next (st.put s (st.finish (.mlog a) (elemResult (envOf st).vl o.p [(o.l, 0), (o.r, 0)] .mask
      (fun e _ => (mlogBit a.op.toNat (maskBit o.l e) (maskBit o.r e), 0))))))
  ∧ (∀ a s st o, Fires (.mfirst a) s st o → okMask o.l = true → a.op = .idx → predScalarOk o.p = true →
    exec (.mfirst a) s = .next (st.put s (st.delivers (.mfirst a)
      (if predOpen o.p 0 then Token.scalar (firstSet (envOf st) o.l) else Token.nullScalar))))
  ∧ (∀ a s st o, Fires (.mfirst a) s st o → okMask o.l = true → a.op ≠ .idx → predKindOk o.p = true →
    exec (.mfirst a) s = .next (st.put s (st.delivers (.mfirst a)
      (chosen (envOf st) true o.p .mask (fun e => some (if firstBit a.op (firstSet (envOf st) o.l) e then 1 else 0))))))
  ∧ (∀ a s st o, Fires (.mpop a) s st o → okMask o.l = true → predScalarOk o.p = true →
    exec (.mpop a) s = .next (st.put s (st.delivers (.mpop a)
      (if predOpen o.p 0 then Token.scalar ((List.range (envOf st).vl).countP (maskHas o.l)) else Token.nullScalar))))
  ∧ (∀ a s st o, Fires (.viota a) s st o → okMask o.l = true → predKindOk o.p = true →
    exec (.viota a) s = .next (st.put s (st.delivers (.viota a)
      (chosen (envOf st) true o.p (.vec (envOf st).lsew) (fun e => some ((List.range e).countP (maskHas o.l)))))))
  ∧ (∀ a s st o, Fires (.vcomp a) s st o → okVec (envOf st).lsew o.l = true → okMask o.r = true → predKindOk o.p = true →
    exec (.vcomp a) s = .next (st.put s (st.delivers (.vcomp a) (chosen (envOf st) true o.p (.vec (envOf st).lsew)
      (fun e => (((List.range (envOf st).vl).filter (maskHas o.r)).map (fun k => o.l.elem? (envOf st).lsew k)).getD e none)))))
  ∧ (∀ a s st o, Fires (.mrange a) s st o → okScalar o.l = true → okScalar o.r = true → predKindOk o.p = true →
    exec (.mrange a) s = .next (st.put s (st.delivers (.mrange a) (chosen (envOf st) true o.p .mask (fun e =>
      if o.l.isNull || o.r.isNull then none
      else some (if natToInt 64 o.l.val ≤ (if a.flag then ((envOf st).sb : Int) else 0) + e
          ∧ (if a.flag then ((envOf st).sb : Int) else 0) + e < natToInt 64 o.r.val then 1 else 0))))))

namespace Sys2Proof.Claims

/-! ### Firing of loads, stores and effects -/

/-- The execution once its instruction has fired, or has been formed again (R20, R171). -/
def firedEx (st : Site) : Exec := if st.f.reform then st.ex.reformed st.f.idx else st.ex.markFired st.f.idx

/-- A vector load: its width, kind, what its checks need, the operands it takes, and the pointer and Δ of each element (R116, R125). -/
structure VecLoad where
  ws    : MemW
  kind  : LoadKind
  req   : LoadReq
  kinds : Env → Operands → Bool
  index : Bool
  delta : Operands → Nat → Int

/-- The vector loads (R116, R125 to R127, R141). -/
def vecLoadForm : Instr → Option VecLoad
  | .ld o => some ⟨o.ws, .plain, { w := wsBytes o.ws, cache := true }, fun _ v => okScalar v.l, false,
      fun _ e => loadOff o.pre + e * wsBytes o.ws⟩
  | .ldff o => some ⟨o.ws, .first, { w := wsBytes o.ws, cache := true, ff := true }, fun _ v => okScalar v.l, false,
      fun _ e => loadOff o.pre + e * wsBytes o.ws⟩
  | .lds o => some ⟨o.ws, .plain, { w := wsBytes o.ws, cache := true }, fun _ v => okScalar v.l && okScalar v.r, true,
      fun v e => loadOff o.pre + e * strideOf v.r⟩
  | .ldg o => some ⟨o.ws, .plain, { w := wsBytes o.ws, cache := true, gather := true }, fun env v => okBase v.l && okVec env.lsew v.r, true,
      fun v e => loadOff o.pre + indexOf v.r e * wsBytes o.ws⟩
  | .ldgff o => some ⟨o.ws, .first, { w := wsBytes o.ws, cache := true, ff := true, gather := true }, fun env v => okBase v.l && okVec env.lsew v.r, true,
      fun v e => loadOff o.pre + indexOf v.r e * wsBytes o.ws⟩
  | .ldk o => if o.ws = .x then none else some ⟨o.ws, .refObj false false, { w := wsBytes o.ws }, fun _ v => okScalar v.l, false,
      fun _ e => loadOff o.pre + e * wsBytes o.ws⟩
  | _ => none

/-- Element `e` of a vector access is made: the predicate is open and no operand it uses is null there (R17, R124). -/
def loadLive (F : VecLoad) (o : Operands) (e : Nat) : Bool := predOpen o.p e && !o.l.nullAt e && !(F.index && o.r.nullAt e)

/-- The elements a vector load accesses, in order (R116, R124). -/
def loadEls (F : VecLoad) (vl : Nat) (o : Operands) : List LdElem :=
  ((List.range vl).filter (loadLive F o)).map (fun e => ⟨e, baseOf o.l e, F.delta o e, wsBytes F.ws, none, none⟩)

/-- The load that a fired instruction leaves to be sent. -/
def loadRec (i : Instr) (st : Site) (kind : LoadKind) (req : LoadReq) (shape : TokKind) (null : BitVec 256) (els : List LdElem) : LoadRec :=
  { idx := st.f.idx, req := req, deliver := !st.f.reform, lsid := ((lsidOf i).map (·.1)).getD 0, cls := classOf i, kind := kind
    w := req.w, shape := shape, null := null, els := els, sent := false }

/-- A load has fired: with nothing to access it delivers at once, otherwise it is sent as soon as it may be (R122, R124). -/
def afterLoad (s : State) (st : Site) (ld : LoadRec) : State :=
  (if ld.els.isEmpty then st.put s ((firedEx st).finishLoad ld)
   else st.put s { firedEx st with loads := (firedEx st).loads ++ [ld] }).settle st.f.c st.f.spec

/-- A scalar load: kind, what its checks need, and offset (R116, R125, R132, R135, R141). -/
def oneLoadForm : Instr → Option (LoadKind × LoadReq × Int)
  | .ldx o => some (.plain, { w := 8, cache := true, dev := true }, loadOff o.pre)
  | .lda o => some (.acquire o.scope, { w := 8 }, loadOff o.pre)
  | .ldk o => if o.ws = .x then some (.refObj false false, { w := 8 }, loadOff o.pre) else none
  | _ => none

/-- The operands of an instruction that acts as one whole are scalars, and it takes effect: none is null and the predicate is open
(R17, R427). -/
def wholeScalars (i : Instr) (o : Operands) : Bool := predScalarOk o.p && (usedTokens i o).all okScalar
def wholeOpen (i : Instr) (o : Operands) : Bool := predOpen o.p 0 && (usedTokens i o).all (fun t => !t.isNull)

/-- A store of a token: width, device reach, release scope, whether its third operand is an index, operands, Δ, and bytes (R116, R128, R129). -/
structure VecStore where
  ws    : MemW
  kinds : Env → Operands → Bool
  third : Bool
  delta : Operands → Nat → Int

/-- The vector stores (R129). -/
def vecStoreForm : Instr → Option VecStore
  | .st o => some ⟨o.ws, fun _ v => okScalar v.l, false, fun _ e => storeOff (wsBytes o.ws) o.ofs5 o.imm + e * wsBytes o.ws⟩
  | .sts o => some ⟨o.ws, fun _ v => okScalar v.l && okScalar v.t, true, fun v e => storeOff (wsBytes o.ws) o.ofs5 o.imm + e * strideOf v.t⟩
  | .stg o => some ⟨o.ws, fun env v => okBase v.l && okVec env.lsew v.t, true,
      fun v e => storeOff (wsBytes o.ws) o.ofs5 o.imm + indexOf v.t e * wsBytes o.ws⟩
  | _ => none

/-- The elements a vector store writes. -/
def storeLive (F : VecStore) (o : Operands) (e : Nat) : Bool :=
  predOpen o.p e && !o.l.nullAt e && !o.r.nullAt e && !(F.third && o.t.nullAt e)

/-- What a store's probe needs (R128). -/
def storeNeed (st : Site) (dev : Bool) (w : Nat) : AccReq := { need := { wr := true }, dev := dev, w := w, n := w, user := st.ex.user }

/-- A store has fired: its probed elements are buffered for the belay (R26, R128). -/
def afterStore (i : Instr) (s : State) (st : Site) (rel : Option Scope) (n : Nat) (parts : List (Nat × Part))
    (data : List (Nat × List (Byte × Byte))) : State :=
  (st.put { s with free := s.free + 2 * n }
    (st.withEffect i (some (.store (((lsidOf i).map (·.1)).getD 0) (classOf i) rel (storeEls parts data))) none)).settle st.f.c st.f.spec

/-- The scalar stores: device reach, release scope and offset (R129, R132). -/
def oneStoreForm : Instr → Option (Bool × Option Scope × Int)
  | .stx o => some (true, none, storeOff 8 o.ofs5 o.imm)
  | .stl o => some (false, some o.scope, storeOff 8 o.ofs5 o.imm)
  | _ => none

/-- The atomics and their operations (R136). -/
def amoForm : Instr → Option (AtomicArgs × AmoOp × Bool)
  | .amoAdd a => some (a, .add, false) | .amoAnd a => some (a, .and, false) | .amoOr a => some (a, .or, false)
  | .amoXor a => some (a, .xor, false) | .amoMin a => some (a, .min, false) | .amoMax a => some (a, .max, false)
  | .amoSwap a => some (a, .swap, false) | .amoCas a => some (a, .cas, true)
  | _ => none

/-- log2 of the width of an atomic: 64 bits for scalars, SEW with a vector operand (R136). -/
def amoLw (env : Env) (o : Operands) (three : Bool) : Nat := if amoWide o three then env.lsew else 6

/-- An atomic has vl elements: its pointer or an operand is a vector (R136). -/
def amoVec (o : Operands) (three : Bool) : Bool := o.l.wide || amoWide o three

/-- Elements of an atomic that are performed. -/
def amoLive (env : Env) (o : Operands) (three : Bool) : List Nat :=
  (List.range (elemsOf env.vl (amoVec o three))).filter
    (fun e => predOpen o.p e && !o.l.nullAt e && !o.r.nullAt e && !(three && o.t.nullAt e))

/-- The operands an atomic takes. -/
def amoKinds (env : Env) (o : Operands) (three : Bool) : Bool :=
  !(amoWide o three && decide (amoLw env o three < 5)) && predKindOk o.p && okBase o.l && okVec (amoLw env o three) o.r
    && (!three || okVec (amoLw env o three) o.t)

/-- What an atomic's probe needs (R131, R136). -/
def amoNeed (st : Site) (op : AmoOp) (w : Nat) : AccReq :=
  { need := { rd := true, wr := true }, atom := true, hostOp := op == .add || op == .swap || op == .cas, w := w, n := w, user := st.ex.user }

end Sys2Proof.Claims

/-- R116, R124 to R127, R132, R135: a load whose operands it takes fires; its elements are those the rules give, and it is sent as soon
as it may be, or delivers at once when it has none. -/
def Sys2Proof.Claims.LoadsFire : Prop :=
  (∀ i F, vecLoadForm i = some F → ∀ s st o, Fires i s st o → (predKindOk o.p && F.kinds (envOf st) o) = true →
    (envOf st).vl * (8 * wsBytes F.ws) ≤ 2048 →
    exec i s = .next (afterLoad s st (loadRec i st F.kind F.req .vec (nullMap (envOf st).vl (fun e => !loadLive F o e))
      (loadEls F (envOf st).vl o))))
  ∧ (∀ a s st o, Fires (.ldb a) s st o → (predKindOk o.p && okScalar o.l) = true → (envOf st).vl * (8 * wsBytes a.ws) ≤ 2048 →
    let live (e : Nat) : Bool := predOpen o.p e && !o.l.isNull
    exec (.ldb a) s = .next (afterLoad s st (loadRec (.ldb a) st .plain { w := wsBytes a.ws, cache := true, bcast := true } .vec
      (nullMap (envOf st).vl (fun e => !live e))
      (if (List.range (envOf st).vl).any live then [⟨0, o.l.word, loadOff a.pre, wsBytes a.ws, none, none⟩] else []))))
  ∧ (∀ i k r off, oneLoadForm i = some (k, r, off) → ∀ s st o, Fires i s st o → (predScalarOk o.p && okScalar o.l) = true →
    exec i s = .next (afterLoad s st (loadRec i st k r .scalar (nullMap 1 (fun _ => !(predOpen o.p 0 && !o.l.isNull)))
      (if predOpen o.p 0 && !o.l.isNull then [⟨0, o.l.word, off, 8, none, none⟩] else []))))
  ∧ (∀ a s st o, Fires (.ldm a) s st o → (predKindOk o.p && okScalar o.l) = true →
    let live (e : Nat) : Bool := predOpen o.p e && !o.l.isNull
    exec (.ldm a) s = .next (afterLoad s st (loadRec (.ldm a) st .plain { w := 1, cache := true } .mask
      (nullMap (envOf st).vl (fun e => !live e))
      (if (List.range (envOf st).vl).any live then [⟨0, o.l.word, loadOff a.pre, ((envOf st).vl + 7) / 8, none, none⟩] else []))))
  ∧ (∀ a s st o, Fires (.waitv a) s st o → (predScalarOk o.p && okScalar o.l && okScalar o.r) = true →
    let live := predOpen o.p 0 && !o.l.isNull && !o.r.isNull
    exec (.waitv a) s = .next (afterLoad s st (loadRec (.waitv a) st (.watch o.r.word (waitvTicks a.pre)) { w := 8, waitv := true } .scalar
      (nullMap 1 (fun _ => !live)) (if live then [⟨0, o.l.word, 0, 8, none, none⟩] else []))))
  ∧ (∀ a s st o, Fires (.ldref a) s st o → (predScalarOk o.p && okScalar o.l) = true → predOpen o.p 0 = true → o.l.isNull = false →
    (o.l.ref = true ∨ spaceOf o.l.word = 0 ∨ spaceOf o.l.word = 1) →
    exec (.ldref a) s = .next (afterLoad { s with free := s.free + 2 } st (loadRec (.ldref a) st
      (if o.l.ref then .refObj true false else .refWord false) { w := 8 } .scalar 0 [⟨0, o.l.word, loadOff a.pre, 8, none, none⟩])))
  ∧ (∀ a s st o, Fires (.ldrefH a) s st o → st.f.reform = false → (predScalarOk o.p && okScalar o.l) = true →
    predOpen o.p 0 = true → o.l.isNull = false → o.l.ref = false → refWordSpace o.l.word = true → ∀ parts,
    s.probe st { need := { rd := true, wr := true }, w := 8, n := 8, user := st.ex.user } [⟨0, o.l.word, loadOff a.pre, 8⟩] = .ok parts →
    ∃ ex, ex.loads = st.ex.loads ++ [loadRec (.ldrefH a) st (.refWord true) { w := 8, wr := true } .scalar 0
        [⟨0, o.l.word, loadOff a.pre, 8, none, none⟩]] ∧ ex.fired = (st.ex.markFired st.f.idx).fired
      ∧ exec (.ldrefH a) s = .next ((st.put { s with free := s.free + 2 } ex).settle st.f.c st.f.spec))

/-- R26, R116, R128, R129, R132: a store whose operands it takes and whose elements pass their probe fires, and buffers for the belay
the bytes of each element that is not null. -/
def Sys2Proof.Claims.StoresBufferTheirBytes : Prop :=
  (∀ i F, vecStoreForm i = some F → ∀ s st o, Fires i s st o →
    (predKindOk o.p && F.kinds (envOf st) o && okData (wsBytes F.ws) o.r) = true → ∀ parts,
    let live := (List.range (envOf st).vl).filter (storeLive F o)
    s.probe st (storeNeed st false (wsBytes F.ws)) (live.map (fun e => ⟨e, baseOf o.l e, F.delta o e, wsBytes F.ws⟩)) = .ok parts →
    exec i s = .next (afterStore i s st none live.length parts (live.map (fun e => (e, dataBytes (wsBytes F.ws) o.r e)))))
  ∧ (∀ i dev rel off, oneStoreForm i = some (dev, rel, off) → ∀ s st o, Fires i s st o → wholeScalars i o = true →
    (wholeOpen i o = true → ∀ parts, s.probe st (storeNeed st dev 8) [⟨0, o.l.word, off, 8⟩] = .ok parts →
      exec i s = .next (afterStore i s st rel 1 parts [(0, fullBytes 8 o.r.val)]))
    ∧ (wholeOpen i o = false → exec i s = .next (afterStore i s st rel 0 [] [])))
  ∧ (∀ a s st o, Fires (.stm a) s st o → (predKindOk o.p && okScalar o.l && okMask o.r) = true →
    o.l.isNull = false → (List.range (envOf st).vl).any (fun e => predOpen o.p e && !o.r.nullAt e) = true → ∀ parts,
    s.probe st (storeNeed st false 1) [⟨0, o.l.word, storeOff (((envOf st).vl + 7) / 8) a.ofs5 a.imm, ((envOf st).vl + 7) / 8⟩] = .ok parts →
    exec (.stm a) s = .next (afterStore (.stm a) s st none 1 parts
      [(0, (List.range (((envOf st).vl + 7) / 8)).map (maskByte (envOf st).vl o.p o.r))]))
  ∧ (∀ a s st o, Fires (.stref a) s st o → wholeScalars (.stref a) o = true → wholeOpen (.stref a) o = true → o.l.ref = false →
    refWordSpace o.l.word = true → ∀ parts, s.probe st (storeNeed st false 8) [⟨0, o.l.word, storeOff 8 a.ofs5 a.imm, 8⟩] = .ok parts →
    exec (.stref a) s = .next (afterStore (.stref a) s st none 1 parts [(0, fullBytes 8 o.r.val)]))
  ∧ (∀ a s st o, Fires (.stk a) s st o → a.ws = .x → wholeScalars (.stk a) o = true → wholeOpen (.stk a) o = true → ∀ p,
    s.checkRefEls st.ex.pc (storeNeed st false 8) o.l.word (storeOff 8 a.ofs5 a.imm) 8 [(0, storeOff 8 a.ofs5 a.imm, 8)] = .ok [(0, p)] →
    exec (.stk a) s = .next ((st.put s (st.withEffect (.stk a) (some (.refStore a.lsid.toNat (classOf (.stk a)) 8
      [⟨0, o.l.word, storeOff 8 a.ofs5 a.imm, p.hold, natLe 8 o.r.val⟩])) none)).settle st.f.c st.f.spec))

/-- R136: an atomic whose operands it takes and whose elements pass their probe fires, and buffers its elements for the belay; the
write slots it names are reserved for its response, or receive a null result when no element is performed. -/
def Sys2Proof.Claims.AtomicsBuffer : Prop :=
  ∀ i a op three, amoForm i = some (a, op, three) → ∀ s st o, FiresNew i s st o → amoKinds (envOf st) o three = true → ∀ parts,
    let lw := amoLw (envOf st) o three
    let w := 2 ^ lw / 8
    s.probe st (amoNeed st op w) ((amoLive (envOf st) o three).map (fun e => ⟨e, baseOf o.l e, 0, w⟩)) = .ok parts →
    let ex := (st.ex.markFired st.f.idx).buffer st.f.idx (.atomic a.lsid.toNat op w a.scope a.ord (amoVec o three)
      (parts.map (fun p => ⟨p.1, p.2.ptr, p.2.place, o.r.elem lw p.1, o.t.elem lw p.1⟩)))
    let nul := if amoVec o three then Token.vector lw (List.replicate (envOf st).vl none) else Token.nullScalar
    exec i s = .next ((st.put { s with free := s.free + 2 * (amoLive (envOf st) o three).length }
      (if parts = [] then ex.deliverAll st.f.idx nul (outsAt st.f.idx i) else ex.reserve st.f.idx nul (outsAt st.f.idx i))).settle st.f.c st.f.spec)

namespace Sys2Proof.Claims

/-! ### Exits, effects and commands -/

/-- What each exit does when it is taken and whether its condition holds, or the fault it raises (R147 to R160). -/
def exitPlan (st : Site) (o : Operands) : Instr → Option (Except Raw (ExitFx × Bool))
  | .br a => some (.ok (.goto (st.target a.off.toInt), !a.f || o.l.val != 0))
  | .brCall a => some (.ok (.call (st.target a.off.toInt), !a.f || o.l.val != 0))
  | .brInd a => some (.ok (.goto o.l.word, !a.f || o.r.val != 0))
  | .brRet a => some (.ok (.ret o.l.word, !a.f || o.r.val != 0))
  | .brStrip a => some (.ok (.strip a.off.toInt, true))
  | .loop a =>
    let lc := st.ex.img.lc[a.lvl.val]
    some (if loopAct lc && loopKind lc != 0 then .ok (.loopClose a.lvl.val (a.f && o.l.val != 0) a.off.toInt, true)
      else .error (Raw.of .loopState a.lvl.val))
  | .loopc a =>
    let t := match a.trip with | some v => v.toNat | none => o.l.val
    some (if (a.trip.isSome || !o.l.isNull) && decide (2 ^ 48 ≤ t) then .error (Raw.of .loopRange (t / 2 ^ 32))
      else .ok (.loopSet a.lvl.val false a.xreg.toNat t o.r.word a.off.toInt, true))
  | .loopw a =>
    let t := match a.trip with | some v => v.toNat | none => o.l.val
    some (if (a.trip.isSome || !o.l.isNull) && (decide (2 ^ 48 ≤ t) || t = 0) then .error (Raw.of .loopRange (t / 2 ^ 32))
      else .ok (.loopSet a.lvl.val true a.xreg.toNat t o.r.word a.off.toInt, true))
  | .yield _ => some (.ok (.yield, true))
  | .rtp _ => some (if st.ex.user then .error (Raw.of .protection) else .ok (.rtp, true))
  | .fin _ => some (.ok (.fin, true))
  | _ => none

/-- An exit is taken: it was captured as taken, or its gate is open, no operand is null and its condition holds (R144, R171). -/
def exitTaken (i : Instr) (st : Site) (o : Operands) (cond : Bool) : Bool := st.f.reform || (wholeOpen i o && cond)

/-- The execution after an exit has fired. -/
def afterExit (st : Site) (taken : Bool) (fx : ExitFx) : Exec :=
  if taken then { firedEx st with taken := (firedEx st).taken ++ [(st.f.idx, fx)] } else firedEx st

/-- What an instruction that acts as one whole buffers for the belay and delivers, once its operands are scalars and it takes
effect; the fault it raises (R134, R155, R156, R161, R226, R236). -/
def wholeEffect (st : Site) (o : Operands) : Instr → Option (Except Raw (Effect × Option Token))
  | .waitc a =>
    let c := a.counts.getD ⟨0, 0, 0, 0⟩
    some (.ok (.waitc a.cls.toNat c.loads.toNat c.stores.toNat c.copies.toNat c.tiles.toNat, none))
  | .trigger _ => some (.ok (.trigger, none))
  | .setrecov a => some (.ok (.setrecov (st.target a.off.toInt), none))
  | .bar a => some (.ok (.bar a.bs a.bid.toNat (a.cnt.toNat + 1), none))
  | .csrw a =>
    let k := a.csr.toNat
    some (if csrSup k && st.ex.user then .error (Raw.of .protection k)
      else if 0x28 ≤ k ∧ k ≤ 0x2D ∧ loopKind o.l.word = 3 then .error ⟨.csrInvalid, k, none, some (st.ex.parcelAddr st.f.idx)⟩
      else .ok (.csrw k o.l.word, some (Token.scalar (csrValue st.x st.ex k))))
  | .esack _ =>
    let k := o.l.val
    let e := st.x.esAt.toList.getD k .idle
    some (if 8 ≤ k then .error (Raw.of .esIndex k)
      else if (e = .done ∨ e = .fault) ∧ ¬ st.ex.bufs.any (fun b => b.1 ≠ st.f.idx && b.2 == .esack k) then .ok (.esack k, none)
      else .error (Raw.of .esState k))
  | _ => none

/-- The unit a command goes to, its priority and length, and its two operand words; the fault of its operands (R221, R344, R348, R414). -/
def cmdForm (s : State) (st : Site) (o : Operands) : Instr → Option (CmdKind × Nat × Nat × Except Raw (Word × Word))
  | .cpy a => some (.cpyInline, a.pri.toNat, a.len.toNat,
      if !([0, 1, 3].contains (spaceOf o.l.word) && o.l.word.toNat % 32 = 0) then .error ⟨.cmdOperand, 0, none, some o.l.word⟩
      else if !([0, 1, 3].contains (spaceOf o.r.word) && o.r.word.toNat % 32 = 0) then .error ⟨.cmdOperand, 0, none, some o.r.word⟩
      else .ok (o.l.word, o.r.word))
  | .cpyRec a => some (.cpy, a.pri.toNat, 0, recordPtr o) | .cpy2 a => some (.cpy2, a.pri.toNat, 0, recordPtr o)
  | .cpy3 a => some (.cpy3, a.pri.toNat, 0, recordPtr o) | .cpyg a => some (.cpyg, a.pri.toNat, 0, recordPtr o)
  | .cpyr a => some (.cpyr, a.pri.toNat, 0, recordPtr o) | .cpyx a => some (.cpyx, a.pri.toNat, 0, recordPtr o)
  | .meshInit a => some (.meshInit, a.pri.toNat, 0, recordPtr o) | .meshAdapt a => some (.meshAdapt, a.pri.toNat, 0, recordPtr o)
  | .nbrStream a => some (.nbrStream, a.pri.toNat, 0, recordPtr o) | .colBuild a => some (.colBuild, a.pri.toNat, 0, recordPtr o)
  | .meshFree a => some (.meshFree, a.pri.toNat, 0, recordPtr o) | .mcx a => some (.mcx, a.pri.toNat, 0, recordPtr o)
  | .lbCut a => some (.lbCut, a.pri.toNat, 0, recordPtr o) | .lbMigrate a => some (.lbMigrate, a.pri.toNat, 0, recordPtr o)
  | .ghostSync a => some (.ghostSync, a.pri.toNat, 0, recordPtr o)
  | .rgLoad a => some (.rgLoad, a.pri.toNat, 0, if st.ex.user then .error (Raw.of .protection) else recordPtr o)
  | .hpEpoch a => some (.hpEpoch, a.pri.toNat, 0, if st.ex.user then .error (Raw.of .protection) else .ok (0, 0))
  | .hpRelocate a => some (.hpRelocate, a.pri.toNat, 0,
      if o.l.word = 0 then .error (Raw.of .refNull)
      else if refColour o.l.word = s.heapE % 4 ∨ refColour o.l.word = (s.heapE + 3) % 4
          ∨ (s.heapAdvancing = true ∧ refColour o.l.word = (s.heapE + 1) % 4) then .ok (o.l.word, o.r.word)
      else .error ⟨.cmdOperand, 0, none, some o.l.word⟩)
  | _ => none

/-- The slot a command is allotted: the one a capture recorded, else the lowest free one (R219, R171). -/
def cmdSlot (st : Site) : Option Nat :=
  match st.ex.esAlloc.find? (fun a => a.1 = st.f.idx) with
  | some a => some a.2
  | none => freeSlot st.x st.ex

/-- The site once its command has been allotted a slot. -/
def slotted (st : Site) (k : Nat) : Site := { st with ex := { st.ex with esAlloc := st.ex.esAlloc.filter (fun a => a.1 ≠ st.f.idx) ++ [(st.f.idx, k)] } }

/-- What an instruction asks of a router or of a mesh's home (R243, R244, R318). -/
def opForm (st : Site) (o : Operands) : Instr → Option (Except Raw Effect)
  | .rtDecl _ => some (if (spaceOf o.l.word = 0 ∨ spaceOf o.l.word = 1) ∧ o.l.val % 128 = 0 then .ok (.router (.decl o.l.word))
      else .error ⟨.routerOperand, 0, none, some o.l.word⟩)
  | .rtPush a => some (if recordOk st.x o.l.word then .ok (.router (.push a.set.toNat o.l.word (o.r.val % 2 ^ 48)))
      else .error ⟨.routerOperand, 1, none, some o.l.word⟩)
  | .rtTake a => some (if o.l.val < 256 then .ok (.router (.take a.set.toNat a.poison (if o.l.val = 0 then 255 else o.l.val)))
      else .error ⟨.routerOperand, 2, none, some o.l.word⟩)
  | .rtDone _ => some (if ¬ (natBits o.l.val 3 3 = 0 ∧ recordOk st.x (setField o.l.word 0 3 0) = true) then .error ⟨.routerOperand, 3, none, some o.l.word⟩
      else if 2 < o.r.val then .error ⟨.routerOperand, 3, none, some o.r.word⟩
      else .ok (.router (.done (setField o.l.word 0 3 0) (natBits o.l.val 0 3) o.r.val)))
  | .rtStat a => some (if o.l.val < 256 then .ok (.router (.stat o.l.val a.close)) else .error ⟨.routerOperand, 4, none, some o.l.word⟩)
  | .rtDrain a => some (.ok (.router (.drain a.set.toNat)))
  | .rtSeed _ => some (if o.l.val < 2 ^ 32 then .ok (.router (.seed o.l.val)) else .error ⟨.routerOperand, 6, none, some o.l.word⟩)
  | .meshOpen _ => some (.ok (.op (.meshOpen o.l.word) []))
  | .meshClose _ => some (.ok (.op (.meshClose o.l.word) []))
  | _ => none

/-- The execution after an instruction whose scalar result a unit will return: the effect is buffered and the write slots it names
are reserved (R27). -/
def asks (i : Instr) (st : Site) (e : Effect) : Exec := ((firedEx st).buffer st.f.idx e).reserve st.f.idx (Token.scalar 0) (outsAt st.f.idx i)

/-- What the probe of a card instruction's pointers needs (R297). -/
def cardNeeds (st : Site) : AccReq := { need := { wr := true }, w := 8, n := 8, user := st.ex.user }

end Sys2Proof.Claims

/-- R144, R147 to R152, R157, R159, R160: an exit on scalar operands fires: it is recorded as taken when its gate is open, no operand is
null and its condition holds; a loop at a level that is not active, a trip count out of range and rtp in user mode raise their fault. -/
def Sys2Proof.Claims.ExitsFire : Prop :=
  ∀ i s st o, Fires i s st o → wholeScalars i o = true → ∀ p, exitPlan st o i = some p →
    match p with
    | .ok (fx, cond) => exec i s = .next (st.put s (afterExit st (exitTaken i st o cond) fx))
    | .error r => exec i s = .next (st.put s ((st.ex.raise st.f.idx r).reformed st.f.idx))

/-- R153, R154: br.es goes to its target when the slot shows DONE (FAULT with F = 1), else falls through; a number that is no slot raises
ES_INDEX. -/
def Sys2Proof.Claims.BranchOnEngineSlot : Prop :=
  ∀ a s st o, Fires (.brEs a) s st o → wholeScalars (.brEs a) o = true → o.l.isNull = false →
    (∀ h : o.l.val < 8,
      let hit := st.x.es[o.l.val] = (if a.f then .fault else .done)
      let t := st.put s (afterExit st (exitTaken (.brEs a) st o true) (if hit then .goto (st.target a.off.toInt) else .fall))
      exec (.brEs a) s = .next (if st.x.es[o.l.val] = .done then t.acquireAt st.x.id .engine 0 else t))
    ∧ (8 ≤ o.l.val → exec (.brEs a) s = .next (st.put s ((st.ex.raise st.f.idx (Raw.of .esIndex o.l.val)).reformed st.f.idx)))

/-- R133, R134, R155, R156, R161, R226, R236, R427: an instruction that acts as one whole on scalar operands buffers its effect for
the belay, or raises the fault of its operand; with a closed predicate it has no effect and delivers a null scalar. -/
def Sys2Proof.Claims.WholeEffectsBuffer : Prop :=
  (∀ i s st o, Fires i s st o → wholeScalars i o = true → ∀ p, wholeEffect st o i = some p →
    (predOpen o.p 0 = true → (usedTokens i o).all (fun t => !t.isNull) = true →
      match p with
      | .ok (e, t) => exec i s = .next (st.put s (st.withEffect i (some e) t))
      | .error r => exec i s = .next (st.put s ((st.ex.raise st.f.idx r).reformed st.f.idx)))
    ∧ (predOpen o.p 0 = false → exec i s = .next (st.put s (st.withEffect i none (some Token.nullScalar)))))
  ∧ (∀ a s st o, Fires (.fence a) s st o → predScalarOk o.p = true →
    exec (.fence a) s = .next ((st.put s (if predOpen o.p 0 then
        st.withEffect (.fence a) (some (.fence a.lsid.toNat a.scope (a.mask.getD 0xFFFF))) none
      else st.withEffect (.fence a) none (some Token.nullScalar))).settle st.f.c st.f.spec))

/-- R161, R120: csrr delivers the register's value; a supervisor register in user mode raises PROTECTION; a read of es that shows DONE is
an acquire at ENGINE scope. -/
def Sys2Proof.Claims.CsrReads : Prop :=
  ∀ a s st o, Fires (.csrr a) s st o → predScalarOk o.p = true →
    (predOpen o.p 0 = false → exec (.csrr a) s = .next (st.put s (st.delivers (.csrr a) Token.nullScalar)))
    ∧ (predOpen o.p 0 = true → csrSup a.csr.toNat = true → st.ex.user = true →
        exec (.csrr a) s = .next (st.put s (st.ex.raise st.f.idx (Raw.of .protection a.csr.toNat))))
    ∧ (predOpen o.p 0 = true → (csrSup a.csr.toNat = false ∨ st.ex.user = false) →
        let t := st.put s (st.delivers (.csrr a) (Token.scalar (csrValue st.x st.ex a.csr.toNat)))
        exec (.csrr a) s = .next (if a.csr = 0x40 ∧ EsState.done ∈ st.x.es.toList then t.acquireAt st.x.id .engine 0 else t))

/-- R219 to R221, R344, R348, R412, R414: an engine command on scalar operands is allotted the lowest es slot that is free, buffered for
the belay, and delivers the slot's number; with no free slot it raises ES_FULL; a null operand or a closed predicate makes no command. -/
def Sys2Proof.Claims.CommandsBuffer : Prop :=
  ∀ i s st o, Fires i s st o → wholeScalars i o = true → ∀ kind pri len p, cmdForm s st o i = some (kind, pri, len, p) →
    (wholeOpen i o = false → exec i s = .next (st.put s (st.withEffect i none (some Token.nullScalar))))
    ∧ (wholeOpen i o = true → ∀ p0 p1, p = .ok (p0, p1) →
        (∀ k, cmdSlot st = some k → exec i s = .next (st.put s ((slotted st k).withEffect i
            (some (.cmd ⟨kind, pri, p0, p1, len, k, st.ex.user⟩)) (some (Token.scalar k)))))
        ∧ (cmdSlot st = none → exec i s = .next (st.put s ((st.ex.raise st.f.idx (Raw.of .esFull)).reformed st.f.idx))))
    ∧ (wholeOpen i o = true → ∀ r, p = .error r → exec i s = .next (st.put s ((st.ex.raise st.f.idx r).reformed st.f.idx)))

/-- R243, R244, R318: a router command, mesh.open and mesh.close on scalar operands buffer their request for the belay and reserve their
write slot; an operand that fails its check raises ROUTER_OPERAND with the SUB as DETAIL. -/
def Sys2Proof.Claims.UnitRequestsBuffer : Prop :=
  ∀ i s st o, Fires i s st o → wholeScalars i o = true → ∀ p, opForm st o i = some p →
    (wholeOpen i o = false → exec i s = .next (st.put s (st.withEffect i none (some Token.nullScalar))))
    ∧ (wholeOpen i o = true → match p with
        | .ok e => exec i s = .next (st.put s (asks i st e))
        | .error r => exec i s = .next (st.put s ((st.ex.raise st.f.idx r).reformed st.f.idx)))

/-- R297: a card, future or job instruction on scalar operands that pass its checks and its probe buffers its request for the belay. -/
def Sys2Proof.Claims.CardInstructionsBuffer : Prop :=
  (∀ a s st o, Fires (.cardPost a) s st o → wholeScalars (.cardPost a) o = true → wholeOpen (.cardPost a) o = true →
    o.r.val / 2 ^ 23 = 0 → ¬ (selOwn o.r.val = true ∧ natBits o.r.val 0 9 ≠ 0) →
    (if selPeer o.r.val then spaceOf o.l.word = 4 ∧ chipOf o.l.word = selChip o.r.val ∧ o.l.val % 64 = 0
        ∧ groupOf (selChip o.r.val) = groupOf s.chip
      else cardForm o.l.word = true) →
    ∀ parts, s.probe st (cardNeeds st) [⟨0, o.l.word, 0, 8⟩] = .ok parts →
    exec (.cardPost a) s = .next (st.put { s with free := s.free + 2 } (asks (.cardPost a) st
      (.op (.cardPost o.l.word o.r.val) (parts.filterMap (fun p => p.2.place.hold))))))
  ∧ (∀ a s st o, Fires (.cardSig a) s st o → wholeScalars (.cardSig a) o = true → wholeOpen (.cardSig a) o = true →
    cardForm o.l.word = true → ∀ parts, s.probe st (cardNeeds st) [⟨0, o.l.word, 0, 8⟩] = .ok parts →
    exec (.cardSig a) s = .next (st.put { s with free := s.free + 2 } (asks (.cardSig a) st
      (.op (.cardSig o.l.word) (parts.filterMap (fun p => p.2.place.hold))))))
  ∧ (∀ a s st o, Fires (.futWait a) s st o → wholeScalars (.futWait a) o = true → wholeOpen (.futWait a) o = true →
    futForm o.l.word = true → cardForm (quarterCard o.r.word) = true → natBits o.r.val 0 4 = 0 → natBits o.r.val 4 2 < 2 →
    ∀ p q, s.probe st (cardNeeds st) [⟨0, o.l.word, 0, 8⟩, ⟨0, o.r.word, 0, 8⟩] = .ok [p, q] →
    exec (.futWait a) s = .next (st.put { s with free := s.free + 4 } (asks (.futWait a) st
      (.op (.futWait o.l.word o.r.word p.2.place) ([p, q].filterMap (fun t => t.2.place.hold))))))
  ∧ (∀ a s st o, Fires (.futSet a) s st o → wholeScalars (.futSet a) o = true → wholeOpen (.futSet a) o = true →
    futForm o.l.word = true → ∀ p, s.probe st (cardNeeds st) [⟨0, o.l.word, 0, 8⟩] = .ok [p] →
    exec (.futSet a) s = .next (st.put { s with free := s.free + 2 } (asks (.futSet a) st
      (.op (.futSet o.l.word o.r.word a.fail p.2.place) ([p].filterMap (fun t => t.2.place.hold))))))
  ∧ (∀ a s st o, Fires (.jobq a) s st o → wholeScalars (.jobq a) o = true → wholeOpen (.jobq a) o = true →
    1 ≤ o.l.val → o.l.val ≤ 255 → exec (.jobq a) s = .next (st.put s (asks (.jobq a) st (.op (.jobq o.l.val) []))))

/-- R345 to R347: pin, unpin, refeq and hp.make on scalar operands that pass their checks and probes buffer their request for the
belay; pin and unpin of a null reference raise REF_NULL. -/
def Sys2Proof.Claims.HeapInstructionsBuffer : Prop :=
  (∀ a s st o, Fires (.pin a) s st o → wholeScalars (.pin a) o = true → wholeOpen (.pin a) o = true →
    (o.l.word = 0 → exec (.pin a) s = .next (st.put s ((st.ex.raise st.f.idx (Raw.of .refNull)).reformed st.f.idx)))
    ∧ (o.l.word ≠ 0 → ∀ hs, s.probeRef st.ex.user o.l.word = .ok hs →
        exec (.pin a) s = .next (st.put { s with free := s.free + 2 } (asks (.pin a) st (.op (.pin o.l.word) hs)))))
  ∧ (∀ a s st o, Fires (.unpin a) s st o → wholeScalars (.unpin a) o = true → wholeOpen (.unpin a) o = true →
    (o.l.word = 0 → exec (.unpin a) s = .next (st.put s ((st.ex.raise st.f.idx (Raw.of .refNull)).reformed st.f.idx)))
    ∧ (o.l.word ≠ 0 → ∀ hs, s.probeRef st.ex.user o.l.word = .ok hs →
        exec (.unpin a) s = .next (st.put { s with free := s.free + 2 } (asks (.unpin a) st (.op (.unpin o.l.word) hs)))))
  ∧ (∀ a s st o, Fires (.refeq a) s st o → wholeScalars (.refeq a) o = true → wholeOpen (.refeq a) o = true → ∀ ha hb,
    (if o.l.word = 0 then ha = [] else s.probeRef st.ex.user o.l.word = .ok ha) →
    (if o.r.word = 0 then hb = [] else s.probeRef st.ex.user o.r.word = .ok hb) →
    exec (.refeq a) s = .next (st.put { s with free := s.free + 2 } (asks (.refeq a) st (.op (.refeq o.l.word o.r.word) (ha ++ hb)))))
  ∧ (∀ a s st o, Fires (.hpMake a) s st o → wholeScalars (.hpMake a) o = true → wholeOpen (.hpMake a) o = true → a.size16 ≠ 0 →
    spaceOf o.r.word = 2 → (spaceOf o.l.word = 0 ∨ spaceOf o.l.word = 1) → o.l.word.toNat % 8 = 0 → refColour o.r.word = 0 →
    natBits o.r.word.toNat 0 4 = 0 → ∀ k p q, s.heapPlace { need := { wr := true }, w := 16, n := 16, user := st.ex.user } (refHint o.r.word) (refHa o.r.word) = .ok (k, p) →
    s.probe st (cardNeeds st) [⟨0, o.l.word, 0, 8⟩] = .ok [q] →
    exec (.hpMake a) s = .next (st.put { s with free := s.free + 2 } (asks (.hpMake a) st
      (.op (.hpMake o.l.word o.r.word q.2.place (16 * a.size16.toNat)) (p.hold.toList ++ q.2.place.hold.toList)))))

namespace Sys2Proof.Claims

/-! ### Matrix instructions -/

/-- The operands and the descriptor with which a matrix instruction fires (R190, R195, R198, R200, R203, R213). -/
def mxAccepts (st : Site) (o : Operands) : Instr → Option Bool
  | .tz _ | .ldt _ | .stt _ => some (predScalarOk o.p && okScalar o.l && okScalar o.r)
  | .scld a => some (predScalarOk o.p && okScalar o.l && okScalar o.r && decide (a.e0.toNat + a.cnt.toNat ≤ 255))
  | .opa a => some (descOk (envOf st) a.ds useTwo (fun d => (mxPack d).isSome && d.rm != 5 && mxScaleOk d false)
      && ((descOf (envOf st) a.ds).fd != 8 || (a.td.toNat % 2 == 0 && decide (a.td.toNat + 1 < st.x.tiles.length)))
      && predKindOk o.p && okVec 6 o.l && okVec 6 o.r)
  | .mvvt a => some (predKindOk o.p && okVec (if a.pair then 6 else 5) o.l)
  | .mvtv a => some (predKindOk o.p && decide ((envOf st).vl * accW a.pair ≤ 2048))
  | .gemmT a | .gemmTPair a => some (descOk (envOf st) a.ds useTwo (fun d => (mxPack d).isSome && d.rm != 5 && mxScaleOk d true)
      && ((descOf (envOf st) a.ds).fd != 8 || (a.td.toNat % 2 == 0 && decide (a.td.toNat + 1 < st.x.tiles.length)))
      && predScalarOk o.p && okScalar o.l && okScalar o.r)
  | .cholT a | .trsmT a | .syrkT a | .qrT a =>
    some (descOk (envOf st) a.ds useTwo (fun d => d.fa == 8 && d.fb == 8 && d.fd == 8 && d.rm != 5 && d.scl == 0)
      && predScalarOk o.p && okScalar o.l && okScalar o.r)
  | _ => none

/-- A strand that is active and runs an execution. -/
abbrev Running (s : State) (c : Nat) (x : Ctx) (ex : Exec) : Prop := s.ctx? c = some x ∧ x.place = .active ∧ x.cur = some ex

/-- A matrix instruction is due to be applied with these operands (R191). -/
abbrev DueMatrix (s : State) (c k : Nat) (x : Ctx) (ex : Exec) (i : Instr) (v : Operands) : Prop :=
  Running s c x ex ∧ ex.mxDue k = true ∧ ex.instr? k = some i ∧ ex.operands k (slotsOf i) = some v

/-- The machine with a strand's execution replaced. -/
def withExec (s : State) (x : Ctx) (ex : Exec) : State := s.setCtx { x with cur := some ex }

/-- A sequencer that is granted a step now, with its instruction and operands (R186, R194). -/
abbrev GrantedStep (s : State) (c : Nat) (x : Ctx) (ex : Exec) (q : MxSeq) (i : Instr) (v : Operands) : Prop :=
  Running s c x ex ∧ ex.mx.seq = some q ∧ s.granted x = true ∧ ex.instr? q.idx = some i ∧ ex.operands q.idx (slotsOf i) = some v

/-- The result of a step that computed: the tile elements and the flags it holds, and the sequence advanced or ended (R194). -/
def stepped (ex : Exec) (q : MxSeq) (td : Nat) (pair : Bool) (r : StepOut) : Exec :=
  let e := { ex.setElems td pair r.els with mx := { (ex.setElems td pair r.els).mx with flags := ex.mx.flags ||| r.fl } }
  if q.step + 1 = q.total then e.mxApplied q.idx else { e with mx := { e.mx with seq := some { q with step := q.step + 1 } } }

end Sys2Proof.Claims

/-- R190, R195, R198: a matrix instruction whose operands and descriptor it accepts fires, and its operands stay captured until it is
applied; one that was passed over before raises MX_ORDER with the lowest higher index that has been applied. -/
def Sys2Proof.Claims.MatrixInstructionsFire : Prop :=
  ∀ i s st o, Fires i s st o → ∀ b, mxAccepts st o i = some b →
    (st.ex.mx.passed.getLsbD st.f.idx = false → b = true → exec i s = .next (st.put s (st.ex.markFired st.f.idx)))
    ∧ (st.ex.mx.passed.getLsbD st.f.idx = true → ∀ k, k < 64 → st.f.idx < k → st.ex.mx.applied.getLsbD k = true →
        (∀ j, st.f.idx < j → j < k → st.ex.mx.applied.getLsbD j = false) →
        exec i s = .next (st.put { s with free := s.free + 1 } (st.ex.raise st.f.idx (Raw.of .mxOrder k))))

/-- R191, R199, R200, R201: applying a matrix instruction. tz zeroes its windows of the working image, mvvt writes the live elements of
its row or column, mvtv delivers its row or column, ldt loads 32 rows; opa and the solvers begin their steps. -/
def Sys2Proof.Claims.MatrixApplied : Prop :=
  (∀ s c k x ex a v, DueMatrix s c k x ex (.tz a) v → wholeOpen (.tz a) v = true →
    exec (.matrixApply c k) s = .next (withExec s x ((if a.pair then (ex.setTile a.td.toNat 0).setTile (a.td.toNat + 1) 0
      else ex.setTile a.td.toNat 0).mxApplied k)))
  ∧ (∀ s c k x ex a v, DueMatrix s c k x ex (.mvvt a) v →
    exec (.matrixApply c k) s = .next (withExec s x ((ex.setElems a.td.toNat a.pair
      (((List.range (min ex.img.vl 32)).filter (fun e => predOpen v.p e && !v.l.nullAt e)).foldl
        (fun l e => l.set (moveEl a e) (v.l.elem (if a.pair then 6 else 5) e)) (s.tileElems x ex a.td.toNat a.pair))).mxApplied k)))
  ∧ (∀ s c k x ex a v, DueMatrix s c k x ex (.mvtv a) v →
    exec (.matrixApply c k) s = .next (withExec s x ((ex.deliverAll k (Token.vector (if a.pair then 6 else 5)
      ((List.range ex.img.vl).map (fun e => if decide (e < 32) && predOpen v.p e then
        some ((s.tileElems x ex a.td.toNat a.pair).getD (moveEl a e) 0) else none))) (outsAt k (.mvtv a))).mxApplied k)))
  ∧ (∀ s c k x ex a v, DueMatrix s c k x ex (.ldt a) v → wholeOpen (.ldt a) v = true → ∀ ps bs,
    s.mxCheck x ex.user false (tileRows a v) = .ok ps → s.mxClear x ex ps = true → s.mxHeld x ps = false → s.mxBad ps = none →
    bs = ps.flatMap (fun p => memReadN s.mem p.place.key p.n) →
    exec (.matrixApply c k) s = .next (withExec s x ((ex.setElems a.td.toNat a.pair (chunk (accW a.pair / 8) 1024 bs)).mxApplied k)))
  ∧ (∀ s c k x ex a v, DueMatrix s c k x ex (.opa a) v → (∀ b t, v.p = some (b, t) → t.wide = true ∨ predOpen v.p 0 = true) →
    s.noSlot x.core x.slot = false →
    exec (.matrixApply c k) s = .next (withExec s x { ex with mx := { ex.mx with seq := some ⟨k, 0, 1, [], [], []⟩ } }))
  ∧ (∀ s c k x ex i v, DueMatrix s c k x ex i v → isMatrix i = true → wholeOpen i v = false →
    (∀ a, i ≠ .mvvt a) → (∀ a, i ≠ .mvtv a) → (∀ a, i ≠ .opa a) →
    exec (.matrixApply c k) s = .next (withExec s x (ex.mxApplied k)))

/-- R199: after tz has been applied, every element of the windows it names is 0, and the other windows hold what they held. -/
def Sys2Proof.Claims.TileZeroed : Prop :=
  ∀ s c k x ex a v, DueMatrix s c k x ex (.tz a) v → k < 64 → wholeOpen (.tz a) v = true →
    ∃ t y e, exec (.matrixApply c k) s = .next t ∧ t.ctx? c = some y ∧ y.cur = some e ∧ e.mxPast k = true
      ∧ t.tile y e a.td.toNat = 0 ∧ (a.pair = true → t.tile y e (a.td.toNat + 1) = 0)
      ∧ (∀ w, w ≠ a.td.toNat → (a.pair = true → w ≠ a.td.toNat + 1) → t.tile y e w = s.tile x ex w)

/-- R194, R205, R208, R214 to R217: a granted step of opa or of an unscaled gemm.t that meets no fault puts its elements into the working
image and holds its flags; every step that need not wait completes, and one whose fault arises ends the sequence. -/
def Sys2Proof.Claims.MatrixSteps : Prop :=
  (∀ s c x ex q a v r, GrantedStep s c x ex q (.opa a) v →
    mxStep (ex.env x q.idx).fe (Desc.ofWord ((ex.env x q.idx).d.getD a.ds.toNat 0)) a.ds.toNat a.neg (ex.scaleAt x)
      ((mxPack (Desc.ofWord ((ex.env x q.idx).d.getD a.ds.toNat 0))).getD 1) 0 (opaLanes (ex.env x q.idx).vl v.p v.l)
      (opaLanes (ex.env x q.idx).vl none v.r)
      (s.tileElems x ex a.td.toNat (decide ((Desc.ofWord ((ex.env x q.idx).d.getD a.ds.toNat 0)).fd = 8))) = .ok r → r.trap = none →
    exec (.matrixStep c) s = .next (withExec s x (stepped ex q a.td.toNat
      (decide ((Desc.ofWord ((ex.env x q.idx).d.getD a.ds.toNat 0)).fd = 8)) r)))
  ∧ (∀ s c x ex q a v e, GrantedStep s c x ex q (.gemmT a) v →
    ((s.gemmStep x ex q a v none).1 = .bad e ∨ ∃ l, (s.gemmStep x ex q a v none).1 = .ok e l) →
    exec (.matrixStep c) s = .next (withExec s x e))
  ∧ (∀ s c x ex q i a v e, GrantedStep s c x ex q i v → (i = .cholT a ∨ i = .trsmT a ∨ i = .syrkT a ∨ i = .qrT a) →
    (s.solverStep x ex q i a = .bad e ∨ ∃ l, s.solverStep x ex q i a = .ok e l) →
    exec (.matrixStep c) s = .next (withExec s x e))

/-- R191: when nothing can fire, nothing is outstanding and fired matrix instructions wait behind unfired ones, every matrix instruction
that has not fired is passed over. -/
def Sys2Proof.Claims.MatrixPassedOver : Prop :=
  ∀ s c k x ex, Running s c x ex → ex.canFire = false → ex.loads = [] → ex.mx.seq = none → ex.mxBusy = true →
    (∀ t ∈ ex.matrices, ex.mxDue t.1 = false) → (∃ i, (k, i) ∈ ex.matrices) → ex.done k = false → ex.mxPast k = false →
    ∃ ex', exec (.matrixPassOver c k) s = .next (withExec s x ex')
      ∧ (∀ t ∈ ex.matrices, t.1 < 64 → ex.done t.1 = false → ex'.mxPast t.1 = true)
      ∧ ex'.mx.applied = ex.mx.applied ∧ ex'.fired = ex.fired ∧ ex'.toks = ex.toks

/-- R239, R389: 65,536 ac of its matrix array after one side of a roped pair has posted alone, the side that waits raises PAIR_TIMEOUT and the channel is LATE. -/
def Sys2Proof.Claims.PairTimerExpires : Prop :=
  ∀ s ch p, s.pair? ch = some p → p.stage = .half → s.pairLate p = true →
    exec (.pairTimerExpire ch) s =
      .next ((p.sides.foldl (fun t d => t.pairRaise d.ctx .pairTimeout) s).setPair { p with stage := .late, sides := [] })

/-- R322, R330: nbr.ld and nbr.ld2 send their query at once with the cells that are not null, or deliver at once when there are none;
vsadd.col sends the reads of its targets, which must be distinct. -/
def Sys2Proof.Claims.StripQueriesFire : Prop :=
  (∀ i face two q s st o, ((∃ a, i = .nbrLd a ∧ face = a.face.toNat ∧ two = false ∧ q = 0)
        ∨ (∃ a, i = .nbrLd2 a ∧ face = a.face.toNat ∧ two = true ∧ q = a.q.toNat)) →
    Fires i s st o → (predKindOk o.p && okScalar o.l && okVec 6 o.r) = true → (envOf st).vl * 64 ≤ 2048 →
    let live := (List.range (envOf st).vl).filter (fun e => predOpen o.p e && !o.l.isNull && !o.r.nullAt e)
    live ≠ [] → ∃ ex, ex.fired = (st.ex.markFired st.f.idx).fired ∧ ex.toks = st.ex.toks ∧ ex.loads.length = st.ex.loads.length + 1
      ∧ exec i s = .next ((st.put s ex).send (.ctx st.x.id) 15
          (.opRead st.ex.serial st.f.idx 0 (.nbr o.l.word face two q (live.map (fun e => (e, o.r.elem 6 e)))))))
  ∧ (∀ a s st o, Fires (.vsaddCol a) s st o → (predKindOk o.p && o.l.wide && okBase o.l && okVec 6 o.r) = true →
    descOk (envOf st) a.ds useTwo vsaddDesc = true → (envOf st).lsew = 6 →
    let live := (List.range (envOf st).vl).filter (fun e => predOpen o.p e && !o.l.nullAt e && !o.r.nullAt e)
    (live = [] → exec (.vsaddCol a) s = .next (st.put s ((firedEx st).buffer st.f.idx (.vsadd []))))
    ∧ (∀ ps : List Part, live ≠ [] → ps.length = live.length → (∀ e ∈ live, spaceOf (baseOf o.l e) ≤ 1) →
        (∀ e ∈ live, ∀ q ∈ live, baseOf o.l q = baseOf o.l e → q = e) →
        s.checkEls st.x.wins { need := { rd := true, wr := true }, w := 8, n := 8, user := st.ex.user } s.free
          (live.map (fun e => ⟨e, baseOf o.l e, 0, 8⟩)) = (live.zip ps).map (fun t => (⟨t.1, baseOf o.l t.1, 0, 8⟩, .ok [t.2])) →
        ∃ ex, ex.fired = (firedEx st).fired ∧ exec (.vsaddCol a) s = .next ((st.put { s with free := s.free + 2 * live.length } ex).sendReads
          st.x.id 15 ((live.zip ps).map (fun t => loadBody st.ex.serial st.f.idx false none t.2 [t])))))

namespace Sys2Proof.Claims

/-! ### The life of a pitch -/

/-- The registers that the write slots of a pitch and the stride of its loop give a strand (R18, R146, R149), beside the values that the
exit and the control-register writes leave. -/
def belayed (x : Ctx) (ex : Exec) (fx : ExitFx) : Ctx := (x.afterPitch ex fx).1.applyWrites (ex.writes (x.afterPitch ex fx).2)

/-- A pitch that has reached quiescence with one exit taken and has buffered nothing. -/
def PlainBelay (s : State) (c : Nat) (x : Ctx) (ex : Exec) (n : Nat) (fx : ExitFx) : Prop :=
  Running s c x ex ∧ ex.decided = true ∧ ex.taken = [(n, fx)] ∧ ex.bufs = [] ∧ ex.reserved = [] ∧ ex.mx.tiles = [] ∧ ex.mx.stt = []
    ∧ ex.mx.scale = [] ∧ x.pend = [] ∧ x.spec = none

/-- A strand at the end of a pitch: nothing can fire, no matrix instruction runs and no load is outstanding or unsent (R23). -/
def Quiet (s : State) (c : Nat) (x : Ctx) (ex : Exec) : Prop :=
  Running s c x ex ∧ ex.decided = false ∧ ex.canFire = false ∧ ex.mxBusy = false ∧ ex.loads = []

/-- A pitch that a strand may enter: its waits are over and the words at `pc` decode (R37, R58, R236). -/
def Enters (s : State) (c : Nat) (x0 x : Ctx) (pc : Word) : Prop :=
  s.ctx? c = some x0 ∧ x0.next = some pc ∧ s.entryDue x0 = true ∧ (s.enter x0 pc).ctx? c = some x

/-- The answer `v` of a router command is the token of a record that rt.take delivers (R252). -/
def tookRecord (r : RtReq) (v : Word) : Bool :=
  match r with
  | .take _ _ _ => v != 0
  | _ => false

/-- An operation on a future (R298). -/
def futureOp : OpReq → Bool
  | .futWait .. | .futSet .. => true
  | _ => false

/-- The answer of one request of a plain load of an execution that still waits for it (R124). -/
def PlainResponse (s : State) (m : Nat) (msg : Msg) (c : Nat) (x : Ctx) (ex : Exec) (ld : LoadRec) : Prop :=
  s.msg? m = some msg ∧ msg.id = m ∧ msg.src = .ctx c ∧ s.ctx? c = some x ∧ x.cur = some ex
    ∧ (∃ els ptr place n cache acq, msg.body = .load ex.serial ld.idx els ptr place n cache acq)
    ∧ ex.loads.find? (fun k => k.idx = ld.idx) = some ld ∧ ld.kind = .plain

end Sys2Proof.Claims

/-- R37, R39, R58: a strand whose waits are over enters the pitch at its next address: the header and instructions decoded there run on
the strand's values, the read map delivers its registers, and nothing has fired. -/
def Sys2Proof.Claims.PitchEntered : Prop :=
  ∀ s c x0 x pc lines h content at1 a b p, Enters s c x0 x pc → x.charged = [] →
    (s.enter x0 pc).decodeHead ((s.enter x0 pc).decMode x) pc = .ok (lines, h, content, at1, a, b) → x.loopRuns pc h = .ok true →
    decodeRest ((s.enter x0 pc).decMode x) pc lines h content at1 = .ok p → x.readsPending p.hdr = false →
    ∃ t y ex, exec (.pitchEntry c) s = .next t ∧ t.ctx? c = some y ∧ y.cur = some ex ∧ y.next = none ∧ y.spec = none ∧ y.pc = x.pc
      ∧ ex.pc = pc ∧ ex.hdr = p.hdr ∧ ex.code = p.code.map (fun t => (t.1, t.2.1, t.2.2.2)) ∧ ex.fired = 0 ∧ ex.img = x.startImage ∧ ex.user = !x.sup ∧ ex.taken = [] ∧ ex.bufs = []
      ∧ ex.toks = ((Exec.start (s.enter x0 pc).nextId pc p x (!x.sup)).readRegs x (fun _ => false)).toks
      ∧ t.mem = s.mem

/-- R150: a pitch that its loop level does not run is skipped: the strand's next pitch is its fall-through. -/
def Sys2Proof.Claims.LoopPitchSkipped : Prop :=
  ∀ s c x0 x pc lines h content at1 a b, Enters s c x0 x pc → x.charged = [] →
    (s.enter x0 pc).decodeHead ((s.enter x0 pc).decMode x) pc = .ok (lines, h, content, at1, a, b) → x.loopRuns pc h = .ok false →
    exec (.pitchEntry c) s = .next ({ s.enter x0 pc with free := (s.enter x0 pc).free + 8 }.setCtx { x with next := some (lineAt pc lines) })

/-- R57, R58, R173: a pitch whose words do not decode discards the strip: fc, fa and fb record the fault and the strand goes to its
recovery pitch, or retires in error when it has none. -/
def Sys2Proof.Claims.EntryFaultDiscards : Prop :=
  ∀ s c x0 x pc f, Enters s c x0 x pc → (s.enter x0 pc).decodeHead ((s.enter x0 pc).decMode x) pc = .error f → f.recov = false →
    ∃ t y, exec (.pitchEntry c) s = .next t ∧ t.ctx? c = some y ∧ y.fc = fcWord f false x.intrap x.sup ∧ y.fa = f.fa ∧ y.fb = x.sb
      ∧ y.cur = none ∧ (x.intrap = false → x.fr ≠ 0 → y.next = some x.fr ∧ y.fr = 0 ∧ y.retiring = x.retiring)
      ∧ ((x.intrap = true ∨ x.fr = 0) → y.next = none ∧ y.retiring = some true)

/-- R29, R30: a strand may begin the pitch that its one taken exit leads to before the pitch belays; it is speculative, and the strand's
own registers and current pitch stay as they are. -/
def Sys2Proof.Claims.SpeculationStarts : Prop :=
  ∀ s c x ex n fx pc p, Running s c x ex → ex.taken = [(n, fx)] → x.spec = none → ex.decided = false → x.pend = [] → x.charged = [] →
    ex.endsSpec = false → (x.afterPitch ex fx).1.next = some pc → { s with free := s.free + 1 }.decodePitch (s.decMode x) pc = .ok p →
    p.hdr.lkind = 0 →
    ∃ sp, sp.pc = pc ∧ sp.fired = 0 ∧ sp.hdr = p.hdr ∧ sp.adds = (x.afterPitch ex fx).2
      ∧ exec (.speculativeStart c) s = .next ({ s with nextId := s.nextId + 1, free := s.free + 9 }.setCtx { x with spec := some sp })

/-- R25, R124: the data of the last outstanding element of a load delivers its token to the instruction's targets. -/
def Sys2Proof.Claims.LoadResponseDelivers : Prop :=
  ∀ s m msg c x ex ld bs e, PlainResponse s m msg c x ex ld → msg.resp = some (.data bs) → msg.body.loadKey = some (ex.serial, ld.idx, e) →
    let ld1 := ld.fill msg.body e ((s.dropMsg m).respBytes ex ld msg.body bs)
    (ld1.complete = true → exec (.loadResponse m) s = .next (((s.dropMsg m).setCtx { x with cur := some (ex.finishLoad ld1) }).settle c false))
    ∧ (ld1.complete = false → exec (.loadResponse m) s = .next ((s.dropMsg m).setCtx { x with cur := some (ex.setLoad ld1) }))

/-- R131: a failed response of a load makes its instruction raise the response's cause once no lower element of the load is outstanding;
nothing is delivered, and its other requests are dropped. -/
def Sys2Proof.Claims.LoadResponseFaults : Prop :=
  ∀ s m msg c x ex ld cause detail, PlainResponse s m msg c x ex ld → msg.resp = some (.err cause detail) → s.lowerOut msg = false →
    ∃ (t : State) (y : Ctx) (e : Exec), exec (.loadResponse m) s = .next (t.settle c false) ∧ t.ctx? c = some y ∧ y.cur = some e
      ∧ (∃ f, e.faults = ex.faults ++ [f] ∧ f.cause = cause ∧ f.detail = detail ∧ f.idx = some ld.idx)
      ∧ e.loads = ex.loads.filter (fun k => k.idx ≠ ld.idx) ∧ e.toks = ex.toks
      ∧ (∀ a ∈ t.net, ¬ (a.src = .ctx x.id ∧ a.body.sameLoad ex.serial ld.idx = true))

/-- R135: waitv delivers the watched word once it differs from X, and delivers X once its time is over. -/
def Sys2Proof.Claims.WatchedWordReturns : Prop :=
  (∀ s m msg bs, s.msg? m = some msg → s.watchReady msg = some bs → exec (.waitvValueChange m) s = .next (s.loadReturn msg (.data bs)))
  ∧ (∀ s m msg serial idx place x deadline, s.msg? m = some msg → msg.body = .watch serial idx place x deadline true → msg.resp = none →
      s.watchReady msg = none → deadline ≤ s.ac16 (vectorIsland ((s.srcCore msg).getD 0)) → exec (.waitvTimeout m) s = .next (s.loadReturn msg (.data (natLe 8 x.toNat))))

/-- R134, R120: a wait of the strand whose four counts hold ends, as an acquire at ENGINE scope where copies or tiles were awaited. -/
def Sys2Proof.Claims.WaitcEnds : Prop :=
  ∀ s c x cls l t p q acq rest, s.ctx? c = some x → x.waits = .counts cls l t p q acq :: rest →
    (s.waitCounts x cls).1 ≤ l → (s.waitCounts x cls).2.1 ≤ t → (s.waitCounts x cls).2.2.1 ≤ p → (s.waitCounts x cls).2.2.2 ≤ q →
    exec (.waitcComplete c) s = .next (if acq then (s.setCtx { x with waits := rest }).acquireAt c .engine 0 else s.setCtx { x with waits := rest })

/-- R23, R164: a quiet pitch with one exit taken and every declared slot filled, none of whose instructions has faulted, will belay. -/
def Sys2Proof.Claims.QuiescenceDecidesBelay : Prop :=
  ∀ s c x ex n fx, Quiet s c x ex → ex.faults = [] → ex.taken = [(n, fx)] → ex.multi = false → ex.slotsFull = true →
    x.noProgress ex fx = none → exec (.pitchQuiescence c) s = .next (s.setCtx { x with cur := some { ex with decided := true } })

/-- R164: a quiet pitch that has no fault and no exit taken stalls, and one with several raises MULTI_EXIT with their number; the fault
reported first is a fatal one without an index, then the fatal one of the lowest index. -/
def Sys2Proof.Claims.QuiescenceReports : Prop :=
  (∀ (x : Ctx) (ex : Exec), ex.faults = [] → ex.taken = [] → x.pitchEnd ex = some ⟨.pitchStall, ex.pc, 0, none, none, false⟩)
  ∧ (∀ (x : Ctx) (ex : Exec), ex.faults = [] → 2 ≤ ex.taken.length → x.pitchEnd ex = some ⟨.multiExit, ex.pc, ex.taken.length, none, none, false⟩)
  ∧ (∀ (x : Ctx) (ex : Exec) f n, f ∈ ex.faults → f.recov = false → f.idx = some n → n < 64 →
      (∀ g ∈ ex.faults, g.recov = false → ∃ k, g.idx = some k ∧ (k = n → g = f) ∧ n ≤ k) → x.pitchEnd ex = some f)

/-- R169: a recoverable fault of a strand with a trap entry is delivered: the frame is written as class-15 stores of the strand, fc,
fa and ff are set, supervisor mode is entered and pc goes to the trap entry. Nothing of the pitch is kept. -/
def Sys2Proof.Claims.RecoverableTrapTaken : Prop :=
  ∀ s c x ex f pages, Quiet s c x ex → s.pairs = [] → x.pitchEnd ex = some f → f.recov = true → x.intrap = false → x.te ≠ 0 →
    s.framePages x.frame { wr := true } 16 0 = .ok pages →
    ∃ t y, exec (.pitchQuiescence c) s = .next t ∧ t.ctx? c = some y ∧ y.next = some x.te ∧ y.cur = none ∧ y.spec = none ∧ y.sup = true
      ∧ y.intrap = true ∧ y.fc = fcWord f true false x.sup ∧ y.fa = f.fa ∧ y.ff = x.frame ∧ y.vl = grantVl x.sn x.sc
      ∧ y.x = x.x ∧ y.v = x.v ∧ y.m = x.m ∧ y.d = x.d ∧ y.k = x.k ∧ y.sb = x.sb ∧ y.sn = x.sn ∧ y.sc = x.sc ∧ y.fr = x.fr
      ∧ t.net.length = s.net.length + pages.length ∧ t.mem = s.mem

/-- R170, R174: a recoverable fault in supervisor mode inside a trap is a double fault: fc shows it and the strand retires in error. -/
def Sys2Proof.Claims.DoubleFaultRetires : Prop :=
  ∀ s c x ex f, Quiet s c x ex → s.pairs = [] → x.pitchEnd ex = some f → f.recov = true → x.intrap = true →
    exec (.pitchQuiescence c) s = .next (s.setCtx { x with
      fc := fcWord f true true x.sup, fa := f.fa, cur := none, spec := none, next := none, retiring := some true })

/-- R173, R174: a fatal fault, or a recoverable one of a strand without a trap entry, discards the strip: fc, fa and fb record it and
the strand goes to its recovery pitch, whose address is cleared, or retires in error without one. -/
def Sys2Proof.Claims.FatalFaultDiscards : Prop :=
  ∀ s c x ex f, Quiet s c x ex → s.pairs = [] → x.pitchEnd ex = some f → (f.recov = false ∨ (x.intrap = false ∧ x.te = 0)) →
    exec (.pitchQuiescence c) s = .next (s.setCtx
      (if x.intrap = true ∨ x.fr = 0 then
        { x with cur := none, spec := none, fc := fcWord f false x.intrap x.sup, fa := f.fa, fb := x.sb, next := none, retiring := some true }
      else { x with cur := none, spec := none, fc := fcWord f false x.intrap x.sup, fa := f.fa, fb := x.sb, next := some x.fr, fr := 0 }))

/-- R18, R27, R146: the belay of a pitch that has buffered no effect makes its write slots architectural and leads where its exit goes;
memory, requests and cores stay as they are. -/
def Sys2Proof.Claims.BelayCommitsRegisters : Prop :=
  ∀ s c x ex n fx, PlainBelay s c x ex n fx → fx ≠ .rtp →
    ∃ t y, exec (.belay c) s = .next t ∧ t.ctx? c = some y ∧ y.cur = none ∧ y.next = (belayed x ex fx).next ∧ y.x = (belayed x ex fx).x
      ∧ y.v = (belayed x ex fx).v ∧ y.m = (belayed x ex fx).m ∧ y.d = (belayed x ex fx).d ∧ y.k = (belayed x ex fx).k
      ∧ y.sb = (belayed x ex fx).sb ∧ y.sn = (belayed x ex fx).sn ∧ y.vl = (belayed x ex fx).vl ∧ y.fx = (belayed x ex fx).fx
      ∧ y.lp = (belayed x ex fx).lp ∧ y.lc = (belayed x ex fx).lc ∧ y.retiring = (belayed x ex fx).retiring
      ∧ t.mem = s.mem ∧ t.net = s.net ∧ t.cores = s.cores ∧ (∀ d, d ≠ c → t.ctx? d = s.ctx? d)

/-- R27: the stores a pitch has buffered leave as requests at its belay, not before, and memory holds what it held until their homes
perform them. -/
def Sys2Proof.Claims.BelayReleasesStore : Prop :=
  ∀ s c x ex n k a lsid cls el, Running s c x ex → ex.decided = true → ex.taken = [(n, .goto a)] → ex.bufs = [(k, .store lsid cls none [el])] →
    lsid < 32 → ex.reserved = [] → ex.mx.tiles = [] → ex.mx.stt = [] → ex.mx.scale = [] → x.pend = [] → x.spec = none →
    ∃ t, exec (.belay c) s = .next t ∧ t.mem = s.mem
      ∧ t.net = s.net ++ [⟨s.nextId, .ctx x.id, cls, .store el.place el.data none el.ptr, none, s.nextId, s.srcEpoch (.ctx x.id), none⟩]

/-- R147, R148, R149, R152, R157, R160: what a taken exit does to the strand at the belay. -/
def Sys2Proof.Claims.ExitEffects : Prop :=
  ∀ (y : Ctx) (ex : Exec),
    (∀ a, (y.takeExit ex (.goto a)).1 = { y with next := some a })
    ∧ (∀ d, let v := ex.ffmin.getD ex.img.vl
        let z := (y.takeExit ex (.strip d)).1
        z.sb = y.sb + BitVec.ofNat 48 v ∧ z.sn.toNat = y.sn.toNat - v
          ∧ (v < y.sn.toNat → z.next = offTarget ex.pc d ∨ z.next = some ex.pc) ∧ (y.sn.toNat ≤ v → z.next = some (lineAt ex.pc ex.nlines)))
    ∧ (∀ l : Fin 6, ∀ leave d, let z := (y.takeExit ex (.loopClose l.val leave d)).1
        (ex.img.lp[l.val]).toNat + 1 < 2 ^ 48 → (z.lp[l.val]).toNat = (ex.img.lp[l.val]).toNat + 1
          ∧ (leave = true ∨ (ex.img.lp[l.val]).toNat + 1 = (ex.img.lm[l.val]).toNat → loopAct z.lc[l.val] = false ∧ z.next = some (lineAt ex.pc ex.nlines)))
    ∧ (∀ l : Fin 6, ∀ w xr trip stride d, trip ≠ 0 → trip < 2 ^ 48 → let z := (y.takeExit ex (.loopSet l.val w xr trip stride d)).1
        (z.lp[l.val]) = 0 ∧ (z.lm[l.val]).toNat = trip ∧ z.ls[l.val] = stride ∧ loopAct z.lc[l.val] = true
          ∧ loopKind z.lc[l.val] = (if w then 2 else 1) ∧ z.next = some (lineAt ex.pc ex.nlines)
          ∧ (∀ j : Fin 6, l.val < j.val → loopAct z.lc[j.val] = false))
    ∧ (y.takeExit ex .yield).1.offered = true ∧ (y.takeExit ex .yield).1.next = some (lineAt ex.pc ex.nlines)
    ∧ (y.takeExit ex .fin).1.next = none ∧ (y.takeExit ex .fin).1.retiring = some y.intrap

/-- R27, R136: the old value that an atomic returns fills the write slots that wait for it, and a pitch's registers become architectural
with the last of its answers. -/
def Sys2Proof.Claims.AtomicResponseFillsSlots : Prop :=
  ∀ s m msg c x e op w place y z sc ord ptr v, s.msg? m = some msg → msg.src = .ctx c →
    msg.body = .atomic e op w place y z sc ord ptr → msg.resp = some (.val (some v)) → s.ctx? c = some x →
    ∀ reg vl lsew wmap p, x.pend = [p] → p = ⟨[(m, 0, [reg])], [], [], vl, lsew, wmap⟩ →
    exec (.atomicResponse m) s = .next ((s.dropMsg m).setCtx { x.writeReg vl lsew reg (Token.scalar v.toNat) with pend := [] })

/-- R27, R252, R291, R307: the answer of a unit fills the write slots that wait for it, with an acquire at CLUSTER scope for a token that
rt.take delivers; jobq is answered with the job's sum over the dies; a failed answer of a future operation is reported with a null, and
that of another operation is charged to the strand. -/
def Sys2Proof.Claims.CommandResultFillsSlots : Prop :=
  (∀ s m msg c x r src v, s.msg? m = some msg → msg.src = .ctx c → msg.body = .op r src → (∀ j, r ≠ .jobq j) → msg.resp = some (.val (some v)) →
    s.ctx? c = some x →
    exec (.commandResultReturn m) s = .next ((s.dropMsg m).setCtx (x.resolve m (fun _ => some (Token.scalar v.toNat)))))
  ∧ (∀ s m msg c x j src, s.msg? m = some msg → msg.src = .ctx c → msg.body = .op (.jobq j) src → msg.resp = none → s.eligible msg = true →
    s.ctx? c = some x →
    exec (.commandResultReturn m) s = .next ((s.dropMsg m).setCtx (x.resolve m (fun _ => some (Token.scalar (BitVec.ofNat 64 (s.jobSum j)).toNat)))))
  ∧ (∀ s m msg c x r cl user v, s.msg? m = some msg → msg.src = .ctx c → msg.body = .router r cl user → msg.resp = some (.val (some v)) →
    s.ctx? c = some x →
    let t := (s.dropMsg m).setCtx (x.resolve m (fun _ => some (Token.scalar v.toNat)))
    exec (.commandResultReturn m) s = .next (if tookRecord r v then t.acquireAt c .cluster 0 else t))
  ∧ (∀ s m msg c x r src cause detail, s.msg? m = some msg → msg.src = .ctx c → msg.body = .op r src → msg.resp = some (.err cause detail) →
    s.ctx? c = some x →
    exec (.commandResultReturn m) s = .next (if futureOp r then ((s.dropMsg m).setCtx (x.resolve m (fun _ => none))).lateError x 6 r.addr cause detail
      else (s.dropMsg m).setCtx (x.lateFault m ⟨cause, r.faultAddr cause, detail, none, some src.idx, false⟩)))

/-- R291: a released store that fails posts a record on the strand's die and marks its job's cairn, and the strand goes on. -/
def Sys2Proof.Claims.StoreErrorReported : Prop :=
  ∀ s m msg c x place data rel p cause detail, s.msg? m = some msg → msg.src = .ctx c → msg.body = .store place data rel p →
    msg.resp = some (.err cause detail) → s.ctx? c = some x →
    exec (.storeResponseError m) s = .next ((s.dropMsg m).lateError x (if x.stts.any (fun t => t.2.contains m) then 3 else 1) p cause detail)

/-- R160, R174: a strand that has stopped fetching retires once no es slot shows BUSY and its releases are acknowledged: it leaves its
slot, its requests in flight are gone, and its fault registers stay to be read. -/
def Sys2Proof.Claims.StrandRetires : Prop :=
  ∀ s c x err, s.ctx? c = some x → x.retiring = some err → EsState.busy ∉ x.es.toList → (∀ m ∈ s.net, s.stillOut x m = false) →
    x.place ≠ .spilling → x.place ≠ .filling →
    UnitStep s (s.retire x err) (.unit (dieOf x.core)) (exec (.strandRetire c) s)
      ∧ (x.job = .none → (s.retire x err).ctx? c = none ∧ (∀ m ∈ (s.retire x err).net, m.src ≠ .ctx x.id)
        ∧ (s.retire x err).gone = s.gone ++ [⟨sidOf x, x.core, s.launchWord x, err, x.fc, x.fa, x.fb, x.ff⟩])

namespace Sys2Proof.Claims

/-! ### Contexts, spills and fills -/

/-- The bank beside a slot holds a ready context whose slot waits (R301): a ready bank and a blocked slot. -/
def Swappable (s : State) (core slot : Nat) (a b : Ctx) : Prop :=
  s.inSlot core slot = some a ∧ s.inBank core slot = some b ∧ b.place = .bank ∧ s.ready? b = true ∧ s.blocked a = true ∧ s.selected core slot = none
    ∧ s.ctx? a.id = some a ∧ s.ctx? b.id = some b ∧ a.id ≠ b.id

end Sys2Proof.Claims

/-- R227, R301: a slot whose context is blocked exchanges it for the ready context of its bank: the old one waits in the bank with its
speculative pitch squashed, the new one is active. An empty slot takes the ready context of its bank. -/
def Sys2Proof.Claims.SlotSwaps : Prop :=
  (∀ s core slot a b, Swappable s core slot a b → b.refill = false →
    ∃ t, exec (.contextSwap core slot) s = .next t
      ∧ t.ctx? a.id = some { a with place := .bank, offered := false, spec := none, retStack := [] }
      ∧ t.ctx? b.id = some { b with place := .active, activeSince := s.now, fillTo := none, fresh := false, refill := false, retStack := [] })
  ∧ (∀ s core slot b, s.inSlot core slot = none → s.inBank core slot = some b → b.place = .bank → s.ready? b = true → b.refill = false →
    exec (.contextSwap core slot) s =
      .next (s.setCtx { b with place := .active, activeSince := s.now, fillTo := none, fresh := false, refill := false, retStack := [] }))

/-- R302: at a quantum boundary every slot whose context has been active for a quantum and whose bank holds a ready context of no greater
priority number swaps; a core none of whose slots does so only counts the quantum. In every case the next boundary is a quantum later and
memory is as it was. -/
def Sys2Proof.Claims.QuantumEnds : Prop :=
  (∀ s core, (s.core core).quantumAt ≤ s.now → ∃ t, exec (.quantumBoundary core) s = .next t
      ∧ (t.core core).quantumAt = (s.core core).quantumAt + 100000 ∧ t.mem = s.mem ∧ t.net = s.net)
  ∧ (∀ s core slot a b, (s.core core).quantumAt ≤ s.now → slot < 8 → (s.ctxs.map (·.id)).Nodup → s.inSlot core slot = some a →
    s.inBank core slot = some b → a.activeSince + 100000 ≤ s.now → b.place = .bank → s.ready? b = true → b.pri ≤ a.pri →
    (∀ k a b, k < 8 → k ≠ slot → s.inSlot core k = some a → s.inBank core k = some b → s.now < a.activeSince + 100000) →
    exec (.quantumBoundary core) s
      = .next ((s.setCore core { s.core core with quantumAt := (s.core core).quantumAt + 100000 }).swap core slot))
  ∧ ∀ s core, (s.core core).quantumAt ≤ s.now →
    (∀ slot a b, slot < 8 → s.inSlot core slot = some a → s.inBank core slot = some b → s.now < a.activeSince + 100000) →
    exec (.quantumBoundary core) s = .next (s.setCore core { s.core core with quantumAt := (s.core core).quantumAt + 100000 })

/-- R228, R303, R305: the context that a waiting card pre-empts is asked to leave its bank, which is kept for the core's cards, and joins the
core's spill requests; so does a context in whose way a selected one stands, or which lies in another bank. -/
def Sys2Proof.Claims.SpillRequested : Prop :=
  (∀ s c x card, s.ctx? c = some x → x.wantSpill = false → x.place = .bank → s.spillFor x = false → s.cardVictim x.core = some (card, x) →
    exec (.spillRequest c) s = .next (((s.setCtx { x with wantSpill := true }).setCore x.core
      { s.core x.core with spillQ := (s.core x.core).spillQ ++ [(c, false)], kept := some (x.slot, card) }).pairReissue c))
  ∧ (∀ s c x, s.ctx? c = some x → x.wantSpill = false → s.spillFor x = true →
    exec (.spillRequest c) s = .next (((s.setCtx { x with wantSpill := true }).setCore x.core
      { s.core x.core with spillQ := (s.core x.core).spillQ ++ [(c, false)] }).pairReissue c))

/-- R228, R229: the core's spill engine, when it is free, takes the context that asked first and may be spilled; its pitch keeps its
tokens and buffered effects without their held translations, and its matrix instructions begin again. -/
def Sys2Proof.Claims.SpillStarts : Prop :=
  ∀ s c x rest, s.ctx? c = some x → (s.core x.core).spilling = none → (s.core x.core).spillQ = (c, false) :: rest → x.wantSpill = true →
    s.spillable x = true →
    ∃ t y, exec (.spillStart c) s = .next t ∧ t.ctx? c = some y ∧ y.place = .spilling ∧ (t.core x.core).spilling = some c
      ∧ y.cur.map (·.toks) = x.cur.map (·.toks) ∧ y.cur.map (·.fired) = x.cur.map (fun ex => ex.mxClearAll.fired) ∧ y.x = x.x ∧ y.v = x.v
      ∧ t.mem = s.mem

/-- R228, R229: a spill ends with the context's image written at its spill address and its tiles kept in it; the bank and the tiles are
free, and the engine can take another. -/
def Sys2Proof.Claims.SpillCompletes : Prop :=
  ∀ s c x ps, s.Canonical → s.ctx? c = some x → x.place = .spilling → s.imagePages x true = .ok ps →
    ∃ t y, exec (.spillComplete c) s = .next t ∧ t.ctx? c = some y ∧ y.place = .spilled ∧ y.wantSpill = false
      ∧ y.saved.length = x.tiles.length ∧ (t.core x.core).spilling = none ∧ y.x = x.x ∧ y.cur = x.cur
      ∧ (∀ k, (∀ p ∈ ps, k < p ∨ p + 4096 ≤ k) → memRead t.mem k = memRead s.mem k)

/-- R228, R232: a page of a spill or a fill that fails retires the context in error with SPILL_FAULT, and the engine is free. -/
def Sys2Proof.Claims.SpillAccessFails : Prop :=
  ∀ s c x a code, s.ctx? c = some x → (x.place = .spilling ∨ x.place = .filling) → s.imagePages x (x.place = .spilling) = .error (a, code) →
    ∃ t y, exec (.spillAccessFault c) s = .next t ∧ t.ctx? c = some y ∧ y.place = .bank ∧ y.retiring = some true ∧ y.next = none
      ∧ y.fc = fcWord ⟨.spillFault, a, code, none, none, false⟩ false x.intrap x.sup ∧ y.fa = a ∧ (t.core x.core).spilling = none
      ∧ t.mem = s.mem

/-- R228, R229: a spilled context whose fill is the engine's first request begins it when the bank chosen for it is empty, the engine is free
and enough tiles are: it takes the lowest free tiles. -/
def Sys2Proof.Claims.FillStarts : Prop :=
  ∀ s c x b rest, s.ctx? c = some x → (s.core x.core).spillQ = (c, true) :: rest → x.place = .spilled → s.fillBank x = some b → (s.core x.core).spilling = none → x.retiring = none →
    x.tiles.length ≤ (s.freeTiles x.core).length →
    ∃ t y, exec (.fillStart c) s = .next t ∧ t.ctx? c = some y ∧ y.place = .filling ∧ y.slot = b
      ∧ y.tiles = (s.freeTiles x.core).take x.tiles.length ∧ (t.core x.core).spilling = some c ∧ t.mem = s.mem

/-- R228, R230: a fill whose image is as the spill wrote it returns the context to its bank with its tiles; any other image retires it in
error with SPILL_IMAGE. -/
def Sys2Proof.Claims.FillCompletes : Prop :=
  ∀ s c x ps, s.ctx? c = some x → x.place = .filling → s.imagePages x false = .ok ps →
    ∃ t y, exec (.fillComplete c) s = .next t ∧ t.ctx? c = some y ∧ y.place = .bank ∧ (t.core x.core).spilling = none ∧ t.mem = s.mem
      ∧ (x.image.map (fun f => imageBytes f (4096 * ps.length)) = some (ps.flatMap (fun p => memReadN s.mem p 4096)) →
          y.refill = true ∧ y.retiring = x.retiring ∧ y.cur = x.cur ∧ ∀ p ∈ x.tiles.zip x.saved, p ∈ (t.core x.core).tiles)
      ∧ (x.image.map (fun f => imageBytes f (4096 * ps.length)) ≠ some (ps.flatMap (fun p => memReadN s.mem p 4096)) →
          y.retiring = some true ∧ y.fc = fcWord ⟨.spillImage, x.spill, 0, none, none, false⟩ false x.intrap x.sup ∧ y.fa = x.spill)

namespace Sys2Proof.Claims

/-! ### Nests, cards, futures and jobs -/

/-- A card that a core takes next, before any placement, at the place in memory where it lies, with the word that holds its state
(R292, R300, R301); no other chip holds copies of this chip's memory. -/
def DueCard (s : State) (core : Nat) (e : QEntry) (key w : Nat) : Prop :=
  headCard s.now (s.core core).queue = some e ∧ (s.freePos core true).isSome = true ∧ (s.die (dieOf core)).dstate = 0 ∧ s.placedBefore core e.entered = false ∧ Alone s
    ∧ s.cardKey false e.card = .ok key ∧ w = s.peek key 8 ∧ s.Canonical

/-- A signal, post, future operation or query in flight that its home may perform. -/
def AtHome (s : State) (m : Nat) (msg : Msg) : Prop := s.msg? m = some msg ∧ s.eligible msg = true

end Sys2Proof.Claims

/-- R281: a launch whose nest record reads well starts its walk over every die of its mask from the first iteration; a record that fails
posts NEST_FORMAT with the offset of its first failing field, starts nothing, and ends the card that launched it with its error. -/
def Sys2Proof.Claims.NestLaunches : Prop :=
  (∀ s n l ws args, s.launch? n = some l → l.started = false → (s.die l.die).dstate = 0 → s.nestRead l.ptr l.packet false = .ok (ws, args) →
    UnitStep s ((s.setLaunch { l with started := true, die := (diesOf ws).headD l.die, words := ws, args := args
                                      walks := (diesOf ws).map (fun d => (d, 0, s.now)), code := s.mem }).nestProgress n)
      (.unit l.die) (exec (.nestLaunch n) s))
  ∧ (∀ s n l ws off, s.launch? n = some l → l.started = false → (s.die l.die).dstate = 0 → ws ≠ [] → ws.getD 2 0 = 0 →
    s.nestRead l.ptr l.packet false = .error (off, ws) →
    let t := { s with launches := s.launches.filter (fun m => m.id ≠ n) }.postRecord ((diesOf ws).headD l.die)
      (record291 Cause.nestFormat.code 4 0 l.ptr l.ptr off)
    UnitStep s (match l.card with | some c => t.endCard c true | none => t) (.unit l.die) (exec (.nestLaunch n) s))

/-- R282 to R285, R301: the cox of a die places, when nothing on that core became ready before, the next iteration of the die as a strand of the core that the iteration's indices give, at the
lowest free position and with the lowest free tiles, in user mode at the record's address. -/
def Sys2Proof.Claims.CoxPlaces : Prop :=
  ∀ s die n l at_ since i slot pl no, s.launch? n = some l → l.walks.find? (fun w => w.1 = die) = some (die, at_, since) → l.started = true →
    s.placedBefore (iterCore l.words i) since = false → (∀ d, s.dispatchNow (iterCore l.words i) = some d → since ≤ d.1) →
    (s.die die).dstate = 0 → nextIter l.words l.retired die (iterations l.words - at_) at_ = some i →
    s.freePos (iterCore l.words i) false = some (slot, pl) → s.ctxNo (iterCore l.words i) l.id = some no →
    natBits (wordAt l.words 1) 16 4 ≤ (s.freeTiles (iterCore l.words i)).length →
    ∃ t x, exec (.coxPlace die n) s = .next t ∧ x ∈ t.ctxs ∧ x.id = s.nextId ∧ x.core = iterCore l.words i ∧ x.slot = slot ∧ x.place = pl
      ∧ x.job = .nest l.id i ∧ x.ctxno = no ∧ x.pri = natBits (wordAt l.words 1) 8 2 ∧ x.next = some (l.words.getD 0 0) ∧ x.sup = false
      ∧ x.sb = BitVec.ofNat 48 (wordAt l.words 4) ∧ x.sn = BitVec.ofNat 48 (wordAt l.words 5) ∧ x.sc = l.words.getD 6 0
      ∧ x.vl = grantVl x.sn x.sc ∧ x.te = l.words.getD 7 0 ∧ x.sl = BitVec.ofNat 64 ((i + 1) * 0x9E3779B97F4A7C15)
      ∧ x.tiles = (s.freeTiles (iterCore l.words i)).take (natBits (wordAt l.words 1) 16 4)
      ∧ t.ctxs.length = s.ctxs.length + 1 ∧ t.mem = s.mem

/-- R293, R301: the first card of a core with a free position becomes RUNNING. A TASK runs as a strand of the core with the card's
argument in x1 and its error in x2, a COMMAND as a command of the copy engines, and a NEST as a launch; a TASK whose record is bad ends with
an error. -/
def Sys2Proof.Claims.CardsDispatched : Prop :=
  (∀ s core e key w ws args slot pl no, DueCard s core e key w → natBits w 0 2 = 0 →
    s.nestRead (BitVec.ofNat 64 (s.peek (key + 8) 8)) [] true = .ok (ws, args) → s.freePos core true = some (slot, pl) →
    s.ctxNo core s.nextId = some no → natBits (wordAt ws 1) 16 4 ≤ (s.freeTiles core).length →
    ∃ t x, exec (.cardDispatch core) s = .next t ∧ x ∈ t.ctxs ∧ x.job = .card s.nextId ∧ x.core = core ∧ x.slot = slot ∧ x.place = pl
      ∧ x.pri = e.effPri s.now ∧ x.next = some (ws.getD 0 0) ∧ x.x[1] = BitVec.ofNat 64 (s.peek (key + 16) 8)
      ∧ x.x[2] = BitVec.ofNat 64 (natBit w 11) ∧ ⟨s.nextId, e.card, core, e.job, false, false, s.mem⟩ ∈ t.running
      ∧ t.peek key 8 = cardPut w 2 (cardCount w) false)
  ∧ (∀ s core e key w, DueCard s core e key w → natBits w 0 2 = 1 →
    ∃ t, ∃ c ∈ t.cmds, exec (.cardDispatch core) s = .next t ∧ c.card = some s.nextId ∧ c.req.p0 = BitVec.ofNat 64 (s.peek (key + 8) 8)
      ∧ c.req.pri = e.pri ∧ c.phase = .queued ∧ c.core = core ∧ ⟨s.nextId, e.card, core, e.job, false, false, s.mem⟩ ∈ t.running
      ∧ t.peek key 8 = cardPut w 2 (cardCount w) false)
  ∧ (∀ s core e key w, DueCard s core e key w → 2 ≤ natBits w 0 2 →
    ∃ t, ∃ l ∈ t.launches, exec (.cardDispatch core) s = .next t ∧ l.card = some s.nextId ∧ l.ptr = BitVec.ofNat 64 (s.peek (key + 8) 8)
      ∧ l.started = false ∧ ⟨s.nextId, e.card, core, e.job, false, false, s.mem⟩ ∈ t.running ∧ t.peek key 8 = cardPut w 2 (cardCount w) false)
  ∧ (∀ s core e key w off ws, DueCard s core e key w → natBits w 0 2 = 0 →
    s.nestRead (BitVec.ofNat 64 (s.peek (key + 8) 8)) [] true = .error (off, ws) →
    ∃ t, exec (.cardDispatch core) s = .next t ∧ t.ctxs = s.ctxs ∧ ⟨s.nextId, e.card, core, e.job, true, true, s.mem⟩ ∈ t.running)

/-- R293: a signal takes one from the card's count; the last one makes the card READY in the queue of its core; a card that is not
WAITING, or whose count is 0, posts CARD_STATE and is left as it is. The sender's counters fall in every case. -/
def Sys2Proof.Claims.SignalsCount : Prop :=
  ∀ s m msg card err src job die key, s.Canonical → AtHome s m msg → msg.body = .signal card err src job die →
    s.cardKey ((src.map (·.user)).getD false) card = .ok key →
    (cardState (s.peek key 8) = 0 → 1 < cardCount (s.peek key 8) → Alone s → ∃ t, exec (.cardSignalAtHome m) s = .next t
        ∧ t.peek key 8 = cardPut (s.peek key 8) 0 (cardCount (s.peek key 8) - 1) err
        ∧ (∀ a, (a < key ∨ key + 8 ≤ a) → memRead t.mem a = memRead s.mem a) ∧ t.cores = s.cores)
    ∧ ((cardState (s.peek key 8) ≠ 0 ∨ cardCount (s.peek key 8) = 0) →
        UnitStep s ((s.postCard (cardDie die card) .cardState src card 0).ackSignal m job die) (s.agentOf msg) (exec (.cardSignalAtHome m) s))
    ∧ (cardState (s.peek key 8) = 0 → cardCount (s.peek key 8) = 1 →
        cardCtlOk (s.peek key 8) = true →
        UnitStep s (((s.poke key 8 (cardPut (s.peek key 8) 0 0 err)).makeReady key card (cardPut (s.peek key 8) 0 0 err)
          (match src with | some k => if natBit (s.peek key 8) 12 = 1 then k.core else natBits (s.peek key 8) 13 9 | none => natBits (s.peek key 8) 13 9)
          src).ackSignal m job die) (s.agentOf msg) (exec (.cardSignalAtHome m) s))

/-- R293: a post makes a card that is WAITING with no count, or DONE, READY in the named core's queue; any other posts CARD_STATE. -/
def Sys2Proof.Claims.PostsMakeReady : Prop :=
  ∀ s m msg card core src job die key, AtHome s m msg → s.isOut m = false → msg.body = .post card core src job die →
    s.cardKey ((src.map (·.user)).getD false) card = .ok key →
    (cardState (s.peek key 8) ∉ [1, 2, 3] → cardCount (s.peek key 8) = 0 → cardCtlOk (s.peek key 8) = true →
      UnitStep s ((s.makeReady key card (s.peek key 8) core src).ackSignal m job die) (s.agentOf msg) (exec (.cardPostAtHome m) s))
    ∧ ((cardState (s.peek key 8) ∈ [1, 2, 3] ∨ cardCount (s.peek key 8) ≠ 0) →
      UnitStep s ((s.postCard (cardDie die card) .cardState src card 0).ackSignal m job die) (s.agentOf msg) (exec (.cardPostAtHome m) s))

/-- R294, R307: a card whose work has ended is DONE with its error, its successor is signalled, its cairn is written and its job counts it
no longer. -/
def Sys2Proof.Claims.CardCompletes : Prop :=
  ∀ s id r key, s.Canonical → Alone s → s.running.find? (fun q => q.id = id) = some r → r.ended = true → (∀ m ∈ s.meshes, ∀ o ∈ m.opens, o.1 ≠ id) →
    s.cardKey false r.card = .ok key → s.peek (key + 24) 8 = 0 → s.peek (key + 32) 8 = 0 →
    ∃ t, exec (.cardComplete id) s = .next t ∧ (∀ q ∈ t.running, q.id ≠ id)
      ∧ t.peek key 8 = cardPut (s.peek key 8) 3 (cardCount (s.peek key 8)) (r.err || natBit (s.peek key 8) 11 = 1)
      ∧ (∀ a, (a < key ∨ key + 8 ≤ a) → memRead t.mem a = memRead s.mem a)

/-- R298: fut_wait at the home of a pending future enters the card quarter at the head of the future's list; on a resolved future it
signals the card at once. The old state word is returned. -/
def Sys2Proof.Claims.FutureWaits : Prop :=
  ∀ s m msg f cq p src, AtHome s m msg → s.isOut m = false → msg.id = m → msg.body = .op (.futWait f cq p) src → p.peer = none →
    s.fenced p = false → s.isPoisoned p.key 16 = false → s.sectorBusy m p.key 16 = false →
    UnitStep s ((s.futWaitAt src f cq p.key).1.answerFor msg (.val (some (BitVec.ofNat 64 (s.peek p.key 8))))) (s.agentOf msg)
      (exec (.futWaitAtHome m) s)
    ∧ (2 ≤ futSt (s.peek p.key 8) → (s.futWaitAt src f cq p.key).1 = s.sendSignal src.die none (quarterCard cq) (futSt (s.peek p.key 8) = 3))
    ∧ (∀ ck, futSt (s.peek p.key 8) = 1 → futCnt (s.peek p.key 8) < 16383 → s.cardKey src.user (quarterCard cq) = .ok ck →
        natBit (s.peek (ck + quarterLink cq) 8) 63 = 0 →
        (s.futWaitAt src f cq p.key).1 = (s.poke (ck + quarterLink cq) 8 (2 ^ 63 + futHead (s.peek p.key 8))).poke p.key 8
          (2 ^ 62 + (futCnt (s.peek p.key 8) + 1) * 2 ^ 48 + natBits cq.toNat 4 48))

/-- R298, R299: fut_set at the home of a future that is not resolved writes the value, then the state, and signals every card of its list;
a second resolution posts FUTURE_DOUBLE_RESOLVE and is charged to the strand, on the chip of the strand. -/
def Sys2Proof.Claims.FutureResolves : Prop :=
  ∀ s m msg f v fail p src, AtHome s m msg → s.isOut m = false → msg.id = m → msg.body = .op (.futSet f v fail p) src → p.peer = none →
    s.fenced p = false → s.isPoisoned p.key 16 = false → s.sectorBusy m p.key 16 = false →
    let r := s.futSetAt src.die (some src) p.key v fail
    (r.2.2 = false → UnitStep s (r.1.answerFor msg (.val (some (BitVec.ofNat 64 r.2.1)))) (s.agentOf msg) (exec (.futSetAtHome m) s))
    ∧ (r.2.2 = true → (∃ v ∈ s.fab.served, v.msg = m) → UnitStep s (r.1.answerFor msg (.val (some (BitVec.ofNat 64 r.2.1)))) (s.agentOf msg)
        (exec (.futSetAtHome m) s))
    ∧ (r.2.2 = true → (∀ v ∈ s.fab.served, v.msg ≠ m) → UnitStep s (((r.1.postCard src.die .futureDoubleResolve (some src) f r.2.1).chargeDouble msg.src f r.2.1).answerFor
        msg (.val (some (BitVec.ofNat 64 r.2.1)))) (s.agentOf msg) (exec (.futSetAtHome m) s))
    ∧ r.2.1 = s.peek p.key 8 ∧ (r.2.2 = true ↔ 2 ≤ futSt (s.peek p.key 8))

/-- R306: a proxy queue of a die sends at most 14 posts for a chip once it holds 14 or one has waited 2,000 ticks. -/
def Sys2Proof.Claims.ProxyBatchLeaves : Prop :=
  ∀ s die chip, (14 ≤ ((s.schedOf die).proxy.filter (fun p => p.chip = chip)).length
      ∨ ∃ p ∈ (s.schedOf die).proxy, p.chip = chip ∧ p.at_ + 2000 ≤ s.now) →
    (∀ l, s.fabRoute chip = some l → l.2.full 0 = false) → exec (.proxyBatchSend die chip) s = .next (s.proxySend die chip 14)

/-- R308: a flush round of a job whose counters are zero and that has a cairn runs 100,000 ticks after the last; the first one only
records what it read. -/
def Sys2Proof.Claims.JobFlushes : Prop :=
  ∀ s job cairn seq, s.jcairns.find? (fun t => t.1 = job) = some (job, cairn, seq) → cairn ≠ 0 → s.jobSum job = 0 →
    s.rounds.find? (fun r => r.1 = job) = none →
    ∃ t, exec (.jobFlushRound job) s = .next t ∧ (∃ r, (job, r) ∈ t.rounds ∧ r.at_ = s.now ∧ r.made = false)

namespace Sys2Proof.Claims

/-! ### Engine commands -/

/-- The machine once a command's start message has arrived and its engine has taken it (R223). -/
def begun (s : State) (m : Nat) (c : Cmd) : State :=
  { s.dropMsg m with cmds := s.cmds.filter (fun d => d.id ≠ c.id) ++ [{ c with phase := .running, fault := none }], free := s.free + 1 }

/-- A command whose start message has arrived, with its engine free to take it, and no earlier command of its strand in its queue. -/
def Startable (s : State) (m : Nat) (c : Cmd) : Prop :=
  ∃ msg, AtHome s m msg ∧ msg.body = .cmd c.id ∧ s.cmd? c.id = some c ∧ c.phase = .queued ∧ s.queuedBefore msg c = false
    ∧ (c.req.kind.copy = true → s.engineLoad c.mdie c.req.pri < 4)

/-- A command with its record. -/
def withWords (c : Cmd) (ws : List Word) : Cmd :=
  { c with words := ws, mdie := (match c.req.kind with
      | .meshInit | .meshAdapt | .nbrStream | .meshFree => meshDie (ws.getD 1 0)
      | _ => c.mdie) }

/-- The machine once a command's record has been read. -/
def afterRecord (s : State) (c : Cmd) (ws : List Word) : State := { s.setCmd (withWords c ws) with free := s.free + 1 }

/-- A command of a kind that its unit runs next, whose record reads as `ws`. -/
def RunsNext (s : State) (cmd : Nat) (k : CmdKind) (c : Cmd) (ws : List Word) : Prop := s.ready cmd k = some c ∧ s.readRecord c = .ok ws

/-- A mesh command that runs next, whose record obeys R320. -/
def MeshRuns (s : State) (cmd : Nat) (k : CmdKind) (c : Cmd) (ws : List Word) : Prop :=
  RunsNext s cmd k c ws ∧ (withWords c ws).meshBad = none

end Sys2Proof.Claims

/-- R222, R223: a command that reaches its engine runs. An inline copy, and a record form whose record reads well, hands every granule to
the engine; a record that is bad or cannot be read leaves the command with CPY_RECORD or its access fault; the commands of other units wait
for their unit. -/
def Sys2Proof.Claims.CommandsStart : Prop :=
  ∀ s m c, Startable s m c →
    (c.req.kind = .cpyInline → ∃ t, exec (.copyCommandStart m) s = .next t ∧ t.cmds = (begun s m c).cmds ∧ t.mem = s.mem
      ∧ t.net.length = (s.dropMsg m).net.length + c.req.len)
    ∧ (c.req.kind.copy = false → exec (.copyCommandStart m) s = .next (begun s m c))
    ∧ (c.req.kind.copy = true → c.req.kind ≠ .cpyInline → c.card = none →
        (∀ ws, (begun s m c).readRecord { c with phase := .running, fault := none } = .ok ws →
          let c1 := { c with phase := .running, fault := none, words := ws }
          (c1.recordBad = false → ∃ t, exec (.copyCommandStart m) s = .next t ∧ c1 ∈ t.cmds ∧ t.mem = s.mem
            ∧ t.net.length = (s.dropMsg m).net.length + c1.granules.length)
          ∧ (c1.recordBad = true → ∃ t, exec (.copyCommandStart m) s = .next t ∧ t.net = (s.dropMsg m).net ∧ t.mem = s.mem
            ∧ { c1 with fault := some (engFault .cpyRecord c.req.p0) } ∈ t.cmds))
        ∧ (∀ f, (begun s m c).readRecord { c with phase := .running, fault := none } = .error f →
          exec (.copyCommandStart m) s = .next ((begun s m c).cmdFault { c with phase := .running, fault := none } f)))

/-- R223: a copy whose granules have all been written completes: its es slot shows DONE. -/
def Sys2Proof.Claims.CopiesComplete : Prop :=
  ∀ s cmd c, s.cmd? cmd = some c → c.phase = .running → c.fault = none → c.req.kind.granular = true → (∀ m ∈ s.net, m.src ≠ .cmd cmd) →
    ∃ t, exec (.copyComplete cmd) s = .next t ∧ t = s.cmdDone c false ∧ (∀ d ∈ t.cmds, d.id ≠ cmd)
      ∧ (∀ k x, c.req.kind = .cpyInline → c.card = none → c.attached = true → c.slotFault = false → c.ctx = some k → s.ctx? k = some x →
          t.ctx? k = some (x.setEs c.req.es .done) ∧ t.mem = s.mem)

/-- R224, R225: an engine that has met a fault stops its command: the slot shows FAULT and one record is posted on the command's die. -/
def Sys2Proof.Claims.EngineFaults : Prop :=
  ∀ s cmd c f, s.cmd? cmd = some c → c.fault = some f → c.phase = .running →
    ∃ t d, exec (.engineFault cmd) s = .next t ∧ t.cmd? cmd = some d ∧ d.phase = .stopped ∧ d.posted = true
      ∧ (∀ k x, c.attached = true → c.ctx = some k → s.ctx? k = some x → t.ctx? k = some (x.setEs c.req.es .fault))
      ∧ (∃ u, (t = State.postRecord u c.die (s.cmdRecord c f) ∧ u.mem = s.mem))

/-- R224: a stopped copy goes on with the granules that are left; any other stopped command goes to its unit again, a copy with
what its engine keeps and every other from its start. -/
def Sys2Proof.Claims.CommandsResume : Prop :=
  ∀ s cmd c, s.cmd? cmd = some c → c.phase = .stopped →
    (c.req.kind.copy = true → (∃ m ∈ s.net, m.src = .cmd cmd) →
      exec (.commandResume cmd) s = .next { s.setCmd { c with phase := .running, fault := none } with
        net := s.net.map (fun m => if m.src = .cmd cmd then { m with resp := none } else m) })
    ∧ (c.req.kind.copy = false ∨ (∀ m ∈ s.net, m.src ≠ .cmd cmd) →
      exec (.commandResume cmd) s = .next ((s.setCmd
        { c with phase := .queued, fault := none, aux := if c.req.kind.copy then c.aux else [] }).send (.unit c.die) 15 (.cmd cmd)))

/-- R224: a command that is aborted is gone; one that had not faulted shows FAULT in its slot and posts CPY_ABORTED. -/
def Sys2Proof.Claims.CommandsAbort : Prop :=
  ∀ s cmd c, s.cmd? cmd = some c → c.phase ≠ .finished → ∃ t, exec (.commandAbort cmd) s = .next t ∧ (∀ d ∈ t.cmds, d.id ≠ cmd)

/-! ### Meshes -/

/-- R317, R324: mesh.init of an address that holds no mesh, or the one that the command itself was building, builds generation 0 with one leaf for each base cell, and the mesh is READY;
a record or entry that fails rejects the command, and the address holds no mesh. -/
def Sys2Proof.Claims.MeshesBuilt : Prop :=
  ∀ s cmd c ws, MeshRuns s cmd .meshInit c ws → (∀ m, s.mesh? (ws.getD 1 0) = some m → m.busyBy = some cmd) →
    let e := engOutcome (withWords c ws) (ws.getD 1 0) (s.mesh? (ws.getD 1 0)).isSome 0 (engInit (withWords c ws))
    (∀ m t, e (afterRecord s c ws) = .ok (.ok m, t) →
      UnitStep s ((t.setMesh m).cmdDone (withWords c ws) false) (.engine (withWords c ws).mdie c.ctx) (exec (.meshInitRun cmd) s) ∧ m.ptr = ws.getD 1 0 ∧ m.phase = .ready ∧ m.gen = 0
        ∧ m.cur = (List.range m.base.length).map (fun r => (r, [])) ∧ m.opens = [])
    ∧ (∀ cause detail t, e (afterRecord s c ws) = .ok (.error (cause, detail), t) →
      UnitStep s ((t.dropMesh (ws.getD 1 0)).cmdReject (withWords c ws) cause detail) (.engine (withWords c ws).mdie c.ctx) (exec (.meshInitRun cmd) s))

/-- R317, R325: mesh.adapt of a READY mesh makes the next generation; the old one stays live while it has opens. A failed one leaves the
mesh as it was and the command completes with ERR. -/
def Sys2Proof.Claims.MeshesAdapted : Prop :=
  ∀ s cmd c ws m, MeshRuns s cmd .meshAdapt c ws → s.mesh? (ws.getD 1 0) = some m → m.phase = .ready →
    let e := engOutcome (withWords c ws) m.ptr m.busyBy.isSome 2 (engAdapt (withWords c ws) m)
    (∀ m1 t, e (afterRecord s c ws) = .ok (.ok m1, t) →
      UnitStep s ((t.setMesh m1).cmdDone (withWords c ws) false) (.engine (withWords c ws).mdie c.ctx) (exec (.meshAdaptRun cmd) s) ∧ m1.gen = (m.gen + 1) % 2 ^ 32
        ∧ (m1.phase = .ready ∧ m1.old = none ∨ m1.phase = .two ∧ m1.old = some m.cur))
    ∧ (∀ cause detail t, e (afterRecord s c ws) = .ok (.error (cause, detail), t) →
      UnitStep s ((t.setMesh { m with phase := .ready, busyBy := none }).cmdReject (withWords c ws) cause detail) (.engine (withWords c ws).mdie c.ctx)
        (exec (.meshAdaptRun cmd) s))

/-- R317: mesh.free of a READY mesh returns its nodes and its address holds no mesh; in another state it is refused. -/
def Sys2Proof.Claims.MeshesFreed : Prop :=
  ∀ s cmd c ws, MeshRuns s cmd .meshFree c ws →
    (∀ m t, s.mesh? (ws.getD 1 0) = some m → m.phase = .ready → engFree (withWords c ws) m (afterRecord s c ws) = .ok ((), t) →
      UnitStep s ((t.dropMesh m.ptr).cmdDone (withWords c ws) false) (.engine (withWords c ws).mdie c.ctx) (exec (.meshFreeRun cmd) s))
    ∧ ((∀ m, s.mesh? (ws.getD 1 0) = some m → m.phase ≠ .ready) →
      UnitStep s ((afterRecord s c ws).meshRefuse (withWords c ws)) (.engine (withWords c ws).mdie c.ctx) (exec (.meshFreeRun cmd) s))

/-- R323: nbr.stream writes the entries of its cells; cells past the generation's count reject it. -/
def Sys2Proof.Claims.NeighboursStreamed : Prop :=
  ∀ s cmd c ws m leaves, MeshRuns s cmd .nbrStream c ws → handleMesh (ws.getD 2 0) = ws.getD 1 0 → s.builtMesh (ws.getD 1 0) = some m →
    m.leavesOf (ws.getD 2 0) = some leaves →
    (leaves.length < (ws.getD 3 0).toNat + (ws.getD 4 0).toNat →
      UnitStep s ((afterRecord s c ws).cmdReject (withWords c ws) .meshFormat 0x20) (.engine (withWords c ws).mdie c.ctx) (exec (.nbrStreamRun cmd) s))
    ∧ ((ws.getD 3 0).toNat + (ws.getD 4 0).toNat ≤ leaves.length → ∀ t,
      ((List.range (ws.getD 4 0).toNat).forM (fun i => engPuts (withWords c ws) 8 (ws.getD 5 0) (192 * i : Nat)
        (streamEntry m.shape leaves ((ws.getD 3 0).toNat + i))) : Eng Unit) (afterRecord s c ws) = .ok ((), t) →
      UnitStep s (t.cmdDone (withWords c ws) false) (.engine (withWords c ws).mdie c.ctx) (exec (.nbrStreamRun cmd) s))

/-- R318: mesh.open adds an open of the current generation for its launch and returns the handle; an address without a built mesh is
answered with MESH_OPERAND. -/
def Sys2Proof.Claims.MeshesOpened : Prop :=
  ∀ s m msg p src, AtHome s m msg → msg.body = .op (.meshOpen p) src → s.meshAhead msg.src m (some p) = false →
    (∀ g, s.builtMesh p = some g → UnitStep s (((s.setMesh { g with opens := g.opens ++ [(s.launchOf msg, g.gen)] }).writeFields
        { g with opens := g.opens ++ [(s.launchOf msg, g.gen)] } src.die src.sid).answer msg (.val (some (setField p 0 8 (g.gen % 256)))))
        (.unit (meshDie p)) (exec (.meshOpenAtHome m) s))
    ∧ (s.builtMesh p = none → UnitStep s (s.answer msg (.err .meshOperand 0)) (.unit (meshDie p)) (exec (.meshOpenAtHome m) s))

/-- R318: mesh.close removes an open of the handle's generation, and the generation below the current one is released with its last
open; a handle without an open posts MESH_GEN. -/
def Sys2Proof.Claims.MeshesClosed : Prop :=
  ∀ s m msg h src, AtHome s m msg → msg.body = .op (.meshClose h) src → s.meshAhead msg.src m (some (handleMesh h)) = false →
    (∀ g n, s.builtMesh (handleMesh h) = some g → g.openGen h = some n → UnitStep s
      (((s.dropMsg m).setMesh (g.removeOpen (s.launchOf msg) n).release).writeFields (g.removeOpen (s.launchOf msg) n).release src.die src.sid)
      (.unit (meshDie (handleMesh h))) (exec (.meshCloseAtHome m) s))
    ∧ ((∀ g, s.builtMesh (handleMesh h) = some g → g.openGen h = none) → UnitStep s ((s.dropMsg m).postRecord src.die
        (record225 Cause.meshGen.code (meshDie (handleMesh h) * 16 + 1) 0 src.sid h 0 0)) (.unit (meshDie (handleMesh h)))
        (exec (.meshCloseAtHome m) s))

/-- R321, R322: a neighbour query of a live generation is answered with one word for each cell; the lowest cell that fails gives its
cause. -/
def Sys2Proof.Claims.NeighbourQueries : Prop :=
  ∀ s m msg serial idx e h face two q cells g leaves, s.msg? m = some msg → msg.resp = none →
    msg.body = .opRead serial idx e (.nbr h face two q cells) → s.builtMesh (handleMesh h) = some g → g.leavesOf h = some leaves →
    face < kindFaces g.kind →
    (∀ vs, nbrElems (nbrElem g.shape leaves face two q) cells = .ok vs → vs.length = cells.length
      ∧ exec (.nbrQueryAtHome m) s = .next (s.answer msg (.data (vs.flatMap (natLe 8)))))
    ∧ (∀ cause k, nbrElems (nbrElem g.shape leaves face two q) cells = .error (cause, k) →
      exec (.nbrQueryAtHome m) s = .next (s.answer msg (.err cause k)))

/-- R329: col.build colours its entries and completes; an entry that needs a 33rd colour ends it with COL_OVERFLOW. -/
def Sys2Proof.Claims.EntriesColoured : Prop :=
  ∀ s cmd c ws, MeshRuns s cmd .colBuild c ws →
    (∀ t, engColour (withWords c ws) (afterRecord s c ws) = .ok (none, t) →
      UnitStep s (t.cmdDone (withWords c ws) false) (.engine (withWords c ws).mdie c.ctx) (exec (.colBuildRun cmd) s))
    ∧ (∀ e t, engColour (withWords c ws) (afterRecord s c ws) = .ok (some e, t) →
      UnitStep s (t.cmdReject (withWords c ws) .colOverflow e) (.engine (withWords c ws).mdie c.ctx) (exec (.colBuildRun cmd) s))

/-- R329: entries of one colour hold no common index, and no entry has a colour above the least it can take. -/
def Sys2Proof.Claims.ColouringProper : Prop :=
  ∀ g list n acc, colourGo g list (List.range n) [] = (acc, none) →
    acc.length = n ∧ (∀ e, e < n → ∃ k, acc.reverse[e]? = some (k, entryIndices g list e) ∧ k < 32
      ∧ (∀ f, f < e → acc.reverse[f]? ≠ none → ∀ is, acc.reverse[f]? = some (k, is) → ∀ i ∈ is, i ∉ entryIndices g list e)
      ∧ (∀ j, j < k → ∃ f is, f < e ∧ acc.reverse[f]? = some (j, is) ∧ ∃ i ∈ is, i ∈ entryIndices g list e))

/-- R223, R328: cpyr with an element size it accepts moves its records and completes, once no write of it is out at a peer chip, or stops with
the first fault at the record it reached; another size is CPY_RECORD. -/
def Sys2Proof.Claims.RemapCopies : Prop :=
  ∀ s cmd c, s.ready cmd .cpyr = some c → (∀ m ∈ s.net, m.src ≠ .cmd cmd) →
    (8 ≤ natBits (c.w 9) 0 16 → natBits (c.w 9) 0 16 ≤ 4096 → natBits (c.w 9) 0 16 % 8 = 0 →
      (∀ t i m, s.cpyrGo c (c.w 3) (c.aux.headD 0) = (t, i, none) → m ∈ t.net → m.src = .cmd cmd →
          UnitStep s (t.setCmd { c with aux := [i] }) (.engine c.mdie c.ctx) (exec (.cpyrRun cmd) s))
      ∧ (∀ t i, s.cpyrGo c (c.w 3) (c.aux.headD 0) = (t, i, none) → (∀ m ∈ t.net, m.src ≠ .cmd cmd) → UnitStep s (t.cmdDone c false) (.engine c.mdie c.ctx) (exec (.cpyrRun cmd) s))
      ∧ (∀ t i f, s.cpyrGo c (c.w 3) (c.aux.headD 0) = (t, i, some f) →
          UnitStep s ((t.setCmd { c with aux := [i] }).cmdFault { c with aux := [i] } f) (.engine c.mdie c.ctx) (exec (.cpyrRun cmd) s)))
    ∧ ((natBits (c.w 9) 0 16 = 0 ∨ natBits (c.w 9) 0 16 % 8 ≠ 0 ∨ 4096 < natBits (c.w 9) 0 16) →
      exec (.cpyrRun cmd) s = .next (s.cmdFault c (engFault .cpyRecord c.req.p0)))

namespace Sys2Proof.Claims

/-! ### Homes -/

/-- A request that its home performs now: its turn has come and its home can take it, it asks no peer, it waits for no relocation, no other
chip holds a copy of what it writes, and it is not another chip's. -/
def Performs (s : State) (m : Nat) (msg : Msg) : Prop :=
  AtHome s m msg ∧ s.homeReady msg = true ∧ s.peerStep msg = none ∧ s.mustWait msg.body = none ∧ s.copiesFor msg = [] ∧ (∀ v ∈ s.fab.served, v.msg ≠ msg.id)

/-- Bytes of this chip's memory that a request may use: no device register, no failed die and, for a read, no poison. -/
def Plain (s : State) (p : Place) (n : Nat) : Prop :=
  p.peer = none ∧ p.key + n ≤ 2 ^ 62 ∧ s.fenced p = false ∧ s.isPoisoned p.key n = false ∧ 0 < n

end Sys2Proof.Claims

/-- R120, R180, R181, R183, R263, R276: a load of a strand is answered with the bytes its place holds when it performs, and with it the
reads that merged with it; one that its core's sector cache serves is answered from the cache, unless the sector is dropped for an error; one
that may use the cache and does not hit leaves its sector there. -/
def Sys2Proof.Claims.LoadsPerform : Prop :=
  (∀ s m msg c x serial idx els ptr p n acq, Performs s m msg → msg.src = .ctx c → s.ctx? c = some x →
    msg.body = .load serial idx els ptr p n false acq → Plain s p n →
    exec (.homeRequest m) s = .next ({ s with free := s.free + 32 }.answerLoad msg (.data (memReadN s.mem p.key n)))
    ∧ (acq = none → (∀ a ∈ s.net, a.merge ≠ some msg.id) →
        exec (.homeRequest m) s = .next ({ s with free := s.free + 32 }.answer msg (.data (memReadN s.mem p.key n)))))
  ∧ (∀ s m msg c x serial idx els ptr p n acq l, Performs s m msg → msg.src = .ctx c → s.ctx? c = some x →
    msg.body = .load serial idx els ptr p n true acq → (s.core x.core).hit ptr x.acqEpoch = some l → Plain s p n →
    ∃ t, exec (.homeRequest m) s = .next t ∧ (Config.freeNat s.free % 2 = 0 →
      t = { s with free := s.free + 1 }.setMsg { msg with resp := some (.data l.data), merge := some msg.id }))
  ∧ (∀ s m msg c x serial idx els ptr p n acq, Performs s m msg → msg.src = .ctx c → s.ctx? c = some x →
    msg.body = .load serial idx els ptr p n true acq → Plain s p n →
    ((s.core x.core).hit ptr x.acqEpoch = none ∨ Config.freeNat s.free % 2 ≠ 0) →
    ∃ u : State, exec (.homeRequest m) s = .next (u.setCore x.core ((u.core x.core).fill ptr (p.key / 32) (memReadN s.mem p.key n)))
      ∧ u.mem = s.mem ∧ u = { s with free := u.free }.answerLoad msg (.data (memReadN s.mem p.key n)))

/-- R263, R276: a store that performs puts its bytes in their place and leaves every other byte as it was; it is acknowledged. -/
def Sys2Proof.Claims.StoresPerform : Prop :=
  ∀ s m msg p bs rel ptr, s.Canonical → Performs s m msg → msg.body = .store p (bs.map (fun b => (b, 255))) rel ptr → Plain s p bs.length →
    ∃ t, exec (.homeRequest m) s = .next t ∧ memReadN t.mem p.key bs.length = bs ∧ SameOutside s t p.key bs.length
      ∧ (∀ a ∈ t.net, a.id ≠ msg.id) ∧ t.ctxs = s.ctxs

/-- R136, R137, R276: an atomic that performs answers with the old value and writes the new one in one step; a compare-and-swap that fails
writes nothing; one whose ORD does not acquire leaves every strand as it was. -/
def Sys2Proof.Claims.AtomicsPerform : Prop :=
  ∀ s m msg c e op w p y z sc ord ptr, s.Canonical → Performs s m msg → msg.src = .ctx c → msg.body = .atomic e op w p y z sc ord ptr → Plain s p w →
    ∃ t, exec (.homeRequest m) s = .next t ∧ SameOutside s t p.key w ∧ (ordAcquires ord = false → t.ctxs = s.ctxs)
      ∧ t.net = (s.answer msg (.val (some (BitVec.ofNat 64 (s.peek p.key w))))).net
      ∧ t.peek p.key w = amoNew op w (s.peek p.key w) (y % 2 ^ (8 * w)) (z % 2 ^ (8 * w)) % 2 ^ (8 * w)

/-- R133, R290: a fence whose earlier accesses have performed is over; an early trigger counts its iteration. -/
def Sys2Proof.Claims.FencesAndTriggersPerform : Prop :=
  (∀ s m msg sc mask, Performs s m msg → msg.body = .fence sc mask → exec (.homeRequest m) s = .next (s.dropMsg msg.id))
  ∧ (∀ s m msg l n, Performs s m msg → msg.body = .trigger l n → s.copiesChanged ((s.dropMsg msg.id).nestCount l n) = [] →
      exec (.homeRequest m) s = .next (((s.dropMsg msg.id).nestCount l n).servedDone s msg))

/-- R223, R277: a granule of a running command is read from its source and later written to its destination. -/
def Sys2Proof.Claims.GranulesMove : Prop :=
  ∀ s m msg c src sd dst dd, s.Canonical → Performs s m msg → s.cmd? c.id = some c → c.phase = .running → c.req.kind ≠ .cpyg →
    (∀ bs, msg.body = .gran c.id src sd dst dd none → s.cmdRead c 32 32 src sd = .ok bs →
      exec (.homeRequest m) s = .next (s.setMsg { msg with body := .gran c.id src sd dst dd (some bs) }))
    ∧ (∀ bs a, msg.body = .gran c.id src sd dst dd (some bs) → s.cmdPlace c { wr := true } 32 32 dst dd = .ok a → a.place.peer = none →
      bs.length = 32 →
      ∃ t, exec (.homeRequest m) s = .next t ∧ memReadN t.mem a.place.key 32 = bs ∧ SameOutside s t a.place.key 32
        ∧ (∀ k ∈ t.net, k.id ≠ msg.id))

/-- R345, R346, R347: pin counts up and gives the pin-view pointer, unpin counts down, refeq compares destinations, and hp.make writes a
header, after which the store of the new reference is a request of its own. -/
def Sys2Proof.Claims.HeapOperationsPerform : Prop :=
  ∀ s m msg src, Performs s m msg →
    (∀ r o, msg.body = .op (.pin r) src → s.barrier src.user true r = .ok o → s.placeErr ⟨o.hdr, none, none⟩ 16 true = none → o.pins ≠ 65535 →
      (∃ c, msg.src = .ctx c) →
      exec (.homeRequest m) s = .next ((s.poke o.hdr 8 (s.peek o.hdr 8 + 2 ^ 32)).answer msg (.val (some (pinView o.dest.home (o.dest.ha + 16))))))
    ∧ (∀ r o, msg.body = .op (.unpin r) src → s.barrier src.user true r = .ok o → s.placeErr ⟨o.hdr, none, none⟩ 16 true = none → o.pins ≠ 0 →
      exec (.homeRequest m) s = .next ((s.poke o.hdr 8 (s.peek o.hdr 8 - 2 ^ 32)).dropMsg msg.id))
    ∧ (∀ a b x y, msg.body = .op (.refeq a b) src → a ≠ 0 → b ≠ 0 → s.refDest src.user false a = .ok x → s.refDest src.user false b = .ok y →
      (∃ c, msg.src = .ctx c) →
      exec (.homeRequest m) s = .next (s.answer msg (.val (some (if x.home = y.home ∧ x.ha = y.ha then 1 else 0)))))
    ∧ (∀ w h wp size j p, msg.body = .op (.hpMake w h wp size) src → s.heapPlace (refReq src.user true 16) (refHint h) (refHa h) = .ok (j, p) →
      s.placeErr p 16 false = none →
      exec (.homeRequest m) s = .next ((s.poke p.key 16 (2 ^ 48 + size)).setMsg { msg with
        body := .store wp (fullBytes 8 (mkRef (s.heap j).epoch j (refHa h) 0).toNat) none w }))

/-- R280, R340: a store, heal or pin of an object that is being copied waits at the home for the copy to end. -/
def Sys2Proof.Claims.RequestsWaitForCopy : Prop :=
  ∀ s m msg j f, AtHome s m msg → s.homeReady msg = true → s.peerStep msg = none → s.mustWait msg.body = some (j, f) →
    exec (.homeRequest m) s = .next (s.waitAt j f m)

/-- R408: a write of a sector that other chips hold copies of sends an invalidation for each copy first, and memory does not change yet. -/
def Sys2Proof.Claims.CopiesInvalidatedFirst : Prop :=
  ∀ s m msg, AtHome s m msg → s.homeReady msg = true → s.peerStep msg = none → s.mustWait msg.body = none → s.copiesFor msg ≠ [] →
    exec (.homeRequest m) s = .next (s.sendInvals m (s.copiesFor msg))
      ∧ (s.sendInvals m (s.copiesFor msg)).mem = s.mem ∧ (s.sendInvals m (s.copiesFor msg)).fab.invals.length = s.fab.invals.length + (s.copiesFor msg).length

/-- R408: a request to a peer chip leaves as a flit, or is served by the copy of the sector that the LLC keeps. -/
def Sys2Proof.Claims.PeerRequestsLeave : Prop :=
  ∀ s m msg t, AtHome s m msg → s.homeReady msg = true → s.peerStep msg = some (some t) → exec (.homeRequest m) s = .next t

/-- R409: a chip that has not acknowledged an invalidation for 1 ms is dropped from the directory and refused until it rejoins; the writes
that waited for it go on. -/
def Sys2Proof.Claims.SilentSharerDropped : Prop :=
  ∀ s m i, s.fab.invals.find? (fun i => i.msg = m && decide (i.since + 2000000 ≤ s.now)) = some i →
    ∃ t, exec (.sharerAckTimeout m) s = .next t ∧ (∀ j ∈ t.fab.invals, j.chip ≠ i.chip) ∧ (∀ c ∈ t.fab.copies, c.chip ≠ i.chip)
      ∧ (∃ inc, (i.chip, inc) ∈ t.fab.refused)

/-! ### The managed heap -/

/-- R340, R348: a relocation command that its engine takes makes the object COPYING; an object with pins, or a destination that breaks R341,
stops the command, and one whose object lies at another home goes to that home's engine. -/
def Sys2Proof.Claims.RelocationAccepted : Prop :=
  ∀ s cmd c o, s.cmd? cmd = some c → s.relocNext c = true → s.barrier c.req.user true c.req.p0 = .ok o →
    (o.dest.home ≠ c.mdie → exec (.hpRelocateRun cmd) s = .next (s.setCmd { c with mdie := o.dest.home }))
    ∧ (o.dest.home = c.mdie → o.dest.copying = false → (s.heap o.dest.home).fwd.length < 65536 →
    (o.pins ≠ 0 → exec (.hpRelocateRun cmd) s = .next (s.cmdFault c (engFault .hpPinned c.req.p1 (relocDetail o.dest.ha 0))))
    ∧ (o.pins = 0 → s.destOk c.req.p1 o.dest.ha o.size = none →
        exec (.hpRelocateRun cmd) s = .next (s.cmdFault c (engFault .hpFormat c.req.p1 (relocDetail o.dest.ha 2))))
    ∧ (o.pins = 0 → ∀ nh, s.destOk c.req.p1 o.dest.ha o.size = some nh →
        ∃ t f, exec (.hpRelocateRun cmd) s = .next t ∧ f ∈ (t.heap o.dest.home).fwd ∧ f.old = o.dest.ha ∧ f.new = refHa c.req.p1
          ∧ f.size = o.size ∧ f.nhome = nh ∧ f.copying = true ∧ f.epoch = (s.heap o.dest.home).epoch ∧ t.mem = s.mem))

/-- R339, R340: when the bytes are copied the object is FORWARDED, the new copy holds the payload, and the command completes. -/
def Sys2Proof.Claims.RelocationCopies : Prop :=
  ∀ s cmd c home f a b, s.Canonical → Alone s → s.relocation cmd = some (c, home, f) → s.copySpans c home f = .ok (a, b) → f.waiting = [] → c.words = [] →
    ∃ t, exec (.relocationCopyDone cmd) s = .next t ∧ (∀ d ∈ t.cmds, d.id ≠ cmd) ∧ (t.heap home).done = min ((s.heap home).done + 1) (2 ^ 32 - 1)
      ∧ (∀ g ∈ (t.heap home).fwd, g.old = f.old → g.copying = false ∧ g.waiting = [])
      ∧ (∀ ka kb, a = [(ka, 16 + f.size)] → b = [(kb, 16 + f.size)] → (ka + 16 + f.size ≤ kb ∨ kb + 16 + f.size ≤ ka) →
          memReadN t.mem (kb + 16) f.size = memReadN s.mem (ka + 16) f.size)

/-- R340: a copy that fails leaves the old copy the object; the command stops with its fault. -/
def Sys2Proof.Claims.RelocationFaults : Prop :=
  ∀ s cmd c home f e, s.relocation cmd = some (c, home, f) → s.copySpans c home f = .error e → f.waiting = [] →
    ∃ t, exec (.relocationCopyFault cmd) s = .next t ∧ (∀ g ∈ (t.heap home).fwd, g.old ≠ f.old) ∧ t.mem = s.mem
      ∧ t = (s.setHeap home { s.heap home with fwd := (s.heap home).fwd.filter (fun g => g.old ≠ f.old) }).cmdFault { c with aux := [] }
          (engFault (relocCause e.cause) e.fa (relocDetail f.old 0))

/-- R342: the advance of the package's first hp.epoch command makes its steps one by one: each M-die is told, each moves to the next epoch, the
entries made in the epoch before the last are freed, and then the advance is over and the command completes. It does not begin while one of
those entries is being copied. -/
def Sys2Proof.Claims.EpochAdvances : Prop :=
  (∀ s cmd c, s.cmd? cmd = some c → c.req.kind = .hpEpoch → c.phase = .running →
    ((s.cmds.filter (fun d => d.req.kind = .hpEpoch && d.phase = .running)).head?).map (·.id) = some cmd →
    (c.aux = [] → ∀ h ∈ s.heaps, ∀ f ∈ h.2.fwd, f.copying = true → f.epoch + 1 ≠ s.heapE) →
    (c.aux.length < 9 → exec (.hpEpochRun cmd) s = .next ((s.epochStep c.aux.length).setCmd { c with aux := c.aux.length :: c.aux }))
    ∧ (9 ≤ c.aux.length → exec (.hpEpochRun cmd) s = .next ((s.epochStep c.aux.length).cmdDone { c with aux := [] } false)))
  ∧ (∀ (s : State) n, (n < 4 → (s.epochStep n).heap (8 + n) = { s.heap (8 + n) with trans := true })
    ∧ (4 ≤ n → n < 8 → (s.epochStep n).heap (4 + n) = { s.heap (4 + n) with epoch := s.heapE + 1 })
    ∧ (n < 8 → (s.epochStep n).heapE = s.heapE ∧ ∀ j, j ≠ (if n < 4 then 8 + n else 4 + n) → (s.epochStep n).heap j = s.heap j)
    ∧ (∀ j, (s.epochStep 8).heap j = { s.heap j with fwd := (s.heap j).fwd.filter (fun f => f.epoch + 1 ≠ s.heapE) })
    ∧ (9 ≤ n → (s.epochStep n).heapE = s.heapE + 1 ∧ ∀ j, (s.epochStep n).heap j = { s.heap j with trans := false })
    ∧ (s.epochStep n).mem = s.mem ∧ (s.epochStep n).net = s.net)

/-! ### The load balancer -/

/-- R390, R391: lb.cut with a record that obeys R390 writes its cut array and completes; another record is LB_FORMAT. -/
def Sys2Proof.Claims.CutsWritten : Prop :=
  ∀ s cmd c ws, RunsNext s cmd .lbCut c ws → c.aux ≠ [3] →
    ((withWords c ws).lbBad = true → UnitStep s ((afterRecord s c ws).lbReject (withWords c ws)) (.engine (withWords c ws).mdie c.ctx) (exec (.lbCutRun cmd) s))
    ∧ ((withWords c ws).lbBad = false → ∀ t, engCut (withWords c ws) (afterRecord s c ws) = .ok ((), t) → (∀ m ∈ t.net, m.src ≠ .cmd c.id) →
      UnitStep s (t.cmdDone (withWords c ws) false) (.engine (withWords c ws).mdie c.ctx) (exec (.lbCutRun cmd) s))
    ∧ (∀ u v bs, engRead (withWords c ws) 4 (4 * (withWords c ws).w 3) (ws.getD 2 0) 0 u = .ok (bs, v) →
      engCut (withWords c ws) u = engPuts (withWords c ws) 4 (ws.getD 5 0) 0
        (cutArray ((withWords c ws).w 4) ((List.range ((withWords c ws).w 3)).map (fun i => leNat ((bs.drop (4 * i)).take 4)))) v)

/-- R391: cut[p] is the least c with P × S(c) ≥ p × T, and floor(p × N ÷ P) when T = 0; the two worked cases. -/
def Sys2Proof.Claims.CutIsLeast : Prop :=
  (∀ ws P p, 1 ≤ P → p ≤ P → (cutArray P ws).length = P + 1 ∧
    (ws.sum = 0 → (cutArray P ws).getD p 0 = p * ws.length / P)
    ∧ (ws.sum ≠ 0 → p * ws.sum ≤ P * (ws.take ((cutArray P ws).getD p 0)).sum
        ∧ ∀ c, c < (cutArray P ws).getD p 0 → P * (ws.take c).sum < p * ws.sum))
  ∧ cutArray 2 [4, 1, 1, 1, 1, 4] = [0, 3, 6] ∧ cutArray 3 [4, 1, 1, 1, 1, 4] = [0, 1, 5, 6]

/-- R390, R392: lb.migrate and ghost.sync of a live generation move the elements of every part and complete; a cut array or part table that
is not as R390 has it is LB_FORMAT, and a part whose ghosts do not fit is LB_CAPACITY. Writes that leave for peer chips are waited for. -/
def Sys2Proof.Claims.PartsMigrate : Prop :=
  ∀ s cmd c ws m leaves,
    s.builtMesh (handleMesh (ws.getD 1 0)) = some m → m.leavesOf (ws.getD 1 0) = some leaves → (withWords c ws).lbBad = false →
    (RunsNext s cmd .lbMigrate c ws → c.aux ≠ [3] →
      (∀ t, engMigrate (withWords c ws) m.shape leaves (afterRecord s c ws) = .ok (.done, t) → (∀ n ∈ t.net, n.src ≠ .cmd c.id) →
        UnitStep s (t.cmdDone (withWords c ws) false) (.engine (withWords c ws).mdie c.ctx) (exec (.lbMigrateRun cmd) s))
      ∧ (∀ t, engMigrate (withWords c ws) m.shape leaves (afterRecord s c ws) = .ok (.format, t) →
        UnitStep s ((afterRecord s c ws).lbReject (withWords c ws)) (.engine (withWords c ws).mdie c.ctx) (exec (.lbMigrateRun cmd) s))
      ∧ (∀ t p, engMigrate (withWords c ws) m.shape leaves (afterRecord s c ws) = .ok (.capacity p, t) →
        UnitStep s ((afterRecord s c ws).cmdReject (withWords c ws) .lbCapacity p) (.engine (withWords c ws).mdie c.ctx) (exec (.lbMigrateRun cmd) s)))
    ∧ (RunsNext s cmd .ghostSync c ws → c.aux ≠ [3] →
      (∀ t, engSync (withWords c ws) m.shape leaves (afterRecord s c ws) = .ok (.done, t) → (∀ n ∈ t.net, n.src ≠ .cmd c.id) →
        UnitStep s (t.cmdDone (withWords c ws) false) (.engine (withWords c ws).mdie c.ctx) (exec (.ghostSyncRun cmd) s))
      ∧ (∀ t, engSync (withWords c ws) m.shape leaves (afterRecord s c ws) = .ok (.format, t) →
        UnitStep s ((afterRecord s c ws).lbReject (withWords c ws)) (.engine (withWords c ws).mdie c.ctx) (exec (.ghostSyncRun cmd) s)))
    ∧ (RunsNext s cmd .lbMigrate c ws → c.aux ≠ [3] →
      ∀ t n, engMigrate (withWords c ws) m.shape leaves (afterRecord s c ws) = .ok (.done, t) → n ∈ t.net → n.src = .cmd c.id →
        UnitStep s (t.setCmd { withWords c ws with aux := [3] }) (.engine (withWords c ws).mdie c.ctx) (exec (.lbMigrateRun cmd) s))
    ∧ (s.ready cmd .lbMigrate = some c → c.aux = [3] → (∀ n ∈ s.net, n.src ≠ .cmd cmd) →
      exec (.lbMigrateRun cmd) s = .next (s.cmdDone { c with aux := [] } false))

namespace Sys2Proof.Claims

/-! ### The fabric -/

/-- A flit of a link that is up, which passes the checks of its CRC, incarnation and tag (R402, R404, R405, R410). -/
def Sound (s : State) (l : Nat) (k : LinkSt) (f : FlitIn) (control : Bool) : Prop :=
  s.link? l = some k ∧ s.fab.en = true ∧ k.up = true ∧ k.align = false ∧ s.rxCheck l k f control = none

/-- A flit type that a transfer or a request uses. -/
def FlitType.carries : FlitType → Bool
  | .req | .resp | .engine | .mcast => true
  | _ => false

/-- A cpyx that its engine takes first, or again from byte `d` after a fault (R224). -/
def FreshCopy (s : State) (cmd : Nat) (c : Cmd) (d : Nat) (far : Word) : Prop :=
  s.ready cmd .cpyx = some c ∧ c.resumeAt = some d ∧ far = (if spaceOf (c.words.getD 1 0) = 4 then c.words.getD 1 0 else c.words.getD 2 0)

end Sys2Proof.Claims

/-- R399, R414: a table that passes its checks waits for its rotation boundary; one that fails posts REGATTA_FORMAT with the offset of its
first failing field and completes with ERR. -/
def Sys2Proof.Claims.TableLoaded : Prop :=
  ∀ s cmd c ws bs t, RunsNext s cmd .rgLoad c ws → s.fab.pending = none → (withWords c ws).rgBad = false →
    engRead (withWords c ws) 32 0x8440 (ws.getD 2 0) 0 (afterRecord s c ws) = .ok (bs, t) →
    (∀ hs, tableParse t.chip bs = .ok hs →
        exec (.rgLoadRun cmd) s = .next { t with fab := { t.fab with pending := some ⟨cmd, hs, (ws.getD 3 0).toNat⟩ } })
    ∧ (∀ off, tableParse t.chip bs = .error off →
        UnitStep s ((t.fabRecord none 0 .regattaFormat off).cmdDone (withWords c ws) true) (.engine (withWords c ws).mdie c.ctx) (exec (.rgLoadRun cmd) s))

/-- R398, R399: a table that the check accepts has 1 to 16 heats, each with a DUR of 1 µs to 10 ms and a GUARD of 500 ns to 100 µs, and maps
and reaches no port to the chip itself. -/
def Sys2Proof.Claims.AcceptedTables : Prop :=
  ∀ chip bs hs, tableParse chip bs = .ok hs → 1 ≤ hs.length ∧ hs.length ≤ 16
    ∧ (∀ h ∈ hs, 1000 ≤ h.dur ∧ h.dur ≤ 10000000 ∧ 500 ≤ h.guard ∧ h.guard ≤ 100000 ∧ (∀ m ∈ h.pmap, m.1 < 16 ∧ m.2 ≠ chip ∧ groupOf m.2 = groupOf chip))

/-- R399, R415: at the rotation boundary the pending table takes effect from its heat 0, and rg.load completes. -/
def Sys2Proof.Claims.TableSwitches : Prop :=
  ∀ s p, s.switchDue = some p → ∃ t, exec .regattaSwitch s = .next t ∧ t.fab.heats = p.heats ∧ t.fab.pending = none
    ∧ (∀ d ∈ t.cmds, d.id ≠ p.cmd)

/-- R398, R400: a heat that is not running begins after its GUARD, and one that is running ends after its DUR. -/
def Sys2Proof.Claims.HeatsRotate : Prop :=
  (∀ s h, s.heatNow = some h → s.fab.running = false → s.fab.since + 2 * h.guard ≤ s.now → s.switchDue = none →
    exec .heatStart s = .next (s.beginHeat ((s.fab.heat + 1) % s.fab.heats.length)))
  ∧ (∀ s h, s.heatNow = some h → s.fab.running = true → s.fab.since + 2 * h.dur ≤ s.now →
    ∃ t, exec .heatDurEnd s = .next t ∧ t.fab.running = false ∧ t.fab.since = s.fab.since + 2 * h.dur ∧ t.fab.paired = [] ∧ t.fab.heat = s.fab.heat)

/-- R404, R422: a flit that passes its checks and carries the number expected is accepted, and one for this chip acts; any other number
leaves everything but the count of failed tags as it was. -/
def Sys2Proof.Claims.FlitsReceived : Prop :=
  ∀ s l k f, Sound s l k f false → FlitType.carries f.type = true → s.unsplit f = false →
    (f.seq = k.rxnext → f.dst = s.chip → exec (.flitReceive l f) s = .next ((s.rxAccept l k).deliver l f))
    ∧ (f.seq = k.rxnext → f.dst ≠ s.chip → exec (.flitReceive l f) s = .next ((s.rxAccept l k).relay f))
    ∧ (f.seq ≠ k.rxnext → exec (.flitReceive l f) s = .next (s.setLink l { k with authRun := 0 }))

/-- R404, R422: a flit that fails its CRC changes nothing but the link: it is counted, and a NAK is queued unless one is out already. -/
def Sys2Proof.Claims.BrokenFlitsDropped : Prop :=
  ∀ s l k f, s.link? l = some k → s.fab.en = true → k.up = true → k.align = false → FlitType.carries f.type = true → s.unsplit f = false →
    f.crc = false → ∃ t k', exec (.flitReceive l f) s = .next t ∧ t.link? l = some k' ∧ k'.lcrc = satInc k.lcrc ∧ k'.rxnext = k.rxnext
      ∧ t.mem = s.mem ∧ t.net = s.net ∧ t.ctxs = s.ctxs ∧ t.fab.served = s.fab.served

/-- R404, R422: 200 ns after the first flit that no ACK covers, an ACK with the next number expected is queued. -/
def Sys2Proof.Claims.AcksSent : Prop :=
  ∀ s l k t0, s.link? l = some k → k.firstAt = some t0 → t0 + 400 ≤ s.now →
    ∃ t k', exec (.ackTimer l) s = .next t ∧ t.link? l = some k' ∧ k'.firstAt = none ∧ k'.accepted = 0
      ∧ k'.queues = k.queues ++ [(3, s.newFlit k.peer .ack (.ack k.rxnext false))]

/-- R404: an ACK frees the flits below its number. -/
def Sys2Proof.Claims.AcksFree : Prop :=
  ∀ s l k f next, Sound s l k f true → f.type = .ack → f.pay = .ack next false → (next + 4096 - k.acked) % 4096 ≤ k.buffer.length → k.roll = .idle →
    ∃ t k', exec (.ackReceive l f) s = .next t ∧ t.link? l = some k' ∧ k'.buffer = k.buffer.drop ((next + 4096 - k.acked) % 4096)
      ∧ k'.acked = next % 4096

/-- R404: 4 µs of mapped time without progress resend every flit that is not acknowledged. -/
def Sys2Proof.Claims.TimeoutResends : Prop :=
  ∀ s l k, s.link? l = some k → s.serves k.peer = true → k.up = true → k.buffer ≠ [] → k.ackAt + 8000 ≤ s.now →
    ∃ t k', exec (.resendTimeout l) s = .next t ∧ t.link? l = some k' ∧ k'.replay = k.buffer ∧ k'.resends = k.resends + 1
      ∧ (k.resends + 1 < 16 → k'.up = true) ∧ (16 ≤ k.resends + 1 → k'.up = false)

/-- R405: a rollover of the transmit key installs it at once and starts its count; a second one before the first is over is refused. -/
def Sys2Proof.Claims.KeysRoll : Prop :=
  (∀ s l k, s.link? l = some k → k.roll = .idle → exec (.keyRollover l true) s =
    .next ((s.setLink l { k with txep := !k.txep, kcnt := 0, roll := .rolling }).rollOn l))
  ∧ (∀ s l k, s.link? l = some k → k.rxprev = false → exec (.keyRollover l false) s = .next (s.setLink l { k with rxep := !k.rxep, rxprev := true }))
  ∧ (∀ s l k, s.link? l = some k → k.roll ≠ .idle → exec (.keyRollover l true) s = .next (s.fabRecord (some k) 0 .keyEpochRefused 0))
  ∧ (∀ s l k f, Sound s l k f false → f.type = .keyRetire → f.seq = k.rxnext →
    exec (.keyRetireReceive l f) s = .next (s.rxAccept l { k with rxprev := false }))

/-- R400, R404: a port that serves its link sends the first flit of a management queue before all others; a sequenced flit takes the next
number and stays in the replay buffer. -/
def Sys2Proof.Claims.FlitsSent : Prop :=
  ∀ s l k h f rest, s.link? l = some k → k.reads = [] → s.heatNow = some h → s.portsTo k.peer ≠ [] → s.fab.en = true → s.fab.running = true →
    k.up = true → k.queues = (3, f) :: rest → 0 < workCount k.txw (s.portsTo k.peer) →
    s.now + 4 * ((16 + workCount k.txw (s.portsTo k.peer) - 1) / workCount k.txw (s.portsTo k.peer)) ≤ s.fab.since + 2 * h.dur →
    k.kcnt < 2 ^ 32 - 1 → k.buffer.length < 512 →
    ∃ t k', exec (.flitSend l) s = .next t ∧ t.link? l = some k' ∧ k'.queues = rest ∧ k'.kcnt = k.kcnt + 1
      ∧ (FlitTypeSequenced f.type = false → k'.buffer = k.buffer ∧ k'.txnext = k.txnext)
      ∧ (FlitTypeSequenced f.type = true → k'.txnext = (k.txnext + 1) % 4096 ∧ ∃ g, k'.buffer = k.buffer ++ [g] ∧ g.seq = k.txnext ∧ g.pay = f.pay)

/-- R406: a port whose monitors lose wavelengths reports them and asks its peer to stop using them; a link none of whose wavelengths works
goes down. -/
def Sys2Proof.Claims.LightLost : Prop :=
  ∀ s n lost k, s.link? (n % 32) = some k → s.fab.running = true → n / 32 ∈ s.portsTo k.peer → lost ≠ 0 →
    workOf k.rxw (n / 32) &&& BitVec.toNat lost = lost.toNat →
    ∃ t k', exec (.lossOfLightDetect n lost) s = .next t ∧ t.link? (n % 32) = some k' ∧ workOf k'.rxw (n / 32) = workOf k.rxw (n / 32) - lost.toNat
      ∧ k'.align = true ∧ (workCount k'.rxw (s.mappedPorts k.peer) = 0 → k'.up = false)

/-- R406: a sender takes a LANE mask as the working set of its port, sends an IDLE and replays; an empty set takes the link down. -/
def Sys2Proof.Claims.LanesTaken : Prop :=
  ∀ s n k f mask, s.link? (n % 32) = some k → s.fab.en = true → k.pinc.isSome = true → f.type = .lane → f.pay = .lane mask →
    n / 32 ∈ s.portsTo k.peer → s.rxCheck (n % 32) k f true = none →
    ∃ t k', exec (.laneReceive n f) s = .next t ∧ t.link? (n % 32) = some k' ∧ workOf k'.txw (n / 32) = mask % 2 ^ 16

/-- R406: a wavelength whose light has been steady for 1 ms rejoins at a heat that maps its link. -/
def Sys2Proof.Claims.WavelengthsRejoin : Prop :=
  ∀ s l k x t0, s.link? l = some k → x < 256 → k.steady.find? (fun e => e.1 = 0 && e.2.1 = x) = some (0, x, t0) → s.serves k.peer = true →
    t0 + 2000000 ≤ s.fab.since →
    ∃ t k', exec (.wavelengthRejoin l x) s = .next t ∧ t.link? l = some k' ∧ workOf k'.rxw (x / 16) = (workOf k.rxw (x / 16) ||| 2 ^ (x % 16))
      ∧ (k.downAt.isSome = true → k'.up = true)

/-- R407: what waits on a link that has been down for 10 ms fails: its requests are answered REMOTE_FAILED and its copies stop. -/
def Sys2Proof.Claims.DownLinksFail : Prop :=
  ∀ s l k t0 o, s.link? l = some k → k.downAt = some t0 → t0 + 20000000 ≤ s.now → o ∈ s.fab.out →
    (s.fabRoute o.chip).any (fun t => t.1 = l) = true →
    exec (.linkDownTimeout l) s = .next (s.failPeer l 0xAA (fun o => (s.fabRoute o.chip).any (fun t => t.1 = l)))

/-- R410: a peer's first incarnation brings its link up; a later one fails what waits for the old peer, forgets what it held, and posts
PEER_RESET. -/
def Sys2Proof.Claims.PeersRejoin : Prop :=
  (∀ s chip inc l k, s.linkOf chip = some (l, k) → inc < 256 → k.pinc = none → s.fab.en = true →
    exec (.peerIncarnationChange chip inc) s = .next (s.setLink l { k with pinc := some inc, up := true, downAt := none }))
  ∧ (∀ s chip inc l k old, s.linkOf chip = some (l, k) → inc < 256 → k.pinc = some old → old ≠ inc → s.fab.en = true →
    ∃ t, exec (.peerIncarnationChange chip inc) s = .next t ∧ (∀ c ∈ t.fab.copies, c.chip ≠ chip) ∧ (∀ h ∈ t.fab.held, h.chip ≠ chip)
      ∧ (∀ v ∈ t.fab.served, v.chip ≠ chip) ∧ (∀ r ∈ t.fab.refused, r.1 ≠ chip))

/-- R397, R415: a laser that fails is listed. -/
def Sys2Proof.Claims.LasersFail : Prop :=
  ∀ s p, p < 64 → p ∉ s.fab.lasers → exec (.laserFault p) s = .next { s with fab := { s.fab with lasers := p :: s.fab.lasers } }

/-- R396, R411: a cpyx to a chip of another group, or to one that no port reaches, faults with CPY_REMOTE; one that sends to a peer whose
engine channel is free opens its transfer, and one that fetches asks the peer for the bytes; one that names this chip moves granules. -/
def Sys2Proof.Claims.CrossCopiesRun : Prop :=
  ∀ s cmd c d far, FreshCopy s cmd c d far →
    (groupOf (chipOf far) ≠ groupOf s.chip → exec (.cpyxRun cmd) s = .next (s.cmdFault c (engFault .cpyRemote far 0xB3)))
    ∧ (groupOf (chipOf far) = groupOf s.chip → chipOf far ≠ s.chip → s.fabRoute (chipOf far) = none →
        exec (.cpyxRun cmd) s = .next ((s.fabRecord none 0 .fabNoroute (chipOf far)).cmdFault c (engFault .cpyRemote far 0xB3)))
    ∧ (∀ l k, groupOf (chipOf far) = groupOf s.chip → chipOf far ≠ s.chip → s.fabRoute (chipOf far) = some (l, k) → k.full 2 = false →
        k.chan = none → spaceOf (c.words.getD 1 0) = 4 →
        exec (.cpyxRun cmd) s = .next (((s.setLink l { k with chan := if c.w 3 ≤ d then none else some (s.chip, cmd) }).setCmd
          { c with aux := txAux d [] }).fabPut l 2 (s.newFlit (chipOf far) .engine
            (.openWrite cmd (addOffset (c.words.getD 1 0) (d : Nat)).1 (c.w 3 - d) c.req.user))))
    ∧ (∀ l k, groupOf (chipOf far) = groupOf s.chip → chipOf far ≠ s.chip → s.fabRoute (chipOf far) = some (l, k) → k.full 2 = false →
        k.chan = none → spaceOf (c.words.getD 1 0) ≠ 4 →
        exec (.cpyxRun cmd) s = .next (((s.setCmd { c with aux := [2] }).fabPut l 2 (s.newFlit (chipOf far) .engine
            (.openRead cmd (addOffset (c.words.getD 2 0) (d : Nat)).1 (c.w 3 - d) c.req.user))).rxOpen s.chip cmd
          (addOffset (c.words.getD 1 0) (d : Nat)).1 (c.w 3 - d) c.req.user))
    ∧ (chipOf far = s.chip → ∃ t, exec (.cpyxRun cmd) s = .next t ∧ t.net.length = s.net.length + c.w 3 / 32 ∧ t.mem = s.mem)

/-- R411, R412: a completion with code 0 completes the command; any other code stops it with the fault it stands for, at the byte
that the completion names. -/
def Sys2Proof.Claims.CrossCopiesComplete : Prop :=
  ∀ s cmd c d, s.cmd? cmd = some c → c.phase = .running → c.fault = none → (c.req.kind = .cpyx ∨ c.req.kind = .mcx) →
    s.fab.dones.find? (fun d => d.1 = cmd) = some d →
    let far := if c.req.kind = .cpyx ∧ spaceOf (c.words.getD 1 0) ≠ 4 then c.words.getD 2 0 else c.words.getD 1 0
    let n := if d.2.addr = 0 then 0 else offsetOf d.2.addr - offsetOf far
    (d.2.code = 0 → exec (.cpyxCompletion cmd) s = .next ((s.dropTransfer cmd).cmdDone c false))
    ∧ (d.2.code ≠ 0 → exec (.cpyxCompletion cmd) s
        = .next ((s.dropTransfer cmd).cmdFault { c with aux := s.restartAux c n } (d.2.fault (addOffset far (n : Nat)).1)))

/-- R412: mcx hands its switch a descriptor with the members that its string names, the chip itself left out. -/
def Sys2Proof.Claims.MulticastStarts : Prop :=
  ∀ s cmd c bs, s.ready cmd .mcx = some c → c.aux = [] → engRead c 8 128 (c.words.getD 9 0) 0 s = .ok (bs, s) →
    ∃ t d, exec (.mcxRun cmd) s = .next t ∧ t.fab.mcasts = s.fab.mcasts ++ [d] ∧ d.org = s.chip ∧ d.cmd = cmd ∧ d.dst = c.words.getD 1 0
      ∧ d.len = c.w 3 ∧ d.user = c.req.user ∧ (∀ i, i ∈ d.members ↔ i < 1024 ∧ natBit (leNat bs) i = 1 ∧ i ≠ s.chip % 1024)

/-- R412, R413: the switch splits a descriptor over the ports of the present heat, once their engine channels are free: each link gets a
copy with its own members. -/
def Sys2Proof.Claims.MulticastSplits : Prop :=
  ∀ s m d h, s.fab.mcasts[m]? = some d → s.heatNow = some h → d.links = none → s.fab.running = true → mcastMissed h d.members = [] →
    (∀ l k, s.link? l = some k → k.chan = none ∧ k.full 2 = false) →
    ∃ t, exec (.mcastSplit m) s = .next t ∧ t.mem = s.mem ∧ (∀ e ∈ t.fab.mcasts, e.org = d.org → e.cmd = d.cmd → e.links.isSome = true)

namespace Sys2Proof.Claims

/-! ### The cluster router -/

/-- A router command that has reached its router in order (R240). -/
def AtRouter (s : State) (m : Nat) (msg : Msg) (r : RtReq) (cl : Nat) (user : Bool) (x : Ctx) : Prop := s.rtMsg m = some (msg, r, cl, user, x)

/-- The stages that a declaration asks for, with the initial statistics of R249. -/
def declared (w : List Nat) : List RtStage :=
  (List.range (natBits (w.getD 0 0) 3 3 + 1)).map (fun i =>
    ⟨natBits (w.getD (2 + i) 0) 0 2, natBits (w.getD (2 + i) 0) 8 8, 32768, max 1 (natBits (w.getD (2 + i) 0) 16 16), 0, 0, 0⟩)

end Sys2Proof.Claims

/-- R242: a declaration that reads well opens its IDLE set with its stages; one that fails posts ROUTER_DECL with the offset of its first
failing field, and a set that is not IDLE is left as it is. -/
def Sys2Proof.Claims.SetsDeclared : Prop :=
  ∀ s m msg p cl user x w, AtRouter s m msg (.decl p) cl user x → s.rtDeclRead x user p = some w →
    (rtDeclBad w = none → ((s.cluster cl).set (natBits (w.getD 0 0) 0 2)).state = .idle →
      ∃ t, exec (.routerCmdDecl m) s = .next t
        ∧ ((t.cluster cl).set (natBits (w.getD 0 0) 0 2)) = { RtSet.reset with
            state := .open_, ordered := natBit (w.getD 0 0) 2 = 1, rsz := 64 * (natBits (w.getD 0 0) 6 2 + 1), logw := natBits (w.getD 0 0) 8 5
            twin := natBits (w.getD 0 0) 16 16, stages := declared w, wstart := s.now })
    ∧ (∀ off, rtDeclBad w = some off → exec (.routerCmdDecl m) s =
        .next ((s.dropMsg m).postRouter cl .routerDecl (natBits (w.getD 0 0) 0 2) 0 (sidOf x) p 0 off))
    ∧ (rtDeclBad w = none → ((s.cluster cl).set (natBits (w.getD 0 0) 0 2)).state ≠ .idle →
        exec (.routerCmdDecl m) s = .next ((s.dropMsg m).postRouter cl .routerDecl (natBits (w.getD 0 0) 0 2) 0 (sidOf x) p 0 0))

/-- R240, R245: once no push that came before it can be served, a push of an OPEN set is accepted when there is room and no push of the set is
held, and held otherwise; any other push posts ROUTER_SET. -/
def Sys2Proof.Claims.RecordsPushed : Prop :=
  ∀ s m msg set p tag cl user x, AtRouter s m msg (.push set p tag) cl user x → m ∉ (s.cluster cl).held →
    s.rtAdmissible cl = none →
    ((s.cluster cl).pushBad set p = true → exec (.routerCmdPush m) s = .next ((s.dropMsg m).postRouter cl .routerSet set 0 (sidOf x) p 0 0))
    ∧ ((s.cluster cl).pushBad set p = false → (s.cluster cl).room set 1 = true → s.rtHeld cl set = false →
        UnitStep s ((s.dropMsg m).rtAccept cl set p tag (sidOf x)) (.unit (cl / 4)) (exec (.routerCmdPush m) s))
    ∧ ((s.cluster cl).pushBad set p = false → ((s.cluster cl).room set 1 = false ∨ s.rtHeld cl set = true) →
        exec (.routerCmdPush m) s = .next (s.setCluster cl { s.cluster cl with held := (s.cluster cl).held ++ [m] }))

/-- R240, R245: a held push is accepted once there is room for it, in the order in which pushes were held; where its set has closed it posts
ROUTER_SET. -/
def Sys2Proof.Claims.HeldPushAdmitted : Prop :=
  ∀ s m msg set p tag cl user x rest, AtRouter s m msg (.push set p tag) cl user x → (s.cluster cl).held = m :: rest → m ∉ rest →
    let s1 := (s.setCluster cl { s.cluster cl with held := rest }).dropMsg m
    ((s.cluster cl).pushBad set p = false → (s.cluster cl).room set 1 = true →
      UnitStep s (s1.rtAccept cl set p tag (sidOf x)) (.unit (cl / 4)) (exec (.routerPushAdmit m) s))
    ∧ ((s.cluster cl).pushBad set p = true → exec (.routerPushAdmit m) s = .next (s1.postRouter cl .routerSet set 0 (sidOf x) p 0 0))

/-- R246: a take is answered with the record that was routed first among its queues, which is TAKEN; with its set IDLE it delivers 0;
otherwise, or where a take that came before it can be served, it waits. The POISON form never waits. -/
def Sys2Proof.Claims.RecordsTaken : Prop :=
  (∀ s m msg set mask cl user x, AtRouter s m msg (.take set false mask) cl user x → m ∉ (s.cluster cl).takes →
    (((s.cluster cl).set set).state = .idle → s.rtServable cl = none → exec (.routerCmdTake m) s = .next (s.answer msg (.val (some 0))))
    ∧ ((((s.cluster cl).set set).state ≠ .idle ∧ (s.cluster cl).takeable set mask = none ∨ s.rtServable cl ≠ none) →
        exec (.routerCmdTake m) s = .next (s.setCluster cl { s.cluster cl with takes := (s.cluster cl).takes ++ [m] }))
    ∧ (∀ r i, ((s.cluster cl).set set).state ≠ .idle → s.rtServable cl = none → (s.cluster cl).takeable set mask = some (r, i) →
        exec (.routerCmdTake m) s = .next ((s.setCluster cl { s.cluster cl with recs := (s.cluster cl).recs.map (fun q =>
          if q.ptr = r.ptr then { q with at_ := .taken x.id (sidOf x) i (s.ac16 (networkIsland cl)) } else q) }).answer msg (.val (some (r.ptr + BitVec.ofNat 64 i))))))
  ∧ (∀ s m msg set mask cl user x, AtRouter s m msg (.take set true mask) cl user x → m ∉ (s.cluster cl).takes →
    ((s.cluster cl).poison = [] → exec (.routerCmdTake m) s = .next (s.answer msg (.val (some 0))))
    ∧ (∀ p ps, (s.cluster cl).poison = p :: ps →
        exec (.routerCmdTake m) s = .next ((s.setCluster cl { s.cluster cl with poison := ps }).answer msg (.val (some p)))))

/-- R246: the first waiting take that can be served is served as if it had just come. -/
def Sys2Proof.Claims.WaitingTakeServed : Prop :=
  ∀ s m msg set poison mask cl user x rest t, AtRouter s m msg (.take set poison mask) cl user x → (s.cluster cl).takes = m :: rest →
    s.rtServe msg cl set mask x = some t →
    exec (.routerTakeServe m) s = .next (t.setCluster cl { t.cluster cl with takes := (t.cluster cl).takes.filter (· ≠ m) })

/-- R247: a done of a record that its strand took at the stage counts at the stage, and a PASS routes the record on while a DROP takes it
out; any other done posts ROUTER_STALE. -/
def Sys2Proof.Claims.RecordsDone : Prop :=
  ∀ s m msg p stage outcome cl user x, AtRouter s m msg (.done p stage outcome) cl user x →
    (∀ r sid t0, (s.cluster cl).recs.find? (fun r => r.ptr = p && (match r.at_ with | .taken c _ i _ => c = x.id && i = stage | _ => false)) = some r →
      r.at_ = .taken x.id sid stage t0 →
      let s2 := (s.dropMsg m).setCluster cl ((s.cluster cl).setSet r.set (((s.cluster cl).set r.set).count stage ((s.ac16 (networkIsland cl) - t0) / 16) (outcome = 1)))
      (outcome = 1 → UnitStep s (s2.rtRoute cl { r with done := r.done ||| 2 ^ stage }) (.unit (cl / 4)) (exec (.routerCmdDone m) s))
      ∧ (outcome = 0 → UnitStep s (s2.rtLeave cl { r with done := r.done ||| 2 ^ stage, drop := true } false) (.unit (cl / 4)) (exec (.routerCmdDone m) s))
      ∧ (outcome = 2 → UnitStep s ((s.dropMsg m).rtFault cl r stage (sidOf x)) (.unit (cl / 4)) (exec (.routerCmdDone m) s)))
    ∧ ((∀ r ∈ (s.cluster cl).recs, r.ptr ≠ p) →
      UnitStep s ((s.dropMsg m).postRouter cl .routerStale 0 stage (sidOf x) p 0 0) (.unit (cl / 4)) (exec (.routerCmdDone m) s))

/-- R242, R249: a set whose window has been open for TWIN µs closes it. -/
def Sys2Proof.Claims.WindowCloses : Prop :=
  ∀ s cl n, ((s.cluster cl).set n).state ≠ .idle → ((s.cluster cl).set n).twin ≠ 0 →
    ((s.cluster cl).set n).wstart + 2000 * ((s.cluster cl).set n).twin ≤ s.now →
    ∃ t, exec (.routerWindowTimer cl n) s = .next t ∧ ((t.cluster cl).set n).wcount = 0 ∧ ((t.cluster cl).set n).wstart = s.now
      ∧ ((t.cluster cl).set n).stages = ((s.cluster cl).set n).stages.map RtStage.close

/-- R249: as a window closes, a stage that saw records takes F and C from its counters, and every counter is 0; one that saw none keeps F
and C. -/
def Sys2Proof.Claims.StageCloses : Prop :=
  ∀ g : RtStage, g.close.n = 0 ∧ g.close.pass = 0 ∧ g.close.csum = 0 ∧ g.close.kind = g.kind ∧ g.close.hwm = g.hwm
    ∧ (g.n ≠ 0 → g.close.f = 65536 * (g.n - g.pass) / g.n ∧ g.close.c = min 65535 (max 1 (g.csum / g.n)))
    ∧ (g.n = 0 → g.close.f = g.f ∧ g.close.c = g.c)

/-- R248: with one stage left that is no EFFECT, a record is queued there without a draw; with none, an EFFECT stage takes it, or it leaves;
with several the lottery steps once and picks among them. -/
def Sys2Proof.Claims.RecordsRouted : Prop :=
  ∀ (s : State) (cl : Nat) (r : RtRec), let k := s.cluster cl
    let k0 := { k with recs := k.recs.filter (fun q => q.ptr ≠ r.ptr) }
    (∀ i, (k.set r.set).todo r (· ≠ 2) = [i] → s.rtRoute cl r = s.setCluster cl (k0.enqueue r (.queued i)))
    ∧ ((k.set r.set).todo r (· ≠ 2) = [] → (k.set r.set).todo r (· = 2) = [] → s.rtRoute cl r = s.rtLeave cl r false)
    ∧ (2 ≤ ((k.set r.set).todo r (· ≠ 2)).length → ∃ i ∈ (k.set r.set).todo r (· ≠ 2),
        s.rtRoute cl r = s.setCluster cl ({ k0 with lfsr := rtLfsrStep k.lfsr }.enqueue r (.queued i)))

/-- R250: rt.stat answers with the item that its selector names, after its set's window has been closed where it asks for that. -/
def Sys2Proof.Claims.StatisticsRead : Prop :=
  (∀ s m msg sel cl user x, AtRouter s m msg (.stat sel false) cl user x →
    exec (.routerCmdStat m) s = .next ((s.setCluster cl (s.cluster cl)).answer msg (.val (some (BitVec.ofNat 64 ((s.cluster cl).statItem sel))))))
  ∧ (∀ s m msg sel cl user x, AtRouter s m msg (.stat sel true) cl user x →
    let k1 := (s.cluster cl).setSet (natBits sel 0 2) (((s.cluster cl).set (natBits sel 0 2)).close s.now)
    exec (.routerCmdStat m) s = .next ((s.setCluster cl k1).answer msg (.val (some (BitVec.ofNat 64 (k1.statItem sel))))))

/-- R250: rt.drain of an IDLE set delivers 0; of an OPEN set with nothing in flight, it becomes IDLE, the count of records that left is
delivered, and the takes that wait for it deliver 0; otherwise the set is DRAINING and the answer waits. -/
def Sys2Proof.Claims.SetsDrained : Prop :=
  ∀ s m msg n cl user x, AtRouter s m msg (.drain n) cl user x → m ∉ ((s.cluster cl).set n).drains →
    (((s.cluster cl).set n).state = .idle → exec (.routerCmdDrain m) s = .next (s.answer msg (.val (some 0))))
    ∧ (((s.cluster cl).set n).state = .open_ → (s.cluster cl).inflight n = 0 →
        let t := s.setCluster cl ((s.cluster cl).setSet n { (s.cluster cl).set n with state := .idle })
        exec (.routerCmdDrain m) s = .next (t.rtIdle cl n ((s.cluster cl).set n).left [m])
        ∧ ((s.cluster cl).takes = [] → exec (.routerCmdDrain m) s = .next (t.answer msg (.val (some (BitVec.ofNat 64 ((s.cluster cl).set n).left))))))
    ∧ (((s.cluster cl).set n).state = .open_ → (s.cluster cl).inflight n ≠ 0 →
        exec (.routerCmdDrain m) s = .next (s.setCluster cl ((s.cluster cl).setSet n
          { (s.cluster cl).set n with state := .draining, drains := ((s.cluster cl).set n).drains ++ [m] })))

/-- R250: rt.seed sets RTLFSR. -/
def Sys2Proof.Claims.LotterySeeded : Prop :=
  ∀ s m msg v cl user x, AtRouter s m msg (.seed v) cl user x →
    ∃ t, exec (.routerCmdSeed m) s = .next t ∧ (t.cluster cl).lfsr = BitVec.ofNat 32 v ∧ t.net = (s.dropMsg m).net ∧ t.mem = s.mem

namespace Sys2Proof.Claims

/-! ### Device registers -/

/-- A write may reach the register at `off` now: the firmware runs and no write that the host sent before is outstanding (R279, R393). -/
def Writable (s : State) (off : Nat) (r : DevReg) : Prop := devReg off = r ∧ s.xdie.firmware = true ∧ ∀ m ∈ s.net, m.src ≠ .host

/-- The offset of register `r` of core `n`, of cluster `n`, and of die `d` (R375). -/
def coreOff (n r : Nat) : Nat := n / 64 * 0x400000 + 0x10000 + n % 64 * 256 + r
def clusterOff (n r : Nat) : Nat := n / 4 * 0x400000 + 0x8000 + n % 4 * 256 + r
def dieOff (d r : Nat) : Nat := d * 0x400000 + r

end Sys2Proof.Claims

/-- R188, R235, R375, R376, R383: where the registers of dies, cores, clusters and translation blocks lie in device-register space. -/
def Sys2Proof.Claims.RegisterMap : Prop :=
  (∀ n, n < 512 → devReg (coreOff n 0) = .cid n ∧ devReg (coreOff n 8) = .cctl n ∧ devReg (coreOff n 0x10) = .slotst n ∧ devReg (coreOff n 0x18) = .meuse n
      ∧ devReg (coreOff n 0x20) = .mxcfg n ∧ devReg (coreOff n 0x28) = .mxslot n ∧ devReg (coreOff n 0x30) = .mxpend n ∧ devReg (coreOff n 0x38) = .mxpos n
      ∧ devReg (coreOff n 0x40) = .cerr n)
  ∧ (∀ n, n < 32 → devReg (clusterOff n 0) = .clid n ∧ devReg (clusterOff n 8) = .rtlfsr n ∧ devReg (clusterOff n 0x10) = .rtstat n
      ∧ devReg (clusterOff n 0x18) = .rtsel n ∧ devReg (clusterOff n 0x20) = .rtdata n ∧ ∀ i, i < 16 → devReg (clusterOff n (0x40 + 8 * i)) = .mcgrp n i)
  ∧ (∀ d, d < 13 → devReg (dieOff d 0) = .fqbase d ∧ devReg (dieOff d 8) = .fqctl d ∧ devReg (dieOff d 0x10) = .fqhead d ∧ devReg (dieOff d 0x18) = .fqtail d
      ∧ devReg (dieOff d 0x20) = .fqovf d ∧ devReg (dieOff d 0x28) = .dstate d ∧ (d < 8 → devReg (dieOff d 0x30) = .drst d))
  ∧ (∀ j, 8 ≤ j → j < 12 → devReg (dieOff j 0x1000) = .hepoch j ∧ devReg (dieOff j 0x1008) = .hfwd j ∧ devReg (dieOff j 0x1010) = .hreloc j
      ∧ devReg (dieOff j 0x2000) = .tlbsel j ∧ devReg (dieOff j 0x2008) = .tlbva j ∧ devReg (dieOff j 0x2010) = .tlbpa j ∧ devReg (dieOff j 0x2018) = .tlbcmd j)

/-- R181, R188, R235: a write of CCTL.SCINV empties its core's sector cache, a write of the peak of MEUSE starts it afresh, and RTLFSR takes
the value written. -/
def Sys2Proof.Claims.CoreRegistersWritten : Prop :=
  (∀ s off n v, Writable s off (.rtlfsr n) →
    ∃ t, exec (.rtlfsrWrite off v) s = .next t ∧ (t.cluster n).lfsr = BitVec.ofNat 32 v.toNat ∧ t.devGet off = v.toNat % 2 ^ 32)
  ∧ (∀ s off n v, Writable s off (.cctl n) → ∃ t, exec (.scinvWrite off v) s = .next t ∧ (v.toNat % 2 = 1 → (t.core n).cache = [])
      ∧ (v.toNat % 2 = 0 → t = s) ∧ t.devGet off = 0)
  ∧ (∀ s off n v, Writable s off (.meuse n) → ∃ t, exec (.meusePeakClear off v) s = .next t
      ∧ (natBits v.toNat 16 12 ≠ 0 → t = s.setCore n { s.core n with peak := s.missUse n }) ∧ (natBits v.toNat 16 12 = 0 → t = s))

/-- R186, R187: writes of MXSLOT and MXCFG wait in the pending table, dated by the core's matrix clock; they take effect together when the
rotation next passes from 1023 to 0, and until the event that records it a reader of the table sees the one in effect. -/
def Sys2Proof.Claims.SlotTableSwitches : Prop :=
  (∀ s off n v, Writable s off (.mxslot n) → s.tableDue n = false → ∃ t, exec (.mxslotWrite off v) s = .next t
      ∧ t = s.setCore n { s.core n with pendSlot := tableStored v, pendAt := some (s.matrixAc n) } ∧ (t.core n).mxslot = (s.core n).mxslot)
  ∧ (∀ s off n v, Writable s off (.mxcfg n) → s.tableDue n = false → exec (.mxslotWrite off v) s =
      .next (s.setCore n { s.core n with pendStrict := v.toNat % 2 = 1, pendAt := some (s.matrixAc n) }))
  ∧ (∀ s off n v, Writable s off (.mxslot n) → s.tableDue n = true → ∃ t, exec (.mxslotWrite off v) s = .next t
      ∧ (t.core n).mxslot = (s.core n).pendSlot ∧ (t.core n).strict = (s.core n).pendStrict ∧ (t.core n).pendSlot = tableStored v
      ∧ (t.core n).pendAt = some (s.matrixAc n))
  ∧ (∀ (s : State) n, s.tableDue n = true → s.slotTable n = ((s.core n).pendSlot, (s.core n).pendStrict))
  ∧ (∀ s n t0, (s.core n).pendAt = some t0 → (t0 - (s.core n).resetAt) / 1024 < (s.matrixAc n - (s.core n).resetAt) / 1024 →
      (∀ x ∈ s.ctxs, x.core = n → x.place ≠ .active ∨ ∀ ex, x.cur = some ex → ex.mx.seq = none) →
      exec (.slotTableSwitch n) s = .next (s.setCore n { s.core n with mxslot := (s.core n).pendSlot, strict := (s.core n).pendStrict, pendAt := none }))

/-- R377: a write of 1 to DRST resets the die: it is RESET, it has no strands, and its memory stands. -/
def Sys2Proof.Claims.DieReset : Prop :=
  ∀ s off d v, Writable s off (.drst d) → d < 8 →
    (v.toNat % 2 = 0 → exec (.drstWrite off v) s = .next s)
    ∧ (v.toNat % 2 = 1 → (s.die d).dstate = 0 → ∃ t, exec (.drstWrite off v) s = .next t ∧ (t.die d).dstate = 1 ∧ (t.die d).cause = 0
        ∧ (∀ x ∈ t.ctxs, dieOf x.core ≠ d) ∧ (∀ x ∈ s.ctxs, dieOf x.core ≠ d → x ∈ t.ctxs) ∧ t.mem = s.mem ∧ (t.die d).fqbase = (s.die d).fqbase)

/-- R380: a doorbell within the ring sets LQTAIL; one beyond it is LAUNCH_FORMAT, and before the features are negotiated it does nothing. -/
def Sys2Proof.Claims.DoorbellRings : Prop :=
  ∀ s off q v, Writable s off (.lqtail q) →
    (s.xdie.featDone = true → (v.toNat + 2 ^ 64 - (s.lq q).head) % 2 ^ 64 ≤ 2 ^ (s.lq q).logn →
      exec (.launchDoorbell off v) s = .next (s.setLq q { s.lq q with tail := v.toNat }))
    ∧ (s.xdie.featDone = true → 2 ^ (s.lq q).logn < (v.toNat + 2 ^ 64 - (s.lq q).head) % 2 ^ 64 →
      exec (.launchDoorbell off v) s = .next (s.packageRecord 12 12 0 .launchFormat 0 none))
    ∧ (s.xdie.featDone = false → exec (.launchDoorbell off v) s = .next s)

/-- R375, R381, R386, R388: MSITRIG raises the vectors from 128, FEATCTL negotiates once, BAR2MAP takes an aligned global pointer, and an
island's MAX lies between 4 and 16. -/
def Sys2Proof.Claims.PackageRegistersWritten : Prop :=
  (∀ s off v, Writable s off .msitrig → (128 ≤ v.toNat ∧ v.toNat < 2048 → exec (.msitrigWrite off v) s = .next { s with msix := s.msix ++ [v.toNat] })
      ∧ (¬ (128 ≤ v.toNat ∧ v.toNat < 2048) → exec (.msitrigWrite off v) s = .next s))
  ∧ (∀ s off v, Writable s off .featctl → v.toNat % 2 = 1 → s.xdie.featDone = false → ∃ t, exec (.featureCommit off v) s = .next t
      ∧ t.xdie.featDone = true ∧ t.xdie.featNeg[0] = (0x3F &&& s.xdie.featEn[0]) ∧ t.xdie.featNeg[1] = 0 ∧ t.xdie.featNeg[2] = 0 ∧ t.xdie.featNeg[3] = 0)
  ∧ (∀ s off v, Writable s off .featctl → s.xdie.featDone = true → exec (.featureCommit off v) s = .next s)
  ∧ (∀ s off v, Writable s off .bar2map →
      (spaceOf v = 0 → (globalOwner v).isSome = true → offsetOf v % s.xdie.bar2Size = 0 →
        exec (.bar2mapWrite off v) s = .next { s with xdie := { s.xdie with bar2 := v } })
      ∧ (spaceOf v ≠ 0 → exec (.bar2mapWrite off v) s = .next s))
  ∧ (∀ s off i v, Writable s off (.island i) → ∃ t, exec (.islandMaxWrite off v) s = .next t
      ∧ t.island i = { s.island i with max := max 4 (min 16 (natBits v.toNat 8 5)) })

/-- R4, R376, R380, R415: a write of another register puts its value in the fields that can be written; counters that are W1C lose the bits
written as 1; a register that only reads, and an offset that names none, ignore the write. -/
def Sys2Proof.Claims.RegistersWritten : Prop :=
  (∀ s off d v, Writable s off (.fqbase d) → exec (.registerWrite off v) s = .next (s.setDie d { s.die d with fqbase := v }))
  ∧ (∀ s off d v, Writable s off (.fqctl d) → exec (.registerWrite off v) s = .next (s.setDie d { s.die d with logn := min 16 (v.toNat % 32) }))
  ∧ (∀ s off d v, Writable s off (.fqhead d) → exec (.registerWrite off v) s = .next (s.setDie d { s.die d with head := v.toNat % 2 ^ 16 }))
  ∧ (∀ s off d v, Writable s off (.fqovf d) →
      exec (.registerWrite off v) s = .next (s.setDie d { s.die d with lost := (s.die d).lost - ((s.die d).lost &&& natBits v.toNat 0 32) }))
  ∧ (∀ s off q v, Writable s off (.lqctl q) → exec (.registerWrite off v) s =
      .next (s.setLq q { s.lq q with logn := v.toNat % 32, en := natBit v.toNat 5 = 1, irq := natBit v.toNat 6 = 1 }))
  ∧ (∀ s off r v, Writable s off r → ((∃ d, r = .fqtail d ∨ r = .dstate d ∨ r = .clid d ∨ r = .cid d ∨ r = .slotst d ∨ r = .mxpend d ∨ r = .mxpos d
        ∨ r = .hepoch d ∨ r = .hfwd d ∨ r = .lqhead d ∨ r = .featcap d ∨ r = .featneg d ∨ r = .plight d) ∨ r = .none) →
      exec (.registerWrite off v) s = .next s)

/-- R383, R384: TLBCMD.WRITE with fields that R383 accepts enters VA and PA in the selected entry and clears ERR, READ shows an entry, and
INVAL clears entries' V bits; a command that replaces or clears an entry is BUSY until nothing in flight uses the old translation. -/
def Sys2Proof.Claims.TranslationsCommanded : Prop :=
  ∀ s off j v, Writable s off (.tlbcmd j) → (s.tlb j).busy = none →
    (natBits v.toNat 0 2 = 1 → tlbRefused (s.tlb j).va (s.tlb j).pa = false → ∃ t, exec (.tlbWrite off v) s = .next t
      ∧ (t.tlb j).entry (s.tlb j).sel = ((s.tlb j).va, (s.tlb j).pa) ∧ (t.tlb j).err = false
      ∧ (∀ i, i ≠ (s.tlb j).sel → (t.tlb j).entry i = (s.tlb j).entry i) ∧ ((t.tlb j).busy.isSome = decide (natBit ((s.tlb j).entry (s.tlb j).sel).1.toNat 7 = 1)))
    ∧ (natBits v.toNat 0 2 = 1 → tlbRefused (s.tlb j).va (s.tlb j).pa = true →
      exec (.tlbWrite off v) s = .next (s.setTlb j { s.tlb j with err := true }))
    ∧ (natBits v.toNat 0 2 = 2 → exec (.tlbRead off v) s =
        .next (s.setTlb j { s.tlb j with va := ((s.tlb j).entry (s.tlb j).sel).1, pa := ((s.tlb j).entry (s.tlb j).sel).2 }))
    ∧ (natBits v.toNat 0 2 = 3 → ∃ t, exec (.tlbInval off v) s = .next t ∧ (t.tlb j).busy.isSome = true
        ∧ natBit ((t.tlb j).entry (s.tlb j).sel).1.toNat 7 = 0
        ∧ (natBit v.toNat 2 = 1 → ∀ e ∈ (t.tlb j).entries, natBit e.2.1.toNat 7 = 0))

/-- R384: BUSY ends once no request in flight and no probe uses the translation that the command replaced. -/
def Sys2Proof.Claims.TranslationDrains : Prop :=
  ∀ s j b, (s.tlb j).busy = some b → (∀ m ∈ s.net, m.resp = none → ∀ h ∈ m.body.holds, b.holds j h = false) →
    (∀ x ∈ s.ctxs, ∀ ex, x.cur = some ex ∨ x.spec = some ex → ∀ h ∈ ex.holds, b.holds j h = false) →
    exec (.tlbCmdDrain j) s = .next (s.setTlb j { s.tlb j with busy := none })

/-! ### The package -/

/-- R377: a die that was reset runs again, and CDIE_RESET is posted on the X-die with the cause. -/
def Sys2Proof.Claims.DieRecovers : Prop :=
  ∀ s d, (s.die d).dstate = 1 → (∀ l ∈ s.launches, l.uses d = false) → (∀ r ∈ s.running, s.taskOn d r = false) →
    exec (.cdieResetRecover d) s =
      .next ((s.setDie d { s.die d with dstate := 0 }).packageRecord 12 d 0 .cdieReset 0 (some (s.die d).cause))

/-- R394: a watchdog aborts the command that an M-die runs, and resets a C-die. -/
def Sys2Proof.Claims.WatchdogsExpire : Prop :=
  (∀ s d c, 8 ≤ d → s.cmd? c.id = some c → c.mdie = d → c.phase = .running → exec (.watchdogExpire d c.id) s = .next (s.cmdAbortAs c .watchdog))
  ∧ (∀ s d, d < 8 → (s.die d).dstate = 0 → exec (.watchdogExpire d 0) s = .next ((s.dieReset d 1).packageRecord d d 0 .watchdog 0 none)
      ∧ ((s.dieReset d 1).die d).dstate = 1 ∧ ∀ x ∈ (s.dieReset d 1).ctxs, dieOf x.core ≠ d)

/-- R181, R394: an error of one bit in HBM changes nothing; one of two bits poisons its sector and posts one record; one of two bits in a
line of a core's sector cache drops the line and poisons nothing. -/
def Sys2Proof.Claims.ScrubFinds : Prop :=
  (∀ s a, a < 2 ^ 39 → exec (.scrubPass a false) s = .next s)
  ∧ (∀ s n i l, n < 512 → i < 4096 → (s.core n).cache[i]? = some l → ∃ t, exec (.scrubPass (2 ^ 62 + 4096 * n + i) true) s = .next t
      ∧ l ∉ (t.core n).cache ∧ (t.core n).unc = true ∧ t.mem = s.mem ∧ t.poison = s.poison)
  ∧ (∀ s a, a < 2 ^ 39 → s.isPoisoned a 1 = false →
      (s.die (homeDie a)).logn = 0 → ∃ t, exec (.scrubPass a true) s = .next t ∧ t.isPoisoned a 1 = true ∧ t.ctxs = s.ctxs)
  ∧ (∀ s a, a < 2 ^ 39 → s.isPoisoned a 1 = true → exec (.scrubPass a true) s = .next s)

/-- R394: a parity error of a queued command, record, card or launch packet aborts that work with ERR. -/
def Sys2Proof.Claims.QueueEntriesAborted : Prop :=
  (∀ s c, s.cmd? c.id = some c → c.phase = .queued → exec (.queueParityError (4 * c.id)) s = .next (s.cmdAbortAs c .queueParity))
  ∧ (∀ s cl i r, cl < 32 → (s.cluster cl).recs[i]? = some r → (∀ a b c d, r.at_ ≠ .taken a b c d) →
      exec (.queueParityError (4 * (cl + 32 * i) + 1)) s = .next (s.recordAbort cl r))
  ∧ (∀ s n i e, n < 512 → (s.core n).queue[i]? = some e → exec (.queueParityError (4 * (n + 512 * i) + 2)) s = .next (s.cardAbort n e))

/-- R374, R378: a link that fails while every die is still reached only leaves the routes; dies that the X-die no longer reaches are FENCED. -/
def Sys2Proof.Claims.LinksFail : Prop :=
  (∀ s k, k < 22 → k ∉ s.xdie.deadLinks → splitDies (k :: s.xdie.deadLinks) = [] →
    exec (.dieLinkFailure k) s = .next { s with xdie := { s.xdie with deadLinks := k :: s.xdie.deadLinks } })
  ∧ (∀ s k, k < 22 → k ∉ s.xdie.deadLinks → ∃ t, exec (.dieLinkFailure k) s = .next t)
  ∧ (∀ k, k < 22 → splitDies [k] = [])

/-- R380: a packet whose fields are in order becomes a launch, which a command processor accepts before the queue's next packet is taken;
LQHEAD advances, and IRQ raises the queue's vector. -/
def Sys2Proof.Claims.PacketsTaken : Prop :=
  ∀ s q ws, ((List.range 64).map (fun i => (s.xdie.lqNext + i) % 64)).find? (fun k => s.lqReady k) = some q → s.xdie.firmware = true →
    s.packetAt (s.lq q) = some ws →
    (packetBad ws = false → ∃ t, ∃ l ∈ t.launches, exec (.launchPacketTake q) s = .next t ∧ l.id = s.nextId ∧ l.ptr = ws.getD 0 0 ∧ l.packet = ws.take 4
      ∧ l.started = false ∧ (t.lq q).head = ((s.lq q).head + 1) % 2 ^ 64 ∧ (t.lq q).busy = some s.nextId
      ∧ t.msix = s.msix ++ (if (s.lq q).irq then [16 + q] else []))
    ∧ (packetBad ws = true → ∃ t, exec (.launchPacketTake q) s = .next t)

/-- R379, R386: a host write through BAR2 is posted to its home piece by piece and a host read changes nothing here; an access that its
window does not reach posts HOST_ACCESS. An AtomicOp goes to its home once feature bit 1 is negotiated. -/
def Sys2Proof.Claims.HostAccesses : Prop :=
  (∀ s a v ps, 0 < a.bytes → a.bytes ≤ 8 → a.off + a.bytes ≤ s.xdie.bar2Size → a.wdata = some v → s.bar2Parts a.off a.bytes false true = .ok ps →
    ∃ t, exec (.hostBar2Access a) s = .next t ∧ t.net.length = s.net.length + ps.length ∧ t.mem = s.mem)
  ∧ (∀ s a ps, 0 < a.bytes → a.bytes ≤ 8 → a.off + a.bytes ≤ s.xdie.bar2Size → a.wdata = none → s.bar2Parts a.off a.bytes true false = .ok ps →
    exec (.hostBar2Access a) s = .next s)
  ∧ (∀ s a f, 0 < a.bytes → a.bytes ≤ 8 → a.off + a.bytes ≤ s.xdie.bar2Size → s.bar2Parts a.off a.bytes a.wdata.isNone a.wdata.isSome = .error f →
    exec (.hostBar2Access a) s = .next (s.packageRecord 12 12 0 .hostAccess (BitVec.ofNat 64 a.off) (some f.cause.code)))
  ∧ (∀ s a ps, (a.bytes = 4 ∨ a.bytes = 8 ∨ a.bytes = 16) → a.off % a.bytes = 0 → a.off + a.bytes ≤ s.xdie.bar2Size →
    natBit (s.xdie.featNeg.toList.getD 0 0).toNat 1 = 1 → s.bar2Parts a.off a.bytes true true = .ok ps →
    ∃ t, exec (.hostAtomicop a) s = .next t ∧ t.net.length = s.net.length + ps.length ∧ t.mem = s.mem)

/-- R378, R381: a host link that goes down ends the negotiation; a module reset that may follow keeps memory. -/
def Sys2Proof.Claims.HostLinkLost : Prop :=
  ∀ s, ∃ t, exec .hostLinkDown s = .next t ∧ t.xdie.featDone = false ∧ t.mem = s.mem

/-- R386: BAR2 takes a power of two from 1 GiB to 512 GiB, above 64 GiB only where feature bit 2 is negotiated. -/
def Sys2Proof.Claims.Bar2Resized : Prop :=
  ∀ s k, k < 10 → (30 + k ≤ 36 ∨ natBit (s.xdie.featNeg.toList.getD 0 0).toNat 2 = 1) →
    exec (.bar2Resize (2 ^ (30 + k))) s = .next { s with xdie := { s.xdie with bar2Size := 2 ^ (30 + k) } }

/-- R388: every 10 µs the power manager gives each island a MUL between 4 and its MAX; the ac that the island has counted stand. -/
def Sys2Proof.Claims.PowerManaged : Prop :=
  ∀ s, s.xdie.powerAt + 20000 ≤ s.now → (∀ i, i < 128 → 4 ≤ (s.island i).max ∧ (s.island i).max ≤ 16) →
    ∃ t, exec .powerManagerTick s = .next t ∧ t.xdie.powerAt = s.now
      ∧ ∀ i, i < 128 → (t.island i).max = (s.island i).max ∧ 4 ≤ (t.island i).mul ∧ (t.island i).mul ≤ (s.island i).max ∧ t.ac16 i = s.ac16 i

/-- R393: Hital runs firmware that it has verified, and posts FW_VERIFY and runs none otherwise. -/
def Sys2Proof.Claims.FirmwareVerified : Prop :=
  (∀ s, exec (.hitalBoot true) s = .next { s with xdie := { s.xdie with firmware := true } })
  ∧ (∀ s, ∃ t, exec (.hitalBoot false) s = .next t ∧ t.xdie.firmware = false ∧ t = { s with xdie := { s.xdie with firmware := false } }.packageRecord 12 12 5
      .fwVerify 0 none)

namespace Sys2Proof.Claims

/-! ### What holds of every instruction and every step -/

/-- The mode of every strand is the one that traps give it: supervisor mode exactly while it is inside a trap (R13, R31). -/
def ModeInv (s : State) : Prop := ∀ x ∈ s.ctxs, x.sup = x.intrap

/-- A prefix word of kind 2 to 8 with payload 0, which says what the short form without it says (R50). -/
def emptyPrefix (ps : List Parcel) : Bool :=
  match ps with
  | p :: q :: _ => decide (2 ≤ (fld p 10 4).toNat) && decide ((fld p 10 4).toNat ≤ 8) && fld p 14 2 == 2 && fld p 0 10 == 0 && q == 0
  | _ => false

/-- Words that the spec writes out, with the instructions it writes them for (the examples of 02_encoding, 05_memory_access,
06_control, 09_matrix and 12_program_fraud_screen). -/
def specWords : List (List (BitVec 32) × Instr) :=
  [([0xE8000602], .ld ⟨.always, 0, 0, .d, ⟨.left, 2⟩, .bare⟩), ([0xE8010603], .ld ⟨.always, 1, 0, .d, ⟨.left, 3⟩, .bare⟩),
   ([0xD4830084], .vfma ⟨.always, 0, ⟨.write, 0⟩, ⟨.right, 4⟩, none⟩), ([0xF0020600], .st ⟨.always, 2, 0, .d, 0, none⟩),
   ([0x80000200, 0xF0020600], .st ⟨.always, 2, 0, .d, 0, some 512⟩), ([0xFC000001], .br ⟨.always, false, 1⟩),
   ([0xE9013602], .ldg ⟨.always, 1, 3, .d, ⟨.left, 2⟩, .bare⟩), ([0xED805803], .lda ⟨.always, 0, .die, ⟨.left, 3⟩, .bare⟩),
   ([0xF385F8A0], .stl ⟨.always, 5, .die, 0, none⟩), ([0xF8045181], .amoAdd ⟨.always, 4, .die, .rlx, ⟨.write, 1⟩, none⟩),
   ([0xF68351FF], .fence ⟨.always, 3, .die, none⟩), ([0x80000080, 0xF700F1FF], .waitc ⟨.always, 15, some ⟨0, 0, 2, 0⟩⟩),
   ([0xF7820980], .waitv ⟨.always, 2, 0, ⟨.write, 0⟩, .bare⟩), ([0xFE00C201], .csrr ⟨.always, 0x061, ⟨.left, 1⟩, none⟩),
   ([0xC6810180], .addi ⟨.always, .s64, 0x080, ⟨.write, 0⟩, .bare⟩), ([0xFE8069FF], .csrw ⟨.always, 0x034, Target.none⟩),
   ([0x89100007, 0xFF0421FF], .gemmT ⟨.always, 2, 1, .ptr, .ptr, 0, 0, 7⟩), ([0x89000000, 0xFF040BFF], .stt ⟨.always, 2, false⟩),
   ([0xFF0807FF], .rtDone ⟨.always⟩), ([0xFF080DFF], .rtSeed ⟨.always⟩)]

end Sys2Proof.Claims

/-- R34, R43 to R54: the decoder reads an encoded well-formed instruction back, whatever follows it in its line. -/
def Sys2Proof.Claims.DecodeEncode : Prop :=
  ∀ i rest, i.wf = true → i.isWord = true → decInstr (encode i ++ rest) = .ok (i, (encode i).length)

/-- R34, R50, R58: what the decoder accepts is a well-formed instruction, of 1, 2 or 4 parcels that lie in what it was given, and those
parcels are its encoding but for an empty prefix of a short form. -/
def Sys2Proof.Claims.DecodedIsEncoded : Prop :=
  ∀ ps i n, decInstr ps = .ok (i, n) → i.wf = true ∧ i.isWord = true ∧ (n = 1 ∨ n = 2 ∨ n = 4) ∧ n ≤ ps.length
    ∧ (encode i = ps.take n ∨ (n = 4 ∧ emptyPrefix ps = true ∧ encode i = (ps.drop 2).take 2))

/-- The words that the spec writes out in its examples decode to the instructions it writes them for. -/
def Sys2Proof.Claims.SpecWordsDecode : Prop :=
  ∀ t ∈ specWords, decInstr (t.1.flatMap wordParcels) = .ok (t.2, 2 * t.1.length)

/-- A step runs the decoded instruction: the one that the agenda asks for, or with an empty agenda the first that can fire; an event of
the agenda runs as it stands, and with nothing to run time passes. -/
def Sys2Proof.Claims.StepRunsDecoded : Prop :=
  (∀ s c spec idx rest ps i n, s.agenda = .fire c spec idx :: rest → s.parcelsAt c spec idx = some ps → decInstr ps = .ok (i, n) →
    step s = tick (endFiring (exec i { s with agenda := rest, firing := some ⟨c, spec, idx, s.reformDue c spec idx⟩ })))
  ∧ (∀ s c idx ps i n, s.agenda = [] → s.readyFiring = some (c, idx) → s.parcelsAt c false idx = some ps → decInstr ps = .ok (i, n) →
    step s = tick (endFiring (exec i { s with firing := some ⟨c, false, idx, s.reformDue c false idx⟩ })))
  ∧ (∀ s i rest, s.agenda = .event i :: rest → step s = tick (exec i { s with agenda := rest }))
  ∧ (∀ s, s.agenda = [] → s.readyFiring = none → s.tryAll s.ownEvents = none → step s = .next s.after ∧ s.after.now = s.now + 1)

/-- R35, R37, R42: every instruction of a decoded pitch is what its parcels decode to, and those parcels are the ones that a fetch line
of the pitch holds at the instruction's address. -/
def Sys2Proof.Claims.PitchHoldsMemory : Prop :=
  ∀ (s : State) m pc p n a i ps, s.decodePitch m pc = .ok p → (n, a, i, ps) ∈ p.code →
    decInstr ps = .ok (i, ps.length) ∧ ∃ l k q, s.fetchLine m q l.addr = .ok l ∧ ps = (l.body.drop k).take ps.length
      ∧ k + ps.length ≤ l.np ∧ a = l.addr + BitVec.ofNat 64 (2 + 2 * k + if ps.length = 4 then 4 else 0)

/-- A step from a state whose memory is in its canonical form leads to one whose memory is: keys rise strictly and no byte listed is the one an unlisted key reads as. -/
def Sys2Proof.Claims.StepKeepsMemoryForm : Prop := ∀ s t, s.Canonical → step s = .next t → t.Canonical

/-- R13, R31: a step from a state in which SUP equals INTRAP in every strand leads to one in which it does. -/
def Sys2Proof.Claims.StepKeepsMode : Prop := ∀ s t, ModeInv s → step s = .next t → ModeInv t

/-- Both invariants hold right after reset. -/
def Sys2Proof.Claims.ResetMeetsInvariants : Prop := State.reset.Canonical ∧ ModeInv State.reset

/-- R376, R382, R415: right after reset no strand, request or command exists, no translation entry is valid, every die is in RUN with an
empty fault queue, MXSLOT holds its reset value and the fabric is off. -/
def Sys2Proof.Claims.ResetState : Prop :=
  State.reset.ctxs = [] ∧ State.reset.net = [] ∧ State.reset.cmds = [] ∧ State.reset.launches = [] ∧ (∀ j, (State.reset.tlb j).entries = [])
    ∧ (∀ d, (State.reset.die d).dstate = 0 ∧ (State.reset.die d).head = 0 ∧ (State.reset.die d).tail = 0 ∧ (State.reset.die d).fqbase = 0)
    ∧ (∀ n, (State.reset.core n).mxslot = 0x8888888888888888 ∧ (State.reset.core n).cache = [] ∧ (State.reset.core n).tiles = [])
    ∧ State.reset.fab.en = false ∧ (∀ j base p need, State.reset.xlate j base true p need = .error .absent)

/-- Memory: a byte written is read back and every other byte reads as before, and a write keeps the canonical form; a masked write
changes exactly the bits of its masks. -/
def Sys2Proof.Claims.MemoryReadsWrites : Prop :=
  (∀ m a b, Memory.wf m = true → Memory.wf (memWrite m a b) = true ∧ memRead (memWrite m a b) a = b ∧ ∀ k, k ≠ a → memRead (memWrite m a b) k = memRead m k)
  ∧ (∀ (s : State) a bs, s.Canonical → (s.store a bs).Canonical ∧ SameOutside s (s.store a bs) a bs.length
      ∧ ∀ i b k, bs[i]? = some (b, k) → memRead (s.store a bs).mem (a + i) = (b &&& k) ||| (memRead s.mem (a + i) &&& ~~~k))
  ∧ (∀ m n, Memory.wf m = true → Memory.wf n = true → (∀ k, memRead m k = memRead n k) → m = n)

/-- R3: the value read from the bytes of a value, least significant byte first, is that value. -/
def Sys2Proof.Claims.ValuesLittleEndian : Prop :=
  (∀ n v, v < 256 ^ n → leNat (natLe n v) = v) ∧ (∀ n v i, i < n → (natLe n v)[i]? = some (BitVec.ofNat 8 (v / 256 ^ i)))
  ∧ (∀ (s : State) a n v, s.Canonical → v < 256 ^ n → (s.poke a n v).peek a n = v)

/-- R25, R27: an instruction of a pitch that fires changes no byte of memory, no register, no flag, no special register and no other
strand but for acquire epochs that a wrap clears: only the tokens, faults and held effects of its own execution, the requests that it sends, and the model's own counters. -/
def Sys2Proof.Claims.FiringChangesOnlyItsPitch : Prop :=
  ∀ i s t, i.isWord = true → exec i s = .next t →
    FiresOnly s t ∧ SameMemory s t ∧ ∀ f, s.firing = some f → ∀ d, d ≠ f.c →
      (t.ctx? d).map (fun y => { y with acqEpoch := 0 }) = (s.ctx? d).map (fun y => { y with acqEpoch := 0 })

/-- R16, R20, R44: a token goes to an empty operand slot, and to an empty write slot whose register takes its kind; a slot that already
holds one raises TOKEN_COLLISION, and target 0x1FF delivers nothing. -/
def Sys2Proof.Claims.TokensDelivered : Prop :=
  (∀ (ex : Exec) n tok (t : Target), t.kind ≠ .write → ex.slot t.index.toNat t.kind = none →
    ex.deliver n tok t = { ex with toks := ex.toks ++ [(t.index.toNat, t.kind, tok)] }
      ∧ (ex.deliver n tok t).slot t.index.toNat t.kind = some tok
      ∧ ∀ k j, ¬ (k = t.index.toNat ∧ j = t.kind) → (ex.deliver n tok t).slot k j = ex.slot k j)
  ∧ (∀ (ex : Exec) n tok tok' (t : Target), t.kind ≠ .write → ex.slot t.index.toNat t.kind = some tok' →
    ex.deliver n tok t = ex.fault ⟨.tokenCollision, ex.pc, t.enc.toNat, none, n, false⟩)
  ∧ (∀ (ex : Exec) n tok, ex.deliver n tok Target.none = ex)
  ∧ (∀ (ex : Exec) n tok k reg, k < 32 → ex.hdr.wmap[k]? = some reg → (∀ w ∈ ex.wslots, w.1 ≠ k) → (∀ w ∈ ex.reserved, w.1 ≠ k) →
    (slotRefuses reg tok = none → ex.deliver n tok ⟨.write, BitVec.ofNat 7 k⟩ = { ex with wslots := ex.wslots ++ [(k, reg, tok)] })
    ∧ (∀ r, slotRefuses reg tok = some r → r.cause = .tokenKind →
      ex.deliver n tok ⟨.write, BitVec.ofNat 7 k⟩ = ex.fault ⟨.tokenKind, ex.pc, r.detail, none, n, false⟩))

/-- R18: which tokens a write slot takes for the register it names. -/
def Sys2Proof.Claims.WriteSlotKinds : Prop :=
  ∀ reg (t : Token), slotRefuses reg t = none ↔
    (reg < 32 ∧ t.kind = .scalar) ∨ (32 ≤ reg ∧ reg < 64 ∧ t.kind ≠ .mask) ∨ (64 ≤ reg ∧ reg < 72 ∧ t.kind = .mask)
      ∨ (72 ≤ reg ∧ reg < 80 ∧ t.kind = .scalar) ∨ (80 ≤ reg ∧ reg < 96 ∧ t.kind = .scalar ∧ t.ref = true)

/-- R7, R18: x0 and m0 discard what is written to them and read as 0 and as all ones; a write slot's scalar becomes the value of its x, d
or k register, a null one leaves it, and a token of a vector or mask merges the elements that are not null. -/
def Sys2Proof.Claims.RegistersReadAndWritten : Prop :=
  (∀ (x : Ctx) vl lsew t, x.writeReg vl lsew 0 t = x ∧ x.writeReg vl lsew 64 t = x)
  ∧ (∀ (x : Ctx) vl lsew, x.regToken vl lsew 0 = Token.scalar 0 ∧ ∀ e, e < vl → vl ≤ 256 → ((x.regToken vl lsew 64).bits).getLsbD e = true)
  ∧ (∀ (x : Ctx) vl lsew t (r : Fin 32), r.val ≠ 0 → t.isNull = false →
      (x.writeReg vl lsew r.val t).x[r.val] = t.word ∧ ∀ q : Fin 32, q ≠ r → (x.writeReg vl lsew r.val t).x[q.val] = x.x[q.val])
  ∧ (∀ (x : Ctx) vl lsew t (r : Fin 32), t.isNull = true → x.writeReg vl lsew r.val t = x)
  ∧ (∀ (x : Ctx) vl lsew t (r : Fin 8), t.isNull = false → (x.writeReg vl lsew (72 + r.val) t).d[r.val] = t.word)
  ∧ (∀ (x : Ctx) vl lsew t (r : Fin 16), t.isNull = false → (x.writeReg vl lsew (80 + r.val) t).k[r.val] = t.word)
  ∧ (∀ (x : Ctx) vl lsew t (r : Fin 32) e j, t.kind = .vec → t.lw ≤ 6 → vl * 2 ^ t.lw ≤ 2048 → e < vl → j < 2 ^ t.lw →
      ((x.writeReg vl lsew (32 + r.val) t).v[r.val]).getLsbD (e * 2 ^ t.lw + j)
        = if t.nullAt e then (x.v[r.val]).getLsbD (e * 2 ^ t.lw + j) else t.bits.getLsbD (e * 2 ^ t.lw + j))
  ∧ (∀ (x : Ctx) vl lsew t (r : Fin 8) e, r.val ≠ 0 → t.kind = .mask → vl ≤ 256 → e < vl →
      ((x.writeReg vl lsew (64 + r.val) t).m[r.val]).getLsbD e = if t.nullAt e then (x.m[r.val]).getLsbD e else t.bits.getLsbD e)

/-- R10, R11, R12, R146, R156: what a csrw puts into each register that it may write. -/
def Sys2Proof.Claims.ControlRegistersWritten : Prop :=
  ∀ (x : Ctx) (v : Word),
    x.csrPut 0 v = { x with sb := v.setWidth 48 } ∧ x.csrPut 1 v = { x with sn := v.setWidth 48 }
    ∧ (x.csrPut 3 v).sc = v &&& 0xFF03 ∧ (x.csrPut 0x33 v).ff = v &&& ~~~0xFFFF ∧ x.csrPut 0x34 v = { x with fr := v }
    ∧ (x.csrPut 0x50 v).fx = v &&& 0x3F ∧ (x.csrPut 0x51 v).fe = v &&& 0x1F ∧ x.csrPut 0x52 v = { x with sl := v }
    ∧ x.csrPut 0x60 v = x
    ∧ ∀ l : Fin 6, (x.csrPut (0x10 + l.val) v).lp[l.val] = v.setWidth 48 ∧ (x.csrPut (0x18 + l.val) v).lm[l.val] = v.setWidth 48
      ∧ (x.csrPut (0x20 + l.val) v).ls[l.val] = v ∧ (x.csrPut (0x28 + l.val) v).lc[l.val] = v &&& 0xFF

/-- R171: the return from a trap whose frame is read and is in order restores the strand's images from it, leaves supervisor mode, and
re-enters the pitch afresh when the frame says that it was trapped before it began; a frame whose check fails, or that holds a poisoned
byte, retires the strand in error. -/
def Sys2Proof.Claims.TrapReturns : Prop :=
  ∀ (s : State) (x : Ctx) pages, s.framePages x.ff { rd := true } 16 0 = .ok pages →
    let fr := pages.flatMap (fun p => s.ownRead x.id p.1 4096)
    let y0 := { x.restore fr with cur := none, spec := none, pend := x.pend.map PendPitch.dropD }
    (∀ a, s.framePoison pages = some a → ∃ y, s.returnFromTrap x = s.setCtx y ∧ y.retiring = some true ∧ y.fa = a
        ∧ y.fc = fcWord ⟨.frameAccess, a, Cause.dataPoison.code, none, none, false⟩ false x.intrap x.sup)
    ∧ (s.framePoison pages = none → (frameCheck fr = none → natBit (frameWord fr 0x38 8) 8 = 1 →
      s.returnFromTrap x = s.setCtx { y0 with next := some (BitVec.ofNat 64 (frameWord fr 0 8)) })
    ∧ (∀ off, frameCheck fr = some off → ∃ y, s.returnFromTrap x = s.setCtx y ∧ y.retiring = some true ∧ y.fa = x.ff
        ∧ y.fc = fcWord ⟨.frameInvalid, x.ff, off, none, none, false⟩ false x.intrap x.sup)
    ∧ (∀ p, frameCheck fr = none → natBit (frameWord fr 0x38 8) 8 = 0 →
        s.decodePitch ⟨true, x.tiles.length, s.codeAt x⟩ (BitVec.ofNat 64 (frameWord fr 0 8)) = .ok p →
        ∃ y ex, s.returnFromTrap x = { s with nextId := s.nextId + 1, free := s.free + 8 }.setCtx y ∧ y.cur = some ex ∧ y.sup = false
          ∧ y.intrap = false ∧ ex.pc = BitVec.ofNat 64 (frameWord fr 0 8) ∧ ex.fired = BitVec.ofNat 64 (frameWord fr 0x18 8) ∧ ex.user = true))

/-- R167, R171: a replay frame carries the strand's images: restored from the frame that a trap writes, each has the value that it had
when the trapped pitch began, in the bits that its register holds (R4) and with vl within its bound (R14), and the strand is in user
mode. -/
def Sys2Proof.Claims.FrameCarriesImages : Prop :=
  ∀ (x y : Ctx) (ex : Exec) fc fa, ex.img.vl < 2 ^ 64 → x.sq < 2 ^ 64 → x.sk < 2 ^ 64 →
    let z := y.restore (ex.frame x fc fa)
    z.sb = ex.img.sb ∧ z.sn = ex.img.sn ∧ z.vl = min ex.img.vl (grantVl ex.img.sn (ex.img.sc &&& 0xFF03)) ∧ z.sc = ex.img.sc &&& 0xFF03
      ∧ z.sl = ex.img.sl ∧ z.fr = ex.img.fr ∧ z.fx = ex.img.fx &&& 0x3F ∧ z.fe = ex.img.fe &&& 0x1F ∧ z.lp = ex.img.lp ∧ z.lm = ex.img.lm
      ∧ z.ls = ex.img.ls ∧ z.lc = ex.img.lc.map (fun v => v &&& 0xFF) ∧ z.d = ex.img.d ∧ z.sq = x.sq
      ∧ z.sk = x.sk ∧ z.sup = false ∧ z.intrap = false ∧ z.x = y.x ∧ z.v = y.v ∧ z.m = y.m ∧ z.k = y.k

/-- R14, R151: a strand starts with sq at 2^48 and sk at 0; a br.strip that returns to its head leaves sq at the strip's rest and counts
in sk the strips that did not shorten it, and one that goes on resets both. The length granted is at most sn, SLMAX and VCAP. -/
def Sys2Proof.Claims.StripProgressKept : Prop :=
  (∀ id core slot pl job no pri tiles ws xr seed now, let x := Ctx.initial id core slot pl job no pri tiles ws xr seed now
    x.sq = 2 ^ 48 ∧ x.sk = 0 ∧ x.sup = false ∧ x.intrap = false ∧ x.vl = grantVl x.sn x.sc ∧ x.next = some (ws.getD 0 0) ∧ x.m[0] = BitVec.allOnes 256
      ∧ x.x[0] = 0)
  ∧ (∀ (y : Ctx) (ex : Exec) d, let v := ex.ffmin.getD ex.img.vl
      let z := (y.takeExit ex (.strip d)).1
      (v < y.sn.toNat → z.sq = z.sn.toNat ∧ z.sk = if z.sn.toNat < y.sq then 0 else y.sk + 1)
        ∧ (y.sn.toNat ≤ v → z.sq = 2 ^ 48 ∧ z.sk = 0))
  ∧ (∀ (sn : BitVec 48) (sc : Word), grantVl sn sc ≤ sn.toNat ∧ grantVl sn sc ≤ 2048 / 2 ^ lsewOf sc
      ∧ (natBits sc.toNat 8 8 ≠ 0 → grantVl sn sc ≤ natBits sc.toNat 8 8)
      ∧ (natBits sc.toNat 8 8 = 0 → grantVl sn sc = min sn.toNat (2048 / 2 ^ lsewOf sc)))

/-- R131: the checks of one element in their order: an illegal space, an offset outside its field, a misaligned address, a device
register outside a device form or in user mode, and a scratchpad window. -/
def Sys2Proof.Claims.ElementChecksInOrder : Prop :=
  ∀ (s : State) wins r f base d, let p := (addOffset base d).1
    (r.atom = true → (spaceOf p = 2 ∨ spaceOf p = 6) → s.checkElem wins r f base d = .error ⟨.atomPath, 0, p, none⟩)
    ∧ (r.atom = false → (spaceLegal p = false ∨ (r.waitv = true ∧ spaceOf p = 6)) →
        s.checkElem wins r f base d = .error ⟨.spaceInvalid, 0, p, none⟩)
    ∧ (r.atom = false → r.waitv = false → spaceLegal p = true →
      ((addOffset base d).2 = false → s.checkElem wins r f base d = .error ⟨.pointerTagOverflow, 0, base, none⟩)
      ∧ ((addOffset base d).2 = true →
        (offsetOf p % r.w ≠ 0 → s.checkElem wins r f base d = .error ⟨.misaligned, r.w, p, none⟩)
        ∧ (offsetOf p % r.w = 0 →
          (spaceOf p = 6 → r.dev = false → s.checkElem wins r f base d = .error ⟨.devregShape, 0, p, none⟩)
          ∧ (spaceOf p = 6 → r.dev = true → r.user = true →
              s.checkElem wins r f base d = .error ⟨.protection, 0, p, some (if r.need.wr then 3 else 2)⟩)
          ∧ (spaceOf p = 1 → inWindow wins (scratchCore p) (offsetOf p) r.n = false →
              s.checkElem wins r f base d = .error ⟨.scratchBounds, 0, p, none⟩))))

/-- R101: vfmin and vfmax on values: the other operand beside one quiet NaN, the canonical NaN for two NaNs or a signalling one, which
raises NV, −0 below +0, and no other flag; both instructions deliver what this gives, element by element. -/
def Sys2Proof.Claims.MinMaxOfFloats : Prop :=
  (∀ w a b, (a.isSig = true ∨ b.isSig = true) → fMinMax w a b = (.nan false, flNV))
  ∧ (∀ w, fMinMax w (.nan false) (.nan false) = (.nan false, 0))
  ∧ (∀ w a, a.isNan = false → fMinMax w (.nan false) a = (a, 0) ∧ fMinMax w a (.nan false) = (a, 0))
  ∧ (∀ w a b, a.isSig = false → b.isSig = false → (fMinMax w a b).2 = 0)
  ∧ (∀ a b, a.isNan = false → b.isNan = false → (fLt a b = true → fMinMax false a b = (a, 0) ∧ fMinMax true a b = (b, 0)))
  ∧ (∀ a b, a.isNan = false → b.isNan = false → (fLt b a = true → fMinMax false a b = (b, 0) ∧ fMinMax true a b = (a, 0)))
  ∧ (∀ e e', fMinMax false (.fin true 0 e) (.fin false 0 e') = (.fin true 0 e, 0) ∧ fMinMax false (.fin false 0 e) (.fin true 0 e') = (.fin true 0 e', 0)
      ∧ fMinMax true (.fin true 0 e) (.fin false 0 e') = (.fin false 0 e', 0) ∧ fMinMax true (.fin false 0 e) (.fin true 0 e') = (.fin false 0 e, 0))
  ∧ (∀ (o : FpArgs) env d xs, (fpForm (.vfmin o)).map (fun f => f.run env d xs)
        = some (deliver d.fd d.rm d.ftz (fMinMax false (rd d xs 0) (rd d xs 1)).1 (fMinMax false (rd d xs 0) (rd d xs 1)).2)
      ∧ (fpForm (.vfmax o)).map (fun f => f.run env d xs)
        = some (deliver d.fd d.rm d.ftz (fMinMax true (rd d xs 0) (rd d xs 1)).1 (fMinMax true (rd d xs 0) (rd d xs 1)).2))

namespace Sys2Proof.Claims

/-! ### Matrix instructions from firing to the end -/

/-- A matrix instruction that fires with operands it accepts and is the next that is applied (R191). -/
def NextMatrix (i : Instr) (s : State) (st : Site) (o : Operands) : Prop :=
  FiresNew i s st o ∧ st.f.spec = false ∧ st.f.idx < 64 ∧ mxAccepts st o i = some true ∧ st.ex.instr? st.f.idx = some i ∧ st.ex.mx.seq = none
    ∧ st.ex.mxPast st.f.idx = false ∧ st.ex.mxBlocked st.f.idx = false ∧ ∀ t ∈ st.ex.matrices, t.1 < st.f.idx → st.ex.mxPast t.1 = true

/-- The execution, the strand and the machine once a matrix instruction has fired. -/
def firedMx (st : Site) : Exec := st.ex.markFired st.f.idx
def firedCtx (st : Site) : Ctx := { st.x with cur := some (firedMx st) }
def firedState (s : State) (st : Site) : State := st.put s (firedMx st)

/-- The instruction fires, and its application leaves the execution `e`. -/
def FiresAndApplies (i : Instr) (s : State) (st : Site) (e : Exec) : Prop :=
  exec i s = .next (firedState s st) ∧ exec (.matrixApply st.f.c st.f.idx) (firedState s st) = .next (st.put s e)

/-- An instruction with steps waits for its grants. -/
def waiting (st : Site) (q : MxSeq) : Exec := { firedMx st with mx := { (firedMx st).mx with seq := some q } }

/-- The slot table grants the strand's slot in every step of this tick (R186). -/
def SlotGranted (s : State) (x : Ctx) : Prop :=
  x.slot < 8 ∧ (slotEntry (s.slotTable x.core).1 (s.rotation x.core / 64) = 8 ∨ slotEntry (s.slotTable x.core).1 (s.rotation x.core / 64) = x.slot)

/-- `n` steps of a strand's sequencer lead from one machine to another. -/
def StepsTo (c : Nat) : Nat → State → State → Prop
  | 0, s, t => s = t
  | n + 1, s, t => ∃ u, exec (.matrixStep c) s = .next u ∧ StepsTo c n u t

/-- The instruction's steps run to the end: it is applied without a fault, and only the windows `ws` of the working image change. -/
def RunsToEnd (s : State) (st : Site) (q : MxSeq) (ws : List Nat) : Prop :=
  ∃ n e, 0 < n ∧ n ≤ q.total ∧ StepsTo st.f.c n (st.put s (waiting st q)) (st.put s e) ∧ e.mxPast st.f.idx = true ∧ e.mx.seq = none
    ∧ e.faults = st.ex.faults ∧ ∀ w, w ∉ ws → s.tile st.x e w = s.tile st.x st.ex w

/-- The windows of a destination. -/
def windows (td : BitVec 3) (pair : Bool) : List Nat := if pair then [td.toNat, td.toNat + 1] else [td.toNat]

/-- Pieces of a matrix instruction that can be read at once (R196): they are in order, nothing that must precede them is outstanding, and
their homes give them; `bs` are their bytes. -/
def Readable (s : State) (x : Ctx) (ex : Exec) (rs : List MxRegion) (bs : List Byte) : Prop :=
  ∃ ps, s.mxCheck x ex.user false rs = .ok ps ∧ s.mxClear x ex ps = true ∧ s.mxHeld x ps = false ∧ s.mxBad ps = none
    ∧ bs = ps.flatMap (fun p => memReadN s.mem p.place.key p.n)

/-- The width of a scale entry in memory, and the entry that it gives (R203). -/
def scaleBytes : ScaleFmt → Nat
  | .s9 => 2
  | .e8 => 1
  | .f32 => 4
def scaleEntryOf (f : ScaleFmt) (b : Nat) : Nat :=
  match f with
  | .s9 => b % 512
  | .e8 => 2 * b
  | .f32 => b

/-- The rows of an scld (R203). -/
def scaleRows (a : ScldArgs) (v : Operands) : List MxRegion :=
  (List.range (a.cnt.toNat + 1)).map (fun (m : Nat) => ⟨v.l.word, (m : Int) * natToInt 64 v.r.val, scaleBytes a.sf⟩)

/-- The image that an stt buffers: sector by sector the bytes of its windows (R201). -/
def tileImage (s : State) (st : Site) (a : TileArgs) (ps : List Part) : List StElem :=
  let bytes := natLe (if a.pair then 8192 else 4096) (packNat (accW a.pair) (s.tileElems st.x st.ex a.td.toNat a.pair))
  (ps.zipIdx).map (fun p => ⟨p.2 / (if a.pair then 8 else 4), p.1.ptr, p.1.place, ((bytes.drop (32 * p.2)).take 32).map (fun b => (b, 255))⟩)

/-- A block solver, with its arguments (R213). -/
def solver : Instr → Option BlockArgs
  | .cholT a | .trsmT a | .syrkT a | .qrT a => some a
  | _ => none

/-- The steps of a solver, and the windows that it writes (R214 to R217). -/
def solverSteps : Instr → Nat
  | .syrkT _ => 1
  | _ => 8
def solverWindows : Instr → List Nat
  | .qrT a => [a.td.toNat, a.td.toNat + 1, a.ts.toNat, a.ts.toNat + 1]
  | .cholT a | .trsmT a | .syrkT a => [a.td.toNat, a.td.toNat + 1]
  | _ => []

/-- The descriptor of a matrix instruction and whether its accumulator is FP64. -/
def mxDescOf (st : Site) (ds : BitVec 3) : Desc := descOf (envOf st) ds
def wideAcc (d : Desc) : Bool := decide (d.fd = 8)

/-- The request that a side of a roped pair posts (R239). -/
def pairRequest (st : Site) (a : GemmArgs) : PairSide :=
  ⟨st.x.id, st.x.isLead, st.x.launchKey, a.nstep.toNat, (match a.asrc with | .ptr => 0 | .tile => 1 | .mcast => 2), st.ex.img.d.getD a.ds.toNat 0, false⟩

/-- A pitch that belays now and has buffered one effect, by the instruction at `k`. -/
def LoneEffect (s : State) (c : Nat) (x : Ctx) (ex : Exec) (k : Nat) (e : Effect) : Prop :=
  Running s c x ex ∧ ex.decided = true ∧ (∃ n a, ex.taken = [(n, .goto a)]) ∧ ex.bufs = [(k, e)] ∧ k < 64 ∧ ex.mx.tiles = [] ∧ ex.mx.stt = []
    ∧ ex.mx.scale = [] ∧ x.pend = [] ∧ x.spec = none ∧ s.belayWaits x ex = false

/-- A request that a strand sends by itself. -/
def request (s : State) (x : Ctx) (id : Nat) (b : Body) : Msg := ⟨id, .ctx x.id, 15, b, none, id, s.srcEpoch (.ctx x.id), none⟩

/-- Operations whose belay sends one request to a home: all but the card instructions, which count for their job first (R306, R307). -/
def plainOp : OpReq → Bool
  | .cardPost .. | .cardSig _ => false
  | _ => true

/-- No object of the heap is being copied. -/
def NoCopies (s : State) : Prop := ∀ h ∈ s.heaps, ∀ f ∈ h.2.fwd, f.copying = false

/-- The unit's command, after a step of its unit: it is over, or it has met a fault and waits for its engine to stop it. -/
def CommandOver (t : State) (cmd : Nat) : Prop := (∀ d ∈ t.cmds, d.id ≠ cmd) ∨ ∃ d ∈ t.cmds, d.id = cmd ∧ d.fault.isSome = true

end Sys2Proof.Claims

/-- R191, R199 to R203: tz, mvvt, mvtv, ldt, stt and scld fire and are applied: the windows, the moved row or column, the rows read, the image
to be stored and the scale entries are as stated. -/
def Sys2Proof.Claims.TransfersComplete : Prop :=
  (∀ s st o a, NextMatrix (.tz a) s st o → wholeOpen (.tz a) o = true →
    FiresAndApplies (.tz a) s st ((if a.pair then ((firedMx st).setTile a.td.toNat 0).setTile (a.td.toNat + 1) 0
      else (firedMx st).setTile a.td.toNat 0).mxApplied st.f.idx))
  ∧ (∀ s st o a, NextMatrix (.mvvt a) s st o →
    FiresAndApplies (.mvvt a) s st (((firedMx st).setElems a.td.toNat a.pair
      (((List.range (min st.ex.img.vl 32)).filter (fun e => predOpen o.p e && !o.l.nullAt e)).foldl
        (fun l e => l.set (moveEl a e) (o.l.elem (if a.pair then 6 else 5) e)) (s.tileElems st.x st.ex a.td.toNat a.pair))).mxApplied st.f.idx))
  ∧ (∀ s st o a, NextMatrix (.mvtv a) s st o →
    FiresAndApplies (.mvtv a) s st (((firedMx st).deliverAll st.f.idx (Token.vector (if a.pair then 6 else 5)
      ((List.range st.ex.img.vl).map (fun e => if decide (e < 32) && predOpen o.p e then
        some ((s.tileElems st.x st.ex a.td.toNat a.pair).getD (moveEl a e) 0) else none))) (outsAt st.f.idx (.mvtv a))).mxApplied st.f.idx))
  ∧ (∀ s st o a bs, NextMatrix (.ldt a) s st o → wholeOpen (.ldt a) o = true → Readable (firedState s st) (firedCtx st) (firedMx st) (tileRows a o) bs →
    FiresAndApplies (.ldt a) s st (((firedMx st).setElems a.td.toNat a.pair (chunk (accW a.pair / 8) 1024 bs)).mxApplied st.f.idx))
  ∧ (∀ s st o a ps, NextMatrix (.stt a) s st o → wholeOpen (.stt a) o = true →
    (firedState s st).mxCheck (firedCtx st) st.ex.user true (tileRows a o) = .ok ps → (firedState s st).tsbUsed st.x.core + (if a.pair then 2 else 1) ≤ 16 →
    FiresAndApplies (.stt a) s st ({ firedMx st with mx := { (firedMx st).mx with
      stt := (firedMx st).mx.stt ++ [(st.f.idx, tileImage s st a ps)] } }.mxApplied st.f.idx))
  ∧ (∀ s st o a bs, NextMatrix (.scld a) s st o → wholeOpen (.scld a) o = true → Readable (firedState s st) (firedCtx st) (firedMx st) (scaleRows a o) bs →
    ∃ e, FiresAndApplies (.scld a) s st e ∧ e.mxPast st.f.idx = true ∧ e.mx.tiles = st.ex.mx.tiles ∧ e.faults = st.ex.faults
      ∧ (∀ m, m ≤ a.cnt.toNat → e.scaleAt st.x (a.e0.toNat + m)
          = scaleEntryOf a.sf (leNat ((bs.drop (scaleBytes a.sf * m)).take (scaleBytes a.sf))))
      ∧ (∀ k, (k < a.e0.toNat ∨ a.e0.toNat + a.cnt.toNat < k) → e.scaleAt st.x k = st.ex.scaleAt st.x k))

/-- R187, R191, R194, R205, R207, R208, R213 to R217: opa, gemm.t and the block solvers fire, begin their steps and, with no condition enabled
and their slot granted, run to the end without a fault; they change the windows of their destination and, for qr.t, of its τ. -/
def Sys2Proof.Claims.SteppedInstructionsComplete : Prop :=
  (∀ s st o a, NextMatrix (.opa a) s st o → (∀ b t, o.p = some (b, t) → t.wide = true ∨ predOpen o.p 0 = true) →
    s.noSlot st.x.core st.x.slot = false →
    let q : MxSeq := ⟨st.f.idx, 0, 1, [], [], []⟩
    FiresAndApplies (.opa a) s st (waiting st q)
    ∧ (SlotGranted s st.x → (envOf st).fe = 0 → (mxDescOf st a.ds).scl = 0 → RunsToEnd s st q (windows a.td (wideAcc (mxDescOf st a.ds)))
      ∧ ∃ r, mxStep 0 (mxDescOf st a.ds) a.ds.toNat a.neg (st.ex.scaleAt st.x) ((mxPack (mxDescOf st a.ds)).getD 1) 0
          (opaLanes (envOf st).vl o.p o.l) (opaLanes (envOf st).vl none o.r) (s.tileElems st.x st.ex a.td.toNat (wideAcc (mxDescOf st a.ds))) = .ok r
        ∧ r.trap = none
        ∧ exec (.matrixStep st.f.c) (st.put s (waiting st q))
          = .next (st.put s (stepped (waiting st q) q a.td.toNat (wideAcc (mxDescOf st a.ds)) r))))
  ∧ (∀ s st o a q, NextMatrix (.gemmT a) s st o → wholeOpen (.gemmT a) o = true →
    (firedState s st).gemmSeq (firedCtx st) (firedMx st) st.f.idx a o false = .ok q → s.noSlot st.x.core st.x.slot = false →
    FiresAndApplies (.gemmT a) s st (waiting st q)
    ∧ (SlotGranted s st.x → (envOf st).fe = 0 → (mxDescOf st a.ds).scl = 0 → a.asrc = .tile → a.bsrc = .tile → s.early = [] →
      RunsToEnd s st q (windows a.td (wideAcc (mxDescOf st a.ds)))))
  ∧ (∀ i s st o a, solver i = some a → NextMatrix i s st o → wholeOpen i o = true → solverOverlap i = none → s.noSlot st.x.core st.x.slot = false →
    let q : MxSeq := ⟨st.f.idx, 0, solverSteps i, [], [], []⟩
    FiresAndApplies i s st (waiting st q)
    ∧ (SlotGranted s st.x → (envOf st).fe = 0 → (∀ b, i = .cholT b → b.f1 = false) → RunsToEnd s st q (solverWindows i)))

/-- R204 to R208: a granted step of gemm.t whose blocks are there and under which no condition is enabled puts the elements of its outer
product into the working image, whichever sources its panels have. -/
def Sys2Proof.Claims.ProductSteps : Prop :=
  ∀ s c x ex q a v av bv, GrantedStep s c x ex q (.gemmT a) v → (ex.env x q.idx).fe = 0 →
    let d := Desc.ofWord ((ex.env x q.idx).d.getD a.ds.toNat 0)
    let k := (mxPack d).getD 1
    d.scl = 0 → s.gemmBlocks x ex q a v none q.step = .ok (av, bv) →
    ∃ r, mxStep 0 d a.ds.toNat false (ex.scaleAt x) k (q.step * k / 32) ((unpackNat 64 av 32).map some) ((unpackNat 64 bv 32).map some)
        (s.tileElems x ex a.td.toNat (wideAcc d)) = .ok r ∧ r.trap = none
      ∧ exec (.matrixStep c) s = .next (withExec s x (stepped ex q a.td.toNat (wideAcc d) r))

/-- R238, R239: gemm.t.pair fires and posts its side's request: alone it opens the channel, which waits for the other side; beside the other
side's matching request the steps begin. A step of the lead sends the block of A that it has read, and a step of the follower uses the first
that was sent; a side's last step ends its part, and the second side's frees the channel. -/
def Sys2Proof.Claims.RopedProductsComplete : Prop :=
  (∀ s st o a q, NextMatrix (.gemmTPair a) s st o → wholeOpen (.gemmTPair a) o = true →
    (firedState s st).gemmSeq (firedCtx st) (firedMx st) st.f.idx a o (!st.x.isLead) = .ok q →
    exec (.gemmTPair a) s = .next (firedState s st)
    ∧ (s.pair? (pairId st.x.core st.x.slot) = none →
      exec (.matrixApply st.f.c st.f.idx) (firedState s st) = .next ((st.put s (waiting st q)).setPair
        ⟨pairId st.x.core st.x.slot, .half, [pairRequest st a], s.ac16 (matrixIsland st.x.core), [], [], pairRequest st a, []⟩))
    ∧ (∀ p side y, s.pair? (pairId st.x.core st.x.slot) = some p → p.stage = .half → p.party = [] → p.sides = [side] →
      side.lead ≠ st.x.isLead → side.fits (pairRequest st a) = true → s.ctx? side.ctx = some y → y.id ≠ st.x.id →
      s.noSlot y.core y.slot = false → s.noSlot st.x.core st.x.slot = false →
      exec (.matrixApply st.f.c st.f.idx) (firedState s st) = .next ((st.put s (waiting st q)).setPair
        { p with stage := .run, sides := [side, pairRequest st a], blocks := [], ended := [], party := [] })))
  ∧ (∀ s c x ex q a v p av bv, GrantedStep s c x ex q (.gemmTPair a) v → (ex.env x q.idx).fe = 0 →
    s.pair? (pairId x.core x.slot) = some p → s.pairActive p = true →
    let d := Desc.ofWord ((ex.env x q.idx).d.getD a.ds.toNat 0)
    let k := (mxPack d).getD 1
    let last := decide (q.step + 1 = q.total)
    let given := if x.isLead then none else p.blocks.head?.map (·.2)
    let p1 := { p with blocks := if x.isLead then p.blocks ++ [(q.step, av)] else p.blocks.drop 1, ended := if last then p.ended ++ [x.id] else p.ended }
    d.scl = 0 → (if x.isLead then p.blocks.length < 8 else given.isSome = true) → s.gemmBlocks x ex q a v given q.step = .ok (av, bv) →
    ∃ r, mxStep 0 d a.ds.toNat false (ex.scaleAt x) k (q.step * k / 32) ((unpackNat 64 av 32).map some) ((unpackNat 64 bv 32).map some)
        (s.tileElems x ex a.td.toNat (wideAcc d)) = .ok r ∧ r.trap = none
      ∧ exec (.matrixStep c) s = .next (if p1.ended.length = 2 then (withExec s x (stepped ex q a.td.toNat (wideAcc d) r)).freePair p.id
          else (withExec s x (stepped ex q a.td.toNat (wideAcc d) r)).setPair p1))

/-- R27, R28, R219, R221: the belay of a pitch that has buffered an engine command puts the command into its engine's queue and sends its start,
and its es slot shows BUSY. Memory and the other strands stay as they are. -/
def Sys2Proof.Claims.BelayIssuesCommands : Prop :=
  ∀ s c x ex k r, LoneEffect s c x ex k (.cmd r) → r.es < 8 →
    ∃ t y d, exec (.belay c) s = .next t ∧ t.ctx? c = some y ∧ y.es.toList.getD r.es .idle = .busy ∧ t.cmds = s.cmds ++ [d]
      ∧ d = ⟨s.nextId, r, some x.id, none, sidOf x, x.core, s.cmdDie x r, x.wins, .queued, [], none, false, false, true, []⟩
      ∧ t.net = s.net ++ [request s x (s.nextId + 1) (.cmd s.nextId)] ∧ t.mem = s.mem ∧ (∀ e, e ≠ c → t.ctx? e = s.ctx? e)

/-- R27, R226, R236, R240, R290, R293, R298, R307, R318, R345 to R347: the belay of a pitch that has buffered a request of a router, of a
future, of a mesh, of a heap home or of a job sends it, and esack makes its slot IDLE; memory stays as it is. -/
def Sys2Proof.Claims.BelaySendsRequests : Prop :=
  (∀ s c x ex k r, LoneEffect s c x ex k (.router r) → ∃ t, exec (.belay c) s = .next t ∧ t.mem = s.mem
    ∧ t.net = s.net ++ [request s x s.nextId (.router r (clusterOf x.core) ex.user)])
  ∧ (∀ s c x ex k r hs, LoneEffect s c x ex k (.op r hs) → plainOp r = true → ∃ t, exec (.belay c) s = .next t ∧ t.mem = s.mem
    ∧ t.net = s.net ++ [request s x s.nextId (.op r { s.sigSrc x with idx := k })])
  ∧ (∀ s c x ex k card hs, LoneEffect s c x ex k (.op (.cardSig card) hs) → ∃ t, exec (.belay c) s = .next t ∧ t.mem = s.mem
    ∧ t.net = s.net ++ [request s x s.nextId (.signal card false (some (s.sigSrc x)) (s.cardJob card) (dieOf x.core))])
  ∧ (∀ s c x ex k card sel hs, LoneEffect s c x ex k (.op (.cardPost card sel) hs) → selPeer sel = false → ∃ t, exec (.belay c) s = .next t ∧ t.mem = s.mem
    ∧ t.net = s.net ++ [request s x s.nextId (.post card (if selOwn sel then x.core else natBits sel 0 9) (some (s.sigSrc x)) (s.cardJob card) (dieOf x.core))])
  ∧ (∀ s c x ex k e, LoneEffect s c x ex k (.esack e) → e < 8 → ∃ t y, exec (.belay c) s = .next t ∧ t.ctx? c = some y ∧ y.es.toList.getD e .busy = .idle
    ∧ t.mem = s.mem ∧ t.net = s.net)
  ∧ (∀ s c x ex k, LoneEffect s c x ex k .trigger → ∀ l n, x.job = .nest l n → x.triggered = false → ∃ t, exec (.belay c) s = .next t ∧ t.mem = s.mem
    ∧ t.net = s.net ++ [request s x s.nextId (.trigger l n)])

/-- R222, R223, R317, R323, R328, R329, R391, R392: a command that its unit runs next takes a next state: it is over, or it has met a fault and
waits to be stopped, or, of cpyr or the load balancer, waits for the writes it sent to peer chips. Nothing else makes it wait: an adapt's mesh is READY, no other chip holds copies of this chip's memory, no access has performed early, and no object of
the heap is being copied. -/
def Sys2Proof.Claims.UnitCommandsRun : Prop :=
  ∀ s cmd c, Alone s → NoCopies s →
    (s.ready cmd .meshInit = some c → ∃ t, exec (.meshInitRun cmd) s = .next t ∧ CommandOver t cmd)
    ∧ (s.ready cmd .meshAdapt = some c → s.adaptWaits c = false → ∃ t, exec (.meshAdaptRun cmd) s = .next t ∧ CommandOver t cmd)
    ∧ (s.ready cmd .meshFree = some c → ∃ t, exec (.meshFreeRun cmd) s = .next t ∧ CommandOver t cmd)
    ∧ (s.ready cmd .nbrStream = some c → ∃ t, exec (.nbrStreamRun cmd) s = .next t ∧ CommandOver t cmd)
    ∧ (s.ready cmd .colBuild = some c → ∃ t, exec (.colBuildRun cmd) s = .next t ∧ CommandOver t cmd)
    ∧ ((∀ m ∈ s.net, m.src ≠ .cmd cmd) →
      (s.ready cmd .cpyr = some c → ∃ t, exec (.cpyrRun cmd) s = .next t ∧ (CommandOver t cmd ∨ ∃ m ∈ t.net, m.src = .cmd cmd))
      ∧ (s.ready cmd .lbCut = some c → ∃ t, exec (.lbCutRun cmd) s = .next t ∧ (CommandOver t cmd ∨ ∃ m ∈ t.net, m.src = .cmd cmd))
      ∧ (s.ready cmd .lbMigrate = some c → ∃ t, exec (.lbMigrateRun cmd) s = .next t ∧ (CommandOver t cmd ∨ ∃ m ∈ t.net, m.src = .cmd cmd))
      ∧ (s.ready cmd .ghostSync = some c → ∃ t, exec (.ghostSyncRun cmd) s = .next t ∧ (CommandOver t cmd ∨ ∃ m ∈ t.net, m.src = .cmd cmd)))

/-- R266, R267: where one scope lies below another, every agent of its instance is in the other's instance. -/
def Sys2Proof.Claims.ScopesNest : Prop :=
  ∀ (a b : Scope) chip ctx core launch ag, Scope.below a b = true → (∀ k l, ag = .strand ctx k l → k = core ∧ l = launch) →
    Scope.holds a chip ctx core launch ag = true → Scope.holds b chip ctx core launch ag = true

/-- R263, R276, R277: what a unit writes is taken at once where nothing is in its way; copies of what it writes are invalidated first, and it
waits while an access that has performed early, or another write, must come first. -/
def Sys2Proof.Claims.UnitWritesTakeTurns : Prop :=
  ∀ s t a event, UnitStep s t a (s.unitWrite t a event)
    ∧ ((s.earlyChanged t a = true ∨ ∃ c ∈ s.copiesChanged t, s.sectorBusy s.nextId (32 * c.sector) 32 = true) →
        s.unitWrite t a event = .fault (.notEnabled event))

/-! ### The statements -/

/-- Integer instructions deliver the exact result of each element, narrowed by their shape. -/
def Obligations.IntegerInstructionsRun : Prop := Claims.IntegerInstructionsComplete ∧ Claims.IntegerInstructionsFault

/-- The 64-bit scalar integer instructions compute in the arithmetic of 64-bit words. -/
def Obligations.IntegerScalarResultsAreWordArithmetic : Prop := Claims.IntegerScalarResults

/-- padd, pset and pget work on one field of a pointer and leave its other bits. -/
def Obligations.PointerInstructionsRun : Prop := Claims.PointerInstructionsComplete ∧ Claims.PointerFieldResults ∧ Claims.PointerFieldFaults

/-- Floating-point instructions deliver each element's rounded result, or trap on the lowest element that raises an enabled condition. -/
def Obligations.FloatInstructionsRun : Prop := Claims.FloatInstructionsComplete ∧ Claims.FloatTrapOnLowestElement

/-- vfmin and vfmax order -0 below +0, prefer a number to a quiet NaN and raise only NV. -/
def Obligations.FloatMinMaxOrdersZerosAndNaNs : Prop := Claims.MinMaxOfFloats

/-- The compressed instructions deliver their results. -/
def Obligations.CompressedInstructionsRun : Prop := Claims.CompressedInstructionsComplete

/-- Format conversions deliver converted elements, and a scale entry beyond 255 raises SCALE_RANGE. -/
def Obligations.ConversionsRun : Prop := Claims.ConversionsComplete ∧ Claims.ScaleRangeRaised

/-- Sums, minima, maxima and logical reductions deliver one scalar over the live elements. -/
def Obligations.ReductionsRun : Prop := Claims.ReductionsComplete

/-- Comparisons, selection, permutations and mask instructions deliver their results. -/
def Obligations.SelectionAndMaskInstructionsRun : Prop := Claims.SelectionComplete ∧ Claims.MaskInstructionsComplete

/-- A load that fires sends its requests when the memory rules let it, and delivers nothing yet. -/
def Obligations.LoadsLeaveAsRequests : Prop := Claims.LoadsFire

/-- Stores and atomics are checked and buffered as they fire; nothing leaves before the belay. -/
def Obligations.StoresAndAtomicsWaitForTheBelay : Prop := Claims.StoresBufferTheirBytes ∧ Claims.AtomicsBuffer

/-- An exit that fires records that it is taken and where it leads. -/
def Obligations.ExitsAreTakenOnce : Prop := Claims.ExitsFire ∧ Claims.BranchOnEngineSlot

/-- csrw, fences, waits, barriers, setrecov, trigger and esack wait for the belay; csrr delivers at once. -/
def Obligations.ControlEffectsWaitForTheBelay : Prop := Claims.WholeEffectsBuffer ∧ Claims.CsrReads

/-- An engine command that fires is allotted an es slot, delivers its index and leaves at the belay. -/
def Obligations.EngineCommandsWaitForTheBelay : Prop := Claims.CommandsBuffer ∧ Claims.BelayIssuesCommands

/-- Router, card, future, mesh and heap requests are checked and buffered as they fire, and leave at the belay. -/
def Obligations.UnitRequestsWaitForTheBelay : Prop :=
  Claims.UnitRequestsBuffer ∧ Claims.CardInstructionsBuffer ∧ Claims.HeapInstructionsBuffer ∧ Claims.BelaySendsRequests

/-- A matrix instruction fires, is applied in its turn and runs to the end; a neighbour query leaves at once. -/
def Obligations.MatrixInstructionsFireAndWait : Prop :=
  Claims.MatrixInstructionsFire ∧ Claims.StripQueriesFire ∧ Claims.TransfersComplete ∧ Claims.SteppedInstructionsComplete

/-- The matrix unit applies due instructions, runs granted steps and passes over those that cannot fire. -/
def Obligations.MatrixUnitApplies : Prop :=
  Claims.MatrixApplied ∧ Claims.MatrixSteps ∧ Claims.ProductSteps ∧ Claims.RopedProductsComplete ∧ Claims.MatrixPassedOver
    ∧ Claims.PairTimerExpires

/-- tz sets every bit of the tiles it names to 0 and leaves the other windows. -/
def Obligations.TzZeroesTheTile : Prop := Claims.TileZeroed

/-- A strand enters, skips or faults on its next pitch, and may begin the one that its taken exit leads to. -/
def Obligations.PitchesBegin : Prop := Claims.PitchEntered ∧ Claims.LoopPitchSkipped ∧ Claims.EntryFaultDiscards ∧ Claims.SpeculationStarts

/-- Load answers deliver the token, failed answers fault, and waits end when their condition holds. -/
def Obligations.LoadsReturnAndWaitsEnd : Prop :=
  Claims.LoadResponseDelivers ∧ Claims.LoadResponseFaults ∧ Claims.WatchedWordReturns ∧ Claims.WaitcEnds

/-- A quiet pitch belays, or reports the fault that comes first. -/
def Obligations.PitchesEnd : Prop := Claims.QuiescenceDecidesBelay ∧ Claims.QuiescenceReports

/-- A recoverable trap saves a frame and enters the trap entry, a fatal fault discards the strip, and rtp's return restores the frame. -/
def Obligations.TrapsTakenAndReturned : Prop :=
  Claims.RecoverableTrapTaken ∧ Claims.DoubleFaultRetires ∧ Claims.FatalFaultDiscards ∧ Claims.TrapReturns

/-- Restoring a replay frame gives back the strand values with which the trapped pitch began, in the bits that registers hold. -/
def Obligations.ReplayFrameCarriesTheStrand : Prop := Claims.FrameCarriesImages

/-- The belay makes a pitch's writes architectural and releases its stores as requests. -/
def Obligations.BelayCommits : Prop := Claims.BelayCommitsRegisters ∧ Claims.BelayReleasesStore

/-- Branches, strips, loops, yield and fin change the strand at the belay as stated, and strips keep their progress. -/
def Obligations.ExitsActAtTheBelay : Prop := Claims.ExitEffects ∧ Claims.StripProgressKept

/-- Answers after the belay fill the waiting registers, errors are reported, and a strand retires when nothing is outstanding. -/
def Obligations.AnswersAfterTheBelayFillSlots : Prop :=
  Claims.AtomicResponseFillsSlots ∧ Claims.CommandResultFillsSlots ∧ Claims.StoreErrorReported ∧ Claims.StrandRetires

/-- Contexts swap between a slot and its bank, spill to memory and fill back unchanged. That the bytes of a spilled image are free, and that its check is that they are unchanged, is the model's choice (log entry 40). -/
def Obligations.ContextsSwapSpillAndFill : Prop :=
  Claims.SlotSwaps ∧ Claims.QuantumEnds ∧ Claims.SpillRequested ∧ Claims.SpillStarts ∧ Claims.SpillCompletes ∧ Claims.SpillAccessFails
    ∧ Claims.FillStarts ∧ Claims.FillCompletes

/-- Nests are walked, strands placed, and cards dispatched and completed. -/
def Obligations.LaunchesPlaceStrands : Prop := Claims.NestLaunches ∧ Claims.CoxPlaces ∧ Claims.CardsDispatched ∧ Claims.CardCompletes

/-- Signals count toward cards, posts queue them, futures wait and resolve, and jobs flush. -/
def Obligations.SignalsAndFuturesRun : Prop :=
  Claims.SignalsCount ∧ Claims.PostsMakeReady ∧ Claims.FutureWaits ∧ Claims.FutureResolves ∧ Claims.ProxyBatchLeaves ∧ Claims.JobFlushes

/-- Copy commands start, complete, fault, resume and abort. -/
def Obligations.CopyEnginesRun : Prop :=
  Claims.CommandsStart ∧ Claims.CopiesComplete ∧ Claims.EngineFaults ∧ Claims.CommandsResume ∧ Claims.CommandsAbort ∧ Claims.RemapCopies

/-- Mesh commands build, adapt, free and stream meshes; handles open and close; cells answer their neighbours; parts migrate. -/
def Obligations.MeshEnginesRun : Prop :=
  Claims.MeshesBuilt ∧ Claims.MeshesAdapted ∧ Claims.MeshesFreed ∧ Claims.NeighboursStreamed ∧ Claims.MeshesOpened ∧ Claims.MeshesClosed
    ∧ Claims.NeighbourQueries ∧ Claims.PartsMigrate ∧ Claims.UnitCommandsRun

/-- col.build gives any two entries that share a target different colours, in the stated order. -/
def Obligations.ColouringIsProper : Prop := Claims.EntriesColoured ∧ Claims.ColouringProper

/-- A home performs loads, stores and atomics on its bytes and changes no others. -/
def Obligations.HomesPerformAccesses : Prop :=
  Claims.LoadsPerform ∧ Claims.StoresPerform ∧ Claims.AtomicsPerform ∧ Claims.FencesAndTriggersPerform

/-- Engine transfers move whole granules, and heap operations act on the header at the object's home. -/
def Obligations.GranulesAndHeapOperationsPerform : Prop := Claims.GranulesMove ∧ Claims.HeapOperationsPerform

/-- Requests to a copying object or a shared sector wait, peers' requests leave, and a silent sharer is dropped. -/
def Obligations.HomesOrderRequests : Prop :=
  Claims.RequestsWaitForCopy ∧ Claims.CopiesInvalidatedFirst ∧ Claims.PeerRequestsLeave ∧ Claims.SilentSharerDropped
    ∧ Claims.UnitWritesTakeTurns ∧ Claims.ScopesNest

/-- An object is relocated by a forwarding entry, a copy and its publication; the epoch advances over all homes. -/
def Obligations.RelocationsRun : Prop :=
  Claims.RelocationAccepted ∧ Claims.RelocationCopies ∧ Claims.RelocationFaults ∧ Claims.EpochAdvances

/-- lb.cut writes the least cuts that give each part its share of the weights. -/
def Obligations.LoadBalancerCutsEvenly : Prop := Claims.CutsWritten ∧ Claims.CutIsLeast

/-- Regatta tables are checked, take effect together and rotate by heats. -/
def Obligations.RegattaTablesRotate : Prop := Claims.TableLoaded ∧ Claims.AcceptedTables ∧ Claims.TableSwitches ∧ Claims.HeatsRotate

/-- Flits are sealed, sent, checked, acknowledged and sent again in order. -/
def Obligations.FlitsTravelInOrder : Prop :=
  Claims.FlitsReceived ∧ Claims.BrokenFlitsDropped ∧ Claims.AcksSent ∧ Claims.AcksFree ∧ Claims.TimeoutResends ∧ Claims.FlitsSent
    ∧ Claims.KeysRoll

/-- Lost light narrows or takes down a link, a long loss fails what waits, and links and peers rejoin. -/
def Obligations.LinksFailAndRejoin : Prop :=
  Claims.LightLost ∧ Claims.LanesTaken ∧ Claims.WavelengthsRejoin ∧ Claims.DownLinksFail ∧ Claims.PeersRejoin ∧ Claims.LasersFail

/-- Copies between chips open, carry and close their transfers; multicasts split by ports. -/
def Obligations.CrossChipCopiesRun : Prop :=
  Claims.CrossCopiesRun ∧ Claims.CrossCopiesComplete ∧ Claims.MulticastStarts ∧ Claims.MulticastSplits

/-- The cluster router declares sets, takes pushes, gives records to takers and routes what they return. -/
def Obligations.RouterMovesRecords : Prop :=
  Claims.SetsDeclared ∧ Claims.RecordsPushed ∧ Claims.HeldPushAdmitted ∧ Claims.RecordsTaken ∧ Claims.WaitingTakeServed
    ∧ Claims.RecordsDone ∧ Claims.RecordsRouted

/-- Windows close, statistics are read, sets drain and the lottery is seeded. -/
def Obligations.RouterWindowsClose : Prop :=
  Claims.WindowCloses ∧ Claims.StageCloses ∧ Claims.StatisticsRead ∧ Claims.SetsDrained ∧ Claims.LotterySeeded

/-- Each writable register takes its fields at its offset, and reserved offsets have no register. -/
def Obligations.RegistersAnswerWrites : Prop :=
  Claims.RegisterMap ∧ Claims.CoreRegistersWritten ∧ Claims.RegistersWritten ∧ Claims.PackageRegistersWritten ∧ Claims.DoorbellRings

/-- A die reset clears its strands, a new slot table takes effect at its round, and translation entries are written, read and invalidated. -/
def Obligations.ResetsAndTranslationsAct : Prop :=
  Claims.DieReset ∧ Claims.SlotTableSwitches ∧ Claims.TranslationsCommanded ∧ Claims.TranslationDrains

/-- Dies recover, watchdogs and parity errors end the work they find, and failed links are routed around. -/
def Obligations.PackageRecoversFromErrors : Prop :=
  Claims.DieRecovers ∧ Claims.WatchdogsExpire ∧ Claims.ScrubFinds ∧ Claims.QueueEntriesAborted ∧ Claims.LinksFail

/-- The host's packets, accesses, resizing and power acts have their stated effects. -/
def Obligations.HostSideActs : Prop :=
  Claims.PacketsTaken ∧ Claims.HostAccesses ∧ Claims.HostLinkLost ∧ Claims.Bar2Resized ∧ Claims.PowerManaged ∧ Claims.FirmwareVerified

/-- Decoding the encoding of any well-formed instruction gives that instruction back. -/
def Obligations.DecodingInvertsEncoding : Prop := Claims.DecodeEncode

/-- Whatever decodes is well formed, and its parcels are its encoding. -/
def Obligations.DecodedParcelsAreTheEncoding : Prop := Claims.DecodedIsEncoded

/-- The words that the spec writes out in its examples decode to the instructions it gives. -/
def Obligations.SpecExamplesDecode : Prop := Claims.SpecWordsDecode

/-- A step runs the instruction that the chosen parcels decode to. -/
def Obligations.StepRunsTheDecodedInstruction : Prop := Claims.StepRunsDecoded

/-- Every instruction of a decoded pitch is what the fetched parcels at its address decode to. -/
def Obligations.PitchesHoldWhatMemoryHolds : Prop := Claims.PitchHoldsMemory

/-- Every step keeps memory in its canonical form. What an unlisted byte reads as is the model's choice (log entry 2). -/
def Obligations.EveryStepKeepsMemoryForm : Prop := Claims.StepKeepsMemoryForm

/-- Every step keeps each strand in supervisor mode exactly while it is inside a trap. -/
def Obligations.EveryStepKeepsModeAndTrap : Prop := Claims.StepKeepsMode

/-- Right after reset nothing runs, no translation is valid, the dies run with empty queues and the fabric is off. No value of a free or unstated register is claimed. -/
def Obligations.ResetStateAsStated : Prop := Claims.ResetState ∧ Claims.ResetMeetsInvariants

/-- A byte written is read back, others stay, and values are little-endian. -/
def Obligations.MemoryKeepsWhatIsWritten : Prop := Claims.MemoryReadsWrites ∧ Claims.ValuesLittleEndian

/-- An instruction that fires changes no memory, no register and no other strand. -/
def Obligations.FiringChangesOnlyItsPitch : Prop := Claims.FiringChangesOnlyItsPitch

/-- A token fills one empty slot, a second one collides, and write slots take only their register's kinds. -/
def Obligations.TokensFillSlotsOnce : Prop := Claims.TokensDelivered ∧ Claims.WriteSlotKinds

/-- Write slots merge non-null elements into registers, x0 and m0 are hard-wired, and csrw writes the stated fields. -/
def Obligations.RegistersMergeAtTheBelay : Prop := Claims.RegistersReadAndWritten ∧ Claims.ControlRegistersWritten

/-- An element access reports the first check that fails, in the stated order. -/
def Obligations.ElementChecksComeInOrder : Prop := Claims.ElementChecksInOrder
end

