-- ==== Sys2Proof/Laws/Dispatch.lean ====
section
/-!
SUPPORT. Sys2Proof/Laws/Dispatch.lean: which meaning each instruction has, one equation per constructor.
-/

namespace Sys2Proof.Machine

theorem exec_add (o) (s : State) : exec (.add o) s = execAdd o s := rfl
theorem exec_sub (o) (s : State) : exec (.sub o) s = execSub o s := rfl
theorem exec_and (o) (s : State) : exec (.and o) s = execAnd o s := rfl
theorem exec_or (o) (s : State) : exec (.or o) s = execOr o s := rfl
theorem exec_xor (o) (s : State) : exec (.xor o) s = execXor o s := rfl
theorem exec_andn (o) (s : State) : exec (.andn o) s = execAndn o s := rfl
theorem exec_sll (o) (s : State) : exec (.sll o) s = execSll o s := rfl
theorem exec_srl (o) (s : State) : exec (.srl o) s = execSrl o s := rfl
theorem exec_sra (o) (s : State) : exec (.sra o) s = execSra o s := rfl
theorem exec_min (o) (s : State) : exec (.min o) s = execMin o s := rfl
theorem exec_max (o) (s : State) : exec (.max o) s = execMax o s := rfl
theorem exec_minu (o) (s : State) : exec (.minu o) s = execMinu o s := rfl
theorem exec_maxu (o) (s : State) : exec (.maxu o) s = execMaxu o s := rfl
theorem exec_addi (o) (s : State) : exec (.addi o) s = execAddi o s := rfl
theorem exec_andi (o) (s : State) : exec (.andi o) s = execAndi o s := rfl
theorem exec_slli (o) (s : State) : exec (.slli o) s = execSlli o s := rfl
theorem exec_mul (o) (s : State) : exec (.mul o) s = execMul o s := rfl
theorem exec_mulh (o) (s : State) : exec (.mulh o) s = execMulh o s := rfl
theorem exec_mulhu (o) (s : State) : exec (.mulhu o) s = execMulhu o s := rfl
theorem exec_div (o) (s : State) : exec (.div o) s = execDiv o s := rfl
theorem exec_divu (o) (s : State) : exec (.divu o) s = execDivu o s := rfl
theorem exec_rem (o) (s : State) : exec (.rem o) s = execRem o s := rfl
theorem exec_remu (o) (s : State) : exec (.remu o) s = execRemu o s := rfl
theorem exec_srli (o) (s : State) : exec (.srli o) s = execSrli o s := rfl
theorem exec_srai (o) (s : State) : exec (.srai o) s = execSrai o s := rfl
theorem exec_clz (o) (s : State) : exec (.clz o) s = execClz o s := rfl
theorem exec_ctz (o) (s : State) : exec (.ctz o) s = execCtz o s := rfl
theorem exec_popc (o) (s : State) : exec (.popc o) s = execPopc o s := rfl
theorem exec_bfx (o) (s : State) : exec (.bfx o) s = execBfx o s := rfl
theorem exec_padd (o) (s : State) : exec (.padd o) s = execPadd o s := rfl
theorem exec_pset (o) (s : State) : exec (.pset o) s = execPset o s := rfl
theorem exec_pget (o) (s : State) : exec (.pget o) s = execPget o s := rfl
theorem exec_vfadd (o) (s : State) : exec (.vfadd o) s = execVfadd o s := rfl
theorem exec_vfsub (o) (s : State) : exec (.vfsub o) s = execVfsub o s := rfl
theorem exec_vfmul (o) (s : State) : exec (.vfmul o) s = execVfmul o s := rfl
theorem exec_vfdiv (o) (s : State) : exec (.vfdiv o) s = execVfdiv o s := rfl
theorem exec_vfsqrt (o) (s : State) : exec (.vfsqrt o) s = execVfsqrt o s := rfl
theorem exec_vfmin (o) (s : State) : exec (.vfmin o) s = execVfmin o s := rfl
theorem exec_vfmax (o) (s : State) : exec (.vfmax o) s = execVfmax o s := rfl
theorem exec_vfabs (o) (s : State) : exec (.vfabs o) s = execVfabs o s := rfl
theorem exec_vfneg (o) (s : State) : exec (.vfneg o) s = execVfneg o s := rfl
theorem exec_vfma (o) (s : State) : exec (.vfma o) s = execVfma o s := rfl
theorem exec_vfms (o) (s : State) : exec (.vfms o) s = execVfms o s := rfl
theorem exec_vfnma (o) (s : State) : exec (.vfnma o) s = execVfnma o s := rfl
theorem exec_vfnms (o) (s : State) : exec (.vfnms o) s = execVfnms o s := rfl
theorem exec_vfrcp (o) (s : State) : exec (.vfrcp o) s = execVfrcp o s := rfl
theorem exec_vfrsq (o) (s : State) : exec (.vfrsq o) s = execVfrsq o s := rfl
theorem exec_vfsgn (o) (s : State) : exec (.vfsgn o) s = execVfsgn o s := rfl
theorem exec_vfclass (o) (s : State) : exec (.vfclass o) s = execVfclass o s := rfl
theorem exec_vfscale (o) (s : State) : exec (.vfscale o) s = execVfscale o s := rfl
theorem exec_vflogb (o) (s : State) : exec (.vflogb o) s = execVflogb o s := rfl
theorem exec_vfrnd (o) (s : State) : exec (.vfrnd o) s = execVfrnd o s := rfl
theorem exec_vcvt (o) (s : State) : exec (.vcvt o) s = execVcvt o s := rfl
theorem exec_vcvtb (o) (s : State) : exec (.vcvtb o) s = execVcvtb o s := rfl
theorem exec_vsumO (o) (s : State) : exec (.vsumO o) s = execVsumO o s := rfl
theorem exec_vsumT (o) (s : State) : exec (.vsumT o) s = execVsumT o s := rfl
theorem exec_vminR (o) (s : State) : exec (.vminR o) s = execVminR o s := rfl
theorem exec_vmaxR (o) (s : State) : exec (.vmaxR o) s = execVmaxR o s := rfl
theorem exec_vandR (o) (s : State) : exec (.vandR o) s = execVandR o s := rfl
theorem exec_vorR (o) (s : State) : exec (.vorR o) s = execVorR o s := rfl
theorem exec_cmp (o) (s : State) : exec (.cmp o) s = execCmp o s := rfl
theorem exec_cmpi (o) (s : State) : exec (.cmpi o) s = execCmpi o s := rfl
theorem exec_vfeq (o) (s : State) : exec (.vfeq o) s = execVfeq o s := rfl
theorem exec_vflt (o) (s : State) : exec (.vflt o) s = execVflt o s := rfl
theorem exec_vfle (o) (s : State) : exec (.vfle o) s = execVfle o s := rfl
theorem exec_vfun (o) (s : State) : exec (.vfun o) s = execVfun o s := rfl
theorem exec_sel (o) (s : State) : exec (.sel o) s = execSel o s := rfl
theorem exec_vperm (o) (s : State) : exec (.vperm o) s = execVperm o s := rfl
theorem exec_vext (o) (s : State) : exec (.vext o) s = execVext o s := rfl
theorem exec_vins (o) (s : State) : exec (.vins o) s = execVins o s := rfl
theorem exec_mlog (o) (s : State) : exec (.mlog o) s = execMlog o s := rfl
theorem exec_mfirst (o) (s : State) : exec (.mfirst o) s = execMfirst o s := rfl
theorem exec_mpop (o) (s : State) : exec (.mpop o) s = execMpop o s := rfl
theorem exec_viota (o) (s : State) : exec (.viota o) s = execViota o s := rfl
theorem exec_vcomp (o) (s : State) : exec (.vcomp o) s = execVcomp o s := rfl
theorem exec_mrange (o) (s : State) : exec (.mrange o) s = execMrange o s := rfl
theorem exec_ld (o) (s : State) : exec (.ld o) s = execLd o s := rfl
theorem exec_lds (o) (s : State) : exec (.lds o) s = execLds o s := rfl
theorem exec_ldg (o) (s : State) : exec (.ldg o) s = execLdg o s := rfl
theorem exec_ldff (o) (s : State) : exec (.ldff o) s = execLdff o s := rfl
theorem exec_ldgff (o) (s : State) : exec (.ldgff o) s = execLdgff o s := rfl
theorem exec_ldx (o) (s : State) : exec (.ldx o) s = execLdx o s := rfl
theorem exec_ldm (o) (s : State) : exec (.ldm o) s = execLdm o s := rfl
theorem exec_ldb (o) (s : State) : exec (.ldb o) s = execLdb o s := rfl
theorem exec_ldref (o) (s : State) : exec (.ldref o) s = execLdref o s := rfl
theorem exec_ldrefH (o) (s : State) : exec (.ldrefH o) s = execLdrefH o s := rfl
theorem exec_ldk (o) (s : State) : exec (.ldk o) s = execLdk o s := rfl
theorem exec_lda (o) (s : State) : exec (.lda o) s = execLda o s := rfl
theorem exec_st (o) (s : State) : exec (.st o) s = execSt o s := rfl
theorem exec_sts (o) (s : State) : exec (.sts o) s = execSts o s := rfl
theorem exec_stg (o) (s : State) : exec (.stg o) s = execStg o s := rfl
theorem exec_stx (o) (s : State) : exec (.stx o) s = execStx o s := rfl
theorem exec_stm (o) (s : State) : exec (.stm o) s = execStm o s := rfl
theorem exec_stref (o) (s : State) : exec (.stref o) s = execStref o s := rfl
theorem exec_stk (o) (s : State) : exec (.stk o) s = execStk o s := rfl
theorem exec_stl (o) (s : State) : exec (.stl o) s = execStl o s := rfl
theorem exec_fence (o) (s : State) : exec (.fence o) s = execFence o s := rfl
theorem exec_waitc (o) (s : State) : exec (.waitc o) s = execWaitc o s := rfl
theorem exec_waitv (o) (s : State) : exec (.waitv o) s = execWaitv o s := rfl
theorem exec_amoAdd (o) (s : State) : exec (.amoAdd o) s = execAmoAdd o s := rfl
theorem exec_amoAnd (o) (s : State) : exec (.amoAnd o) s = execAmoAnd o s := rfl
theorem exec_amoOr (o) (s : State) : exec (.amoOr o) s = execAmoOr o s := rfl
theorem exec_amoXor (o) (s : State) : exec (.amoXor o) s = execAmoXor o s := rfl
theorem exec_amoMin (o) (s : State) : exec (.amoMin o) s = execAmoMin o s := rfl
theorem exec_amoMax (o) (s : State) : exec (.amoMax o) s = execAmoMax o s := rfl
theorem exec_amoSwap (o) (s : State) : exec (.amoSwap o) s = execAmoSwap o s := rfl
theorem exec_amoCas (o) (s : State) : exec (.amoCas o) s = execAmoCas o s := rfl
theorem exec_br (o) (s : State) : exec (.br o) s = execBr o s := rfl
theorem exec_brCall (o) (s : State) : exec (.brCall o) s = execBrCall o s := rfl
theorem exec_brInd (o) (s : State) : exec (.brInd o) s = execBrInd o s := rfl
theorem exec_brRet (o) (s : State) : exec (.brRet o) s = execBrRet o s := rfl
theorem exec_brStrip (o) (s : State) : exec (.brStrip o) s = execBrStrip o s := rfl
theorem exec_brEs (o) (s : State) : exec (.brEs o) s = execBrEs o s := rfl
theorem exec_loop (o) (s : State) : exec (.loop o) s = execLoop o s := rfl
theorem exec_loopc (o) (s : State) : exec (.loopc o) s = execLoopc o s := rfl
theorem exec_loopw (o) (s : State) : exec (.loopw o) s = execLoopw o s := rfl
theorem exec_trigger (o) (s : State) : exec (.trigger o) s = execTrigger o s := rfl
theorem exec_yield (o) (s : State) : exec (.yield o) s = execYield o s := rfl
theorem exec_setrecov (o) (s : State) : exec (.setrecov o) s = execSetrecov o s := rfl
theorem exec_rtp (o) (s : State) : exec (.rtp o) s = execRtp o s := rfl
theorem exec_fin (o) (s : State) : exec (.fin o) s = execFin o s := rfl
theorem exec_csrr (o) (s : State) : exec (.csrr o) s = execCsrr o s := rfl
theorem exec_csrw (o) (s : State) : exec (.csrw o) s = execCsrw o s := rfl
theorem exec_cMov (o) (s : State) : exec (.cMov o) s = execCMov o s := rfl
theorem exec_cFan (o) (s : State) : exec (.cFan o) s = execCFan o s := rfl
theorem exec_cVl (o) (s : State) : exec (.cVl o) s = execCVl o s := rfl
theorem exec_cSb (o) (s : State) : exec (.cSb o) s = execCSb o s := rfl
theorem exec_cSn (o) (s : State) : exec (.cSn o) s = execCSn o s := rfl
theorem exec_cEidx (o) (s : State) : exec (.cEidx o) s = execCEidx o s := rfl
theorem exec_cLi (o) (s : State) : exec (.cLi o) s = execCLi o s := rfl
theorem exec_cNeg (o) (s : State) : exec (.cNeg o) s = execCNeg o s := rfl
theorem exec_cNot (o) (s : State) : exec (.cNot o) s = execCNot o s := rfl
theorem exec_cInc (o) (s : State) : exec (.cInc o) s = execCInc o s := rfl
theorem exec_cDec (o) (s : State) : exec (.cDec o) s = execCDec o s := rfl
theorem exec_cShl1 (o) (s : State) : exec (.cShl1 o) s = execCShl1 o s := rfl
theorem exec_cShr1 (o) (s : State) : exec (.cShr1 o) s = execCShr1 o s := rfl
theorem exec_cSar1 (o) (s : State) : exec (.cSar1 o) s = execCSar1 o s := rfl
theorem exec_cSext32 (o) (s : State) : exec (.cSext32 o) s = execCSext32 o s := rfl
theorem exec_cZext32 (o) (s : State) : exec (.cZext32 o) s = execCZext32 o s := rfl
theorem exec_cIsz (o) (s : State) : exec (.cIsz o) s = execCIsz o s := rfl
theorem exec_cNez (o) (s : State) : exec (.cNez o) s = execCNez o s := rfl
theorem exec_cAdd (o) (s : State) : exec (.cAdd o) s = execCAdd o s := rfl
theorem exec_cSub (o) (s : State) : exec (.cSub o) s = execCSub o s := rfl
theorem exec_cAnd (o) (s : State) : exec (.cAnd o) s = execCAnd o s := rfl
theorem exec_cOr (o) (s : State) : exec (.cOr o) s = execCOr o s := rfl
theorem exec_cXor (o) (s : State) : exec (.cXor o) s = execCXor o s := rfl
theorem exec_cNull (o) (s : State) : exec (.cNull o) s = execCNull o s := rfl
theorem exec_cNullv (o) (s : State) : exec (.cNullv o) s = execCNullv o s := rfl
theorem exec_cNullm (o) (s : State) : exec (.cNullm o) s = execCNullm o s := rfl
theorem exec_cNullif (o) (s : State) : exec (.cNullif o) s = execCNullif o s := rfl
theorem exec_cKeepif (o) (s : State) : exec (.cKeepif o) s = execCKeepif o s := rfl
theorem exec_cZfill (o) (s : State) : exec (.cZfill o) s = execCZfill o s := rfl
theorem exec_cIsnull (o) (s : State) : exec (.cIsnull o) s = execCIsnull o s := rfl
theorem exec_tz (o) (s : State) : exec (.tz o) s = execTz o s := rfl
theorem exec_opa (o) (s : State) : exec (.opa o) s = execOpa o s := rfl
theorem exec_mvvt (o) (s : State) : exec (.mvvt o) s = execMvvt o s := rfl
theorem exec_mvtv (o) (s : State) : exec (.mvtv o) s = execMvtv o s := rfl
theorem exec_ldt (o) (s : State) : exec (.ldt o) s = execLdt o s := rfl
theorem exec_stt (o) (s : State) : exec (.stt o) s = execStt o s := rfl
theorem exec_scld (o) (s : State) : exec (.scld o) s = execScld o s := rfl
theorem exec_gemmT (o) (s : State) : exec (.gemmT o) s = execGemmT o s := rfl
theorem exec_gemmTPair (o) (s : State) : exec (.gemmTPair o) s = execGemmTPair o s := rfl
theorem exec_cholT (o) (s : State) : exec (.cholT o) s = execCholT o s := rfl
theorem exec_trsmT (o) (s : State) : exec (.trsmT o) s = execTrsmT o s := rfl
theorem exec_syrkT (o) (s : State) : exec (.syrkT o) s = execSyrkT o s := rfl
theorem exec_qrT (o) (s : State) : exec (.qrT o) s = execQrT o s := rfl
theorem exec_cpy (o) (s : State) : exec (.cpy o) s = execCpy o s := rfl
theorem exec_cpyRec (o) (s : State) : exec (.cpyRec o) s = execCpyRec o s := rfl
theorem exec_cpy2 (o) (s : State) : exec (.cpy2 o) s = execCpy2 o s := rfl
theorem exec_cpy3 (o) (s : State) : exec (.cpy3 o) s = execCpy3 o s := rfl
theorem exec_cpyg (o) (s : State) : exec (.cpyg o) s = execCpyg o s := rfl
theorem exec_cpyr (o) (s : State) : exec (.cpyr o) s = execCpyr o s := rfl
theorem exec_cpyx (o) (s : State) : exec (.cpyx o) s = execCpyx o s := rfl
theorem exec_esack (o) (s : State) : exec (.esack o) s = execEsack o s := rfl
theorem exec_rtDecl (o) (s : State) : exec (.rtDecl o) s = execRtDecl o s := rfl
theorem exec_rtPush (o) (s : State) : exec (.rtPush o) s = execRtPush o s := rfl
theorem exec_rtTake (o) (s : State) : exec (.rtTake o) s = execRtTake o s := rfl
theorem exec_rtDone (o) (s : State) : exec (.rtDone o) s = execRtDone o s := rfl
theorem exec_rtStat (o) (s : State) : exec (.rtStat o) s = execRtStat o s := rfl
theorem exec_rtDrain (o) (s : State) : exec (.rtDrain o) s = execRtDrain o s := rfl
theorem exec_rtSeed (o) (s : State) : exec (.rtSeed o) s = execRtSeed o s := rfl
theorem exec_bar (o) (s : State) : exec (.bar o) s = execBar o s := rfl
theorem exec_cardPost (o) (s : State) : exec (.cardPost o) s = execCardPost o s := rfl
theorem exec_cardSig (o) (s : State) : exec (.cardSig o) s = execCardSig o s := rfl
theorem exec_futWait (o) (s : State) : exec (.futWait o) s = execFutWait o s := rfl
theorem exec_futSet (o) (s : State) : exec (.futSet o) s = execFutSet o s := rfl
theorem exec_jobq (o) (s : State) : exec (.jobq o) s = execJobq o s := rfl
theorem exec_meshInit (o) (s : State) : exec (.meshInit o) s = execMeshInit o s := rfl
theorem exec_meshAdapt (o) (s : State) : exec (.meshAdapt o) s = execMeshAdapt o s := rfl
theorem exec_nbrStream (o) (s : State) : exec (.nbrStream o) s = execNbrStream o s := rfl
theorem exec_colBuild (o) (s : State) : exec (.colBuild o) s = execColBuild o s := rfl
theorem exec_meshFree (o) (s : State) : exec (.meshFree o) s = execMeshFree o s := rfl
theorem exec_meshOpen (o) (s : State) : exec (.meshOpen o) s = execMeshOpen o s := rfl
theorem exec_meshClose (o) (s : State) : exec (.meshClose o) s = execMeshClose o s := rfl
theorem exec_nbrLd (o) (s : State) : exec (.nbrLd o) s = execNbrLd o s := rfl
theorem exec_nbrLd2 (o) (s : State) : exec (.nbrLd2 o) s = execNbrLd2 o s := rfl
theorem exec_vsaddCol (o) (s : State) : exec (.vsaddCol o) s = execVsaddCol o s := rfl
theorem exec_pin (o) (s : State) : exec (.pin o) s = execPin o s := rfl
theorem exec_unpin (o) (s : State) : exec (.unpin o) s = execUnpin o s := rfl
theorem exec_refeq (o) (s : State) : exec (.refeq o) s = execRefeq o s := rfl
theorem exec_hpMake (o) (s : State) : exec (.hpMake o) s = execHpMake o s := rfl
theorem exec_hpRelocate (o) (s : State) : exec (.hpRelocate o) s = execHpRelocate o s := rfl
theorem exec_hpEpoch (o) (s : State) : exec (.hpEpoch o) s = execHpEpoch o s := rfl
theorem exec_rgLoad (o) (s : State) : exec (.rgLoad o) s = execRgLoad o s := rfl
theorem exec_mcx (o) (s : State) : exec (.mcx o) s = execMcx o s := rfl
theorem exec_lbCut (o) (s : State) : exec (.lbCut o) s = execLbCut o s := rfl
theorem exec_lbMigrate (o) (s : State) : exec (.lbMigrate o) s = execLbMigrate o s := rfl
theorem exec_ghostSync (o) (s : State) : exec (.ghostSync o) s = execGhostSync o s := rfl
theorem exec_pitchEntry (c) (s : State) : exec (.pitchEntry c) s = execPitchEntry c s := rfl
theorem exec_speculativeStart (c) (s : State) : exec (.speculativeStart c) s = execSpeculativeStart c s := rfl
theorem exec_loadResponse (m) (s : State) : exec (.loadResponse m) s = execLoadResponse m s := rfl
theorem exec_atomicResponse (m) (s : State) : exec (.atomicResponse m) s = execAtomicResponse m s := rfl
theorem exec_commandResultReturn (m) (s : State) : exec (.commandResultReturn m) s = execCommandResultReturn m s := rfl
theorem exec_pitchQuiescence (c) (s : State) : exec (.pitchQuiescence c) s = execPitchQuiescence c s := rfl
theorem exec_belay (c) (s : State) : exec (.belay c) s = execBelay c s := rfl
theorem exec_strandRetire (c) (s : State) : exec (.strandRetire c) s = execStrandRetire c s := rfl
theorem exec_matrixApply (c) (k) (s : State) : exec (.matrixApply c k) s = execMatrixApply c k s := rfl
theorem exec_matrixStep (c) (s : State) : exec (.matrixStep c) s = execMatrixStep c s := rfl
theorem exec_matrixPassOver (c) (k) (s : State) : exec (.matrixPassOver c k) s = execMatrixPassOver c k s := rfl
theorem exec_pairTimerExpire (ch) (s : State) : exec (.pairTimerExpire ch) s = execPairTimerExpire ch s := rfl
theorem exec_waitcComplete (c) (s : State) : exec (.waitcComplete c) s = execWaitcComplete c s := rfl
theorem exec_waitvValueChange (m) (s : State) : exec (.waitvValueChange m) s = execWaitvValueChange m s := rfl
theorem exec_waitvTimeout (m) (s : State) : exec (.waitvTimeout m) s = execWaitvTimeout m s := rfl
theorem exec_contextSwap (core) (slot) (s : State) : exec (.contextSwap core slot) s = execContextSwap core slot s := rfl
theorem exec_spillRequest (c) (s : State) : exec (.spillRequest c) s = execSpillRequest c s := rfl
theorem exec_spillStart (c) (s : State) : exec (.spillStart c) s = execSpillStart c s := rfl
theorem exec_spillComplete (c) (s : State) : exec (.spillComplete c) s = execSpillComplete c s := rfl
theorem exec_spillAccessFault (c) (s : State) : exec (.spillAccessFault c) s = execSpillAccessFault c s := rfl
theorem exec_fillStart (c) (s : State) : exec (.fillStart c) s = execFillStart c s := rfl
theorem exec_fillComplete (c) (s : State) : exec (.fillComplete c) s = execFillComplete c s := rfl
theorem exec_quantumBoundary (core) (s : State) : exec (.quantumBoundary core) s = execQuantumBoundary core s := rfl
theorem exec_coxPlace (die) (launch) (s : State) : exec (.coxPlace die launch) s = execCoxPlace die launch s := rfl
theorem exec_cardDispatch (core) (s : State) : exec (.cardDispatch core) s = execCardDispatch core s := rfl
theorem exec_nestLaunch (launch) (s : State) : exec (.nestLaunch launch) s = execNestLaunch launch s := rfl
theorem exec_cardSignalAtHome (m) (s : State) : exec (.cardSignalAtHome m) s = execCardSignalAtHome m s := rfl
theorem exec_cardPostAtHome (m) (s : State) : exec (.cardPostAtHome m) s = execCardPostAtHome m s := rfl
theorem exec_cardComplete (card) (s : State) : exec (.cardComplete card) s = execCardComplete card s := rfl
theorem exec_futWaitAtHome (m) (s : State) : exec (.futWaitAtHome m) s = execFutWaitAtHome m s := rfl
theorem exec_futSetAtHome (m) (s : State) : exec (.futSetAtHome m) s = execFutSetAtHome m s := rfl
theorem exec_proxyBatchSend (die) (chip) (s : State) : exec (.proxyBatchSend die chip) s = execProxyBatchSend die chip s := rfl
theorem exec_jobFlushRound (job) (s : State) : exec (.jobFlushRound job) s = execJobFlushRound job s := rfl
theorem exec_copyCommandStart (m) (s : State) : exec (.copyCommandStart m) s = execCopyCommandStart m s := rfl
theorem exec_copyComplete (cmd) (s : State) : exec (.copyComplete cmd) s = execCopyComplete cmd s := rfl
theorem exec_engineFault (cmd) (s : State) : exec (.engineFault cmd) s = execEngineFault cmd s := rfl
theorem exec_commandResume (cmd) (s : State) : exec (.commandResume cmd) s = execCommandResume cmd s := rfl
theorem exec_commandAbort (cmd) (s : State) : exec (.commandAbort cmd) s = execCommandAbort cmd s := rfl
theorem exec_storeResponseError (m) (s : State) : exec (.storeResponseError m) s = execStoreResponseError m s := rfl
theorem exec_cpyrRun (cmd) (s : State) : exec (.cpyrRun cmd) s = execCpyrRun cmd s := rfl
theorem exec_meshInitRun (cmd) (s : State) : exec (.meshInitRun cmd) s = execMeshInitRun cmd s := rfl
theorem exec_meshAdaptRun (cmd) (s : State) : exec (.meshAdaptRun cmd) s = execMeshAdaptRun cmd s := rfl
theorem exec_meshFreeRun (cmd) (s : State) : exec (.meshFreeRun cmd) s = execMeshFreeRun cmd s := rfl
theorem exec_nbrStreamRun (cmd) (s : State) : exec (.nbrStreamRun cmd) s = execNbrStreamRun cmd s := rfl
theorem exec_colBuildRun (cmd) (s : State) : exec (.colBuildRun cmd) s = execColBuildRun cmd s := rfl
theorem exec_meshOpenAtHome (m) (s : State) : exec (.meshOpenAtHome m) s = execMeshOpenAtHome m s := rfl
theorem exec_meshCloseAtHome (m) (s : State) : exec (.meshCloseAtHome m) s = execMeshCloseAtHome m s := rfl
theorem exec_nbrQueryAtHome (m) (s : State) : exec (.nbrQueryAtHome m) s = execNbrQueryAtHome m s := rfl
theorem exec_homeRequest (m) (s : State) : exec (.homeRequest m) s = execHomeRequest m s := rfl
theorem exec_sharerAckTimeout (m) (s : State) : exec (.sharerAckTimeout m) s = execSharerAckTimeout m s := rfl
theorem exec_hpRelocateRun (cmd) (s : State) : exec (.hpRelocateRun cmd) s = execHpRelocateRun cmd s := rfl
theorem exec_relocationCopyDone (cmd) (s : State) : exec (.relocationCopyDone cmd) s = execRelocationCopyDone cmd s := rfl
theorem exec_relocationCopyFault (cmd) (s : State) : exec (.relocationCopyFault cmd) s = execRelocationCopyFault cmd s := rfl
theorem exec_hpEpochRun (cmd) (s : State) : exec (.hpEpochRun cmd) s = execHpEpochRun cmd s := rfl
theorem exec_lbCutRun (cmd) (s : State) : exec (.lbCutRun cmd) s = execLbCutRun cmd s := rfl
theorem exec_lbMigrateRun (cmd) (s : State) : exec (.lbMigrateRun cmd) s = execLbMigrateRun cmd s := rfl
theorem exec_ghostSyncRun (cmd) (s : State) : exec (.ghostSyncRun cmd) s = execGhostSyncRun cmd s := rfl
theorem exec_cpyxRun (cmd) (s : State) : exec (.cpyxRun cmd) s = execCpyxRun cmd s := rfl
theorem exec_cpyxCompletion (cmd) (s : State) : exec (.cpyxCompletion cmd) s = execCpyxCompletion cmd s := rfl
theorem exec_mcxRun (cmd) (s : State) : exec (.mcxRun cmd) s = execMcxRun cmd s := rfl
theorem exec_mcastSplit (m) (s : State) : exec (.mcastSplit m) s = execMcastSplit m s := rfl
theorem exec_rgLoadRun (cmd) (s : State) : exec (.rgLoadRun cmd) s = execRgLoadRun cmd s := rfl
theorem exec_regattaSwitch (s : State) : exec (.regattaSwitch) s = execRegattaSwitch s := rfl
theorem exec_routerCmdDecl (m) (s : State) : exec (.routerCmdDecl m) s = execRouterCmdDecl m s := rfl
theorem exec_routerCmdPush (m) (s : State) : exec (.routerCmdPush m) s = execRouterCmdPush m s := rfl
theorem exec_routerPushAdmit (m) (s : State) : exec (.routerPushAdmit m) s = execRouterPushAdmit m s := rfl
theorem exec_routerCmdTake (m) (s : State) : exec (.routerCmdTake m) s = execRouterCmdTake m s := rfl
theorem exec_routerTakeServe (m) (s : State) : exec (.routerTakeServe m) s = execRouterTakeServe m s := rfl
theorem exec_routerCmdDone (m) (s : State) : exec (.routerCmdDone m) s = execRouterCmdDone m s := rfl
theorem exec_routerWindowTimer (cl) (set) (s : State) : exec (.routerWindowTimer cl set) s = execRouterWindowTimer cl set s := rfl
theorem exec_routerCmdStat (m) (s : State) : exec (.routerCmdStat m) s = execRouterCmdStat m s := rfl
theorem exec_routerCmdDrain (m) (s : State) : exec (.routerCmdDrain m) s = execRouterCmdDrain m s := rfl
theorem exec_routerCmdSeed (m) (s : State) : exec (.routerCmdSeed m) s = execRouterCmdSeed m s := rfl
theorem exec_rtlfsrWrite (off) (val) (s : State) : exec (.rtlfsrWrite off val) s = execRtlfsrWrite off val s := rfl
theorem exec_scinvWrite (off) (val) (s : State) : exec (.scinvWrite off val) s = execScinvWrite off val s := rfl
theorem exec_meusePeakClear (off) (val) (s : State) : exec (.meusePeakClear off val) s = execMeusePeakClear off val s := rfl
theorem exec_mxslotWrite (off) (val) (s : State) : exec (.mxslotWrite off val) s = execMxslotWrite off val s := rfl
theorem exec_slotTableSwitch (core) (s : State) : exec (.slotTableSwitch core) s = execSlotTableSwitch core s := rfl
theorem exec_registerWrite (off) (val) (s : State) : exec (.registerWrite off val) s = execRegisterWrite off val s := rfl
theorem exec_drstWrite (off) (val) (s : State) : exec (.drstWrite off val) s = execDrstWrite off val s := rfl
theorem exec_cdieResetRecover (die) (s : State) : exec (.cdieResetRecover die) s = execCdieResetRecover die s := rfl
theorem exec_watchdogExpire (die) (unit) (s : State) : exec (.watchdogExpire die unit) s = execWatchdogExpire die unit s := rfl
theorem exec_scrubPass (a) (dbl) (s : State) : exec (.scrubPass a dbl) s = execScrubPass a dbl s := rfl
theorem exec_queueParityError (m) (s : State) : exec (.queueParityError m) s = execQueueParityError m s := rfl
theorem exec_dieLinkFailure (link) (s : State) : exec (.dieLinkFailure link) s = execDieLinkFailure link s := rfl
theorem exec_launchDoorbell (off) (val) (s : State) : exec (.launchDoorbell off val) s = execLaunchDoorbell off val s := rfl
theorem exec_launchPacketTake (q) (s : State) : exec (.launchPacketTake q) s = execLaunchPacketTake q s := rfl
theorem exec_msitrigWrite (off) (val) (s : State) : exec (.msitrigWrite off val) s = execMsitrigWrite off val s := rfl
theorem exec_featureCommit (off) (val) (s : State) : exec (.featureCommit off val) s = execFeatureCommit off val s := rfl
theorem exec_tlbWrite (off) (val) (s : State) : exec (.tlbWrite off val) s = execTlbWrite off val s := rfl
theorem exec_tlbRead (off) (val) (s : State) : exec (.tlbRead off val) s = execTlbRead off val s := rfl
theorem exec_tlbInval (off) (val) (s : State) : exec (.tlbInval off val) s = execTlbInval off val s := rfl
theorem exec_tlbCmdDrain (mdie) (s : State) : exec (.tlbCmdDrain mdie) s = execTlbCmdDrain mdie s := rfl
theorem exec_bar2mapWrite (off) (val) (s : State) : exec (.bar2mapWrite off val) s = execBar2mapWrite off val s := rfl
theorem exec_hostBar2Access (a) (s : State) : exec (.hostBar2Access a) s = execHostBar2Access a s := rfl
theorem exec_hostAtomicop (a) (s : State) : exec (.hostAtomicop a) s = execHostAtomicop a s := rfl
theorem exec_islandMaxWrite (off) (val) (s : State) : exec (.islandMaxWrite off val) s = execIslandMaxWrite off val s := rfl
theorem exec_powerManagerTick (s : State) : exec (.powerManagerTick) s = execPowerManagerTick s := rfl
theorem exec_hitalBoot (ok) (s : State) : exec (.hitalBoot ok) s = execHitalBoot ok s := rfl
theorem exec_keyRollover (link) (dir) (s : State) : exec (.keyRollover link dir) s = execKeyRollover link dir s := rfl
theorem exec_heatStart (s : State) : exec (.heatStart) s = execHeatStart s := rfl
theorem exec_heatDurEnd (s : State) : exec (.heatDurEnd) s = execHeatDurEnd s := rfl
theorem exec_flitReceive (link) (f) (s : State) : exec (.flitReceive link f) s = execFlitReceive link f s := rfl
theorem exec_ackTimer (link) (s : State) : exec (.ackTimer link) s = execAckTimer link s := rfl
theorem exec_ackReceive (link) (f) (s : State) : exec (.ackReceive link f) s = execAckReceive link f s := rfl
theorem exec_resendTimeout (link) (s : State) : exec (.resendTimeout link) s = execResendTimeout link s := rfl
theorem exec_lossOfLightDetect (link) (lost) (s : State) : exec (.lossOfLightDetect link lost) s = execLossOfLightDetect link lost s := rfl
theorem exec_laneReceive (link) (f) (s : State) : exec (.laneReceive link f) s = execLaneReceive link f s := rfl
theorem exec_wavelengthRejoin (link) (w) (s : State) : exec (.wavelengthRejoin link w) s = execWavelengthRejoin link w s := rfl
theorem exec_linkDownTimeout (link) (s : State) : exec (.linkDownTimeout link) s = execLinkDownTimeout link s := rfl
theorem exec_keyRetireReceive (link) (f) (s : State) : exec (.keyRetireReceive link f) s = execKeyRetireReceive link f s := rfl
theorem exec_peerIncarnationChange (chip) (inc) (s : State) : exec (.peerIncarnationChange chip inc) s = execPeerIncarnationChange chip inc s := rfl
theorem exec_flitSend (link) (s : State) : exec (.flitSend link) s = execFlitSend link s := rfl
theorem exec_laserFault (port) (s : State) : exec (.laserFault port) s = execLaserFault port s := rfl
theorem exec_hostLinkDown (s : State) : exec (.hostLinkDown) s = execHostLinkDown s := rfl
theorem exec_bar2Resize (size) (s : State) : exec (.bar2Resize size) s = execBar2Resize size s := rfl

end Sys2Proof.Machine
end

