-- ==== Sys2Proof/Laws/Fire.lean ====
section
/-!
SUPPORT. Sys2Proof/Laws/Fire.lean: what the firing of an instruction can do, said once, and the element loop.
-/

namespace Sys2Proof.Machine

/-- An instruction that may fire answers what its run makes of its operands. -/
theorem fire_of_fires {i : Instr} {s : State} {st : Site} {o : Operands} (h : Fires i s st o) (run : Site → Operands → State) :
    fire i s run = .next (run st o) := by
  obtain ⟨h1, h2, h3, h4⟩ := h
  unfold fire
  rw [h1]
  have : (st.f.spec && !specOk i) = false := by
    cases hs : st.f.spec
    · rfl
    · simp [h2 hs]
  simp [this, h3, h4]

/-- A firing that answers a next state ran on its operands, or raised REF_MISUSE. -/
theorem fire_next {i : Instr} {s t : State} {run : Site → Operands → State} (h : fire i s run = .next t) :
    ∃ st o, s.site = some st ∧ st.operands? (slotsOf i) = some o ∧ (st.f.spec = true → specOk i = true)
      ∧ ((marksOk i o = true ∧ t = run st o) ∨ (marksOk i o = false ∧ t = st.put s (st.ex.raise st.f.idx (Raw.of .refMisuse)))) := by
  unfold fire at h
  split at h
  · cases h
  · rename_i st hst
    split at h
    · cases h
    · rename_i hsp
      split at h
      · cases h
      · rename_i o ho
        refine ⟨st, o, hst, ho, fun hs => by simpa [hs] using hsp, ?_⟩
        split at h <;> rename_i hm <;> cases h
        · exact .inl ⟨hm, rfl⟩
        · exact .inr ⟨by simpa using hm, rfl⟩

/-- An instruction that computes a token completes with it. -/
theorem fireTok_of_fires {i : Instr} {s : State} {st : Site} {o : Operands} (h : Fires i s st o) (f : Env → Operands → OpOut) :
    fireTok i s f = .next (st.put s (st.complete i (f (st.ex.env st.x st.f.idx) o))) := by
  unfold fireTok
  rw [fire_of_fires h]

/-- A completion with a token and no flags. -/
theorem complete_okTok (st : Site) (i : Instr) (t : Token) : st.complete i (okTok t) = st.delivers i t := by
  simp [Site.complete, okTok, Site.finish, Site.delivers]

/-- The element loop over a function that never faults. -/
theorem loopElems_map (g : Nat → Option Nat × Flags) (f : Nat → Except Raw (Option Nat × Flags)) (es : List Nat)
    (h : ∀ e ∈ es, f e = .ok (g e)) :
    loopElems f es = .ok (es.map (fun e => (g e).1), es.foldr (fun e fl => (g e).2 ||| fl) 0) := by
  induction es with
  | nil => rfl
  | cons e es ih =>
    have he := h e (by simp)
    have ih' := ih (fun x hx => h x (by simp [hx]))
    simp only [loopElems, he, ih', List.map_cons, List.foldr_cons]

/-- An element-wise operation whose elements do not fault gives its element-by-element result. -/
theorem elementwise_ok {env : Env} {p : Pred} {ops : List (Token × Nat)} {k : ResKind} {f : Nat → List Nat → Except Raw (Nat × Flags)}
    {g : Nat → List Nat → Nat × Flags} (hp : predKindOk p = true) (hk : fits env.vl (wideOps p ops) k = true)
    (hf : ∀ e, e < (if wideOps p ops then env.vl else 1) → liveAt p ops e = true → f e (opBits ops e) = .ok (g e (opBits ops e))) :
    elementwise env p ops k f = .ok (elemResult env.vl p ops k g) := by
  unfold elementwise
  have hw : widthOk k (predWide p || ops.any (fun o => o.1.wide)) env.vl = .ok () := by
    cases k with
    | mask => rfl
    | vec lw =>
      simp only [fits, wideOps] at hk
      simp only [widthOk, need]
      rw [if_pos]
      simpa using hk
  simp only [need, hp, if_true, bind, Except.bind, hw]
  rw [loopElems_map (fun e => if liveAt p ops e then (some (g e (opBits ops e)).1, (g e (opBits ops e)).2) else (none, 0))]
  · simp only [elemResult, wideOps]
    congr 2
    · congr 1
      apply List.map_congr_left
      intro e _
      by_cases h : liveAt p ops e = true <;> simp [h]
    · congr 1
      funext e fl
      by_cases h : liveAt p ops e = true <;> simp [h]
  · intro e he
    have hlt : e < (if wideOps p ops then env.vl else 1) := List.mem_range.mp he
    by_cases h : liveAt p ops e = true
    · have := hf e hlt h
      have h' := h
      simp only [liveAt] at h'
      rw [if_pos h', if_pos h]
      simp only [opBits] at this ⊢
      rw [this]
    · have h' := h
      simp only [liveAt] at h'
      rw [if_neg h', if_neg h]

end Sys2Proof.Machine
end

