-- ==== Sys2Proof/Laws/Memory.lean ====
section
/-!
SUPPORT. Sys2Proof/Laws/Memory.lean: every operation on the list of bytes keeps its canonical form.
-/

namespace Sys2Proof.Machine

/-- A list that starts at or above a bound starts at or above a lower one. -/
theorem memWfFrom_le {lo hi : Nat} (h : lo ≤ hi) : ∀ {m : List Host.Cell}, memWfFrom hi m = true → memWfFrom lo m = true
  | [], _ => rfl
  | (k, b) :: m, hm => by
    simp only [memWfFrom, Bool.and_eq_true, decide_eq_true_eq] at hm ⊢
    exact ⟨⟨by omega, hm.1.2⟩, hm.2⟩

/-- Writing a byte keeps the form. -/
theorem memWrite_wfFrom {lo a : Nat} {b : Byte} (ha : lo ≤ a) :
    ∀ {m : List Host.Cell}, memWfFrom lo m = true → memWfFrom lo (memWrite m a b) = true
  | [], _ => by
    unfold memWrite
    split
    · rfl
    · next hb => simp [memWfFrom, ha, hb]
  | (k, c) :: m, hm => by
    simp only [memWfFrom, Bool.and_eq_true, decide_eq_true_eq] at hm
    unfold memWrite
    split
    · next hk =>
      split
      · exact memWfFrom_le (by omega) hm.2
      · next hb => subst hk; simp [memWfFrom, ha, hb, hm.2]
    · split
      · next hk =>
        split
        · simp [memWfFrom, hm]
        · next hb =>
          simp only [memWfFrom, Bool.and_eq_true, decide_eq_true_eq, bne_iff_ne, ne_eq]
          exact ⟨⟨ha, hb⟩, ⟨by omega, by simpa using hm.1.2⟩, hm.2⟩
      · next hk hlt =>
        simp only [memWfFrom, Bool.and_eq_true, decide_eq_true_eq]
        exact ⟨hm.1, memWrite_wfFrom (by omega) hm.2⟩

/-- Writing a byte keeps the canonical form. -/
theorem memWrite_wf {m : List Host.Cell} (h : Memory.wf m = true) (a : Nat) (b : Byte) : Memory.wf (memWrite m a b) = true :=
  memWrite_wfFrom (Nat.zero_le a) h

/-- Writing masked bytes keeps the canonical form. -/
theorem memMergeN_wf : ∀ (bs : List (Byte × Byte)) {m : List Host.Cell} (a : Nat), Memory.wf m = true → Memory.wf (memMergeN m a bs) = true
  | [], _, _, h => h
  | (_, _) :: bs, _, a, h => memMergeN_wf bs (a + 1) (memWrite_wf h a _)

/-- A store keeps the canonical form. -/
theorem store_canonical {s : State} (h : s.Canonical) (a : Nat) (bs : List (Byte × Byte)) : (s.store a bs).Canonical := memMergeN_wf bs a h

/-- Storing a value keeps the canonical form. -/
theorem poke_canonical {s : State} (h : s.Canonical) (a n v : Nat) : (s.poke a n v).Canonical := store_canonical h a _

/-- Replacing a strand, a core or a die touches no memory. -/
theorem setCtx_canonical {s : State} (x : Ctx) : (s.setCtx x).Canonical ↔ s.Canonical := Iff.rfl
theorem setCore_canonical {s : State} (n : Nat) (k : CoreSt) : (s.setCore n k).Canonical ↔ s.Canonical := Iff.rfl
theorem setDie_canonical {s : State} (d : Nat) (r : DieRegs) : (s.setDie d r).Canonical ↔ s.Canonical := Iff.rfl
theorem send_canonical {s : State} (src : Src) (cls : Nat) (b : Body) : (s.send src cls b).Canonical ↔ s.Canonical := Iff.rfl

/-- Memory right after reset has the canonical form. -/
theorem reset_mem_wf : Memory.wf State.reset.mem = true := rfl

end Sys2Proof.Machine
end

