-- ==== Sys2Proof/Laws/State.lean ====
section
/-!
SUPPORT. Sys2Proof/Laws/State.lean: what each named update of the state does to each field, so that no proof unfolds a record
update; and what reading a unit gives after a unit has been replaced.
-/

namespace Sys2Proof.Machine

variable (s : State)

/-! ### setCtx -/

@[simp] theorem setCtx_chip (x : Ctx) : (s.setCtx x).chip = s.chip := rfl
@[simp] theorem setCtx_now (x : Ctx) : (s.setCtx x).now = s.now := rfl
@[simp] theorem setCtx_nextId (x : Ctx) : (s.setCtx x).nextId = s.nextId := rfl
@[simp] theorem setCtx_free (x : Ctx) : (s.setCtx x).free = s.free := rfl
@[simp] theorem setCtx_agenda (x : Ctx) : (s.setCtx x).agenda = s.agenda := rfl
@[simp] theorem setCtx_firing (x : Ctx) : (s.setCtx x).firing = s.firing := rfl
@[simp] theorem setCtx_ctxs (x : Ctx) : (s.setCtx x).ctxs = s.ctxs.map (fun y => if y.id = x.id then x else y) := rfl
@[simp] theorem setCtx_gone (x : Ctx) : (s.setCtx x).gone = s.gone := rfl
@[simp] theorem setCtx_cores (x : Ctx) : (s.setCtx x).cores = s.cores := rfl
@[simp] theorem setCtx_net (x : Ctx) : (s.setCtx x).net = s.net := rfl
@[simp] theorem setCtx_early (x : Ctx) : (s.setCtx x).early = s.early := rfl
@[simp] theorem setCtx_cmds (x : Ctx) : (s.setCtx x).cmds = s.cmds := rfl
@[simp] theorem setCtx_mem (x : Ctx) : (s.setCtx x).mem = s.mem := rfl
@[simp] theorem setCtx_poison (x : Ctx) : (s.setCtx x).poison = s.poison := rfl
@[simp] theorem setCtx_tlbs (x : Ctx) : (s.setCtx x).tlbs = s.tlbs := rfl
@[simp] theorem setCtx_dies (x : Ctx) : (s.setCtx x).dies = s.dies := rfl
@[simp] theorem setCtx_msix (x : Ctx) : (s.setCtx x).msix = s.msix := rfl
@[simp] theorem setCtx_heaps (x : Ctx) : (s.setCtx x).heaps = s.heaps := rfl
@[simp] theorem setCtx_heapE (x : Ctx) : (s.setCtx x).heapE = s.heapE := rfl
@[simp] theorem setCtx_launches (x : Ctx) : (s.setCtx x).launches = s.launches := rfl
@[simp] theorem setCtx_running (x : Ctx) : (s.setCtx x).running = s.running := rfl
@[simp] theorem setCtx_sched (x : Ctx) : (s.setCtx x).sched = s.sched := rfl
@[simp] theorem setCtx_rounds (x : Ctx) : (s.setCtx x).rounds = s.rounds := rfl
@[simp] theorem setCtx_jcairns (x : Ctx) : (s.setCtx x).jcairns = s.jcairns := rfl
@[simp] theorem setCtx_clusters (x : Ctx) : (s.setCtx x).clusters = s.clusters := rfl
@[simp] theorem setCtx_meshes (x : Ctx) : (s.setCtx x).meshes = s.meshes := rfl
@[simp] theorem setCtx_pairs (x : Ctx) : (s.setCtx x).pairs = s.pairs := rfl
@[simp] theorem setCtx_xdie (x : Ctx) : (s.setCtx x).xdie = s.xdie := rfl
@[simp] theorem setCtx_fab (x : Ctx) : (s.setCtx x).fab = s.fab := rfl

/-! ### setCore -/

@[simp] theorem setCore_chip (n : Nat) (k : CoreSt) : (s.setCore n k).chip = s.chip := rfl
@[simp] theorem setCore_now (n : Nat) (k : CoreSt) : (s.setCore n k).now = s.now := rfl
@[simp] theorem setCore_nextId (n : Nat) (k : CoreSt) : (s.setCore n k).nextId = s.nextId := rfl
@[simp] theorem setCore_free (n : Nat) (k : CoreSt) : (s.setCore n k).free = s.free := rfl
@[simp] theorem setCore_agenda (n : Nat) (k : CoreSt) : (s.setCore n k).agenda = s.agenda := rfl
@[simp] theorem setCore_firing (n : Nat) (k : CoreSt) : (s.setCore n k).firing = s.firing := rfl
@[simp] theorem setCore_ctxs (n : Nat) (k : CoreSt) : (s.setCore n k).ctxs = s.ctxs := rfl
@[simp] theorem setCore_gone (n : Nat) (k : CoreSt) : (s.setCore n k).gone = s.gone := rfl
@[simp] theorem setCore_cores (n : Nat) (k : CoreSt) : (s.setCore n k).cores = (n, k) :: s.cores.filter (fun u => u.1 ≠ n) := rfl
@[simp] theorem setCore_net (n : Nat) (k : CoreSt) : (s.setCore n k).net = s.net := rfl
@[simp] theorem setCore_early (n : Nat) (k : CoreSt) : (s.setCore n k).early = s.early := rfl
@[simp] theorem setCore_cmds (n : Nat) (k : CoreSt) : (s.setCore n k).cmds = s.cmds := rfl
@[simp] theorem setCore_mem (n : Nat) (k : CoreSt) : (s.setCore n k).mem = s.mem := rfl
@[simp] theorem setCore_poison (n : Nat) (k : CoreSt) : (s.setCore n k).poison = s.poison := rfl
@[simp] theorem setCore_tlbs (n : Nat) (k : CoreSt) : (s.setCore n k).tlbs = s.tlbs := rfl
@[simp] theorem setCore_dies (n : Nat) (k : CoreSt) : (s.setCore n k).dies = s.dies := rfl
@[simp] theorem setCore_msix (n : Nat) (k : CoreSt) : (s.setCore n k).msix = s.msix := rfl
@[simp] theorem setCore_heaps (n : Nat) (k : CoreSt) : (s.setCore n k).heaps = s.heaps := rfl
@[simp] theorem setCore_heapE (n : Nat) (k : CoreSt) : (s.setCore n k).heapE = s.heapE := rfl
@[simp] theorem setCore_launches (n : Nat) (k : CoreSt) : (s.setCore n k).launches = s.launches := rfl
@[simp] theorem setCore_running (n : Nat) (k : CoreSt) : (s.setCore n k).running = s.running := rfl
@[simp] theorem setCore_sched (n : Nat) (k : CoreSt) : (s.setCore n k).sched = s.sched := rfl
@[simp] theorem setCore_rounds (n : Nat) (k : CoreSt) : (s.setCore n k).rounds = s.rounds := rfl
@[simp] theorem setCore_jcairns (n : Nat) (k : CoreSt) : (s.setCore n k).jcairns = s.jcairns := rfl
@[simp] theorem setCore_clusters (n : Nat) (k : CoreSt) : (s.setCore n k).clusters = s.clusters := rfl
@[simp] theorem setCore_meshes (n : Nat) (k : CoreSt) : (s.setCore n k).meshes = s.meshes := rfl
@[simp] theorem setCore_pairs (n : Nat) (k : CoreSt) : (s.setCore n k).pairs = s.pairs := rfl
@[simp] theorem setCore_xdie (n : Nat) (k : CoreSt) : (s.setCore n k).xdie = s.xdie := rfl
@[simp] theorem setCore_fab (n : Nat) (k : CoreSt) : (s.setCore n k).fab = s.fab := rfl

/-! ### setDie -/

@[simp] theorem setDie_chip (d : Nat) (r : DieRegs) : (s.setDie d r).chip = s.chip := rfl
@[simp] theorem setDie_now (d : Nat) (r : DieRegs) : (s.setDie d r).now = s.now := rfl
@[simp] theorem setDie_nextId (d : Nat) (r : DieRegs) : (s.setDie d r).nextId = s.nextId := rfl
@[simp] theorem setDie_free (d : Nat) (r : DieRegs) : (s.setDie d r).free = s.free := rfl
@[simp] theorem setDie_agenda (d : Nat) (r : DieRegs) : (s.setDie d r).agenda = s.agenda := rfl
@[simp] theorem setDie_firing (d : Nat) (r : DieRegs) : (s.setDie d r).firing = s.firing := rfl
@[simp] theorem setDie_ctxs (d : Nat) (r : DieRegs) : (s.setDie d r).ctxs = s.ctxs := rfl
@[simp] theorem setDie_gone (d : Nat) (r : DieRegs) : (s.setDie d r).gone = s.gone := rfl
@[simp] theorem setDie_cores (d : Nat) (r : DieRegs) : (s.setDie d r).cores = s.cores := rfl
@[simp] theorem setDie_net (d : Nat) (r : DieRegs) : (s.setDie d r).net = s.net := rfl
@[simp] theorem setDie_early (d : Nat) (r : DieRegs) : (s.setDie d r).early = s.early := rfl
@[simp] theorem setDie_cmds (d : Nat) (r : DieRegs) : (s.setDie d r).cmds = s.cmds := rfl
@[simp] theorem setDie_mem (d : Nat) (r : DieRegs) : (s.setDie d r).mem = s.mem := rfl
@[simp] theorem setDie_poison (d : Nat) (r : DieRegs) : (s.setDie d r).poison = s.poison := rfl
@[simp] theorem setDie_tlbs (d : Nat) (r : DieRegs) : (s.setDie d r).tlbs = s.tlbs := rfl
@[simp] theorem setDie_dies (d : Nat) (r : DieRegs) : (s.setDie d r).dies = (d, r) :: s.dies.filter (fun u => u.1 ≠ d) := rfl
@[simp] theorem setDie_msix (d : Nat) (r : DieRegs) : (s.setDie d r).msix = s.msix := rfl
@[simp] theorem setDie_heaps (d : Nat) (r : DieRegs) : (s.setDie d r).heaps = s.heaps := rfl
@[simp] theorem setDie_heapE (d : Nat) (r : DieRegs) : (s.setDie d r).heapE = s.heapE := rfl
@[simp] theorem setDie_launches (d : Nat) (r : DieRegs) : (s.setDie d r).launches = s.launches := rfl
@[simp] theorem setDie_running (d : Nat) (r : DieRegs) : (s.setDie d r).running = s.running := rfl
@[simp] theorem setDie_sched (d : Nat) (r : DieRegs) : (s.setDie d r).sched = s.sched := rfl
@[simp] theorem setDie_rounds (d : Nat) (r : DieRegs) : (s.setDie d r).rounds = s.rounds := rfl
@[simp] theorem setDie_jcairns (d : Nat) (r : DieRegs) : (s.setDie d r).jcairns = s.jcairns := rfl
@[simp] theorem setDie_clusters (d : Nat) (r : DieRegs) : (s.setDie d r).clusters = s.clusters := rfl
@[simp] theorem setDie_meshes (d : Nat) (r : DieRegs) : (s.setDie d r).meshes = s.meshes := rfl
@[simp] theorem setDie_pairs (d : Nat) (r : DieRegs) : (s.setDie d r).pairs = s.pairs := rfl
@[simp] theorem setDie_xdie (d : Nat) (r : DieRegs) : (s.setDie d r).xdie = s.xdie := rfl
@[simp] theorem setDie_fab (d : Nat) (r : DieRegs) : (s.setDie d r).fab = s.fab := rfl

/-! ### send -/

@[simp] theorem send_chip (c : Src) (n : Nat) (b : Body) : (s.send c n b).chip = s.chip := rfl
@[simp] theorem send_now (c : Src) (n : Nat) (b : Body) : (s.send c n b).now = s.now := rfl
@[simp] theorem send_nextId (c : Src) (n : Nat) (b : Body) : (s.send c n b).nextId = s.nextId + 1 := rfl
@[simp] theorem send_free (c : Src) (n : Nat) (b : Body) : (s.send c n b).free = s.free := rfl
@[simp] theorem send_agenda (c : Src) (n : Nat) (b : Body) : (s.send c n b).agenda = s.agenda := rfl
@[simp] theorem send_firing (c : Src) (n : Nat) (b : Body) : (s.send c n b).firing = s.firing := rfl
@[simp] theorem send_ctxs (c : Src) (n : Nat) (b : Body) : (s.send c n b).ctxs = s.ctxs := rfl
@[simp] theorem send_gone (c : Src) (n : Nat) (b : Body) : (s.send c n b).gone = s.gone := rfl
@[simp] theorem send_cores (c : Src) (n : Nat) (b : Body) : (s.send c n b).cores = s.cores := rfl
@[simp] theorem send_net (c : Src) (n : Nat) (b : Body) : (s.send c n b).net = s.net ++ [⟨s.nextId, c, n, b, none, s.nextId, s.srcEpoch c, none⟩] := rfl
@[simp] theorem send_early (c : Src) (n : Nat) (b : Body) : (s.send c n b).early = s.early := rfl
@[simp] theorem send_cmds (c : Src) (n : Nat) (b : Body) : (s.send c n b).cmds = s.cmds := rfl
@[simp] theorem send_mem (c : Src) (n : Nat) (b : Body) : (s.send c n b).mem = s.mem := rfl
@[simp] theorem send_poison (c : Src) (n : Nat) (b : Body) : (s.send c n b).poison = s.poison := rfl
@[simp] theorem send_tlbs (c : Src) (n : Nat) (b : Body) : (s.send c n b).tlbs = s.tlbs := rfl
@[simp] theorem send_dies (c : Src) (n : Nat) (b : Body) : (s.send c n b).dies = s.dies := rfl
@[simp] theorem send_msix (c : Src) (n : Nat) (b : Body) : (s.send c n b).msix = s.msix := rfl
@[simp] theorem send_heaps (c : Src) (n : Nat) (b : Body) : (s.send c n b).heaps = s.heaps := rfl
@[simp] theorem send_heapE (c : Src) (n : Nat) (b : Body) : (s.send c n b).heapE = s.heapE := rfl
@[simp] theorem send_launches (c : Src) (n : Nat) (b : Body) : (s.send c n b).launches = s.launches := rfl
@[simp] theorem send_running (c : Src) (n : Nat) (b : Body) : (s.send c n b).running = s.running := rfl
@[simp] theorem send_sched (c : Src) (n : Nat) (b : Body) : (s.send c n b).sched = s.sched := rfl
@[simp] theorem send_rounds (c : Src) (n : Nat) (b : Body) : (s.send c n b).rounds = s.rounds := rfl
@[simp] theorem send_jcairns (c : Src) (n : Nat) (b : Body) : (s.send c n b).jcairns = s.jcairns := rfl
@[simp] theorem send_clusters (c : Src) (n : Nat) (b : Body) : (s.send c n b).clusters = s.clusters := rfl
@[simp] theorem send_meshes (c : Src) (n : Nat) (b : Body) : (s.send c n b).meshes = s.meshes := rfl
@[simp] theorem send_pairs (c : Src) (n : Nat) (b : Body) : (s.send c n b).pairs = s.pairs := rfl
@[simp] theorem send_xdie (c : Src) (n : Nat) (b : Body) : (s.send c n b).xdie = s.xdie := rfl
@[simp] theorem send_fab (c : Src) (n : Nat) (b : Body) : (s.send c n b).fab = s.fab := rfl

/-! ### sendIn -/

@[simp] theorem sendIn_chip (g : Nat) (c : Src) (n : Nat) (b : Body) : (s.sendIn g c n b).chip = s.chip := rfl
@[simp] theorem sendIn_now (g : Nat) (c : Src) (n : Nat) (b : Body) : (s.sendIn g c n b).now = s.now := rfl
@[simp] theorem sendIn_nextId (g : Nat) (c : Src) (n : Nat) (b : Body) : (s.sendIn g c n b).nextId = s.nextId + 1 := rfl
@[simp] theorem sendIn_free (g : Nat) (c : Src) (n : Nat) (b : Body) : (s.sendIn g c n b).free = s.free := rfl
@[simp] theorem sendIn_agenda (g : Nat) (c : Src) (n : Nat) (b : Body) : (s.sendIn g c n b).agenda = s.agenda := rfl
@[simp] theorem sendIn_firing (g : Nat) (c : Src) (n : Nat) (b : Body) : (s.sendIn g c n b).firing = s.firing := rfl
@[simp] theorem sendIn_ctxs (g : Nat) (c : Src) (n : Nat) (b : Body) : (s.sendIn g c n b).ctxs = s.ctxs := rfl
@[simp] theorem sendIn_gone (g : Nat) (c : Src) (n : Nat) (b : Body) : (s.sendIn g c n b).gone = s.gone := rfl
@[simp] theorem sendIn_cores (g : Nat) (c : Src) (n : Nat) (b : Body) : (s.sendIn g c n b).cores = s.cores := rfl
@[simp] theorem sendIn_net (g : Nat) (c : Src) (n : Nat) (b : Body) : (s.sendIn g c n b).net = s.net ++ [⟨s.nextId, c, n, b, none, g, s.srcEpoch c, none⟩] := rfl
@[simp] theorem sendIn_early (g : Nat) (c : Src) (n : Nat) (b : Body) : (s.sendIn g c n b).early = s.early := rfl
@[simp] theorem sendIn_cmds (g : Nat) (c : Src) (n : Nat) (b : Body) : (s.sendIn g c n b).cmds = s.cmds := rfl
@[simp] theorem sendIn_mem (g : Nat) (c : Src) (n : Nat) (b : Body) : (s.sendIn g c n b).mem = s.mem := rfl
@[simp] theorem sendIn_poison (g : Nat) (c : Src) (n : Nat) (b : Body) : (s.sendIn g c n b).poison = s.poison := rfl
@[simp] theorem sendIn_tlbs (g : Nat) (c : Src) (n : Nat) (b : Body) : (s.sendIn g c n b).tlbs = s.tlbs := rfl
@[simp] theorem sendIn_dies (g : Nat) (c : Src) (n : Nat) (b : Body) : (s.sendIn g c n b).dies = s.dies := rfl
@[simp] theorem sendIn_msix (g : Nat) (c : Src) (n : Nat) (b : Body) : (s.sendIn g c n b).msix = s.msix := rfl
@[simp] theorem sendIn_heaps (g : Nat) (c : Src) (n : Nat) (b : Body) : (s.sendIn g c n b).heaps = s.heaps := rfl
@[simp] theorem sendIn_heapE (g : Nat) (c : Src) (n : Nat) (b : Body) : (s.sendIn g c n b).heapE = s.heapE := rfl
@[simp] theorem sendIn_launches (g : Nat) (c : Src) (n : Nat) (b : Body) : (s.sendIn g c n b).launches = s.launches := rfl
@[simp] theorem sendIn_running (g : Nat) (c : Src) (n : Nat) (b : Body) : (s.sendIn g c n b).running = s.running := rfl
@[simp] theorem sendIn_sched (g : Nat) (c : Src) (n : Nat) (b : Body) : (s.sendIn g c n b).sched = s.sched := rfl
@[simp] theorem sendIn_rounds (g : Nat) (c : Src) (n : Nat) (b : Body) : (s.sendIn g c n b).rounds = s.rounds := rfl
@[simp] theorem sendIn_jcairns (g : Nat) (c : Src) (n : Nat) (b : Body) : (s.sendIn g c n b).jcairns = s.jcairns := rfl
@[simp] theorem sendIn_clusters (g : Nat) (c : Src) (n : Nat) (b : Body) : (s.sendIn g c n b).clusters = s.clusters := rfl
@[simp] theorem sendIn_meshes (g : Nat) (c : Src) (n : Nat) (b : Body) : (s.sendIn g c n b).meshes = s.meshes := rfl
@[simp] theorem sendIn_pairs (g : Nat) (c : Src) (n : Nat) (b : Body) : (s.sendIn g c n b).pairs = s.pairs := rfl
@[simp] theorem sendIn_xdie (g : Nat) (c : Src) (n : Nat) (b : Body) : (s.sendIn g c n b).xdie = s.xdie := rfl
@[simp] theorem sendIn_fab (g : Nat) (c : Src) (n : Nat) (b : Body) : (s.sendIn g c n b).fab = s.fab := rfl

/-! ### setMsg -/

@[simp] theorem setMsg_chip (m : Msg) : (s.setMsg m).chip = s.chip := rfl
@[simp] theorem setMsg_now (m : Msg) : (s.setMsg m).now = s.now := rfl
@[simp] theorem setMsg_nextId (m : Msg) : (s.setMsg m).nextId = s.nextId := rfl
@[simp] theorem setMsg_free (m : Msg) : (s.setMsg m).free = s.free := rfl
@[simp] theorem setMsg_agenda (m : Msg) : (s.setMsg m).agenda = s.agenda := rfl
@[simp] theorem setMsg_firing (m : Msg) : (s.setMsg m).firing = s.firing := rfl
@[simp] theorem setMsg_ctxs (m : Msg) : (s.setMsg m).ctxs = s.ctxs := rfl
@[simp] theorem setMsg_gone (m : Msg) : (s.setMsg m).gone = s.gone := rfl
@[simp] theorem setMsg_cores (m : Msg) : (s.setMsg m).cores = s.cores := rfl
@[simp] theorem setMsg_net (m : Msg) : (s.setMsg m).net = s.net.map (fun a => if a.id = m.id then m else a) := rfl
@[simp] theorem setMsg_early (m : Msg) : (s.setMsg m).early = s.early := rfl
@[simp] theorem setMsg_cmds (m : Msg) : (s.setMsg m).cmds = s.cmds := rfl
@[simp] theorem setMsg_mem (m : Msg) : (s.setMsg m).mem = s.mem := rfl
@[simp] theorem setMsg_poison (m : Msg) : (s.setMsg m).poison = s.poison := rfl
@[simp] theorem setMsg_tlbs (m : Msg) : (s.setMsg m).tlbs = s.tlbs := rfl
@[simp] theorem setMsg_dies (m : Msg) : (s.setMsg m).dies = s.dies := rfl
@[simp] theorem setMsg_msix (m : Msg) : (s.setMsg m).msix = s.msix := rfl
@[simp] theorem setMsg_heaps (m : Msg) : (s.setMsg m).heaps = s.heaps := rfl
@[simp] theorem setMsg_heapE (m : Msg) : (s.setMsg m).heapE = s.heapE := rfl
@[simp] theorem setMsg_launches (m : Msg) : (s.setMsg m).launches = s.launches := rfl
@[simp] theorem setMsg_running (m : Msg) : (s.setMsg m).running = s.running := rfl
@[simp] theorem setMsg_sched (m : Msg) : (s.setMsg m).sched = s.sched := rfl
@[simp] theorem setMsg_rounds (m : Msg) : (s.setMsg m).rounds = s.rounds := rfl
@[simp] theorem setMsg_jcairns (m : Msg) : (s.setMsg m).jcairns = s.jcairns := rfl
@[simp] theorem setMsg_clusters (m : Msg) : (s.setMsg m).clusters = s.clusters := rfl
@[simp] theorem setMsg_meshes (m : Msg) : (s.setMsg m).meshes = s.meshes := rfl
@[simp] theorem setMsg_pairs (m : Msg) : (s.setMsg m).pairs = s.pairs := rfl
@[simp] theorem setMsg_xdie (m : Msg) : (s.setMsg m).xdie = s.xdie := rfl
@[simp] theorem setMsg_fab (m : Msg) : (s.setMsg m).fab = s.fab := rfl

/-! ### dropMsg -/

@[simp] theorem dropMsg_chip (m : Nat) : (s.dropMsg m).chip = s.chip := rfl
@[simp] theorem dropMsg_now (m : Nat) : (s.dropMsg m).now = s.now := rfl
@[simp] theorem dropMsg_nextId (m : Nat) : (s.dropMsg m).nextId = s.nextId := rfl
@[simp] theorem dropMsg_free (m : Nat) : (s.dropMsg m).free = s.free := rfl
@[simp] theorem dropMsg_agenda (m : Nat) : (s.dropMsg m).agenda = s.agenda := rfl
@[simp] theorem dropMsg_firing (m : Nat) : (s.dropMsg m).firing = s.firing := rfl
@[simp] theorem dropMsg_ctxs (m : Nat) : (s.dropMsg m).ctxs = s.ctxs := rfl
@[simp] theorem dropMsg_gone (m : Nat) : (s.dropMsg m).gone = s.gone := rfl
@[simp] theorem dropMsg_cores (m : Nat) : (s.dropMsg m).cores = s.cores := rfl
@[simp] theorem dropMsg_net (m : Nat) : (s.dropMsg m).net = s.net.filter (fun a => a.id ≠ m) := rfl
@[simp] theorem dropMsg_early (m : Nat) : (s.dropMsg m).early = s.early := rfl
@[simp] theorem dropMsg_cmds (m : Nat) : (s.dropMsg m).cmds = s.cmds := rfl
@[simp] theorem dropMsg_mem (m : Nat) : (s.dropMsg m).mem = s.mem := rfl
@[simp] theorem dropMsg_poison (m : Nat) : (s.dropMsg m).poison = s.poison := rfl
@[simp] theorem dropMsg_tlbs (m : Nat) : (s.dropMsg m).tlbs = s.tlbs := rfl
@[simp] theorem dropMsg_dies (m : Nat) : (s.dropMsg m).dies = s.dies := rfl
@[simp] theorem dropMsg_msix (m : Nat) : (s.dropMsg m).msix = s.msix := rfl
@[simp] theorem dropMsg_heaps (m : Nat) : (s.dropMsg m).heaps = s.heaps := rfl
@[simp] theorem dropMsg_heapE (m : Nat) : (s.dropMsg m).heapE = s.heapE := rfl
@[simp] theorem dropMsg_launches (m : Nat) : (s.dropMsg m).launches = s.launches := rfl
@[simp] theorem dropMsg_running (m : Nat) : (s.dropMsg m).running = s.running := rfl
@[simp] theorem dropMsg_sched (m : Nat) : (s.dropMsg m).sched = s.sched := rfl
@[simp] theorem dropMsg_rounds (m : Nat) : (s.dropMsg m).rounds = s.rounds := rfl
@[simp] theorem dropMsg_jcairns (m : Nat) : (s.dropMsg m).jcairns = s.jcairns := rfl
@[simp] theorem dropMsg_clusters (m : Nat) : (s.dropMsg m).clusters = s.clusters := rfl
@[simp] theorem dropMsg_meshes (m : Nat) : (s.dropMsg m).meshes = s.meshes := rfl
@[simp] theorem dropMsg_pairs (m : Nat) : (s.dropMsg m).pairs = s.pairs := rfl
@[simp] theorem dropMsg_xdie (m : Nat) : (s.dropMsg m).xdie = s.xdie := rfl
@[simp] theorem dropMsg_fab (m : Nat) : (s.dropMsg m).fab = s.fab := rfl

/-! ### answer -/

@[simp] theorem answer_chip (m : Msg) (r : Resp) : (s.answer m r).chip = s.chip := rfl
@[simp] theorem answer_now (m : Msg) (r : Resp) : (s.answer m r).now = s.now := rfl
@[simp] theorem answer_nextId (m : Msg) (r : Resp) : (s.answer m r).nextId = s.nextId := rfl
@[simp] theorem answer_free (m : Msg) (r : Resp) : (s.answer m r).free = s.free := rfl
@[simp] theorem answer_agenda (m : Msg) (r : Resp) : (s.answer m r).agenda = s.agenda := rfl
@[simp] theorem answer_firing (m : Msg) (r : Resp) : (s.answer m r).firing = s.firing := rfl
@[simp] theorem answer_ctxs (m : Msg) (r : Resp) : (s.answer m r).ctxs = s.ctxs := rfl
@[simp] theorem answer_gone (m : Msg) (r : Resp) : (s.answer m r).gone = s.gone := rfl
@[simp] theorem answer_cores (m : Msg) (r : Resp) : (s.answer m r).cores = s.cores := rfl
@[simp] theorem answer_net (m : Msg) (r : Resp) : (s.answer m r).net = s.net.map (fun a => if a.id = m.id then { m with resp := some r } else a) := rfl
@[simp] theorem answer_early (m : Msg) (r : Resp) : (s.answer m r).early = s.early := rfl
@[simp] theorem answer_cmds (m : Msg) (r : Resp) : (s.answer m r).cmds = s.cmds := rfl
@[simp] theorem answer_mem (m : Msg) (r : Resp) : (s.answer m r).mem = s.mem := rfl
@[simp] theorem answer_poison (m : Msg) (r : Resp) : (s.answer m r).poison = s.poison := rfl
@[simp] theorem answer_tlbs (m : Msg) (r : Resp) : (s.answer m r).tlbs = s.tlbs := rfl
@[simp] theorem answer_dies (m : Msg) (r : Resp) : (s.answer m r).dies = s.dies := rfl
@[simp] theorem answer_msix (m : Msg) (r : Resp) : (s.answer m r).msix = s.msix := rfl
@[simp] theorem answer_heaps (m : Msg) (r : Resp) : (s.answer m r).heaps = s.heaps := rfl
@[simp] theorem answer_heapE (m : Msg) (r : Resp) : (s.answer m r).heapE = s.heapE := rfl
@[simp] theorem answer_launches (m : Msg) (r : Resp) : (s.answer m r).launches = s.launches := rfl
@[simp] theorem answer_running (m : Msg) (r : Resp) : (s.answer m r).running = s.running := rfl
@[simp] theorem answer_sched (m : Msg) (r : Resp) : (s.answer m r).sched = s.sched := rfl
@[simp] theorem answer_rounds (m : Msg) (r : Resp) : (s.answer m r).rounds = s.rounds := rfl
@[simp] theorem answer_jcairns (m : Msg) (r : Resp) : (s.answer m r).jcairns = s.jcairns := rfl
@[simp] theorem answer_clusters (m : Msg) (r : Resp) : (s.answer m r).clusters = s.clusters := rfl
@[simp] theorem answer_meshes (m : Msg) (r : Resp) : (s.answer m r).meshes = s.meshes := rfl
@[simp] theorem answer_pairs (m : Msg) (r : Resp) : (s.answer m r).pairs = s.pairs := rfl
@[simp] theorem answer_xdie (m : Msg) (r : Resp) : (s.answer m r).xdie = s.xdie := rfl
@[simp] theorem answer_fab (m : Msg) (r : Resp) : (s.answer m r).fab = s.fab := rfl

/-! ### store -/

@[simp] theorem store_chip (a : Nat) (b : List (Byte × Byte)) : (s.store a b).chip = s.chip := rfl
@[simp] theorem store_now (a : Nat) (b : List (Byte × Byte)) : (s.store a b).now = s.now := rfl
@[simp] theorem store_nextId (a : Nat) (b : List (Byte × Byte)) : (s.store a b).nextId = s.nextId := rfl
@[simp] theorem store_free (a : Nat) (b : List (Byte × Byte)) : (s.store a b).free = s.free := rfl
@[simp] theorem store_agenda (a : Nat) (b : List (Byte × Byte)) : (s.store a b).agenda = s.agenda := rfl
@[simp] theorem store_firing (a : Nat) (b : List (Byte × Byte)) : (s.store a b).firing = s.firing := rfl
@[simp] theorem store_ctxs (a : Nat) (b : List (Byte × Byte)) : (s.store a b).ctxs = s.ctxs := rfl
@[simp] theorem store_gone (a : Nat) (b : List (Byte × Byte)) : (s.store a b).gone = s.gone := rfl
@[simp] theorem store_cores (a : Nat) (b : List (Byte × Byte)) : (s.store a b).cores = s.cores := rfl
@[simp] theorem store_net (a : Nat) (b : List (Byte × Byte)) : (s.store a b).net = s.net := rfl
@[simp] theorem store_early (a : Nat) (b : List (Byte × Byte)) : (s.store a b).early = s.early := rfl
@[simp] theorem store_cmds (a : Nat) (b : List (Byte × Byte)) : (s.store a b).cmds = s.cmds := rfl
@[simp] theorem store_mem (a : Nat) (b : List (Byte × Byte)) : (s.store a b).mem = memMergeN s.mem a b := rfl
@[simp] theorem store_poison (a : Nat) (b : List (Byte × Byte)) : (s.store a b).poison = unpoison s.poison a b.length := rfl
@[simp] theorem store_tlbs (a : Nat) (b : List (Byte × Byte)) : (s.store a b).tlbs = s.tlbs := rfl
@[simp] theorem store_dies (a : Nat) (b : List (Byte × Byte)) : (s.store a b).dies = s.dies := rfl
@[simp] theorem store_msix (a : Nat) (b : List (Byte × Byte)) : (s.store a b).msix = s.msix := rfl
@[simp] theorem store_heaps (a : Nat) (b : List (Byte × Byte)) : (s.store a b).heaps = s.heaps := rfl
@[simp] theorem store_heapE (a : Nat) (b : List (Byte × Byte)) : (s.store a b).heapE = s.heapE := rfl
@[simp] theorem store_launches (a : Nat) (b : List (Byte × Byte)) : (s.store a b).launches = s.launches := rfl
@[simp] theorem store_running (a : Nat) (b : List (Byte × Byte)) : (s.store a b).running = s.running := rfl
@[simp] theorem store_sched (a : Nat) (b : List (Byte × Byte)) : (s.store a b).sched = s.sched := rfl
@[simp] theorem store_rounds (a : Nat) (b : List (Byte × Byte)) : (s.store a b).rounds = s.rounds := rfl
@[simp] theorem store_jcairns (a : Nat) (b : List (Byte × Byte)) : (s.store a b).jcairns = s.jcairns := rfl
@[simp] theorem store_clusters (a : Nat) (b : List (Byte × Byte)) : (s.store a b).clusters = s.clusters := rfl
@[simp] theorem store_meshes (a : Nat) (b : List (Byte × Byte)) : (s.store a b).meshes = s.meshes := rfl
@[simp] theorem store_pairs (a : Nat) (b : List (Byte × Byte)) : (s.store a b).pairs = s.pairs := rfl
@[simp] theorem store_xdie (a : Nat) (b : List (Byte × Byte)) : (s.store a b).xdie = s.xdie := rfl
@[simp] theorem store_fab (a : Nat) (b : List (Byte × Byte)) : (s.store a b).fab = s.fab := rfl

/-! ### poke -/

@[simp] theorem poke_chip (a n v : Nat) : (s.poke a n v).chip = s.chip := rfl
@[simp] theorem poke_now (a n v : Nat) : (s.poke a n v).now = s.now := rfl
@[simp] theorem poke_nextId (a n v : Nat) : (s.poke a n v).nextId = s.nextId := rfl
@[simp] theorem poke_free (a n v : Nat) : (s.poke a n v).free = s.free := rfl
@[simp] theorem poke_agenda (a n v : Nat) : (s.poke a n v).agenda = s.agenda := rfl
@[simp] theorem poke_firing (a n v : Nat) : (s.poke a n v).firing = s.firing := rfl
@[simp] theorem poke_ctxs (a n v : Nat) : (s.poke a n v).ctxs = s.ctxs := rfl
@[simp] theorem poke_gone (a n v : Nat) : (s.poke a n v).gone = s.gone := rfl
@[simp] theorem poke_cores (a n v : Nat) : (s.poke a n v).cores = s.cores := rfl
@[simp] theorem poke_net (a n v : Nat) : (s.poke a n v).net = s.net := rfl
@[simp] theorem poke_early (a n v : Nat) : (s.poke a n v).early = s.early := rfl
@[simp] theorem poke_cmds (a n v : Nat) : (s.poke a n v).cmds = s.cmds := rfl
@[simp] theorem poke_mem (a n v : Nat) : (s.poke a n v).mem = memMergeN s.mem a (fullBytes n v) := rfl
@[simp] theorem poke_poison (a n v : Nat) : (s.poke a n v).poison = unpoison s.poison a (fullBytes n v).length := rfl
@[simp] theorem poke_tlbs (a n v : Nat) : (s.poke a n v).tlbs = s.tlbs := rfl
@[simp] theorem poke_dies (a n v : Nat) : (s.poke a n v).dies = s.dies := rfl
@[simp] theorem poke_msix (a n v : Nat) : (s.poke a n v).msix = s.msix := rfl
@[simp] theorem poke_heaps (a n v : Nat) : (s.poke a n v).heaps = s.heaps := rfl
@[simp] theorem poke_heapE (a n v : Nat) : (s.poke a n v).heapE = s.heapE := rfl
@[simp] theorem poke_launches (a n v : Nat) : (s.poke a n v).launches = s.launches := rfl
@[simp] theorem poke_running (a n v : Nat) : (s.poke a n v).running = s.running := rfl
@[simp] theorem poke_sched (a n v : Nat) : (s.poke a n v).sched = s.sched := rfl
@[simp] theorem poke_rounds (a n v : Nat) : (s.poke a n v).rounds = s.rounds := rfl
@[simp] theorem poke_jcairns (a n v : Nat) : (s.poke a n v).jcairns = s.jcairns := rfl
@[simp] theorem poke_clusters (a n v : Nat) : (s.poke a n v).clusters = s.clusters := rfl
@[simp] theorem poke_meshes (a n v : Nat) : (s.poke a n v).meshes = s.meshes := rfl
@[simp] theorem poke_pairs (a n v : Nat) : (s.poke a n v).pairs = s.pairs := rfl
@[simp] theorem poke_xdie (a n v : Nat) : (s.poke a n v).xdie = s.xdie := rfl
@[simp] theorem poke_fab (a n v : Nat) : (s.poke a n v).fab = s.fab := rfl

/-! ### setTlb -/

@[simp] theorem setTlb_chip (j : Nat) (t : Tlb) : (s.setTlb j t).chip = s.chip := rfl
@[simp] theorem setTlb_now (j : Nat) (t : Tlb) : (s.setTlb j t).now = s.now := rfl
@[simp] theorem setTlb_nextId (j : Nat) (t : Tlb) : (s.setTlb j t).nextId = s.nextId := rfl
@[simp] theorem setTlb_free (j : Nat) (t : Tlb) : (s.setTlb j t).free = s.free := rfl
@[simp] theorem setTlb_agenda (j : Nat) (t : Tlb) : (s.setTlb j t).agenda = s.agenda := rfl
@[simp] theorem setTlb_firing (j : Nat) (t : Tlb) : (s.setTlb j t).firing = s.firing := rfl
@[simp] theorem setTlb_ctxs (j : Nat) (t : Tlb) : (s.setTlb j t).ctxs = s.ctxs := rfl
@[simp] theorem setTlb_gone (j : Nat) (t : Tlb) : (s.setTlb j t).gone = s.gone := rfl
@[simp] theorem setTlb_cores (j : Nat) (t : Tlb) : (s.setTlb j t).cores = s.cores := rfl
@[simp] theorem setTlb_net (j : Nat) (t : Tlb) : (s.setTlb j t).net = s.net := rfl
@[simp] theorem setTlb_early (j : Nat) (t : Tlb) : (s.setTlb j t).early = s.early := rfl
@[simp] theorem setTlb_cmds (j : Nat) (t : Tlb) : (s.setTlb j t).cmds = s.cmds := rfl
@[simp] theorem setTlb_mem (j : Nat) (t : Tlb) : (s.setTlb j t).mem = s.mem := rfl
@[simp] theorem setTlb_poison (j : Nat) (t : Tlb) : (s.setTlb j t).poison = s.poison := rfl
@[simp] theorem setTlb_tlbs (j : Nat) (t : Tlb) : (s.setTlb j t).tlbs = (j, t) :: s.tlbs.filter (fun u => u.1 ≠ j) := rfl
@[simp] theorem setTlb_dies (j : Nat) (t : Tlb) : (s.setTlb j t).dies = s.dies := rfl
@[simp] theorem setTlb_msix (j : Nat) (t : Tlb) : (s.setTlb j t).msix = s.msix := rfl
@[simp] theorem setTlb_heaps (j : Nat) (t : Tlb) : (s.setTlb j t).heaps = s.heaps := rfl
@[simp] theorem setTlb_heapE (j : Nat) (t : Tlb) : (s.setTlb j t).heapE = s.heapE := rfl
@[simp] theorem setTlb_launches (j : Nat) (t : Tlb) : (s.setTlb j t).launches = s.launches := rfl
@[simp] theorem setTlb_running (j : Nat) (t : Tlb) : (s.setTlb j t).running = s.running := rfl
@[simp] theorem setTlb_sched (j : Nat) (t : Tlb) : (s.setTlb j t).sched = s.sched := rfl
@[simp] theorem setTlb_rounds (j : Nat) (t : Tlb) : (s.setTlb j t).rounds = s.rounds := rfl
@[simp] theorem setTlb_jcairns (j : Nat) (t : Tlb) : (s.setTlb j t).jcairns = s.jcairns := rfl
@[simp] theorem setTlb_clusters (j : Nat) (t : Tlb) : (s.setTlb j t).clusters = s.clusters := rfl
@[simp] theorem setTlb_meshes (j : Nat) (t : Tlb) : (s.setTlb j t).meshes = s.meshes := rfl
@[simp] theorem setTlb_pairs (j : Nat) (t : Tlb) : (s.setTlb j t).pairs = s.pairs := rfl
@[simp] theorem setTlb_xdie (j : Nat) (t : Tlb) : (s.setTlb j t).xdie = s.xdie := rfl
@[simp] theorem setTlb_fab (j : Nat) (t : Tlb) : (s.setTlb j t).fab = s.fab := rfl

/-! ### setHeap -/

@[simp] theorem setHeap_chip (j : Nat) (h : HeapHome) : (s.setHeap j h).chip = s.chip := rfl
@[simp] theorem setHeap_now (j : Nat) (h : HeapHome) : (s.setHeap j h).now = s.now := rfl
@[simp] theorem setHeap_nextId (j : Nat) (h : HeapHome) : (s.setHeap j h).nextId = s.nextId := rfl
@[simp] theorem setHeap_free (j : Nat) (h : HeapHome) : (s.setHeap j h).free = s.free := rfl
@[simp] theorem setHeap_agenda (j : Nat) (h : HeapHome) : (s.setHeap j h).agenda = s.agenda := rfl
@[simp] theorem setHeap_firing (j : Nat) (h : HeapHome) : (s.setHeap j h).firing = s.firing := rfl
@[simp] theorem setHeap_ctxs (j : Nat) (h : HeapHome) : (s.setHeap j h).ctxs = s.ctxs := rfl
@[simp] theorem setHeap_gone (j : Nat) (h : HeapHome) : (s.setHeap j h).gone = s.gone := rfl
@[simp] theorem setHeap_cores (j : Nat) (h : HeapHome) : (s.setHeap j h).cores = s.cores := rfl
@[simp] theorem setHeap_net (j : Nat) (h : HeapHome) : (s.setHeap j h).net = s.net := rfl
@[simp] theorem setHeap_early (j : Nat) (h : HeapHome) : (s.setHeap j h).early = s.early := rfl
@[simp] theorem setHeap_cmds (j : Nat) (h : HeapHome) : (s.setHeap j h).cmds = s.cmds := rfl
@[simp] theorem setHeap_mem (j : Nat) (h : HeapHome) : (s.setHeap j h).mem = s.mem := rfl
@[simp] theorem setHeap_poison (j : Nat) (h : HeapHome) : (s.setHeap j h).poison = s.poison := rfl
@[simp] theorem setHeap_tlbs (j : Nat) (h : HeapHome) : (s.setHeap j h).tlbs = s.tlbs := rfl
@[simp] theorem setHeap_dies (j : Nat) (h : HeapHome) : (s.setHeap j h).dies = s.dies := rfl
@[simp] theorem setHeap_msix (j : Nat) (h : HeapHome) : (s.setHeap j h).msix = s.msix := rfl
@[simp] theorem setHeap_heaps (j : Nat) (h : HeapHome) : (s.setHeap j h).heaps = (j, h) :: s.heaps.filter (fun u => u.1 ≠ j) := rfl
@[simp] theorem setHeap_heapE (j : Nat) (h : HeapHome) : (s.setHeap j h).heapE = s.heapE := rfl
@[simp] theorem setHeap_launches (j : Nat) (h : HeapHome) : (s.setHeap j h).launches = s.launches := rfl
@[simp] theorem setHeap_running (j : Nat) (h : HeapHome) : (s.setHeap j h).running = s.running := rfl
@[simp] theorem setHeap_sched (j : Nat) (h : HeapHome) : (s.setHeap j h).sched = s.sched := rfl
@[simp] theorem setHeap_rounds (j : Nat) (h : HeapHome) : (s.setHeap j h).rounds = s.rounds := rfl
@[simp] theorem setHeap_jcairns (j : Nat) (h : HeapHome) : (s.setHeap j h).jcairns = s.jcairns := rfl
@[simp] theorem setHeap_clusters (j : Nat) (h : HeapHome) : (s.setHeap j h).clusters = s.clusters := rfl
@[simp] theorem setHeap_meshes (j : Nat) (h : HeapHome) : (s.setHeap j h).meshes = s.meshes := rfl
@[simp] theorem setHeap_pairs (j : Nat) (h : HeapHome) : (s.setHeap j h).pairs = s.pairs := rfl
@[simp] theorem setHeap_xdie (j : Nat) (h : HeapHome) : (s.setHeap j h).xdie = s.xdie := rfl
@[simp] theorem setHeap_fab (j : Nat) (h : HeapHome) : (s.setHeap j h).fab = s.fab := rfl

/-! ### setCluster -/

@[simp] theorem setCluster_chip (n : Nat) (k : ClusterSt) : (s.setCluster n k).chip = s.chip := rfl
@[simp] theorem setCluster_now (n : Nat) (k : ClusterSt) : (s.setCluster n k).now = s.now := rfl
@[simp] theorem setCluster_nextId (n : Nat) (k : ClusterSt) : (s.setCluster n k).nextId = s.nextId := rfl
@[simp] theorem setCluster_free (n : Nat) (k : ClusterSt) : (s.setCluster n k).free = s.free := rfl
@[simp] theorem setCluster_agenda (n : Nat) (k : ClusterSt) : (s.setCluster n k).agenda = s.agenda := rfl
@[simp] theorem setCluster_firing (n : Nat) (k : ClusterSt) : (s.setCluster n k).firing = s.firing := rfl
@[simp] theorem setCluster_ctxs (n : Nat) (k : ClusterSt) : (s.setCluster n k).ctxs = s.ctxs := rfl
@[simp] theorem setCluster_gone (n : Nat) (k : ClusterSt) : (s.setCluster n k).gone = s.gone := rfl
@[simp] theorem setCluster_cores (n : Nat) (k : ClusterSt) : (s.setCluster n k).cores = s.cores := rfl
@[simp] theorem setCluster_net (n : Nat) (k : ClusterSt) : (s.setCluster n k).net = s.net := rfl
@[simp] theorem setCluster_early (n : Nat) (k : ClusterSt) : (s.setCluster n k).early = s.early := rfl
@[simp] theorem setCluster_cmds (n : Nat) (k : ClusterSt) : (s.setCluster n k).cmds = s.cmds := rfl
@[simp] theorem setCluster_mem (n : Nat) (k : ClusterSt) : (s.setCluster n k).mem = s.mem := rfl
@[simp] theorem setCluster_poison (n : Nat) (k : ClusterSt) : (s.setCluster n k).poison = s.poison := rfl
@[simp] theorem setCluster_tlbs (n : Nat) (k : ClusterSt) : (s.setCluster n k).tlbs = s.tlbs := rfl
@[simp] theorem setCluster_dies (n : Nat) (k : ClusterSt) : (s.setCluster n k).dies = s.dies := rfl
@[simp] theorem setCluster_msix (n : Nat) (k : ClusterSt) : (s.setCluster n k).msix = s.msix := rfl
@[simp] theorem setCluster_heaps (n : Nat) (k : ClusterSt) : (s.setCluster n k).heaps = s.heaps := rfl
@[simp] theorem setCluster_heapE (n : Nat) (k : ClusterSt) : (s.setCluster n k).heapE = s.heapE := rfl
@[simp] theorem setCluster_launches (n : Nat) (k : ClusterSt) : (s.setCluster n k).launches = s.launches := rfl
@[simp] theorem setCluster_running (n : Nat) (k : ClusterSt) : (s.setCluster n k).running = s.running := rfl
@[simp] theorem setCluster_sched (n : Nat) (k : ClusterSt) : (s.setCluster n k).sched = s.sched := rfl
@[simp] theorem setCluster_rounds (n : Nat) (k : ClusterSt) : (s.setCluster n k).rounds = s.rounds := rfl
@[simp] theorem setCluster_jcairns (n : Nat) (k : ClusterSt) : (s.setCluster n k).jcairns = s.jcairns := rfl
@[simp] theorem setCluster_clusters (n : Nat) (k : ClusterSt) : (s.setCluster n k).clusters = (n, k) :: s.clusters.filter (fun u => u.1 ≠ n) := rfl
@[simp] theorem setCluster_meshes (n : Nat) (k : ClusterSt) : (s.setCluster n k).meshes = s.meshes := rfl
@[simp] theorem setCluster_pairs (n : Nat) (k : ClusterSt) : (s.setCluster n k).pairs = s.pairs := rfl
@[simp] theorem setCluster_xdie (n : Nat) (k : ClusterSt) : (s.setCluster n k).xdie = s.xdie := rfl
@[simp] theorem setCluster_fab (n : Nat) (k : ClusterSt) : (s.setCluster n k).fab = s.fab := rfl

/-! ### setCmd -/

@[simp] theorem setCmd_chip (c : Cmd) : (s.setCmd c).chip = s.chip := rfl
@[simp] theorem setCmd_now (c : Cmd) : (s.setCmd c).now = s.now := rfl
@[simp] theorem setCmd_nextId (c : Cmd) : (s.setCmd c).nextId = s.nextId := rfl
@[simp] theorem setCmd_free (c : Cmd) : (s.setCmd c).free = s.free := rfl
@[simp] theorem setCmd_agenda (c : Cmd) : (s.setCmd c).agenda = s.agenda := rfl
@[simp] theorem setCmd_firing (c : Cmd) : (s.setCmd c).firing = s.firing := rfl
@[simp] theorem setCmd_ctxs (c : Cmd) : (s.setCmd c).ctxs = s.ctxs := rfl
@[simp] theorem setCmd_gone (c : Cmd) : (s.setCmd c).gone = s.gone := rfl
@[simp] theorem setCmd_cores (c : Cmd) : (s.setCmd c).cores = s.cores := rfl
@[simp] theorem setCmd_net (c : Cmd) : (s.setCmd c).net = s.net := rfl
@[simp] theorem setCmd_early (c : Cmd) : (s.setCmd c).early = s.early := rfl
@[simp] theorem setCmd_cmds (c : Cmd) : (s.setCmd c).cmds = s.cmds.map (fun d => if d.id = c.id then c else d) := rfl
@[simp] theorem setCmd_mem (c : Cmd) : (s.setCmd c).mem = s.mem := rfl
@[simp] theorem setCmd_poison (c : Cmd) : (s.setCmd c).poison = s.poison := rfl
@[simp] theorem setCmd_tlbs (c : Cmd) : (s.setCmd c).tlbs = s.tlbs := rfl
@[simp] theorem setCmd_dies (c : Cmd) : (s.setCmd c).dies = s.dies := rfl
@[simp] theorem setCmd_msix (c : Cmd) : (s.setCmd c).msix = s.msix := rfl
@[simp] theorem setCmd_heaps (c : Cmd) : (s.setCmd c).heaps = s.heaps := rfl
@[simp] theorem setCmd_heapE (c : Cmd) : (s.setCmd c).heapE = s.heapE := rfl
@[simp] theorem setCmd_launches (c : Cmd) : (s.setCmd c).launches = s.launches := rfl
@[simp] theorem setCmd_running (c : Cmd) : (s.setCmd c).running = s.running := rfl
@[simp] theorem setCmd_sched (c : Cmd) : (s.setCmd c).sched = s.sched := rfl
@[simp] theorem setCmd_rounds (c : Cmd) : (s.setCmd c).rounds = s.rounds := rfl
@[simp] theorem setCmd_jcairns (c : Cmd) : (s.setCmd c).jcairns = s.jcairns := rfl
@[simp] theorem setCmd_clusters (c : Cmd) : (s.setCmd c).clusters = s.clusters := rfl
@[simp] theorem setCmd_meshes (c : Cmd) : (s.setCmd c).meshes = s.meshes := rfl
@[simp] theorem setCmd_pairs (c : Cmd) : (s.setCmd c).pairs = s.pairs := rfl
@[simp] theorem setCmd_xdie (c : Cmd) : (s.setCmd c).xdie = s.xdie := rfl
@[simp] theorem setCmd_fab (c : Cmd) : (s.setCmd c).fab = s.fab := rfl

/-! ### setPair -/

@[simp] theorem setPair_chip (p : PairCh) : (s.setPair p).chip = s.chip := rfl
@[simp] theorem setPair_now (p : PairCh) : (s.setPair p).now = s.now := rfl
@[simp] theorem setPair_nextId (p : PairCh) : (s.setPair p).nextId = s.nextId := rfl
@[simp] theorem setPair_free (p : PairCh) : (s.setPair p).free = s.free := rfl
@[simp] theorem setPair_agenda (p : PairCh) : (s.setPair p).agenda = s.agenda := rfl
@[simp] theorem setPair_firing (p : PairCh) : (s.setPair p).firing = s.firing := rfl
@[simp] theorem setPair_ctxs (p : PairCh) : (s.setPair p).ctxs = s.ctxs := rfl
@[simp] theorem setPair_gone (p : PairCh) : (s.setPair p).gone = s.gone := rfl
@[simp] theorem setPair_cores (p : PairCh) : (s.setPair p).cores = s.cores := rfl
@[simp] theorem setPair_net (p : PairCh) : (s.setPair p).net = s.net := rfl
@[simp] theorem setPair_early (p : PairCh) : (s.setPair p).early = s.early := rfl
@[simp] theorem setPair_cmds (p : PairCh) : (s.setPair p).cmds = s.cmds := rfl
@[simp] theorem setPair_mem (p : PairCh) : (s.setPair p).mem = s.mem := rfl
@[simp] theorem setPair_poison (p : PairCh) : (s.setPair p).poison = s.poison := rfl
@[simp] theorem setPair_tlbs (p : PairCh) : (s.setPair p).tlbs = s.tlbs := rfl
@[simp] theorem setPair_dies (p : PairCh) : (s.setPair p).dies = s.dies := rfl
@[simp] theorem setPair_msix (p : PairCh) : (s.setPair p).msix = s.msix := rfl
@[simp] theorem setPair_heaps (p : PairCh) : (s.setPair p).heaps = s.heaps := rfl
@[simp] theorem setPair_heapE (p : PairCh) : (s.setPair p).heapE = s.heapE := rfl
@[simp] theorem setPair_launches (p : PairCh) : (s.setPair p).launches = s.launches := rfl
@[simp] theorem setPair_running (p : PairCh) : (s.setPair p).running = s.running := rfl
@[simp] theorem setPair_sched (p : PairCh) : (s.setPair p).sched = s.sched := rfl
@[simp] theorem setPair_rounds (p : PairCh) : (s.setPair p).rounds = s.rounds := rfl
@[simp] theorem setPair_jcairns (p : PairCh) : (s.setPair p).jcairns = s.jcairns := rfl
@[simp] theorem setPair_clusters (p : PairCh) : (s.setPair p).clusters = s.clusters := rfl
@[simp] theorem setPair_meshes (p : PairCh) : (s.setPair p).meshes = s.meshes := rfl
@[simp] theorem setPair_pairs (p : PairCh) : (s.setPair p).pairs = p :: s.pairs.filter (fun q => q.id ≠ p.id) := rfl
@[simp] theorem setPair_xdie (p : PairCh) : (s.setPair p).xdie = s.xdie := rfl
@[simp] theorem setPair_fab (p : PairCh) : (s.setPair p).fab = s.fab := rfl

/-! ### freePair -/

@[simp] theorem freePair_chip (n : Nat) : (s.freePair n).chip = s.chip := rfl
@[simp] theorem freePair_now (n : Nat) : (s.freePair n).now = s.now := rfl
@[simp] theorem freePair_nextId (n : Nat) : (s.freePair n).nextId = s.nextId := rfl
@[simp] theorem freePair_free (n : Nat) : (s.freePair n).free = s.free := rfl
@[simp] theorem freePair_agenda (n : Nat) : (s.freePair n).agenda = s.agenda := rfl
@[simp] theorem freePair_firing (n : Nat) : (s.freePair n).firing = s.firing := rfl
@[simp] theorem freePair_ctxs (n : Nat) : (s.freePair n).ctxs = s.ctxs := rfl
@[simp] theorem freePair_gone (n : Nat) : (s.freePair n).gone = s.gone := rfl
@[simp] theorem freePair_cores (n : Nat) : (s.freePair n).cores = s.cores := rfl
@[simp] theorem freePair_net (n : Nat) : (s.freePair n).net = s.net := rfl
@[simp] theorem freePair_early (n : Nat) : (s.freePair n).early = s.early := rfl
@[simp] theorem freePair_cmds (n : Nat) : (s.freePair n).cmds = s.cmds := rfl
@[simp] theorem freePair_mem (n : Nat) : (s.freePair n).mem = s.mem := rfl
@[simp] theorem freePair_poison (n : Nat) : (s.freePair n).poison = s.poison := rfl
@[simp] theorem freePair_tlbs (n : Nat) : (s.freePair n).tlbs = s.tlbs := rfl
@[simp] theorem freePair_dies (n : Nat) : (s.freePair n).dies = s.dies := rfl
@[simp] theorem freePair_msix (n : Nat) : (s.freePair n).msix = s.msix := rfl
@[simp] theorem freePair_heaps (n : Nat) : (s.freePair n).heaps = s.heaps := rfl
@[simp] theorem freePair_heapE (n : Nat) : (s.freePair n).heapE = s.heapE := rfl
@[simp] theorem freePair_launches (n : Nat) : (s.freePair n).launches = s.launches := rfl
@[simp] theorem freePair_running (n : Nat) : (s.freePair n).running = s.running := rfl
@[simp] theorem freePair_sched (n : Nat) : (s.freePair n).sched = s.sched := rfl
@[simp] theorem freePair_rounds (n : Nat) : (s.freePair n).rounds = s.rounds := rfl
@[simp] theorem freePair_jcairns (n : Nat) : (s.freePair n).jcairns = s.jcairns := rfl
@[simp] theorem freePair_clusters (n : Nat) : (s.freePair n).clusters = s.clusters := rfl
@[simp] theorem freePair_meshes (n : Nat) : (s.freePair n).meshes = s.meshes := rfl
@[simp] theorem freePair_pairs (n : Nat) : (s.freePair n).pairs = s.pairs.filter (fun q => q.id ≠ n) := rfl
@[simp] theorem freePair_xdie (n : Nat) : (s.freePair n).xdie = s.xdie := rfl
@[simp] theorem freePair_fab (n : Nat) : (s.freePair n).fab = s.fab := rfl

/-! ### setMesh -/

@[simp] theorem setMesh_chip (m : MeshHome) : (s.setMesh m).chip = s.chip := rfl
@[simp] theorem setMesh_now (m : MeshHome) : (s.setMesh m).now = s.now := rfl
@[simp] theorem setMesh_nextId (m : MeshHome) : (s.setMesh m).nextId = s.nextId := rfl
@[simp] theorem setMesh_free (m : MeshHome) : (s.setMesh m).free = s.free := rfl
@[simp] theorem setMesh_agenda (m : MeshHome) : (s.setMesh m).agenda = s.agenda := rfl
@[simp] theorem setMesh_firing (m : MeshHome) : (s.setMesh m).firing = s.firing := rfl
@[simp] theorem setMesh_ctxs (m : MeshHome) : (s.setMesh m).ctxs = s.ctxs := rfl
@[simp] theorem setMesh_gone (m : MeshHome) : (s.setMesh m).gone = s.gone := rfl
@[simp] theorem setMesh_cores (m : MeshHome) : (s.setMesh m).cores = s.cores := rfl
@[simp] theorem setMesh_net (m : MeshHome) : (s.setMesh m).net = s.net := rfl
@[simp] theorem setMesh_early (m : MeshHome) : (s.setMesh m).early = s.early := rfl
@[simp] theorem setMesh_cmds (m : MeshHome) : (s.setMesh m).cmds = s.cmds := rfl
@[simp] theorem setMesh_mem (m : MeshHome) : (s.setMesh m).mem = s.mem := rfl
@[simp] theorem setMesh_poison (m : MeshHome) : (s.setMesh m).poison = s.poison := rfl
@[simp] theorem setMesh_tlbs (m : MeshHome) : (s.setMesh m).tlbs = s.tlbs := rfl
@[simp] theorem setMesh_dies (m : MeshHome) : (s.setMesh m).dies = s.dies := rfl
@[simp] theorem setMesh_msix (m : MeshHome) : (s.setMesh m).msix = s.msix := rfl
@[simp] theorem setMesh_heaps (m : MeshHome) : (s.setMesh m).heaps = s.heaps := rfl
@[simp] theorem setMesh_heapE (m : MeshHome) : (s.setMesh m).heapE = s.heapE := rfl
@[simp] theorem setMesh_launches (m : MeshHome) : (s.setMesh m).launches = s.launches := rfl
@[simp] theorem setMesh_running (m : MeshHome) : (s.setMesh m).running = s.running := rfl
@[simp] theorem setMesh_sched (m : MeshHome) : (s.setMesh m).sched = s.sched := rfl
@[simp] theorem setMesh_rounds (m : MeshHome) : (s.setMesh m).rounds = s.rounds := rfl
@[simp] theorem setMesh_jcairns (m : MeshHome) : (s.setMesh m).jcairns = s.jcairns := rfl
@[simp] theorem setMesh_clusters (m : MeshHome) : (s.setMesh m).clusters = s.clusters := rfl
@[simp] theorem setMesh_meshes (m : MeshHome) : (s.setMesh m).meshes = m :: s.meshes.filter (fun q => q.ptr ≠ m.ptr) := rfl
@[simp] theorem setMesh_pairs (m : MeshHome) : (s.setMesh m).pairs = s.pairs := rfl
@[simp] theorem setMesh_xdie (m : MeshHome) : (s.setMesh m).xdie = s.xdie := rfl
@[simp] theorem setMesh_fab (m : MeshHome) : (s.setMesh m).fab = s.fab := rfl

/-! ### dropMesh -/

@[simp] theorem dropMesh_chip (p : Word) : (s.dropMesh p).chip = s.chip := rfl
@[simp] theorem dropMesh_now (p : Word) : (s.dropMesh p).now = s.now := rfl
@[simp] theorem dropMesh_nextId (p : Word) : (s.dropMesh p).nextId = s.nextId := rfl
@[simp] theorem dropMesh_free (p : Word) : (s.dropMesh p).free = s.free := rfl
@[simp] theorem dropMesh_agenda (p : Word) : (s.dropMesh p).agenda = s.agenda := rfl
@[simp] theorem dropMesh_firing (p : Word) : (s.dropMesh p).firing = s.firing := rfl
@[simp] theorem dropMesh_ctxs (p : Word) : (s.dropMesh p).ctxs = s.ctxs := rfl
@[simp] theorem dropMesh_gone (p : Word) : (s.dropMesh p).gone = s.gone := rfl
@[simp] theorem dropMesh_cores (p : Word) : (s.dropMesh p).cores = s.cores := rfl
@[simp] theorem dropMesh_net (p : Word) : (s.dropMesh p).net = s.net := rfl
@[simp] theorem dropMesh_early (p : Word) : (s.dropMesh p).early = s.early := rfl
@[simp] theorem dropMesh_cmds (p : Word) : (s.dropMesh p).cmds = s.cmds := rfl
@[simp] theorem dropMesh_mem (p : Word) : (s.dropMesh p).mem = s.mem := rfl
@[simp] theorem dropMesh_poison (p : Word) : (s.dropMesh p).poison = s.poison := rfl
@[simp] theorem dropMesh_tlbs (p : Word) : (s.dropMesh p).tlbs = s.tlbs := rfl
@[simp] theorem dropMesh_dies (p : Word) : (s.dropMesh p).dies = s.dies := rfl
@[simp] theorem dropMesh_msix (p : Word) : (s.dropMesh p).msix = s.msix := rfl
@[simp] theorem dropMesh_heaps (p : Word) : (s.dropMesh p).heaps = s.heaps := rfl
@[simp] theorem dropMesh_heapE (p : Word) : (s.dropMesh p).heapE = s.heapE := rfl
@[simp] theorem dropMesh_launches (p : Word) : (s.dropMesh p).launches = s.launches := rfl
@[simp] theorem dropMesh_running (p : Word) : (s.dropMesh p).running = s.running := rfl
@[simp] theorem dropMesh_sched (p : Word) : (s.dropMesh p).sched = s.sched := rfl
@[simp] theorem dropMesh_rounds (p : Word) : (s.dropMesh p).rounds = s.rounds := rfl
@[simp] theorem dropMesh_jcairns (p : Word) : (s.dropMesh p).jcairns = s.jcairns := rfl
@[simp] theorem dropMesh_clusters (p : Word) : (s.dropMesh p).clusters = s.clusters := rfl
@[simp] theorem dropMesh_meshes (p : Word) : (s.dropMesh p).meshes = s.meshes.filter (fun q => q.ptr ≠ p) := rfl
@[simp] theorem dropMesh_pairs (p : Word) : (s.dropMesh p).pairs = s.pairs := rfl
@[simp] theorem dropMesh_xdie (p : Word) : (s.dropMesh p).xdie = s.xdie := rfl
@[simp] theorem dropMesh_fab (p : Word) : (s.dropMesh p).fab = s.fab := rfl

/-! ### setSched -/

@[simp] theorem setSched_chip (d : Nat) (k : DieSched) : (s.setSched d k).chip = s.chip := rfl
@[simp] theorem setSched_now (d : Nat) (k : DieSched) : (s.setSched d k).now = s.now := rfl
@[simp] theorem setSched_nextId (d : Nat) (k : DieSched) : (s.setSched d k).nextId = s.nextId := rfl
@[simp] theorem setSched_free (d : Nat) (k : DieSched) : (s.setSched d k).free = s.free := rfl
@[simp] theorem setSched_agenda (d : Nat) (k : DieSched) : (s.setSched d k).agenda = s.agenda := rfl
@[simp] theorem setSched_firing (d : Nat) (k : DieSched) : (s.setSched d k).firing = s.firing := rfl
@[simp] theorem setSched_ctxs (d : Nat) (k : DieSched) : (s.setSched d k).ctxs = s.ctxs := rfl
@[simp] theorem setSched_gone (d : Nat) (k : DieSched) : (s.setSched d k).gone = s.gone := rfl
@[simp] theorem setSched_cores (d : Nat) (k : DieSched) : (s.setSched d k).cores = s.cores := rfl
@[simp] theorem setSched_net (d : Nat) (k : DieSched) : (s.setSched d k).net = s.net := rfl
@[simp] theorem setSched_early (d : Nat) (k : DieSched) : (s.setSched d k).early = s.early := rfl
@[simp] theorem setSched_cmds (d : Nat) (k : DieSched) : (s.setSched d k).cmds = s.cmds := rfl
@[simp] theorem setSched_mem (d : Nat) (k : DieSched) : (s.setSched d k).mem = s.mem := rfl
@[simp] theorem setSched_poison (d : Nat) (k : DieSched) : (s.setSched d k).poison = s.poison := rfl
@[simp] theorem setSched_tlbs (d : Nat) (k : DieSched) : (s.setSched d k).tlbs = s.tlbs := rfl
@[simp] theorem setSched_dies (d : Nat) (k : DieSched) : (s.setSched d k).dies = s.dies := rfl
@[simp] theorem setSched_msix (d : Nat) (k : DieSched) : (s.setSched d k).msix = s.msix := rfl
@[simp] theorem setSched_heaps (d : Nat) (k : DieSched) : (s.setSched d k).heaps = s.heaps := rfl
@[simp] theorem setSched_heapE (d : Nat) (k : DieSched) : (s.setSched d k).heapE = s.heapE := rfl
@[simp] theorem setSched_launches (d : Nat) (k : DieSched) : (s.setSched d k).launches = s.launches := rfl
@[simp] theorem setSched_running (d : Nat) (k : DieSched) : (s.setSched d k).running = s.running := rfl
@[simp] theorem setSched_sched (d : Nat) (k : DieSched) : (s.setSched d k).sched = (d, k) :: s.sched.filter (fun u => u.1 ≠ d) := rfl
@[simp] theorem setSched_rounds (d : Nat) (k : DieSched) : (s.setSched d k).rounds = s.rounds := rfl
@[simp] theorem setSched_jcairns (d : Nat) (k : DieSched) : (s.setSched d k).jcairns = s.jcairns := rfl
@[simp] theorem setSched_clusters (d : Nat) (k : DieSched) : (s.setSched d k).clusters = s.clusters := rfl
@[simp] theorem setSched_meshes (d : Nat) (k : DieSched) : (s.setSched d k).meshes = s.meshes := rfl
@[simp] theorem setSched_pairs (d : Nat) (k : DieSched) : (s.setSched d k).pairs = s.pairs := rfl
@[simp] theorem setSched_xdie (d : Nat) (k : DieSched) : (s.setSched d k).xdie = s.xdie := rfl
@[simp] theorem setSched_fab (d : Nat) (k : DieSched) : (s.setSched d k).fab = s.fab := rfl

/-! ### setLaunch -/

@[simp] theorem setLaunch_chip (l : Launch) : (s.setLaunch l).chip = s.chip := rfl
@[simp] theorem setLaunch_now (l : Launch) : (s.setLaunch l).now = s.now := rfl
@[simp] theorem setLaunch_nextId (l : Launch) : (s.setLaunch l).nextId = s.nextId := rfl
@[simp] theorem setLaunch_free (l : Launch) : (s.setLaunch l).free = s.free := rfl
@[simp] theorem setLaunch_agenda (l : Launch) : (s.setLaunch l).agenda = s.agenda := rfl
@[simp] theorem setLaunch_firing (l : Launch) : (s.setLaunch l).firing = s.firing := rfl
@[simp] theorem setLaunch_ctxs (l : Launch) : (s.setLaunch l).ctxs = s.ctxs := rfl
@[simp] theorem setLaunch_gone (l : Launch) : (s.setLaunch l).gone = s.gone := rfl
@[simp] theorem setLaunch_cores (l : Launch) : (s.setLaunch l).cores = s.cores := rfl
@[simp] theorem setLaunch_net (l : Launch) : (s.setLaunch l).net = s.net := rfl
@[simp] theorem setLaunch_early (l : Launch) : (s.setLaunch l).early = s.early := rfl
@[simp] theorem setLaunch_cmds (l : Launch) : (s.setLaunch l).cmds = s.cmds := rfl
@[simp] theorem setLaunch_mem (l : Launch) : (s.setLaunch l).mem = s.mem := rfl
@[simp] theorem setLaunch_poison (l : Launch) : (s.setLaunch l).poison = s.poison := rfl
@[simp] theorem setLaunch_tlbs (l : Launch) : (s.setLaunch l).tlbs = s.tlbs := rfl
@[simp] theorem setLaunch_dies (l : Launch) : (s.setLaunch l).dies = s.dies := rfl
@[simp] theorem setLaunch_msix (l : Launch) : (s.setLaunch l).msix = s.msix := rfl
@[simp] theorem setLaunch_heaps (l : Launch) : (s.setLaunch l).heaps = s.heaps := rfl
@[simp] theorem setLaunch_heapE (l : Launch) : (s.setLaunch l).heapE = s.heapE := rfl
@[simp] theorem setLaunch_launches (l : Launch) : (s.setLaunch l).launches = s.launches.map (fun m => if m.id = l.id then l else m) := rfl
@[simp] theorem setLaunch_running (l : Launch) : (s.setLaunch l).running = s.running := rfl
@[simp] theorem setLaunch_sched (l : Launch) : (s.setLaunch l).sched = s.sched := rfl
@[simp] theorem setLaunch_rounds (l : Launch) : (s.setLaunch l).rounds = s.rounds := rfl
@[simp] theorem setLaunch_jcairns (l : Launch) : (s.setLaunch l).jcairns = s.jcairns := rfl
@[simp] theorem setLaunch_clusters (l : Launch) : (s.setLaunch l).clusters = s.clusters := rfl
@[simp] theorem setLaunch_meshes (l : Launch) : (s.setLaunch l).meshes = s.meshes := rfl
@[simp] theorem setLaunch_pairs (l : Launch) : (s.setLaunch l).pairs = s.pairs := rfl
@[simp] theorem setLaunch_xdie (l : Launch) : (s.setLaunch l).xdie = s.xdie := rfl
@[simp] theorem setLaunch_fab (l : Launch) : (s.setLaunch l).fab = s.fab := rfl

/-! ### endCard -/

@[simp] theorem endCard_chip (n : Nat) (e : Bool) : (s.endCard n e).chip = s.chip := rfl
@[simp] theorem endCard_now (n : Nat) (e : Bool) : (s.endCard n e).now = s.now := rfl
@[simp] theorem endCard_nextId (n : Nat) (e : Bool) : (s.endCard n e).nextId = s.nextId := rfl
@[simp] theorem endCard_free (n : Nat) (e : Bool) : (s.endCard n e).free = s.free := rfl
@[simp] theorem endCard_agenda (n : Nat) (e : Bool) : (s.endCard n e).agenda = s.agenda := rfl
@[simp] theorem endCard_firing (n : Nat) (e : Bool) : (s.endCard n e).firing = s.firing := rfl
@[simp] theorem endCard_ctxs (n : Nat) (e : Bool) : (s.endCard n e).ctxs = s.ctxs := rfl
@[simp] theorem endCard_gone (n : Nat) (e : Bool) : (s.endCard n e).gone = s.gone := rfl
@[simp] theorem endCard_cores (n : Nat) (e : Bool) : (s.endCard n e).cores = s.cores := rfl
@[simp] theorem endCard_net (n : Nat) (e : Bool) : (s.endCard n e).net = s.net := rfl
@[simp] theorem endCard_early (n : Nat) (e : Bool) : (s.endCard n e).early = s.early := rfl
@[simp] theorem endCard_cmds (n : Nat) (e : Bool) : (s.endCard n e).cmds = s.cmds := rfl
@[simp] theorem endCard_mem (n : Nat) (e : Bool) : (s.endCard n e).mem = s.mem := rfl
@[simp] theorem endCard_poison (n : Nat) (e : Bool) : (s.endCard n e).poison = s.poison := rfl
@[simp] theorem endCard_tlbs (n : Nat) (e : Bool) : (s.endCard n e).tlbs = s.tlbs := rfl
@[simp] theorem endCard_dies (n : Nat) (e : Bool) : (s.endCard n e).dies = s.dies := rfl
@[simp] theorem endCard_msix (n : Nat) (e : Bool) : (s.endCard n e).msix = s.msix := rfl
@[simp] theorem endCard_heaps (n : Nat) (e : Bool) : (s.endCard n e).heaps = s.heaps := rfl
@[simp] theorem endCard_heapE (n : Nat) (e : Bool) : (s.endCard n e).heapE = s.heapE := rfl
@[simp] theorem endCard_launches (n : Nat) (e : Bool) : (s.endCard n e).launches = s.launches := rfl
@[simp] theorem endCard_running (n : Nat) (e : Bool) : (s.endCard n e).running = s.running.map (fun r => if r.id = n then { r with ended := true, err := r.err || e } else r) := rfl
@[simp] theorem endCard_sched (n : Nat) (e : Bool) : (s.endCard n e).sched = s.sched := rfl
@[simp] theorem endCard_rounds (n : Nat) (e : Bool) : (s.endCard n e).rounds = s.rounds := rfl
@[simp] theorem endCard_jcairns (n : Nat) (e : Bool) : (s.endCard n e).jcairns = s.jcairns := rfl
@[simp] theorem endCard_clusters (n : Nat) (e : Bool) : (s.endCard n e).clusters = s.clusters := rfl
@[simp] theorem endCard_meshes (n : Nat) (e : Bool) : (s.endCard n e).meshes = s.meshes := rfl
@[simp] theorem endCard_pairs (n : Nat) (e : Bool) : (s.endCard n e).pairs = s.pairs := rfl
@[simp] theorem endCard_xdie (n : Nat) (e : Bool) : (s.endCard n e).xdie = s.xdie := rfl
@[simp] theorem endCard_fab (n : Nat) (e : Bool) : (s.endCard n e).fab = s.fab := rfl

/-! ### setLink -/

@[simp] theorem setLink_chip (l : Nat) (k : LinkSt) : (s.setLink l k).chip = s.chip := rfl
@[simp] theorem setLink_now (l : Nat) (k : LinkSt) : (s.setLink l k).now = s.now := rfl
@[simp] theorem setLink_nextId (l : Nat) (k : LinkSt) : (s.setLink l k).nextId = s.nextId := rfl
@[simp] theorem setLink_free (l : Nat) (k : LinkSt) : (s.setLink l k).free = s.free := rfl
@[simp] theorem setLink_agenda (l : Nat) (k : LinkSt) : (s.setLink l k).agenda = s.agenda := rfl
@[simp] theorem setLink_firing (l : Nat) (k : LinkSt) : (s.setLink l k).firing = s.firing := rfl
@[simp] theorem setLink_ctxs (l : Nat) (k : LinkSt) : (s.setLink l k).ctxs = s.ctxs := rfl
@[simp] theorem setLink_gone (l : Nat) (k : LinkSt) : (s.setLink l k).gone = s.gone := rfl
@[simp] theorem setLink_cores (l : Nat) (k : LinkSt) : (s.setLink l k).cores = s.cores := rfl
@[simp] theorem setLink_net (l : Nat) (k : LinkSt) : (s.setLink l k).net = s.net := rfl
@[simp] theorem setLink_early (l : Nat) (k : LinkSt) : (s.setLink l k).early = s.early := rfl
@[simp] theorem setLink_cmds (l : Nat) (k : LinkSt) : (s.setLink l k).cmds = s.cmds := rfl
@[simp] theorem setLink_mem (l : Nat) (k : LinkSt) : (s.setLink l k).mem = s.mem := rfl
@[simp] theorem setLink_poison (l : Nat) (k : LinkSt) : (s.setLink l k).poison = s.poison := rfl
@[simp] theorem setLink_tlbs (l : Nat) (k : LinkSt) : (s.setLink l k).tlbs = s.tlbs := rfl
@[simp] theorem setLink_dies (l : Nat) (k : LinkSt) : (s.setLink l k).dies = s.dies := rfl
@[simp] theorem setLink_msix (l : Nat) (k : LinkSt) : (s.setLink l k).msix = s.msix := rfl
@[simp] theorem setLink_heaps (l : Nat) (k : LinkSt) : (s.setLink l k).heaps = s.heaps := rfl
@[simp] theorem setLink_heapE (l : Nat) (k : LinkSt) : (s.setLink l k).heapE = s.heapE := rfl
@[simp] theorem setLink_launches (l : Nat) (k : LinkSt) : (s.setLink l k).launches = s.launches := rfl
@[simp] theorem setLink_running (l : Nat) (k : LinkSt) : (s.setLink l k).running = s.running := rfl
@[simp] theorem setLink_sched (l : Nat) (k : LinkSt) : (s.setLink l k).sched = s.sched := rfl
@[simp] theorem setLink_rounds (l : Nat) (k : LinkSt) : (s.setLink l k).rounds = s.rounds := rfl
@[simp] theorem setLink_jcairns (l : Nat) (k : LinkSt) : (s.setLink l k).jcairns = s.jcairns := rfl
@[simp] theorem setLink_clusters (l : Nat) (k : LinkSt) : (s.setLink l k).clusters = s.clusters := rfl
@[simp] theorem setLink_meshes (l : Nat) (k : LinkSt) : (s.setLink l k).meshes = s.meshes := rfl
@[simp] theorem setLink_pairs (l : Nat) (k : LinkSt) : (s.setLink l k).pairs = s.pairs := rfl
@[simp] theorem setLink_xdie (l : Nat) (k : LinkSt) : (s.setLink l k).xdie = s.xdie := rfl
@[simp] theorem setLink_fab (l : Nat) (k : LinkSt) : (s.setLink l k).fab = { s.fab with links := s.fab.links.map (fun t => if t.1 = l then (l, k) else t) } := rfl

/-! ### setLq -/

@[simp] theorem setLq_chip (q : Nat) (k : LaunchQ) : (s.setLq q k).chip = s.chip := rfl
@[simp] theorem setLq_now (q : Nat) (k : LaunchQ) : (s.setLq q k).now = s.now := rfl
@[simp] theorem setLq_nextId (q : Nat) (k : LaunchQ) : (s.setLq q k).nextId = s.nextId := rfl
@[simp] theorem setLq_free (q : Nat) (k : LaunchQ) : (s.setLq q k).free = s.free := rfl
@[simp] theorem setLq_agenda (q : Nat) (k : LaunchQ) : (s.setLq q k).agenda = s.agenda := rfl
@[simp] theorem setLq_firing (q : Nat) (k : LaunchQ) : (s.setLq q k).firing = s.firing := rfl
@[simp] theorem setLq_ctxs (q : Nat) (k : LaunchQ) : (s.setLq q k).ctxs = s.ctxs := rfl
@[simp] theorem setLq_gone (q : Nat) (k : LaunchQ) : (s.setLq q k).gone = s.gone := rfl
@[simp] theorem setLq_cores (q : Nat) (k : LaunchQ) : (s.setLq q k).cores = s.cores := rfl
@[simp] theorem setLq_net (q : Nat) (k : LaunchQ) : (s.setLq q k).net = s.net := rfl
@[simp] theorem setLq_early (q : Nat) (k : LaunchQ) : (s.setLq q k).early = s.early := rfl
@[simp] theorem setLq_cmds (q : Nat) (k : LaunchQ) : (s.setLq q k).cmds = s.cmds := rfl
@[simp] theorem setLq_mem (q : Nat) (k : LaunchQ) : (s.setLq q k).mem = s.mem := rfl
@[simp] theorem setLq_poison (q : Nat) (k : LaunchQ) : (s.setLq q k).poison = s.poison := rfl
@[simp] theorem setLq_tlbs (q : Nat) (k : LaunchQ) : (s.setLq q k).tlbs = s.tlbs := rfl
@[simp] theorem setLq_dies (q : Nat) (k : LaunchQ) : (s.setLq q k).dies = s.dies := rfl
@[simp] theorem setLq_msix (q : Nat) (k : LaunchQ) : (s.setLq q k).msix = s.msix := rfl
@[simp] theorem setLq_heaps (q : Nat) (k : LaunchQ) : (s.setLq q k).heaps = s.heaps := rfl
@[simp] theorem setLq_heapE (q : Nat) (k : LaunchQ) : (s.setLq q k).heapE = s.heapE := rfl
@[simp] theorem setLq_launches (q : Nat) (k : LaunchQ) : (s.setLq q k).launches = s.launches := rfl
@[simp] theorem setLq_running (q : Nat) (k : LaunchQ) : (s.setLq q k).running = s.running := rfl
@[simp] theorem setLq_sched (q : Nat) (k : LaunchQ) : (s.setLq q k).sched = s.sched := rfl
@[simp] theorem setLq_rounds (q : Nat) (k : LaunchQ) : (s.setLq q k).rounds = s.rounds := rfl
@[simp] theorem setLq_jcairns (q : Nat) (k : LaunchQ) : (s.setLq q k).jcairns = s.jcairns := rfl
@[simp] theorem setLq_clusters (q : Nat) (k : LaunchQ) : (s.setLq q k).clusters = s.clusters := rfl
@[simp] theorem setLq_meshes (q : Nat) (k : LaunchQ) : (s.setLq q k).meshes = s.meshes := rfl
@[simp] theorem setLq_pairs (q : Nat) (k : LaunchQ) : (s.setLq q k).pairs = s.pairs := rfl
@[simp] theorem setLq_xdie (q : Nat) (k : LaunchQ) : (s.setLq q k).xdie = { s.xdie with lqs := (q, k) :: s.xdie.lqs.filter (fun t => t.1 ≠ q) } := rfl
@[simp] theorem setLq_fab (q : Nat) (k : LaunchQ) : (s.setLq q k).fab = s.fab := rfl

/-! ### setIsland -/

@[simp] theorem setIsland_chip (i : Nat) (v : Island) : (s.setIsland i v).chip = s.chip := rfl
@[simp] theorem setIsland_now (i : Nat) (v : Island) : (s.setIsland i v).now = s.now := rfl
@[simp] theorem setIsland_nextId (i : Nat) (v : Island) : (s.setIsland i v).nextId = s.nextId := rfl
@[simp] theorem setIsland_free (i : Nat) (v : Island) : (s.setIsland i v).free = s.free := rfl
@[simp] theorem setIsland_agenda (i : Nat) (v : Island) : (s.setIsland i v).agenda = s.agenda := rfl
@[simp] theorem setIsland_firing (i : Nat) (v : Island) : (s.setIsland i v).firing = s.firing := rfl
@[simp] theorem setIsland_ctxs (i : Nat) (v : Island) : (s.setIsland i v).ctxs = s.ctxs := rfl
@[simp] theorem setIsland_gone (i : Nat) (v : Island) : (s.setIsland i v).gone = s.gone := rfl
@[simp] theorem setIsland_cores (i : Nat) (v : Island) : (s.setIsland i v).cores = s.cores := rfl
@[simp] theorem setIsland_net (i : Nat) (v : Island) : (s.setIsland i v).net = s.net := rfl
@[simp] theorem setIsland_early (i : Nat) (v : Island) : (s.setIsland i v).early = s.early := rfl
@[simp] theorem setIsland_cmds (i : Nat) (v : Island) : (s.setIsland i v).cmds = s.cmds := rfl
@[simp] theorem setIsland_mem (i : Nat) (v : Island) : (s.setIsland i v).mem = s.mem := rfl
@[simp] theorem setIsland_poison (i : Nat) (v : Island) : (s.setIsland i v).poison = s.poison := rfl
@[simp] theorem setIsland_tlbs (i : Nat) (v : Island) : (s.setIsland i v).tlbs = s.tlbs := rfl
@[simp] theorem setIsland_dies (i : Nat) (v : Island) : (s.setIsland i v).dies = s.dies := rfl
@[simp] theorem setIsland_msix (i : Nat) (v : Island) : (s.setIsland i v).msix = s.msix := rfl
@[simp] theorem setIsland_heaps (i : Nat) (v : Island) : (s.setIsland i v).heaps = s.heaps := rfl
@[simp] theorem setIsland_heapE (i : Nat) (v : Island) : (s.setIsland i v).heapE = s.heapE := rfl
@[simp] theorem setIsland_launches (i : Nat) (v : Island) : (s.setIsland i v).launches = s.launches := rfl
@[simp] theorem setIsland_running (i : Nat) (v : Island) : (s.setIsland i v).running = s.running := rfl
@[simp] theorem setIsland_sched (i : Nat) (v : Island) : (s.setIsland i v).sched = s.sched := rfl
@[simp] theorem setIsland_rounds (i : Nat) (v : Island) : (s.setIsland i v).rounds = s.rounds := rfl
@[simp] theorem setIsland_jcairns (i : Nat) (v : Island) : (s.setIsland i v).jcairns = s.jcairns := rfl
@[simp] theorem setIsland_clusters (i : Nat) (v : Island) : (s.setIsland i v).clusters = s.clusters := rfl
@[simp] theorem setIsland_meshes (i : Nat) (v : Island) : (s.setIsland i v).meshes = s.meshes := rfl
@[simp] theorem setIsland_pairs (i : Nat) (v : Island) : (s.setIsland i v).pairs = s.pairs := rfl
@[simp] theorem setIsland_xdie (i : Nat) (v : Island) : (s.setIsland i v).xdie = { s.xdie with islands := (i, v) :: s.xdie.islands.filter (fun t => t.1 ≠ i) } := rfl
@[simp] theorem setIsland_fab (i : Nat) (v : Island) : (s.setIsland i v).fab = s.fab := rfl

/-! ### Reading a unit after it has been replaced -/

theorem find?_replace {α : Type} (key : α → Nat) (x : α) (n : Nat) (l : List α) (hx : key x = n) :
    (l.map (fun y => if key y = n then x else y)).find? (fun y => key y = n) = (l.find? (fun y => key y = n)).map (fun _ => x) := by
  induction l with
  | nil => rfl
  | cons y l ih => by_cases h : key y = n <;> simp [h, hx, ih]

theorem find?_replace_ne {α : Type} (key : α → Nat) (x : α) (m n : Nat) (l : List α) (hx : key x = n) (h : m ≠ n) :
    (l.map (fun y => if key y = n then x else y)).find? (fun y => key y = m) = l.find? (fun y => key y = m) := by
  induction l with
  | nil => rfl
  | cons y l ih =>
    by_cases hy : key y = n
    · have h1 : ¬ n = m := fun e => h e.symm
      have h2 : decide (key x = m) = false := by simp [hx, h1]
      have h3 : decide (key y = m) = false := by simp [hy, h1]
      simp only [List.map_cons, if_pos hy, List.find?_cons, h2, h3, ih]
    · simp only [List.map_cons, if_neg hy, List.find?_cons, ih]

theorem find?_filter_ne {α : Type} (m n : Nat) (l : List (Nat × α)) (h : m ≠ n) :
    (l.filter (fun u => u.1 ≠ n)).find? (fun t => t.1 = m) = l.find? (fun t => t.1 = m) := by
  induction l with
  | nil => rfl
  | cons y l ih =>
    by_cases hy : y.1 = n
    · have h1 : ¬ n = m := fun e => h e.symm
      simpa [List.filter_cons, hy, h1] using ih
    · simp only [ne_eq, hy, not_false_eq_true, decide_true, List.filter_cons_of_pos, List.find?_cons]
      split <;> simp_all

/-- A context that has been replaced reads as its replacement. -/
theorem ctx?_setCtx_self {s : State} {x y : Ctx} (h : s.ctx? x.id = some y) : (s.setCtx x).ctx? x.id = some x := by
  have h2 := find?_replace (fun y : Ctx => y.id) x x.id s.ctxs rfl
  rw [show s.ctxs.find? (fun y => y.id = x.id) = some y from h] at h2
  exact h2

/-- The same, with the id under its own name. -/
theorem ctx?_setCtx {s : State} {x y : Ctx} {c : Nat} (h : s.ctx? c = some y) (e : x.id = c) : (s.setCtx x).ctx? c = some x := by
  subst e; exact ctx?_setCtx_self h

/-- Another context reads as before. -/
theorem ctx?_setCtx_ne (s : State) (x : Ctx) {c : Nat} (h : c ≠ x.id) : (s.setCtx x).ctx? c = s.ctx? c :=
  find?_replace_ne (fun y : Ctx => y.id) x c x.id s.ctxs rfl h

/-- A context that is found has the id it was looked for by. -/
theorem ctx?_id {s : State} {x : Ctx} {c : Nat} (h : s.ctx? c = some x) : x.id = c := by
  simpa using List.find?_some h

@[simp] theorem setCore_ctx? (n : Nat) (k : CoreSt) (c : Nat) : (s.setCore n k).ctx? c = s.ctx? c := rfl
@[simp] theorem setDie_ctx? (n : Nat) (k : DieRegs) (c : Nat) : (s.setDie n k).ctx? c = s.ctx? c := rfl
@[simp] theorem send_ctx? (a : Src) (n : Nat) (b : Body) (c : Nat) : (s.send a n b).ctx? c = s.ctx? c := rfl
@[simp] theorem dropMsg_ctx? (m c : Nat) : (s.dropMsg m).ctx? c = s.ctx? c := rfl
@[simp] theorem store_ctx? (a : Nat) (b : List (Byte × Byte)) (c : Nat) : (s.store a b).ctx? c = s.ctx? c := rfl
@[simp] theorem setCmd_ctx? (d : Cmd) (c : Nat) : (s.setCmd d).ctx? c = s.ctx? c := rfl
@[simp] theorem setCtx_core (x : Ctx) (n : Nat) : (s.setCtx x).core n = s.core n := rfl
@[simp] theorem setCtx_die (x : Ctx) (n : Nat) : (s.setCtx x).die n = s.die n := rfl

/-- A core that has been replaced reads as its replacement. -/
@[simp] theorem core_setCore_self (n : Nat) (k : CoreSt) : (s.setCore n k).core n = k := by simp [State.core, State.setCore]
/-- Another core reads as before. -/
theorem core_setCore_ne (k : CoreSt) {m n : Nat} (h : m ≠ n) : (s.setCore n k).core m = s.core m := by
  have h1 : ¬ n = m := fun e => h e.symm
  simp only [State.core, State.setCore, List.find?_cons, h1, decide_false]
  rw [find?_filter_ne m n s.cores h]

/-- A die whose registers have been replaced reads as them. -/
@[simp] theorem die_setDie_self (n : Nat) (r : DieRegs) : (s.setDie n r).die n = r := by simp [State.die, State.setDie]
/-- Another die reads as before. -/
theorem die_setDie_ne (r : DieRegs) {m n : Nat} (h : m ≠ n) : (s.setDie n r).die m = s.die m := by
  have h1 : ¬ n = m := fun e => h e.symm
  simp only [State.die, State.setDie, List.find?_cons, h1, decide_false]
  rw [find?_filter_ne m n s.dies h]

/-- A translation block that has been replaced reads as its replacement. -/
@[simp] theorem tlb_setTlb_self (n : Nat) (t : Tlb) : (s.setTlb n t).tlb n = t := by simp [State.tlb, State.setTlb]

/-- A command that has been replaced reads as its replacement. -/
theorem cmd?_setCmd {s : State} {c d : Cmd} {n : Nat} (h : s.cmd? n = some d) (e : c.id = n) : (s.setCmd c).cmd? n = some c := by
  subst e
  have h2 := find?_replace (fun y : Cmd => y.id) c c.id s.cmds rfl
  rw [show s.cmds.find? (fun y => y.id = c.id) = some d from h] at h2
  exact h2

end Sys2Proof.Machine
end

