-- ==== Sys2Proof/Tests/Slice0.lean ====
section
/-!
SUPPORT. Sys2Proof/Tests/Slice0.lean: the row's own tests. Words that the spec writes out or whose bits its encoding tables give; the
checks of well-formedness; results that the spec's examples or a hand calculation from its rules give; and, for each
statement with hypotheses, a concrete state and operands that meet them.
-/

namespace Sys2Proof.Tests

open Sys2Proof Sys2Proof.Machine Sys2Proof.Claims

set_option maxRecDepth 100000
set_option linter.unusedVariables false

/-! ### A strand that fires one instruction -/

/-- A strand in slot 0 of core 0 with four tiles that runs an execution. -/
def tCtx (ex : Exec) : Ctx := { Ctx.initial 0 0 0 .active .none 0 0 [0, 1, 2, 3] [] [] 1 0 with cur := some ex, next := none }

/-- A pitch of one instruction at index 0 whose slots hold four tokens, with a strip length, sc and one descriptor for all eight. -/
def tEx (i : Instr) (vl : Nat) (sc : Word) (d : Word) (l r t p : Token) : Exec :=
  let ex := Exec.start 7 0 (onePitch (encode i)) (Ctx.initial 0 0 0 .active .none 0 0 [] [] [] 1 0) true
  { ex with toks := [(0, .left, l), (0, .right, r), (1, .left, t), (0, .pred, p)]
            img := { ex.img with vl := vl, sc := sc, d := Vector.replicate 8 d } }

/-- The site of that instruction. -/
def tFiring : Firing := ⟨0, false, 0, false⟩
def tSite (ex : Exec) : Site := ⟨tFiring, tCtx ex, ex⟩

/-- A machine in which that strand is alone and its instruction fires. -/
def tIn (s : State) (ex : Exec) : State := { s with ctxs := [tCtx ex], nextId := 8, firing := some tFiring }
def tAt (ex : Exec) : State := tIn State.reset ex

/-- The site is the one that the machine finds. -/
theorem tSite_eq (s : State) (ex : Exec) : (tIn s ex).site = some (tSite ex) := rfl

/-- The instruction's slots hold these operands, and their marks are as it asks. -/
def fired (i : Instr) (ex : Exec) (o : Operands) : Bool := ((tSite ex).operands? (slotsOf i) == some o) && marksOk i o

/-- Then it may fire. -/
theorem fires_of {i : Instr} {ex : Exec} {o : Operands} (s : State) (h : fired i ex o = true) : Fires i (tIn s ex) (tSite ex) o := by
  simp only [fired, Bool.and_eq_true, beq_iff_eq] at h
  exact ⟨tSite_eq s ex, (fun hs => Bool.noConfusion hs), h.1, h.2⟩

/-- Every 1 GiB at the bottom of each M-die is mapped with every right, for plain and heap requests. -/
def tMapped : State :=
  { State.reset with tlbs := [8, 9, 10, 11].map (fun j => (j, { Tlb.reset with entries := [(0, 0x84, 0xFC), (1, 0xC4, 0xFC)] })) }

/-- A scalar, a vector of 64-bit elements, a mask, and nothing read from a slot that is not used. -/
def sc (v : Nat) : Token := Token.scalar v
def v64 (l : List Nat) : Token := Token.vector 6 (l.map some)
def msk (l : List Nat) : Token := Token.mask (l.map some)
def unused : Token := Token.scalar 0

/-! ### Words and instructions -/

/-- The instruction that 16 or 32 bits stand for. -/
def word (w : BitVec 32) : Option Instr := decodeTableWord 32 w.toNat
def short (w : BitVec 16) : Option Instr := decodeTableWord 16 w.toNat
/-- The instruction that a prefix word and a base word stand for. -/
def prefixed (p w : BitVec 32) : Option Instr :=
  match decInstr (wordParcels p ++ wordParcels w) with
  | .ok (i, _) => some i
  | .error _ => none

/-- R43, R94: 11, OP 0x00, PM 00, AUX 101, T1 w1 (11 0000001), T0 i5.l (00 0000101). -/
theorem test_word_add : word 0b11_0000000_00_101_110000001_000000101 = some (.add ⟨.always, .vw, ⟨.write, 1⟩, ⟨.left, 5⟩, none⟩) := by decide
/-- R45, R95: 11, OP 0x0E, PM 01, AUX 000, IMM9 -1, T0 i2.r. -/
theorem test_word_andi : word 0b11_0001110_01_000_111111111_010000010 = some (.andi ⟨.onTrue, .s64, 0x1FF, ⟨.right, 2⟩, .bare⟩) := by decide
/-- R98: padd.place, 11, OP 0x1D, PM 10, AUX 010. -/
theorem test_word_padd : word 0b11_0011101_10_010_111111111_110000000 = some (.padd ⟨.onFalse, .place, Target.none, ⟨.write, 0⟩, none⟩) := by decide
/-- 04_arithmetic: `i2: vfdiv d1 -> w2` encodes as 0xD187_FF82. -/
theorem test_word_vfdiv : word 0xD187FF82 = some (.vfdiv ⟨.always, 1, Target.none, ⟨.write, 2⟩, none⟩) := by decide
/-- R103: vcvt, 11, OP 0x38, AUX d3. -/
theorem test_word_vcvt : word 0b11_0111000_00_011_111111111_000000001 = some (.vcvt ⟨.always, 3, Target.none, ⟨.left, 1⟩, none⟩) := by decide
/-- R106: cmp.ltu, 11, OP 0x40, AUX 100. -/
theorem test_word_cmp : word 0b11_1000000_00_100_111111111_100000011 = some (.cmp ⟨.always, .ltu, Target.none, ⟨.pred, 3⟩, none⟩) := by decide
/-- R46, R125: ld.b of class 15 under LSID 31. -/
theorem test_word_ld : word 0b11_1010000_00_11111_1111_000_000000000 = some (.ld ⟨.always, 31, 15, .b, ⟨.left, 0⟩, .bare⟩) := by decide
/-- R46, R129: st.d with OFS5 1 (05_memory_access: 0xF002_0601). -/
theorem test_word_st : word 0xF0020601 = some (.st ⟨.always, 2, 0, .d, 1, none⟩) := by decide
/-- R46, R136: an atomic of scope DIE and order .rlx (05_memory_access: 0xF804_5181). -/
theorem test_word_amo : word 0xF8045181 = some (.amoAdd ⟨.always, 4, .die, .rlx, ⟨.write, 1⟩, none⟩) := by decide
/-- R48: br.ret with F = 0 (06_control: 0xFC0C_0000), and loop at level 5 with F = 1 and offset -1. -/
theorem test_word_control : word 0xFC0C0000 = some (.brRet ⟨.always, false⟩)
    ∧ word 0b11_1111001_00_101_1_11111111111111111 = some (.loop ⟨.always, 5, true, 0x1FFFF⟩) := by decide
/-- R48: loopc.2 x9 with offset -3 under a kind-0 prefix, whose value is the trip count (R52). -/
theorem test_word_loopc : prefixed 0x80000064 0b11_1111010_00_010_0_01001_111111111101 = some (.loopc ⟨.always, 2, 9, 0xFFD, some 100⟩) := by decide
/-- R49: csrr of vl (06_control: 0xFE00_0403). -/
theorem test_word_csrr : word 0xFE000403 = some (.csrr ⟨.always, 2, ⟨.left, 3⟩, none⟩) := by decide
/-- R54: c.mov to i3.l is 0, COP 0x00, T0 000000011; c.li 7 is COP 0x1F. -/
theorem test_word_compressed : short 0b0_000000_000000011 = some (.cMov ⟨⟨.left, 3⟩⟩)
    ∧ short 0b0_011111_110000000 = some (.cLi ⟨15, ⟨.write, 0⟩⟩) := by decide
/-- R198: gemm.t of 09_matrix: 0x8910_0007, 0xFF04_21FF; tz of tile 0 is the short form 0xFF04_01FF. -/
theorem test_word_matrix : prefixed 0x89100007 0xFF0421FF = some (.gemmT ⟨.always, 2, 1, .ptr, .ptr, 0, 0, 7⟩)
    ∧ word 0xFF0401FF = some (.tz ⟨.always, 0, false⟩) := by decide
/-- R220: esack is 0xFF06_11FF. -/
theorem test_word_esack : word 0xFF0611FF = some (.esack ⟨.always, 0⟩) := by decide
/-- R243: 12_program_fraud_screen: `w0 = rt.take.s0 g0`, and `bar.crew #0, #5 when %p` with CNT 4. -/
theorem test_word_router : word 0xFF080580 = some (.rtTake ⟨.always, 0, false, ⟨.write, 0⟩⟩)
    ∧ prefixed 0x94001000 0xFF2A41FF = some (.bar ⟨.onTrue, .crew, 0, 4⟩) := by decide
/-- R390: `lb.cut.p2 [%r]` is 0xA000_0000 + 2 · 2^23, then 0xFF10_81FF. -/
theorem test_word_lbcut : prefixed 0xA1000000 0xFF1081FF = some (.lbCut ⟨.always, 2, Target.none⟩) := by decide
/-- R43: PM 11 is no instruction; R44: nor is an operation code without a row (R50, R51). -/
theorem test_word_refused : word 0b11_0000000_11_000_111111111_000000000 = none ∧ short 0b0_111111_000000000 = none
    ∧ word 0b11_1111110_00_0001_00000000_111111111 = none := by decide

/-! ### Well-formedness -/

/-- A term that each check of `Instr.wf` refuses, in the order of its rows, and the encoding limits of R43 to R54 that each breaks. -/
def illFormed : List Instr :=
  [.and ⟨.always, .vss, Target.none, Target.none, none⟩, .mulh ⟨.always, .vw, Target.none, Target.none, none⟩,
   .addi ⟨.always, .vw, 0, Target.none, .bare⟩, .addi ⟨.always, .s64, 0, Target.none, .imm 0x1000000⟩,
   .andi ⟨.always, .vss, 0, Target.none, .bare⟩, .slli ⟨.always, .vsu, 1, Target.none, none⟩,
   .padd ⟨.always, .space, Target.none, Target.none, none⟩, .cmpi ⟨.always, .eq, 0, Target.none, .imm 0x3000000⟩,
   .ld ⟨.always, 0, 0, .x, Target.none, .bare⟩, .ldg ⟨.always, 0, 0, .m, Target.none, .bare⟩, .ldk ⟨.always, 0, 0, .s, Target.none, .bare⟩,
   .st ⟨.always, 0, 0, .s, 0, none⟩, .st ⟨.always, 0, 0, .d, 1, some 1⟩, .stg ⟨.always, 0, 0, .x, 0, none⟩, .stk ⟨.always, 0, 0, .m, 0, none⟩,
   .stx ⟨.always, 0, 0, 1, some 0⟩, .stl ⟨.always, 0, .die, 1, some 0⟩, .waitv ⟨.always, 0, 0, Target.none, .imm 0⟩,
   .amoAdd ⟨.always, 0, .die, .rlx, ⟨.left, 0⟩, none⟩, .amoCas ⟨.always, 0, .die, .rlx, Target.none, some ⟨⟨.pred, 1⟩, Target.none⟩⟩,
   .mvvt ⟨.always, 0, false, false, 0, ⟨.left, 0⟩⟩, .cholT ⟨.always, 0, 0, 0, 1, 0, false, false⟩, .cholT ⟨.always, 0, 0, 0, 0, 1, false, false⟩,
   .cholT ⟨.always, 0, 0, 0, 0, 0, false, true⟩, .syrkT ⟨.always, 0, 0, 0, 0, 0, false, true⟩, .qrT ⟨.always, 0, 0, 0, 0, 0, true, false⟩,
   .qrT ⟨.always, 0, 0, 4, 0, 0, false, false⟩, .rtTake ⟨.always, 0, false, ⟨.left, 0⟩⟩, .futWait ⟨.always, ⟨.right, 0⟩⟩,
   .hpEpoch ⟨.always, 0, ⟨.left, 0⟩⟩]

theorem test_ill_formed_refused : illFormed.all (fun i => !i.wf) = true := by decide
theorem test_well_formed_accepted : (word 0xC0000000).map Instr.wf = some true ∧ (Instr.stx ⟨.always, 0, 0, 0, some 0⟩).wf = true := by decide

/-! ### The worked pitch of 02_encoding -/

/-- The bytes of its one fetch line at virtual address 0 of M-die 8, mapped to physical address 0. -/
def pitchBytes : List Nat :=
  [0x00, 0xD6, 0x06, 0x43, 0x00, 0x08, 0x00, 0x00, 0x04, 0x00, 0x07, 0x00, 0x00, 0xFE, 0x08, 0x00,
   0x01, 0x08, 0x0F, 0x00, 0x82, 0xFE, 0x00, 0x24, 0x00, 0x00, 0x00, 0xE8, 0x02, 0x06, 0x01, 0xE8,
   0x03, 0x06, 0x83, 0xD4, 0x84, 0x00, 0x02, 0xF0, 0x00, 0x06, 0x00, 0xFC, 0x01, 0x00, 0x00, 0x00]
def pitchState : State := tMapped.store 0 (pitchBytes.map (fun b => (BitVec.ofNat 8 b, 255)))

/-- It decodes: six indices, three read-map entries, v4 as w0, SMASK bit 2, and five instructions, of which i4 follows the
three-value form at i2. -/
theorem test_pitch_decodes : (match pitchState.decodePitch ⟨true, 0, pitchState.mem⟩ 0 with
    | .ok p => p.lines == 1 && p.hdr.icnt == 6 && p.hdr.rcnt == 3 && p.hdr.wmap == [36] && p.hdr.smask == 4
        && p.hdr.rmap.map (·.1) == [1, 2, 3] && p.code.map (·.1) == [0, 1, 2, 4, 5] && p.code.map (·.2.1) == [0x1A, 0x1E, 0x22, 0x26, 0x2A]
    | .error _ => false) = true := by decide

/-! ### Integer instructions -/

def ia (s : Shape) : IntArgs := ⟨.always, s, Target.none, Target.none, none⟩
def im (s : Shape) (v : BitVec 9) : ImmArgs := ⟨.always, s, v, Target.none, .bare⟩
def sh (s : Shape) (v : BitVec 6) : ShiftArgs := ⟨.always, s, v, Target.none, none⟩
def fa : FpArgs := ⟨.always, 0, Target.none, Target.none, none⟩

/-- Every integer instruction, at a shape it takes. -/
def intSamples (s : Shape) : List Instr :=
  [.add (ia s), .sub (ia s), .and (ia s), .or (ia s), .xor (ia s), .andn (ia s), .sll (ia s), .srl (ia s), .sra (ia s), .min (ia s), .max (ia s),
   .minu (ia s), .maxu (ia s), .mul (ia s), .mulh (ia s), .mulhu (ia s), .div (ia s), .divu (ia s), .rem (ia s), .remu (ia s), .bfx (ia s),
   .addi (im s 5), .andi (im s 5), .slli (sh s 63), .srli (sh s 63), .srai (sh s 63), .clz (ia s), .ctz (ia s), .popc (ia s)]

/-- The operands that an instruction reads from full slots. -/
def opsOf (i : Instr) (l r t : Token) (p : Pred) : Operands :=
  ⟨p, if (slotsOf i).l then l else unused, if (slotsOf i).r then r else unused, if (slotsOf i).t then t else unused⟩

/-- The scalar result of the element form of an integer instruction on 64-bit words. -/
def intScalar (i : Instr) (a b : Nat) : Option Nat :=
  match intForm i with
  | some (s, f, snd) => match (intResult s f (envOf (tSite (tEx i 4 3 0 (sc a) (sc b) unused unused))) none (sc a) (snd (opsOf i (sc a) (sc b) unused none))).tok with
    | t => if t.kind = .scalar ∧ t.isNull = false then some t.word.toNat else none
  | none => none

/-- R94: the sum wraps, a shift of 64 moves by 0, and the product's high half is signed. -/
theorem test_int_results : intScalar (.add (ia .s64)) (2 ^ 64 - 1) 2 = some 1 ∧ intScalar (.sll (ia .s64)) 5 64 = some 5
    ∧ intScalar (.mulh (ia .s64)) (2 ^ 64 - 1) 2 = some (2 ^ 64 - 1) ∧ intScalar (.mulhu (ia .s64)) (2 ^ 64 - 1) 2 = some 1
    ∧ intScalar (.andn (ia .s64)) 0xF 0x5 = some 0xA ∧ intScalar (.addi (im .s64 0x1FF)) 5 0 = some 4 := by decide
/-- R96: a quotient by 0 is all ones and the remainder the dividend; the most negative number over -1 is itself. -/
theorem test_int_division : intScalar (.div (ia .s64)) 7 0 = some (2 ^ 64 - 1) ∧ intScalar (.remu (ia .s64)) 7 0 = some 7
    ∧ intScalar (.div (ia .s64)) (2 ^ 63) (2 ^ 64 - 1) = some (2 ^ 63) ∧ intScalar (.rem (ia .s64)) (2 ^ 64 - 7) 2 = some (2 ^ 64 - 1) := by decide
/-- R43, R94: the .32 shape sign-extends its low half. -/
theorem test_int_s32 : intScalar (.add (ia .s32)) 0x7FFFFFFF 1 = some 0xFFFFFFFF80000000 := by decide

/-- The premises of IntegerInstructionsComplete at one instruction. -/
def intPremises (i : Instr) (s : Shape) (vl : Nat) (scv : Word) (l r : Token) : Bool :=
  let ex := tEx i vl scv 0 l r unused unused
  let o := opsOf i l r unused none
  fired i ex o && (match intForm i with
    | some (sh, _, b) => intKinds sh (envOf (tSite ex)) o.p o.l (b o) && !(sh == .vw && (envOf (tSite ex)).lsew == 6)
        && fits (envOf (tSite ex)).vl (wideOps o.p [(o.l, 0), (b o, 0)]) (intKind sh (envOf (tSite ex)))
    | none => false)
theorem witness_IntegerInstructionsComplete : (intSamples .s64).all (fun i => intPremises i .s64 4 3 (sc 5) (sc 7)) = true
    ∧ (intSamples .v).all (fun i => intPremises i .v 4 3 (v64 [1, 2, 3, 4]) (sc 7)) = true
    ∧ intPremises (.add (ia .vw)) .vw 4 2 (Token.vector 5 [some 1, none, some 3, some 4]) (sc 7) = true := by decide
theorem witness_IntegerInstructionsComplete_fires : Fires (.add (ia .s64)) (tAt (tEx (.add (ia .s64)) 4 3 0 (sc 5) (sc 7) unused unused))
    (tSite (tEx (.add (ia .s64)) 4 3 0 (sc 5) (sc 7) unused unused)) ⟨none, sc 5, sc 7, unused⟩ := fires_of _ rfl
/-- A vector at a scalar shape is refused, and VW at SEW 64. -/
theorem witness_IntegerInstructionsFault : (intSamples .s64).all (fun i => let ex := tEx i 2 3 0 (v64 [1, 2]) (sc 7) unused unused
      fired i ex (opsOf i (v64 [1, 2]) (sc 7) unused none) && (match intForm i with
        | some (sh, _, b) => !intKinds sh (envOf (tSite ex)) none (v64 [1, 2]) (b (opsOf i (v64 [1, 2]) (sc 7) unused none)) | none => false)) = true
    ∧ (let ex := tEx (.add (ia .vw)) 2 3 0 (v64 [1, 2]) (v64 [1, 2]) unused unused
      (fired (.add (ia .vw)) ex ⟨none, v64 [1, 2], v64 [1, 2], unused⟩ && intKinds .vw (envOf (tSite ex)) none (v64 [1, 2]) (v64 [1, 2])
        && (envOf (tSite ex)).lsew == 6) = true) := by decide
theorem witness_IntegerScalarResults : (intSamples .s64).all (fun i => (wordResult i).isNone || (isS64 i
      && fired i (tEx i 4 3 0 (sc 5) (sc 7) unused unused) (opsOf i (sc 5) (sc 7) unused none))) = true
    ∧ (sc 5).kind = .scalar ∧ (sc 5).isNull = false ∧ predScalarOk none = true ∧ predOpen none 0 = true := by decide

/-! ### Pointers -/

def pa (f : PtrField) : PtrArgs := ⟨.always, f, Target.none, Target.none, none⟩
/-- The pointer of the example of R98: space 0x1, PLACE 0x95, OFFSET 0x7_FF00. -/
def slicePtr : Nat := 0x109500000007FF00

/-- R98: the three results of the example. -/
theorem test_pointer_example : (match pgetEl .place slicePtr with | .ok r => r.1 == 0x95 | .error _ => false) = true
    ∧ (match paddEl .place slicePtr 1 with | .ok r => r.1 == 0x109600000007FF00 | .error _ => false) = true
    ∧ (match paddEl .offset slicePtr 0x100 with | .ok _ => false | .error e => e.cause == .pointerTagOverflow) = true := by decide
theorem witness_PointerInstructionsComplete : [Instr.padd (pa .offset), .pset (pa .offset), .pget (pa .offset)].all (fun i =>
      let o := opsOf i (sc slicePtr) (sc 3) unused none
      fired i (tEx i 4 3 0 (sc slicePtr) (sc 3) unused unused) o && (match ptrForm i with
        | some (f, b) => okVec 6 o.l && okVec 6 (b o) && (match f (o.l.elem 6 0) ((b o).elem 6 0) with | .ok r => r.2 == 0 | .error _ => false)
        | none => false)) = true := by decide
theorem witness_PointerFieldResults : (PtrField.place, 1, 48, 9) ∈ pointerFields ∧ (PtrField.space, 15, 60, 4) ∈ pointerFields
    ∧ (sc slicePtr).word.toNat / 2 ^ 60 = 1
    ∧ scalarPair ⟨none, sc slicePtr, sc 3, unused⟩ ∧ fired (.pset (pa .place)) (tEx (.pset (pa .place)) 4 3 0 (sc slicePtr) (sc 3) unused unused)
      ⟨none, sc slicePtr, sc 3, unused⟩ = true := by
  refine ⟨by decide, by decide, by decide, ?_, by decide⟩
  exact ⟨rfl, rfl, rfl, rfl, rfl, rfl⟩
theorem witness_PointerFieldFaults : scalarPair ⟨none, sc (2 * 2 ^ 60), sc 15, unused⟩ ∧ (sc (2 * 2 ^ 60)).word.toNat / 2 ^ 60 ∉ [0, 1, 3, 4, 6]
    ∧ (sc (3 * 2 ^ 60)).word.toNat / 2 ^ 60 ∈ [3, 6] ∧ (sc 15).word.toNat ∉ [0, 1, 3, 4, 6] := by
  refine ⟨⟨rfl, rfl, rfl, rfl, rfl, rfl⟩, by decide, by decide, by decide⟩

/-! ### Floating point -/

/-- FP64, FP32, and descriptors that name FP64 for all three formats and for the sources alone. -/
def d64 : Word := 0x888
def fpSamples : List Instr :=
  [.vfadd fa, .vfsub fa, .vfmul fa, .vfdiv fa, .vfmin fa, .vfmax fa, .vfsgn fa, .vfma fa, .vfms fa, .vfnma fa, .vfnms fa, .vfsqrt fa, .vfabs fa,
   .vfneg fa, .vfrcp fa, .vfrsq fa, .vflogb fa, .vfrnd fa, .vfeq fa, .vflt fa, .vfle fa, .vfun fa]
def fone : Nat := 0x3FF0000000000000
def ftwo : Nat := 0x4000000000000000

/-- The premises of FloatInstructionsComplete on scalars with no trap enabled. -/
def fpPremises (i : Instr) (d : Word) (l r t : Token) : Bool :=
  let ex := tEx i 4 3 d l r t unused
  let o := opsOf i l r t none
  fired i ex o && (match fpForm i with
    | some F => F.accepts (envOf (tSite ex)) o && fpTrap (envOf (tSite ex)).fe (F.flagsAt (envOf (tSite ex)) o 0) == none
    | none => false)
theorem witness_FloatInstructionsComplete : fpSamples.all (fun i => fpPremises i d64 (sc fone) (sc ftwo) (sc fone)) = true := by decide
/-- The bits of a scalar floating-point result. -/
def fpScalar (i : Instr) (d : Word) (l r t : Nat) : Option Nat :=
  let ex := tEx i 4 3 d (sc l) (sc r) (sc t) unused
  (fpForm i).map (fun F => (F.result (envOf (tSite ex)) (opsOf i (sc l) (sc r) (sc t) none)).tok.word.toNat)
/-- R85, R99: 1 + 2 = 3, 1 / 2 = 0.5, 2 · 2 + 1 = 5 with one rounding, and the square root of 4. -/
theorem test_float_results : fpScalar (.vfadd fa) d64 fone ftwo 0 = some 0x4008000000000000 ∧ fpScalar (.vfdiv fa) d64 fone ftwo 0 = some 0x3FE0000000000000
    ∧ fpScalar (.vfma fa) d64 ftwo ftwo fone = some 0x4014000000000000 ∧ fpScalar (.vfsqrt fa) d64 0x4010000000000000 0 0 = some ftwo
    ∧ fpScalar (.vfmin fa) d64 0 (2 ^ 63) 0 = some (2 ^ 63) := by decide
theorem witness_FloatTrapOnLowestElement : (let ex0 := tEx (.vfdiv fa) 4 3 d64 (sc fone) (sc 0) unused unused
    let ex : Exec := { ex0 with img := { ex0.img with fe := 0x1F } }
    let o : Operands := ⟨none, sc fone, sc 0, unused⟩
    fired (.vfdiv fa) ex o && (match fpForm (.vfdiv fa) with
      | some F => F.accepts (envOf (tSite ex)) o && liveAt o.p (F.at (envOf (tSite ex)) o) 0
          && fpTrap (envOf (tSite ex)).fe (F.flagsAt (envOf (tSite ex)) o 0) == some .fpeDivzero
      | none => false)) = true := by decide
/-- R101, on values. -/
theorem witness_MinMaxOfFloats : (FVal.nan true).isSig = true ∧ (FVal.fin false 1 0).isNan = false ∧ fLt (.fin true 1 0) (.fin false 1 0) = true := by decide

/-! ### Compressed instructions -/

def ca : CArgs := ⟨Target.none⟩
def compSamples : List Instr :=
  [.cNeg ca, .cNot ca, .cInc ca, .cDec ca, .cShl1 ca, .cShr1 ca, .cSar1 ca, .cIsz ca, .cNez ca, .cAdd ca, .cSub ca, .cAnd ca, .cOr ca, .cXor ca]
theorem witness_CompressedInstructionsComplete : compSamples.all (fun i =>
      let ex := tEx i 4 3 0 (v64 [1, 2, 3, 4]) (sc 7) unused unused
      let o := opsOf i (v64 [1, 2, 3, 4]) (sc 7) unused none
      fired i ex o && (match compForm i with
        | some (m, ops, _) => compOk (envOf (tSite ex)) m (ops o) && fits (envOf (tSite ex)).vl ((ops o).any Token.wide) (.vec (envOf (tSite ex)).lsew)
        | none => false)) = true
    ∧ [Instr.cMov ca, .cFan ca, .cVl ca, .cSb ca, .cSn ca, .cEidx ca, .cLi ⟨0, Target.none⟩, .cNull ca, .cNullv ca, .cNullm ca].all (fun i =>
      let ex := tEx i 4 3 0 (sc 9) unused unused unused
      fired i ex (opsOf i (sc 9) unused unused none) && (compConst (tSite ex) (opsOf i (sc 9) unused unused none) i).isSome) = true
    ∧ [Instr.cSext32 ca, .cZext32 ca].all (fun i => fired i (tEx i 4 3 0 (sc 9) unused unused unused) (opsOf i (sc 9) unused unused none)
        && (compExtend i).isSome && (sc 9).kind == .scalar) = true
    ∧ [Instr.cNullif ca, .cKeepif ca].all (fun i => fired i (tEx i 4 3 0 (v64 [1, 2, 3, 4]) (msk [1, 0, 1, 0]) unused unused)
        (opsOf i (v64 [1, 2, 3, 4]) (msk [1, 0, 1, 0]) unused none) && okVec 6 (v64 [1, 2, 3, 4]) && okMask (msk [1, 0, 1, 0])) = true
    ∧ [Instr.cZfill ca, .cIsnull ca].all (fun i => fired i (tEx i 4 3 0 (v64 [1, 2, 3, 4]) unused unused unused)
        (opsOf i (v64 [1, 2, 3, 4]) unused unused none)) = true := by decide
/-- R54: c.li gives COP - 0x18, and c.sar1 fills with the sign. -/
theorem test_compressed : (compConst (tSite (tEx (.cLi ⟨0, Target.none⟩) 4 3 0 unused unused unused unused)) ⟨none, unused, unused, unused⟩
      (.cLi ⟨0, Target.none⟩)).map (fun t => t.word.toNat) = some (2 ^ 64 - 8)
    ∧ (compForm (.cSar1 ca)).map (fun f => f.2.2 64 [2 ^ 64 - 2]) = some (2 ^ 64 - 1) := by decide

/-! ### Conversions and reductions -/

/-- FP64 to FP32; FP64 to E4M3 with blocks of 32 and scale base 0; E4M3 to FP32 with scales from entry 255. -/
def dCvt : Word := 0x908
def dCvtb : Word := 0x140C09
def dScaled : Word := 0xFF34090C
def cvtEx (i : Instr) (scv d : Word) (l : Token) : Exec := tEx i 2 scv d l unused unused unused

theorem witness_ConversionsComplete : (let ex := cvtEx (.vcvt fa) 3 dCvt (sc fone)
      fired (.vcvt fa) ex ⟨none, sc fone, unused, unused⟩ && descOk (envOf (tSite ex)) 0 useCvt (cvtOk (envOf (tSite ex)))
        && okVec (envOf (tSite ex)).lsew (sc fone) && fpTrap (envOf (tSite ex)).fe (cvtElem (envOf (tSite ex)) (descOf (envOf (tSite ex)) 0) 0 fone).2 == none) = true
    ∧ (let ex := cvtEx (.vcvtb fa) 2 dCvtb (sc 0x3F800000)
      fired (.vcvtb fa) ex ⟨none, sc 0x3F800000, unused, unused⟩ && descOk (envOf (tSite ex)) 0 useCvtb (cvtbOk (envOf (tSite ex)))
        && decide (scaleIndex (descOf (envOf (tSite ex)) 0) 0 < 256)) = true := by decide
theorem witness_ScaleRangeRaised : (let ex0 := tEx (.vcvt fa) 64 0 dScaled (Token.vector 3 (List.replicate 64 (some 0x38))) unused unused unused
    let env := envOf (tSite ex0)
    fired (.vcvt fa) ex0 ⟨none, Token.vector 3 (List.replicate 64 (some 0x38)), unused, unused⟩ && descOk env 0 useCvt (cvtOk env)
      && (descOf env 0).scl == 1 && fits env.vl true (.vec (fmtLw (descOf env 0).fd)) && decide (scaleIndex (descOf env 0) 31 < 256)
      && decide (256 ≤ scaleIndex (descOf env 0) 32)) = true := by decide
/-- R103: 1.0 in FP64 is 1.0 in FP32. -/
theorem test_vcvt : (cvtElem (envOf (tSite (cvtEx (.vcvt fa) 3 dCvt (sc fone)))) (Desc.ofWord dCvt) 0 fone).1 = 0x3F800000 := by decide

def redSamples : List (Instr × Word) :=
  [(.vsumO fa, d64), (.vsumT fa, d64), (.vminR fa, d64), (.vmaxR fa, d64), (.vandR fa, 0x777), (.vorR fa, 0x777)]
theorem witness_ReductionsComplete : redSamples.all (fun t => let ex := tEx t.1 2 3 t.2 (v64 [fone, ftwo]) (sc fone) unused unused
      let o : Operands := ⟨none, v64 [fone, ftwo], sc fone, unused⟩
      fired t.1 ex o && !redClosed o && (envOf (tSite ex)).fe == 0 && (match redForm t.1 with
        | some (a, ok, _) => redAccepts a ok (envOf (tSite ex)) o | none => false)) = true
    ∧ redClosed ⟨none, v64 [fone, ftwo], Token.nullScalar, unused⟩ = true := by decide
/-- The bits of a reduction's scalar. -/
def redScalar (i : Instr) (d : Word) (l : List Nat) (init : Nat) : Option Nat :=
  let ex := tEx i 2 3 d (v64 l) (sc init) unused unused
  match redForm i with
  | some (_, _, run) => (match run (envOf (tSite ex)) (Desc.ofWord d) init (participants (envOf (tSite ex)) none (v64 l)) with
    | .ok r => some r.1 | .error _ => none)
  | none => none
/-- R86, R105: 1 + 1 + 2 = 4, the least of 1, 1 and 2 is 1, and 7 AND 5 AND 6 is 4. -/
theorem test_reductions : redScalar (.vsumO fa) d64 [fone, ftwo] fone = some 0x4010000000000000 ∧ redScalar (.vminR fa) d64 [fone, ftwo] fone = some fone
    ∧ redScalar (.vandR fa) 0x777 [5, 6] 7 = some 4 := by decide

/-! ### Selection and masks -/

def pl : PlainArgs := ⟨.always, Target.none, Target.none, none⟩
def vv : Token := v64 [1, 2, 3, 4]
def mm : Token := msk [1, 0, 1, 0]
/-- An instruction whose slots hold these tokens may fire on them. -/
def firesOn (i : Instr) (l r t : Token) : Bool := fired i (tEx i 4 3 0 l r t unused) (opsOf i l r t none)

theorem witness_SelectionComplete : firesOn (.cmp ⟨.always, .lt, Target.none, Target.none, none⟩) vv (sc 3) unused = true
    ∧ firesOn (.cmpi ⟨.always, .lt, 3, Target.none, .bare⟩) vv unused unused = true ∧ firesOn (.sel pl) mm vv (sc 0) = true
    ∧ selKinds (envOf (tSite (tEx (.sel pl) 4 3 0 mm vv (sc 0) unused))) ⟨none, mm, vv, sc 0⟩ = true
    ∧ firesOn (.sel pl) (sc 1) (sc 2) (sc 3) = true
    ∧ [PermOp.gather, .up, .dn, .rev, .bc].all (fun op => firesOn (.vperm ⟨.always, op, Target.none, Target.none, none⟩) vv (sc 1) unused
        && permKinds op (envOf (tSite (tEx (.sel pl) 4 3 0 mm vv (sc 0) unused))) ⟨none, vv, sc 1, unused⟩) = true
    ∧ firesOn (.vext ⟨.always, true, Target.none, Target.none, none⟩) vv (sc 3) unused = true ∧ firesOn (.vins pl) vv (sc 3) (sc 9) = true := by decide
theorem witness_MaskInstructionsComplete : firesOn (.mlog ⟨.always, 1, Target.none, Target.none, none⟩) mm mm unused = true
    ∧ [FirstOp.idx, .sbf, .sif, .sof].all (fun op => firesOn (.mfirst ⟨.always, op, Target.none, Target.none, none⟩) mm unused unused) = true
    ∧ firesOn (.mpop pl) mm unused unused = true ∧ firesOn (.viota pl) mm unused unused = true ∧ firesOn (.vcomp pl) vv mm unused = true
    ∧ firesOn (.mrange ⟨.always, true, Target.none, Target.none, none⟩) (sc 1) (sc 3) unused = true ∧ okMask mm = true ∧ okVec 6 vv = true := by decide

/-! ### Loads, stores and atomics -/

def la (w : MemW) : LoadArgs := ⟨.always, 0, 0, w, Target.none, .bare⟩
def lx : LoadXArgs := ⟨.always, 0, 0, Target.none, .bare⟩
def sa (w : MemW) : StoreArgs := ⟨.always, 1, 0, w, 0, none⟩
def sx : StoreXArgs := ⟨.always, 1, 0, 0, none⟩
def refWord : Token := { sc (2 * 2 ^ 60 + 16) with ref := true }

theorem witness_LoadsFire : [Instr.ld (la .d), .ldff (la .d), .lds (la .d), .ldg (la .d), .ldgff (la .d), .ldk (la .d)].all (fun i =>
      let l := match i with | .ldk _ => refWord | _ => sc 0x1000
      firesOn i l (sc 8) unused && (match vecLoadForm i with
        | some F => F.kinds (envOf (tSite (tEx i 4 3 0 l (sc 8) unused unused))) (opsOf i l (sc 8) unused none) && decide (4 * (8 * wsBytes F.ws) ≤ 2048)
        | none => false)) = true
    ∧ firesOn (.ldb (la .d)) (sc 0x1000) unused unused = true ∧ firesOn (.ldm lx) (sc 0x1000) unused unused = true
    ∧ [Instr.ldx lx, .lda ⟨.always, 0, .die, Target.none, .bare⟩].all (fun i => firesOn i (sc 0x1000) unused unused && (oneLoadForm i).isSome) = true
    ∧ firesOn (.ldk (la .x)) refWord unused unused = true ∧ firesOn (.waitv lx) (sc 0x1000) (sc 5) unused = true
    ∧ firesOn (.ldref lx) (sc 0x1000) unused unused = true ∧ spaceOf (sc 0x1000).word = 0 ∧ firesOn (.ldref lx) refWord unused unused = true := by decide
/-- The parts that a probe answers, or none. -/
def probed (ex : Exec) (r : AccReq) (els : List AccEl) : Nat :=
  match (tIn tMapped ex).probe (tSite ex) r els with | .ok ps => ps.length | .error _ => 0
theorem witness_LoadsFire_heal : firesOn (.ldrefH lx) (sc 0x1000) unused unused = true
    ∧ probed (tEx (.ldrefH lx) 4 3 0 (sc 0x1000) unused unused unused) { need := { rd := true, wr := true }, w := 8, n := 8, user := true }
      [⟨0, (sc 0x1000).word, 0, 8⟩] = 1 := by decide
theorem witness_StoresBufferTheirBytes : [Instr.st (sa .d), .sts (sa .d), .stg (sa .d)].all (fun i =>
      let ex := tEx i 4 3 0 (sc 0x1000) vv (sc 8) unused
      let o := opsOf i (sc 0x1000) vv (sc 8) none
      fired i ex o && (match vecStoreForm i with
        | some F => F.kinds (envOf (tSite ex)) o && okData (wsBytes F.ws) o.r
            && probed ex (storeNeed (tSite ex) false 8) (((List.range 4).filter (storeLive F o)).map (fun e => ⟨e, baseOf o.l e, F.delta o e, 8⟩)) == 4
        | none => false)) = true
    ∧ [Instr.stx sx, .stl ⟨.always, 1, .die, 0, none⟩].all (fun i => firesOn i (sc 0x1000) (sc 7) unused && (oneStoreForm i).isSome
        && wholeScalars i ⟨none, sc 0x1000, sc 7, unused⟩ && wholeOpen i ⟨none, sc 0x1000, sc 7, unused⟩
        && !wholeOpen i ⟨none, sc 0x1000, Token.nullScalar, unused⟩) = true
    ∧ probed (tEx (.stx sx) 4 3 0 (sc 0x1000) (sc 7) unused unused) (storeNeed (tSite (tEx (.stx sx) 4 3 0 (sc 0x1000) (sc 7) unused unused)) true 8)
      [⟨0, (sc 0x1000).word, 0, 8⟩] = 1
    ∧ firesOn (.stm sx) (sc 0x1000) mm unused = true ∧ firesOn (.stref sx) (sc 0x1000) refWord unused = true
    ∧ firesOn (.stk (sa .x)) refWord (sc 7) unused = true := by decide
theorem witness_AtomicsBuffer : (let a : AtomicArgs := ⟨.always, 1, .die, .rlx, Target.none, none⟩
    [Instr.amoAdd a, .amoAnd a, .amoOr a, .amoXor a, .amoMin a, .amoMax a, .amoSwap a, .amoCas a].all (fun i =>
      let ex := tEx i 4 3 0 (sc 0x1000) (sc 7) (sc 8) unused
      let o := opsOf i (sc 0x1000) (sc 7) (sc 8) none
      fired i ex o && (match amoForm i with
        | some (_, op, three) => amoKinds (envOf (tSite ex)) o three
            && probed ex (amoNeed (tSite ex) op 8) ((amoLive (envOf (tSite ex)) o three).map (fun e => ⟨e, baseOf o.l e, 0, 8⟩)) == 1
        | none => false))) = true := by decide

/-! ### Exits, effects and requests -/

def ba : BareArgs := ⟨.always⟩
def off (d : BitVec 17) : OffArgs := ⟨.always, d⟩
def br (f : Bool) : BrArgs := ⟨.always, f, 1⟩
/-- The execution with loop level 0 active as a counted loop of three, and in supervisor mode. -/
def loopEx (ex : Exec) : Exec := { ex with user := false, img := { ex.img with lc := ex.img.lc.set 0 0xA3, lm := ex.img.lm.set 0 3 } }
def exitSamples : List Instr :=
  [.br (br false), .br (br true), .brCall (br false), .brInd ⟨.always, true⟩, .brRet ⟨.always, false⟩, .brStrip (off 0x1FFFF), .loop ⟨.always, 0, false, 1⟩,
   .loopc ⟨.always, 5, 3, 1, none⟩, .loopw ⟨.always, 5, 3, 1, none⟩, .yield ba, .rtp ba, .fin ba]
theorem witness_ExitsFire : exitSamples.all (fun i =>
      let ex := loopEx (tEx i 4 3 0 (sc 5) (sc 1) unused unused)
      let o := opsOf i (sc 5) (sc 1) unused none
      fired i ex o && wholeScalars i o && (match exitPlan (tSite ex) o i with | some (.ok _) => true | _ => false)) = true
    ∧ [Instr.loop ⟨.always, 1, false, 1⟩, .loopc ⟨.always, 5, 3, 1, none⟩].all (fun i =>
      let ex := loopEx (tEx i 4 3 0 (sc (2 ^ 48)) (sc 1) unused unused)
      let o := opsOf i (sc (2 ^ 48)) (sc 1) unused none
      fired i ex o && wholeScalars i o && (match exitPlan (tSite ex) o i with | some (.error _) => true | _ => false)) = true
    ∧ (match exitPlan (tSite (tEx (.rtp ba) 4 3 0 unused unused unused unused)) ⟨none, unused, unused, unused⟩ (.rtp ba) with
      | some (.error r) => r.cause == .protection | _ => false) = true := by decide
theorem witness_BranchOnEngineSlot : firesOn (.brEs (br false)) (sc 7) unused unused = true ∧ (sc 7).val < 8
    ∧ firesOn (.brEs (br true)) (sc 8) unused unused = true ∧ 8 ≤ (sc 8).val ∧ wholeScalars (.brEs (br true)) ⟨none, sc 8, unused, unused⟩ = true := by decide

def wholeSamples : List Instr :=
  [.waitc ⟨.always, 15, some ⟨0, 0, 2, 0⟩⟩, .trigger ba, .setrecov (off 3), .bar ⟨.always, .crew, 0, 4⟩, .csrw ⟨.always, 0x34, Target.none⟩]
theorem witness_WholeEffectsBuffer : wholeSamples.all (fun i =>
      let ex := tEx i 4 3 0 (sc 5) unused unused unused
      let o := opsOf i (sc 5) unused unused none
      fired i ex o && wholeScalars i o && (usedTokens i o).all (fun t => !t.isNull)
        && (match wholeEffect (tSite ex) o i with | some (.ok _) => true | _ => false)) = true
    ∧ [(Instr.csrw ⟨.always, 0x33, Target.none⟩, 5), (.csrw ⟨.always, 0x28, Target.none⟩, 0x60), (.esack ⟨.always, 0⟩, 8), (.esack ⟨.always, 0⟩, 7)].all (fun t =>
      let ex := tEx t.1 4 3 0 (sc t.2) unused unused unused
      let o := opsOf t.1 (sc t.2) unused unused none
      fired t.1 ex o && (match wholeEffect (tSite ex) o t.1 with | some (.error _) => true | _ => false)) = true
    ∧ firesOn (.fence ⟨.always, 3, .die, none⟩) unused unused unused = true
    ∧ fired (.trigger ⟨.onTrue⟩) (tEx (.trigger ⟨.onTrue⟩) 4 3 0 unused unused unused (sc 0)) ⟨some (true, sc 0), unused, unused, unused⟩ = true
    ∧ predOpen (some (true, sc 0)) 0 = false := by decide
/-- An esack of a slot that shows DONE. -/
theorem witness_WholeEffectsBuffer_esack : (let ex := tEx (.esack ⟨.always, 0⟩) 4 3 0 (sc 2) unused unused unused
    let st : Site := ⟨tFiring, { tCtx ex with esAt := (tCtx ex).esAt.set 2 .done }, ex⟩
    (match wholeEffect st ⟨none, sc 2, unused, unused⟩ (.esack ⟨.always, 0⟩) with | some (.ok _) => true | _ => false) = true) := by decide
def csrArgs (n : BitVec 12) : CsrrArgs := ⟨.always, n, Target.none, none⟩
theorem witness_CsrReads : firesOn (.csrr (csrArgs 2)) unused unused unused = true ∧ firesOn (.csrr (csrArgs 0x40)) unused unused unused = true
    ∧ firesOn (.csrr (csrArgs 0x33)) unused unused unused = true ∧ csrSup 0x33 = true ∧ csrSup 2 = false
    ∧ (tEx (.csrr (csrArgs 0x33)) 4 3 0 unused unused unused unused).user = true := by decide

def cm : CmdArgs := ⟨.always, 1, Target.none⟩
def cmdSamples : List Instr :=
  [.cpy ⟨.always, 0, 64, Target.none⟩, .cpyRec cm, .cpy2 cm, .cpy3 cm, .cpyg cm, .cpyr cm, .cpyx cm, .meshInit cm, .meshAdapt cm, .nbrStream cm,
   .colBuild cm, .meshFree cm, .mcx cm, .lbCut cm, .lbMigrate cm, .ghostSync cm, .rgLoad cm, .hpEpoch cm]
theorem witness_CommandsBuffer : cmdSamples.all (fun i =>
      let ex := { tEx i 4 3 0 (sc 0x1000) (sc 0x2000) unused unused with user := false }
      let o := opsOf i (sc 0x1000) (sc 0x2000) unused none
      fired i ex o && wholeScalars i o && wholeOpen i o && (cmdSlot (tSite ex)).isSome
        && (match cmdForm (tIn tMapped ex) (tSite ex) o i with | some (_, _, _, .ok _) => true | _ => false)) = true
    ∧ (let i : Instr := .hpRelocate cm
      let ex := tEx i 4 3 0 refWord (sc 0x2000) unused unused
      let o := opsOf i refWord (sc 0x2000) unused none
      fired i ex o && wholeScalars i o && wholeOpen i o && (match cmdForm (tIn tMapped ex) (tSite ex) o i with | some (_, _, _, .ok _) => true | _ => false)) = true
    ∧ (let ex := tEx (.cpyRec cm) 4 3 0 (sc 0x1001) unused unused unused
      match cmdForm (tIn tMapped ex) (tSite ex) ⟨none, sc 0x1001, unused, unused⟩ (.cpyRec cm) with | some (_, _, _, .error _) => true | _ => false) = true
    ∧ (let ex := { tEx (.cpyRec cm) 4 3 0 (sc 0x1000) unused unused unused with bufs := [] }
      let full : Site := ⟨tFiring, { tCtx ex with esAt := Vector.replicate 8 .busy }, ex⟩
      cmdSlot full) = none
    ∧ wholeOpen (.cpyRec cm) ⟨none, Token.nullScalar, unused, unused⟩ = false := by decide

def opSamples : List (Instr × Token × Token) :=
  [(.rtDecl ba, sc 0x1000, unused), (.rtPush ⟨.always, 0⟩, sc (2 ^ 60), sc 9), (.rtTake ⟨.always, 0, false, Target.none⟩, sc 255, unused),
   (.rtDone ba, sc (2 ^ 60), sc 2), (.rtStat ⟨.always, true, Target.none⟩, sc 255, unused), (.rtDrain ⟨.always, 3, Target.none⟩, unused, unused),
   (.rtSeed ba, sc (2 ^ 32 - 1), unused), (.meshOpen ⟨.always, Target.none⟩, sc 1, unused), (.meshClose ba, sc 1, unused)]
theorem witness_UnitRequestsBuffer : opSamples.all (fun t => let ex := tEx t.1 4 3 0 t.2.1 t.2.2 unused unused
      let o := opsOf t.1 t.2.1 t.2.2 unused none
      fired t.1 ex o && wholeScalars t.1 o && wholeOpen t.1 o && (match opForm (tSite ex) o t.1 with | some (.ok _) => true | _ => false)) = true
    ∧ [(Instr.rtDecl ba, sc 0x1001, unused), (.rtPush ⟨.always, 0⟩, sc 0, sc 9), (.rtTake ⟨.always, 0, false, Target.none⟩, sc 256, unused), (.rtDone ba, sc (2 ^ 60), sc 3),
       (.rtStat ⟨.always, true, Target.none⟩, sc 256, unused), (.rtSeed ba, sc (2 ^ 32), unused)].all (fun (t : Instr × Token × Token) =>
      match opForm (tSite (tEx t.1 4 3 0 t.2.1 t.2.2 unused unused)) (opsOf t.1 t.2.1 t.2.2 unused none) t.1 with | some (.error _) => true | _ => false) = true := by
  decide

def cardPtr : Nat := 0x0C0 * 2 ^ 52 + 0x2000
/-- How many parts a probe of these words answers. -/
def probedWords (i : Instr) (l r : Token) (ps : List Nat) : Nat :=
  probed (tEx i 4 3 0 l r unused unused) (cardNeeds (tSite (tEx i 4 3 0 l r unused unused))) (ps.map (fun p => ⟨0, BitVec.ofNat 64 p, 0, 8⟩))
theorem witness_CardInstructionsBuffer : [(Instr.cardPost ba, sc cardPtr, sc 5), (.cardSig ba, sc cardPtr, unused),
      (.futWait ⟨.always, Target.none⟩, sc 0x1000, sc cardPtr), (.futSet ⟨.always, false, Target.none⟩, sc 0x1000, sc 9), (.jobq ⟨.always, Target.none⟩, sc 255, unused)].all
      (fun (t : Instr × Token × Token) => firesOn t.1 t.2.1 t.2.2 unused && wholeScalars t.1 (opsOf t.1 t.2.1 t.2.2 unused none)
        && wholeOpen t.1 (opsOf t.1 t.2.1 t.2.2 unused none)) = true
    ∧ cardForm (sc cardPtr).word = true ∧ selPeer 5 = false ∧ futForm (sc 0x1000).word = true ∧ cardForm (quarterCard (sc cardPtr).word) = true
    ∧ probedWords (.cardPost ba) (sc cardPtr) (sc 5) [cardPtr] = 1 ∧ probedWords (.futWait ⟨.always, Target.none⟩) (sc 0x1000) (sc cardPtr) [0x1000, cardPtr] = 2 := by decide
def heapPtr : Nat := 2 * 2 ^ 60 + 16
theorem witness_HeapInstructionsBuffer : [Instr.pin ⟨.always, Target.none⟩, .unpin ba, .refeq ⟨.always, Target.none⟩].all (fun i =>
      firesOn i refWord refWord unused && wholeScalars i (opsOf i refWord refWord unused none) && wholeOpen i (opsOf i refWord refWord unused none)) = true
    ∧ (match tMapped.probeRef true refWord.word with | .ok hs => hs.length | .error _ => 0) = 1
    ∧ firesOn (.hpMake ⟨.always, 4⟩) (sc 0x1000) (sc heapPtr) unused = true
    ∧ wholeScalars (.hpMake ⟨.always, 4⟩) (opsOf (.hpMake ⟨.always, 4⟩) (sc 0x1000) (sc heapPtr) unused none) = true
    ∧ spaceOf (sc heapPtr).word = 2 ∧ refColour (sc heapPtr).word = 0
    ∧ (match tMapped.heapPlace { need := { wr := true }, w := 16, n := 16, user := true } (refHint (sc heapPtr).word) (refHa (sc heapPtr).word) with
      | .ok _ => true | .error _ => false) = true
    ∧ probedWords (.hpMake ⟨.always, 4⟩) (sc 0x1000) (sc heapPtr) [0x1000] = 1 := by decide

/-! ### Matrix instructions and strip queries -/

def ta (p : Bool) : TileArgs := ⟨.always, 0, p⟩
def mv (p c : Bool) : TileMoveArgs := ⟨.always, 0, p, c, 1, Target.none⟩
def oa : OpaArgs := ⟨.always, 0, 0, false⟩
def ga : GemmArgs := ⟨.always, 0, 0, .ptr, .ptr, 0, 0, 0⟩
def bl : BlockArgs := ⟨.always, 0, 0, 0, 2, 0, false, false⟩
def b1 : BlockArgs := ⟨.always, 0, 0, 0, 0, 0, false, false⟩
/-- The operands with which a sample fires, and the sample's tokens. -/
def mxSamples : List (Instr × Token × Token) :=
  [(.tz (ta false), unused, unused), (.ldt (ta true), sc 0x1000, sc 256), (.stt (ta false), sc 0x1000, sc 128), (.scld ⟨.always, 0, 3, .s9⟩, sc 0x1000, unused),
   (.opa oa, v64 [fone, ftwo], v64 [ftwo, fone]), (.mvvt (mv true false), v64 [1, 2], unused), (.mvtv (mv true true), unused, unused),
   (.gemmT ga, sc 0x1000, sc 0x2000), (.gemmTPair ga, sc 0x1000, sc 0x2000), (.cholT b1, unused, unused), (.trsmT bl, unused, unused),
   (.syrkT bl, unused, unused), (.qrT bl, unused, unused)]
def mxEx (t : Instr × Token × Token) : Exec := tEx t.1 2 3 d64 t.2.1 t.2.2 unused unused
/-- The same pitch once the instruction at its index 0 has been passed over, and higher ones applied. -/
def passEx (ex : Exec) : Exec := { ex with mx := { ex.mx with passed := 1, applied := 0b110 } }
theorem witness_MatrixInstructionsFire : mxSamples.all (fun t => fired t.1 (mxEx t) (opsOf t.1 t.2.1 t.2.2 unused none)
        && mxAccepts (tSite (mxEx t)) (opsOf t.1 t.2.1 t.2.2 unused none) t.1 == some true) = true
    ∧ mxSamples.all (fun t => fired t.1 (passEx (mxEx t)) (opsOf t.1 t.2.1 t.2.2 unused none)) = true
    ∧ (passEx (mxEx (.tz (ta false), unused, unused))).mx.passed.getLsbD 0 = true
    ∧ (passEx (mxEx (.tz (ta false), unused, unused))).mx.applied.getLsbD 1 = true := by decide

/-- The pitch once its instruction has fired. -/
def mxFired (t : Instr × Token × Token) : Exec := { mxEx t with fired := 1 }
def due (ex : Exec) (k : Nat) (i : Instr) (v : Operands) : Bool := ex.mxDue k && ex.instr? k == some i && ex.operands k (slotsOf i) == some v
theorem due_of {ex : Exec} {k : Nat} {i : Instr} {v : Operands} (s : State) (h : due ex k i v = true) : DueMatrix (tIn s ex) 0 k (tCtx ex) ex i v := by
  simp only [due, Bool.and_eq_true, beq_iff_eq] at h
  exact ⟨⟨rfl, rfl, rfl⟩, h.1.1, h.1.2, h.2⟩
theorem witness_MatrixApplied : mxSamples.all (fun t => due (mxFired t) 0 t.1 (opsOf t.1 t.2.1 t.2.2 unused none)) = true
    ∧ wholeOpen (.tz (ta true)) ⟨none, unused, unused, unused⟩ = true
    ∧ (State.reset.noSlot 0 0 = false) ∧ isMatrix (.tz ⟨.onTrue, 0, false⟩) = true
    ∧ wholeOpen (.tz ⟨.onTrue, 0, false⟩) ⟨some (true, sc 0), unused, unused, unused⟩ = false
    ∧ due { tEx (.tz ⟨.onTrue, 0, false⟩) 2 3 d64 unused unused unused (sc 0) with fired := 1 } 0 (.tz ⟨.onTrue, 0, false⟩) ⟨some (true, sc 0), unused, unused, unused⟩ = true
    ∧ due { tEx (.tz ⟨.onTrue, 0, true⟩) 2 3 d64 unused unused unused (sc 1) with fired := 1 } 0 (.tz ⟨.onTrue, 0, true⟩) ⟨some (true, sc 1), unused, unused, unused⟩ = true := by
  decide
/-- How many bytes the pieces of a matrix instruction give, where they can be read at once. -/
def readable (s : State) (x : Ctx) (ex : Exec) (rs : List MxRegion) : Option Nat :=
  match s.mxCheck x ex.user false rs with
  | .ok ps => if s.mxClear x ex ps && !s.mxHeld x ps && (s.mxBad ps).isNone then some (ps.flatMap (fun p => memReadN s.mem p.place.key p.n)).length else none
  | .error _ => none
/-- The rows that ldt asks for are mapped, clear and free of poison. -/
theorem witness_MatrixApplied_ldt : (let t := (Instr.ldt (ta false), sc 0x1000, sc 128)
    let v := opsOf t.1 t.2.1 t.2.2 unused none
    let s := tIn tMapped (mxFired t)
    readable s (tCtx (mxFired t)) (mxFired t) (tileRows (ta false) v) == some 4096) = true := by decide
/-- R199: tz zeroes its window. -/
theorem test_tz : (match exec (.matrixApply 0 0) (tIn State.reset { mxFired (.tz (ta false), unused, unused) with
        mx := { (mxFired (.tz (ta false), unused, unused)).mx with tiles := [(0, 5), (1, 6)] } }) with
      | .next t => (t.ctxs.map (fun x => match x.cur with
          | some e => (t.tile x e 0 == 0) && (t.tile x e 1 == 6) | none => false)) == [true] | _ => false) = true := by decide

theorem witness_TileZeroed : due (mxFired (.tz (ta true), unused, unused)) 0 (.tz (ta true)) ⟨none, unused, unused, unused⟩ = true
    ∧ (match exec (.matrixApply 0 0) (tIn State.reset (mxFired (.tz (ta true), unused, unused))) with | .next _ => true | _ => false) = true := by decide

/-- A sequence of one step that a strand of slot 0 holds. -/
def stepEx (t : Instr × Token × Token) : Exec := { mxFired t with mx := { (mxFired t).mx with seq := some ⟨0, 0, 1, [], [], []⟩ } }
theorem granted_of {ex : Exec} {i : Instr} {v : Operands} {q : MxSeq} (s : State) (hq : ex.mx.seq = some q)
    (hg : (tIn s ex).granted (tCtx ex) = true) (h : (ex.instr? q.idx == some i && ex.operands q.idx (slotsOf i) == some v) = true) :
    GrantedStep (tIn s ex) 0 (tCtx ex) ex q i v := by
  simp only [Bool.and_eq_true, beq_iff_eq] at h
  exact ⟨⟨rfl, rfl, rfl⟩, hq, hg, h.1, h.2⟩
theorem witness_MatrixSteps : [(Instr.opa oa, v64 [fone, ftwo], v64 [ftwo, fone]), (.gemmT ga, sc 0x1000, sc 0x2000), (.gemmT ga, sc 0x1001, sc 0x2000),
      (.cholT b1, unused, unused), (.syrkT bl, unused, unused)].all (fun (t : Instr × Token × Token) =>
        (tIn tMapped (stepEx t)).granted (tCtx (stepEx t)) && (stepEx t).instr? 0 == some t.1
          && (stepEx t).operands 0 (slotsOf t.1) == some (opsOf t.1 t.2.1 t.2.2 unused none)) = true := by decide
/-- A step of opa whose left lanes are all null meets no fault. -/
theorem witness_MatrixSteps_opa (fe : Nat) (d : Desc) (ds : Nat) (neg : Bool) (scale : Nat → Nat) (k b : Nat) (bs : List (Option Nat)) (acc : List Nat) :
    mxStep fe d ds neg scale k b (opaLanes 2 none (Token.vector 6 [none, none])) bs acc = .ok ⟨acc, 0, none⟩ := by
  have h : (opaLanes 2 none (Token.vector 6 [none, none])).all (·.isNone) = true := by decide
  simp [mxStep, h]
/-- R205: an FP64 element gains the product of its row of A and its column of B, 2 · 2 + 1 = 5, and 1 - 2 · 2 = -3 when negated. -/
theorem test_opa_cell : (mxCell (Desc.ofWord d64) false (laneVals 8 false 1 ftwo) (laneVals 8 false 1 ftwo) fone).1 = 0x4014000000000000
    ∧ (mxCell (Desc.ofWord d64) true (laneVals 8 false 1 ftwo) (laneVals 8 false 1 ftwo) fone).1 = 0xC008000000000000 := by decide
theorem witness_MatrixSteps_stop : (let t := (Instr.gemmT ga, sc 0x1001, sc 0x2000)
    (match ((tIn tMapped (stepEx t)).gemmStep (tCtx (stepEx t)) (stepEx t) ⟨0, 0, 1, [], [], []⟩ ga (opsOf t.1 t.2.1 t.2.2 unused none) none).1 with
      | .bad _ => true | _ => false)) = true
    ∧ (match (tIn State.reset (stepEx (.cholT b1, unused, unused))).solverStep (tCtx (stepEx (.cholT b1, unused, unused))) (stepEx (.cholT b1, unused, unused))
        ⟨0, 0, 1, [], [], []⟩ (.cholT b1) b1 with | .wait => false | _ => true) = true := by decide

/-- A pitch whose instruction 1 has fired behind an mvvt at index 0 that has no operand. -/
def behindEx : Exec :=
  { mxFired (.tz (ta false), unused, unused) with
      code := [(0, 0, encode (.mvvt (mv false false))), (1, 4, encode (.tz (ta false)))], toks := [], fired := 2 }
theorem witness_MatrixPassedOver : behindEx.canFire = false ∧ behindEx.loads = [] ∧ behindEx.mx.seq = none ∧ behindEx.mxBusy = true
    ∧ behindEx.matrices.all (fun t => !behindEx.mxDue t.1) = true ∧ behindEx.matrices.map (·.1) = [0, 1] ∧ behindEx.done 0 = false
    ∧ behindEx.mxPast 0 = false := by decide
theorem witness_PairTimerExpires : (let p : PairCh := ⟨0, .half, [⟨0, true, 1, 0, 0, 0, false⟩], 0, [], [], ⟨0, true, 1, 0, 0, 0, false⟩, []⟩
    let s := { State.reset with now := 131072, pairs := [p] }
    s.pair? 0 = some p ∧ p.stage = .half ∧ s.pairLate p = true) := by decide
theorem witness_StripQueriesFire : [(Instr.nbrLd ⟨.always, 5, Target.none⟩), .nbrLd2 ⟨.always, 0, true, Target.none⟩].all (fun i =>
      let ex := tEx i 2 3 0 (sc 0x1000) (v64 [7, 8]) unused unused
      fired i ex ⟨none, sc 0x1000, v64 [7, 8], unused⟩ && okScalar (sc 0x1000) && okVec 6 (v64 [7, 8])) = true
    ∧ [Token.vector 6 [none], v64 [0x1000]].all (fun l =>
      let ex := tEx (.vsaddCol ⟨.always, 0⟩) 1 3 d64 l (v64 [fone]) unused unused
      fired (.vsaddCol ⟨.always, 0⟩) ex ⟨none, l, v64 [fone], unused⟩ && l.wide && okBase l && okVec 6 (v64 [fone])
        && descOk (envOf (tSite ex)) 0 useTwo vsaddDesc && (envOf (tSite ex)).lsew == 6
        && l.nullAt 0 == (l != v64 [0x1000])) = true
    ∧ (match tMapped.checkElem [] { need := { rd := true, wr := true }, w := 8, n := 8, user := true } 0 (baseOf (v64 [0x1000]) 0) 0 with
      | .ok [_] => true | _ => false) = true := by decide

/-! ### The life of a pitch -/

/-- A machine with one strand. -/
def one (s : State) (x : Ctx) : State := { s with ctxs := [x], nextId := 8 }
/-- The strand between two pitches, its next pitch at an address. -/
def idleCtx (pc : Word) : Ctx := { Ctx.initial 0 0 0 .active .none 0 0 [] [] [] 1 0 with next := some pc }
/-- The worked pitch with LKIND 1 (bit 9 of header word 0), and a strand whose loop level 0 is counted and at position `lp`. -/
def loopPitch : State := tMapped.store 0 ((pitchBytes.set 5 0x0A).map (fun b => (BitVec.ofNat 8 b, 255)))
def loopCtx (lp : BitVec 48) : Ctx := { idleCtx 0 with lc := (idleCtx 0).lc.set 0 0xA3, lm := (idleCtx 0).lm.set 0 3, lp := (idleCtx 0).lp.set 0 lp }
/-- What the entry conditions of a strand answer: how the head decodes, whether its loop runs it and whether the rest decodes. -/
def entry (s : State) (x0 : Ctx) (pc : Word) : Bool × Option Bool × Bool :=
  match (s.enter x0 pc).ctx? 0 with
  | none => (false, none, false)
  | some x => match (s.enter x0 pc).decodeHead ((s.enter x0 pc).decMode x) pc with
    | .error f => (s.entryDue x0 && !f.recov, none, false)
    | .ok (lines, h, content, at1, _, _) => (s.entryDue x0, (match x.loopRuns pc h with | .ok b => some b | .error _ => none),
        (match decodeRest ((s.enter x0 pc).decMode x) pc lines h content at1 with | .ok p => !x.readsPending p.hdr | .error _ => false))
theorem witness_PitchEntered : (one pitchState (idleCtx 0)).ctx? 0 = some (idleCtx 0) ∧ (idleCtx 0).next = some 0 ∧ (idleCtx 0).charged = []
    ∧ entry (one pitchState (idleCtx 0)) (idleCtx 0) 0 = (true, some true, true) := ⟨rfl, rfl, rfl, by decide⟩
theorem witness_LoopPitchSkipped : (one loopPitch (loopCtx 1)).ctx? 0 = some (loopCtx 1)
    ∧ (entry (one loopPitch (loopCtx 1)) (loopCtx 1) 0).2.1 = some false ∧ (entry (one loopPitch (loopCtx 0)) (loopCtx 0) 0).2.1 = some true :=
  ⟨rfl, by decide, by decide⟩
/-- The zeros at 0x80 are no pitch start. -/
theorem witness_EntryFaultDiscards : (one pitchState (idleCtx 0x80)).ctx? 0 = some (idleCtx 0x80)
    ∧ entry (one pitchState (idleCtx 0x80)) (idleCtx 0x80) 0x80 = (true, none, false) ∧ (idleCtx 0).fr = 0 ∧ (idleCtx 0).intrap = false :=
  ⟨rfl, by decide, rfl, rfl⟩

/-- A pitch whose branch has been taken. -/
def brEx : Exec := { tEx (.br (br false)) 4 3 0 unused unused unused unused with fired := 1, taken := [(0, .goto 0)] }
theorem witness_SpeculationStarts : brEx.decided = false ∧ brEx.endsSpec = false ∧ (tCtx brEx).spec = none ∧ (tCtx brEx).pend = [] ∧ (tCtx brEx).charged = []
    ∧ ((tCtx brEx).afterPitch brEx (.goto 0)).1.next = some 0
    ∧ (match ({ tIn pitchState brEx with free := 1 } : State).decodePitch ((tIn pitchState brEx).decMode (tCtx brEx)) 0 with | .ok p => p.hdr.lkind == 0 | .error _ => false) = true :=
  ⟨rfl, by decide, rfl, rfl, rfl, rfl, by decide⟩

/-- A pitch whose plain load of `n` words waits for its data. -/
def loadRec (n : Nat) : LoadRec :=
  ⟨0, { w := 8 }, true, 0, 0, .plain, 8, .vec, 0, (List.range n).map (fun e => ⟨e, 0x1000, 8 * (e : Int), 8, some ⟨0x1000 + 8 * e, none, none⟩, none⟩), true⟩
def loadEx (n : Nat) : Exec := { tEx (.ld (la .d)) n 3 0 (sc 0x1000) unused unused unused with fired := 1, loads := [loadRec n] }
def loadMsg (r : Resp) : Msg := ⟨3, .ctx 0, 0, .load 7 0 [⟨0, 0, 8⟩] 0x1000 ⟨0x1000, none, none⟩ 8 false none, some r, 3, 0, none⟩
def loadIn (n : Nat) (r : Resp) : State := { tIn State.reset (loadEx n) with net := [loadMsg r] }
theorem plain_of (n : Nat) (r : Resp) : PlainResponse (loadIn n r) 3 (loadMsg r) 0 (tCtx (loadEx n)) (loadEx n) (loadRec n) :=
  ⟨rfl, rfl, rfl, rfl, rfl, ⟨[⟨0, 0, 8⟩], 0x1000, ⟨0x1000, none, none⟩, 8, false, none, rfl⟩, rfl, rfl⟩
def eight : List Byte := [1, 2, 3, 4, 5, 6, 7, 8]
theorem witness_LoadResponseDelivers : [1, 2].all (fun n =>
      ((loadRec n).fill (loadMsg (.data eight)).body 0 (((loadIn n (.data eight)).dropMsg 3).respBytes (loadEx n) (loadRec n) (loadMsg (.data eight)).body eight)).complete == (n == 1)) = true
    ∧ (loadMsg (.data eight)).body.loadKey = some (7, 0, 0) := by decide
theorem witness_LoadResponseFaults : (loadMsg (.err .dataPoison 0)).resp = some (.err .dataPoison 0)
    ∧ (loadIn 1 (.err .dataPoison 0)).lowerOut (loadMsg (.err .dataPoison 0)) = false := ⟨rfl, by decide⟩

/-- A watch of the word at 0x1000 for a value other than X, seen once. -/
def watchMsg (x : Word) : Msg := ⟨3, .ctx 0, 0, .watch 7 0 ⟨0x1000, none, none⟩ x 100 true, none, 3, 0, none⟩
def watchIn (x : Word) : State := { tAt (tEx (.waitv lx) 4 3 0 (sc 0x1000) (sc 5) unused unused) with net := [watchMsg x], now := 100 }
theorem witness_WatchedWordReturns : (watchIn 5).msg? 3 = some (watchMsg 5) ∧ ((watchIn 5).watchReady (watchMsg 5)).isSome = true
    ∧ (watchIn 0).msg? 3 = some (watchMsg 0) ∧ (watchIn 0).watchReady (watchMsg 0) = none ∧ 100 ≤ (watchIn 0).ac16 (vectorIsland (((watchIn 0).srcCore (watchMsg 0)).getD 0)) := by decide
theorem witness_WaitcEnds : (let x := { idleCtx 0 with waits := [.counts 15 0 0 0 0 true] }
    (one State.reset x).ctx? 0 = some x ∧ (one State.reset x).waitCounts x 15 = (0, 0, 0, 0)) := ⟨rfl, by decide⟩

/-- The pitch at its end. -/
theorem witness_QuiescenceDecidesBelay : brEx.decided = false ∧ brEx.canFire = false ∧ brEx.mxBusy = false ∧ brEx.loads = [] ∧ brEx.faults = []
    ∧ brEx.multi = false ∧ brEx.slotsFull = true ∧ (tCtx brEx).noProgress brEx (.goto 0) = none := by decide
def flt (c : Cause) (r : Bool) : FaultRec := ⟨c, 0x1000, 0, none, some 0, r⟩
theorem witness_QuiescenceReports : 2 ≤ ({ brEx with taken := [(0, .fall), (1, .fall)] }).taken.length
    ∧ (let ex := { brEx with faults := [flt .transNotPresent true, flt .descFormat false] }
      flt .descFormat false ∈ ex.faults ∧ (flt .descFormat false).recov = false ∧ (flt .descFormat false).idx = some 0
        ∧ ∀ g ∈ ex.faults, g.recov = false → g = flt .descFormat false) := by decide
/-- A strand with a trap entry and a frame, in a pitch that has faulted. -/
def faultEx (r : Bool) : Exec := { brEx with taken := [], fired := 1, faults := [flt (if r then .transNotPresent else .descFormat) r] }
def trapCtx (te fr : Word) (intrap r : Bool) : Ctx := { tCtx (faultEx r) with te := te, frame := 0x10000, fr := fr, intrap := intrap }
def trapIn (te fr : Word) (intrap r : Bool) : State := { tMapped with ctxs := [trapCtx te fr intrap r], nextId := 8 }
theorem quiet_of (te fr : Word) (intrap r : Bool) : Quiet (trapIn te fr intrap r) 0 (trapCtx te fr intrap r) (faultEx r) :=
  ⟨⟨rfl, rfl, rfl⟩, rfl, by cases r <;> decide, by cases r <;> decide, rfl⟩
theorem witness_RecoverableTrapTaken : (trapCtx 0x80 0 false true).pitchEnd (faultEx true) = some (flt .transNotPresent true)
    ∧ (trapIn 0x80 0 false true).pairs = [] ∧ (match (trapIn 0x80 0 false true).framePages 0x10000 { wr := true } 16 0 with | .ok l => l.length | .error _ => 0) = 16 := by
  decide
theorem witness_DoubleFaultRetires : (trapCtx 0x80 0 true true).pitchEnd (faultEx true) = some (flt .transNotPresent true)
    ∧ (flt .transNotPresent true).recov = true ∧ (trapCtx 0x80 0 true true).intrap = true := by decide
theorem witness_FatalFaultDiscards : (trapCtx 0x80 0x100 false false).pitchEnd (faultEx false) = some (flt .descFormat false)
    ∧ (trapCtx 0 0 false true).pitchEnd (faultEx true) = some (flt .transNotPresent true) ∧ (trapCtx 0 0 false true).te = 0 := by decide

/-- A pitch that will belay, with what it has buffered. -/
def doneEx (fx : ExitFx) (b : List (Nat × Effect)) : Exec := { brEx with taken := [(0, fx)], decided := true, bufs := b }
theorem witness_BelayCommitsRegisters : PlainBelay (tIn State.reset (doneEx .fall [])) 0 (tCtx (doneEx .fall [])) (doneEx .fall []) 0 .fall :=
  ⟨⟨rfl, rfl, rfl⟩, rfl, rfl, rfl, rfl, rfl, rfl, rfl, rfl, rfl⟩
def stEl : StElem := ⟨0, 0x1000, ⟨0x1000, none, none⟩, [(7, 255)]⟩
theorem witness_BelayReleasesStore : (let ex := doneEx (.goto 0x80) [(1, .store 1 0 none [stEl])]
    Running (tIn State.reset ex) 0 (tCtx ex) ex ∧ ex.decided = true ∧ ex.taken = [(0, .goto 0x80)] ∧ ex.reserved = [] ∧ ex.mx.tiles = []
      ∧ ex.mx.stt = [] ∧ ex.mx.scale = [] ∧ (tCtx ex).pend = [] ∧ (tCtx ex).spec = none) := ⟨⟨rfl, rfl, rfl⟩, rfl, rfl, rfl, rfl, rfl, rfl, rfl, rfl⟩
theorem witness_ExitEffects : ({ brEx with img := { brEx.img with vl := 4 } }).ffmin.getD 4 < (10 : BitVec 48).toNat
    ∧ (loopEx brEx).img.lp[0].toNat + 1 < 2 ^ 48 := by decide

/-- An atomic whose old value a write slot waits for. -/
def amoMsg : Msg := ⟨3, .ctx 0, 0, .atomic 0 .add 8 ⟨0x1000, none, none⟩ 1 0 .die .rlx 0x1000, some (.val (some 9)), 3, 0, none⟩
theorem witness_AtomicResponseFillsSlots : (let x := { idleCtx 0 with pend := [⟨[(3, 0, [5])], [], [], 4, 6, []⟩] }
    let s := { one State.reset x with net := [amoMsg] }
    s.msg? 3 = some amoMsg ∧ s.ctx? 0 = some x ∧ ordAcquires .rlx = false) := ⟨rfl, rfl, rfl⟩
def opMsg (r : OpReq) (a : Option Resp) : Msg := ⟨3, .ctx 0, 15, .op r ⟨0, 0, 0, 0, true, [], 0⟩, a, 3, 0, none⟩
theorem witness_CommandResultFillsSlots : (let s (r : OpReq) (a : Option Resp) := { one State.reset (idleCtx 0) with net := [opMsg r a] }
    (s (.pin 16) (some (.val (some 9)))).msg? 3 = some (opMsg (.pin 16) (some (.val (some 9))))
      ∧ (s (.jobq 1) none).msg? 3 = some (opMsg (.jobq 1) none) ∧ (s (.jobq 1) none).eligible (opMsg (.jobq 1) none) = true
      ∧ (s (.pin 16) (some (.err .refColour 0))).msg? 3 = some (opMsg (.pin 16) (some (.err .refColour 0)))) := by decide
theorem witness_StoreErrorReported : (let m : Msg := ⟨3, .ctx 0, 0, .store ⟨0x1000, none, none⟩ [(7, 255)] none 0x1000, some (.err .dataPoison 0), 3, 0, none⟩
    let s := { one State.reset (idleCtx 0) with net := [m] }
    s.msg? 3 = some m ∧ s.ctx? 0 = some (idleCtx 0)) := ⟨rfl, rfl⟩
theorem witness_StrandRetires : (let x := { idleCtx 0 with retiring := some false, next := none }
    (one State.reset x).ctx? 0 = some x ∧ x.retiring = some false ∧ EsState.busy ∉ x.es.toList ∧ (∀ m ∈ (one State.reset x).net, (one State.reset x).stillOut x m = false)
      ∧ x.place = .active ∧ x.job = .none) := ⟨rfl, rfl, by decide, by decide, rfl, rfl⟩

/-! ### Contexts, spills and fills -/

/-- A context in the bank beside slot 0, and one in the slot that waits. -/
def bankCtx : Ctx := { idleCtx 0 with id := 1, place := .bank }
def slotCtx : Ctx := { idleCtx 0 with waits := [.counts 15 0 0 0 0 true] }
theorem witness_SlotSwaps : (let s := { State.reset with ctxs := [slotCtx, bankCtx] }
      s.inSlot 0 0 = some slotCtx ∧ s.inBank 0 0 = some bankCtx ∧ s.ctx? 0 = some slotCtx ∧ s.ctx? 1 = some bankCtx)
    ∧ bankCtx.place = .bank ∧ { State.reset with ctxs := [slotCtx, bankCtx] }.selected 0 0 = none ∧ slotCtx.id ≠ bankCtx.id
    ∧ { State.reset with ctxs := [slotCtx, bankCtx] }.ready? bankCtx = true ∧ { State.reset with ctxs := [slotCtx, bankCtx] }.blocked slotCtx = true
    ∧ bankCtx.refill = false ∧ { State.reset with ctxs := [bankCtx] }.inSlot 0 0 = none :=
  ⟨⟨rfl, rfl, rfl, rfl⟩, rfl, rfl, by decide, by decide, by decide, rfl, by decide⟩
theorem witness_QuantumEnds : [60000, 0].all (fun t =>
    let s := { State.reset with ctxs := [{ slotCtx with activeSince := t }, bankCtx], now := 100000 }
    decide ((s.core 0).quantumAt ≤ s.now) && (s.inSlot 0 0).map (·.activeSince) == some t && s.inBank 0 0 == some bankCtx && s.ready? bankCtx
      && decide (bankCtx.place = .bank) && decide (bankCtx.pri ≤ slotCtx.pri) && decide ((s.ctxs.map (·.id)).Nodup)
      && (List.range 8).all (fun k => k == 0 || (s.inSlot 0 k).isNone)) = true := by decide
/-- A core without a free position, whose queue holds a card of priority 0; the context of id 15 in a bank has priority 3. -/
def fullCore : State :=
  let active : List Ctx := (List.range 8).map (fun k => { idleCtx 0 with id := k, slot := k })
  let banked : List Ctx := (List.range 8).map (fun k => { bankCtx with id := 8 + k, slot := k, pri := (if k = 7 then 3 else 0), offered := true })
  State.setCore { State.reset with ctxs := active ++ banked } 0
    { CoreSt.reset with queue := [⟨0x0C00000000002000, 0, 0, none, 0⟩] }
theorem witness_SpillRequested : (fullCore.ctx? 15).map (fun x => (x.wantSpill, x.place, fullCore.spillFor x)) = some (false, .bank, false)
    ∧ (fullCore.cardVictim 0).map (fun v => (v.1, v.2.id)) = some (0x0C00000000002000, 15)
    ∧ (let s := { State.reset with ctxs := [slotCtx, { bankCtx with slot := 1, fillTo := some 0 }] }
      (s.ctx? 1).map (fun x => (x.wantSpill, s.spillFor x)) = some (false, true)) := by decide
theorem witness_SpillStarts : (let x := { bankCtx with wantSpill := true }
    let s := { State.reset with ctxs := [x], cores := [(0, { CoreSt.reset with spillQ := [(1, false)] })] }
    (s.ctx? 1).map (·.wantSpill) = some true ∧ (s.core 0).spilling = none ∧ (s.core 0).spillQ = [(1, false)] ∧ s.spillable x = true) := by decide
def spillIn (pl : Where) (s : State) : State := { s with ctxs := [{ bankCtx with place := pl }] }
/-- The pages of the strand's image are mapped: 16 of them from physical address 0. -/
def pagesAre (s : State) (x : Ctx) (w : Bool) : Bool :=
  match s.imagePages x w with | .ok ps => ps == (List.range 16).map (fun k => 4096 * k) | .error _ => false
theorem witness_SpillCompletes : (spillIn .spilling tMapped).Canonical ∧ ((spillIn .spilling tMapped).ctx? 1).map (·.place) = some .spilling
    ∧ pagesAre (spillIn .spilling tMapped) bankCtx true = true := ⟨rfl, by decide, by decide⟩
theorem witness_SpillAccessFails : ((spillIn .filling State.reset).ctx? 1).map (·.place) = some .filling
    ∧ (match (spillIn .filling State.reset).imagePages bankCtx false with | .error _ => true | .ok _ => false) = true := by decide
theorem witness_FillStarts : (let s := { spillIn .spilled State.reset with cores := [(0, { CoreSt.reset with spillQ := [(1, true)] })] }
    (s.ctx? 1).map (fun x => (s.fillBank x, x.retiring, decide (x.tiles.length ≤ (s.freeTiles 0).length))) = some (some 0, none, true)
      ∧ (s.core 0).spilling = none ∧ (s.core 0).spillQ = [(1, true)]) := by decide

/-- Cells that hold `n` bytes of a function from an address. -/
def cells (g : Nat → Byte) : Nat → Nat → List Host.Cell
  | _, 0 => []
  | a, n + 1 => (a, g a) :: cells g (a + 1) n
theorem memRead_cells (g : Nat → Byte) : ∀ n a k, a ≤ k → k < a + n → memRead (cells g a n) k = g k
  | 0, a, k, h, h' => by omega
  | n + 1, a, k, h, h' => by
    rcases Nat.lt_or_eq_of_le h with hl | rfl
    · simp only [cells, memRead, if_neg (show ¬ k = a by omega), if_neg (show ¬ k < a by omega)]
      exact memRead_cells g n (a + 1) k (by omega) (by omega)
    · simp [cells, memRead]
theorem memReadN_cells (g : Nat → Byte) (n : Nat) : ∀ c a, a + c ≤ n → memReadN (cells g 0 n) a c = (List.range c).map (fun i => g (a + i))
  | 0, _, _ => rfl
  | c + 1, a, h => by
    rw [memReadN, memRead_cells g n 0 a (by omega) (by omega), memReadN_cells g n c (a + 1) (by omega), List.range_succ_eq_map]
    simp only [List.map_cons, List.map_map, Nat.add_zero]
    congr 1
    apply List.map_congr_left
    intro i _
    simp only [Function.comp, Nat.succ_eq_add_one]
    congr 1
    omega
theorem flatMap_pages (g : Nat → Byte) (w : Nat) : ∀ k, (List.range k).flatMap (fun p => (List.range w).map (fun i => g (w * p + i)))
      = (List.range (w * k)).map g
  | 0 => rfl
  | k + 1 => by
    rw [List.range_succ, List.flatMap_append, flatMap_pages g w k, Nat.mul_succ, List.range_add]
    simp
/-- A machine whose memory holds the image of number 0 that a spill wrote at address 0. -/
def imageIn : State := { tMapped with ctxs := [{ bankCtx with place := .filling, image := some 0 }], mem := cells Config.freeByte 0 65536 }
theorem witness_FillCompletes : imageIn.ctx? 1 = some { bankCtx with place := .filling, image := some 0 }
    ∧ pagesAre imageIn { bankCtx with place := .filling, image := some 0 } false = true
    ∧ some (imageBytes 0 (4096 * 16)) = some (((List.range 16).map (fun k => 4096 * k)).flatMap (fun p => memReadN imageIn.mem p 4096))
    ∧ (none : Option (List Byte)) ≠ some [] := by
  refine ⟨rfl, by decide, ?_, by decide⟩
  have h (p : Nat) (hp : p ∈ List.range 16) : memReadN imageIn.mem (4096 * p) 4096 = (List.range 4096).map (fun i => Config.freeByte (4096 * p + i)) := by
    have hp' : p < 16 := List.mem_range.1 hp
    exact memReadN_cells Config.freeByte 65536 4096 (4096 * p) (by omega)
  rw [List.flatMap_map, List.flatMap_def, List.map_congr_left h, ← List.flatMap_def, flatMap_pages]
  simp [imageBytes]

/-! ### Nests, cards, futures and jobs -/

def aLaunch : Launch := ⟨1, 0x100, [], none, 0, false, [], [], [], 0, [], [], false, false, []⟩
/-- A nest record at 0x100 whose CTL names die 0, and one of zeros. -/
def nestIn (ctl : Nat) : State := { tMapped with launches := [aLaunch] }.poke 0x108 8 ctl
theorem witness_NestLaunches : (nestIn 1).launch? 1 = some aLaunch ∧ ((nestIn 1).die 0).dstate = 0
    ∧ (match (nestIn 1).nestRead 0x100 [] false with | .ok (ws, args) => diesOf ws == [0] && args.isEmpty | .error _ => false) = true
    ∧ (match (nestIn 0).nestRead 0x100 [] false with | .error (off, ws) => off == 8 && !ws.isEmpty && ws.getD 2 0 == 0 | .ok _ => false) = true := by decide
def oneIter : Launch := { aLaunch with started := true, words := [0x80, 1, 0, 0, 0, 4, 3], walks := [(0, 0, 0)] }
theorem witness_CoxPlaces : (let s := { State.reset with launches := [oneIter] }
    s.launch? 1 = some oneIter ∧ oneIter.started = true ∧ s.placedBefore (iterCore oneIter.words 0) 0 = false ∧ (s.dispatchNow (iterCore oneIter.words 0)).isNone = true
      ∧ oneIter.walks.find? (fun w => w.1 = 0) = some (0, 0, 0) ∧ (s.die 0).dstate = 0
      ∧ nextIter oneIter.words oneIter.retired 0 (iterations oneIter.words - 0) 0 = some 0 ∧ s.freePos (iterCore oneIter.words 0) false = some (0, .active)
      ∧ s.ctxNo (iterCore oneIter.words 0) 1 = some 0 ∧ natBits (wordAt oneIter.words 1) 16 4 ≤ (s.freeTiles (iterCore oneIter.words 0)).length) := by decide
def aCard : Word := 0x0C00000000008000
/-- A card at the key 0x8000 with its CTL, nest pointer, and a queue of core 0 that holds it. -/
def cardIn (ctl ptr : Nat) : State :=
  State.setCore ((tMapped.poke 0x8000 8 ctl).poke 0x8008 8 ptr) 0 { CoreSt.reset with queue := [⟨aCard, 0, 0, none, 0⟩] }
theorem witness_CardsDispatched : [(0, 0), (1, 0), (2, 0), (0, 1)].all (fun t =>
      headCard (cardIn t.1 t.2).now ((cardIn t.1 t.2).core 0).queue == some ⟨aCard, 0, 0, none, 0⟩ && (cardIn t.1 t.2).freePos 0 true == some (0, .active)
        && ((cardIn t.1 t.2).die 0).dstate == 0 && (match (cardIn t.1 t.2).cardKey false aCard with | .ok k => k == 0x8000 | .error _ => false)
        && !(cardIn t.1 t.2).placedBefore 0 0 && (cardIn t.1 t.2).fab.copies.isEmpty && (cardIn t.1 t.2).early.isEmpty && (cardIn t.1 t.2).peek 0x8000 8 == t.1 && Memory.wf (cardIn t.1 t.2).mem && (cardIn t.1 t.2).ctxNo 0 0 == some 0) = true
    ∧ (match (cardIn 0 0).nestRead (BitVec.ofNat 64 ((cardIn 0 0).peek 0x8008 8)) [] true with | .ok _ => true | .error _ => false) = true
    ∧ (match (cardIn 0 1).nestRead (BitVec.ofNat 64 ((cardIn 0 1).peek 0x8008 8)) [] true with | .ok _ => false | .error _ => true) = true := by decide
def sigMsg : Msg := ⟨3, .unit 0, 15, .signal aCard false none 0 0, none, 3, 0, none⟩
def postMsg : Msg := ⟨3, .unit 0, 15, .post aCard 0 none 0 0, none, 3, 0, none⟩
def noteIn (ctl : Nat) (m : Msg) : State := { tMapped.poke 0x8000 8 ctl with net := [m] }
theorem witness_SignalsCount : [2 * 2 ^ 32, 0, 2 ^ 32 + 0x300, 2 ^ 32].all (fun ctl => Memory.wf (noteIn ctl sigMsg).mem
      && (noteIn ctl sigMsg).fab.copies.isEmpty && (noteIn ctl sigMsg).early.isEmpty && (noteIn ctl sigMsg).msg? 3 == some sigMsg && (noteIn ctl sigMsg).eligible sigMsg && (noteIn ctl sigMsg).peek 0x8000 8 == ctl
      && (match (noteIn ctl sigMsg).cardKey false aCard with | .ok k => k == 0x8000 | .error _ => false)) = true
    ∧ cardState (2 * 2 ^ 32) = 0 ∧ 1 < cardCount (2 * 2 ^ 32) ∧ cardCount 0 = 0 ∧ cardState (2 ^ 32 + 0x300) ≠ 0
    ∧ cardState (2 ^ 32) = 0 ∧ cardCount (2 ^ 32) = 1 ∧ cardCtlOk (cardPut (2 ^ 32) 0 0 false) = true ∧ natBit (2 ^ 32) 12 = 0 := by decide
theorem witness_PostsMakeReady : [0, 0x300, 0x100, 2 ^ 32].all (fun ctl => (noteIn ctl postMsg).msg? 3 == some postMsg
      && (noteIn ctl postMsg).eligible postMsg && !(noteIn ctl postMsg).isOut 3 && (noteIn ctl postMsg).peek 0x8000 8 == ctl) = true
    ∧ cardState 0 ∉ [1, 2, 3] ∧ cardCount 0 = 0 ∧ cardCtlOk 0 = true ∧ cardState 0x100 ∈ [1, 2, 3] ∧ cardCount (2 ^ 32) ≠ 0 := by decide
theorem witness_CardCompletes : (let r : RunCard := ⟨5, aCard, 0, 0, false, true, []⟩
    let s := { cardIn 0x200 0 with running := [r] }
    Memory.wf s.mem = true ∧ s.fab.copies = [] ∧ s.early = [] ∧ s.running.find? (fun q => q.id = 5) = some r ∧ s.meshes = [] ∧ (match s.cardKey false aCard with | .ok k => k == 0x8000 | .error _ => false) = true
      ∧ s.peek (0x8000 + 24) 8 = 0 ∧ s.peek (0x8000 + 32) 8 = 0) := by decide
def sigSrc : SigSrc := ⟨0, 0, 0, 0, true, [], 0⟩
def futPlace : Place := ⟨0x1000, none, none⟩
def waitMsg : Msg := ⟨3, .ctx 0, 15, .op (.futWait 0x1000 aCard futPlace) sigSrc, none, 3, 0, none⟩
def setMsg : Msg := ⟨3, .ctx 0, 15, .op (.futSet 0x1000 9 false futPlace) sigSrc, none, 3, 0, none⟩
def futIn (st : Nat) (m : Msg) : State := { tMapped.poke 0x1000 8 st with net := [m] }
theorem witness_FutureWaits : [2 ^ 63, 2 ^ 62, 0].all (fun st => (futIn st waitMsg).msg? 3 == some waitMsg && (futIn st waitMsg).eligible waitMsg
      && !(futIn st waitMsg).isOut 3 && !(futIn st waitMsg).fenced futPlace && !(futIn st waitMsg).isPoisoned 0x1000 16 && !(futIn st waitMsg).sectorBusy 3 0x1000 16 && (futIn st waitMsg).peek 0x1000 8 == st) = true
    ∧ futSt (2 ^ 63) = 2 ∧ futSt (2 ^ 62) = 1 ∧ futCnt (2 ^ 62) < 16383
    ∧ (match (futIn (2 ^ 62) waitMsg).cardKey true (quarterCard aCard) with
      | .ok ck => natBit ((futIn (2 ^ 62) waitMsg).peek (ck + quarterLink aCard) 8) 63 == 0 | .error _ => false) = true := by decide
theorem witness_FutureResolves : [(0, false), (2 ^ 62, false), (2 ^ 63, true)].all (fun t => (futIn t.1 setMsg).msg? 3 == some setMsg
      && (futIn t.1 setMsg).eligible setMsg && !(futIn t.1 setMsg).fenced futPlace && !(futIn t.1 setMsg).isPoisoned 0x1000 16
      && !(futIn t.1 setMsg).sectorBusy 3 0x1000 16 && (futIn t.1 setMsg).fab.served.isEmpty
      && ((futIn t.1 setMsg).futSetAt 0 (some sigSrc) 0x1000 9 false).2.2 == t.2) = true := by decide
/-- The same, asked by chip 5: the second resolution is that chip's to report. -/
theorem witness_FutureResolves_served : (let m := { setMsg with src := .unit 12 }
    let s := { futIn (2 ^ 63) m with fab := { Fabric.reset with served := [⟨3, 5, 7, false⟩] } }
    s.msg? 3 == some m && s.eligible m && !s.isOut 3 && !s.sectorBusy 3 0x1000 16 && s.fab.served.any (fun v => v.msg = 3)
      && (s.futSetAt 0 (some sigSrc) 0x1000 9 false).2.2) = true := by decide
theorem witness_ProxyBatchLeaves : (let p : ProxyPost := ⟨5, 0x0C00000000002000, 0, 0, 0, 0, 0⟩
    let s := { State.reset with sched := [(0, { DieSched.reset with proxy := List.replicate 14 p })] }
    14 ≤ ((s.schedOf 0).proxy.filter (fun p => p.chip = 5)).length ∧ s.fabRoute 5 = none
      ∧ p ∈ (s.schedOf 0).proxy ∧ p.at_ + 2000 ≤ 2000) := by decide
theorem witness_JobFlushes : (let s := { State.reset with jcairns := [(1, 0x1000, 0)] }
    s.jcairns.find? (fun t => t.1 = 1) = some (1, 0x1000, 0) ∧ s.jobSum 1 = 0 ∧ s.rounds.find? (fun r => r.1 = 1) = none) := by decide

/-! ### Engine commands and meshes -/

/-- A running command of supervisor mode whose record lies at 0x4000. -/
def cmdOf (k : CmdKind) : Cmd :=
  { id := 5, req := ⟨k, 0, 0x4000, 0x5000, 2, 0, false⟩, ctx := some 0, card := none, sid := 0, core := 0, mdie := 8, wins := [], phase := .running
    words := [], fault := none, posted := false, slotFault := false, attached := true, aux := [] }
def cmdIn (c : Cmd) (ws : List (Nat × Nat)) (s : State) : State :=
  { ws.foldl (fun t w => t.poke (0x4000 + 8 * w.1) 8 w.2) s with cmds := [c], ctxs := [idleCtx 0] }
/-- What a check says of the command that runs next and its record. -/
def runs (s : State) (k : CmdKind) (f : Cmd → List Word → Bool) : Bool :=
  match s.ready 5 k with
  | some c => (match s.readRecord c with | .ok ws => f c ws | .error _ => false)
  | none => false
def runsMesh (s : State) (k : CmdKind) (f : Cmd → List Word → Bool) : Bool := runs s k (fun c ws => (withWords c ws).meshBad == none && f c ws)

def startMsg : Msg := ⟨3, .unit 0, 15, .cmd 5, none, 3, 0, none⟩
def startIn (k : CmdKind) (ws : List (Nat × Nat)) (s : State) : State := { cmdIn { cmdOf k with phase := .queued } ws s with net := [startMsg] }
/-- A record of two granules from 0x5000 to 0x6000 for cpy. -/
def cpyWords : List (Nat × Nat) := [(1, 0x6000), (2, 0x5000), (3, 64)]
theorem witness_CommandsStart : (List.all [(CmdKind.cpyInline, ([] : List (Nat × Nat))), (.meshInit, []), (.cpy, cpyWords), (.cpy, [(0, 7)])] (fun t =>
      let s := startIn t.1 t.2 tMapped
      s.msg? 3 == some startMsg && s.eligible startMsg && s.cmd? 5 == some { cmdOf t.1 with phase := .queued } && decide (s.engineLoad 8 0 < 4) && !s.queuedBefore startMsg { cmdOf t.1 with phase := .queued })) = true
    ∧ ([(cpyWords, false), ([(0, 7)], true)].all (fun t =>
      let s := startIn .cpy t.1 tMapped
      match (begun s 3 { cmdOf .cpy with phase := .queued }).readRecord (cmdOf .cpy) with
      | .ok ws => ({ cmdOf .cpy with words := ws }).recordBad == t.2
      | .error _ => false)) = true
    ∧ (match (begun (startIn .cpy [] State.reset) 3 { cmdOf .cpy with phase := .queued }).readRecord (cmdOf .cpy) with | .ok _ => false | .error _ => true) = true := by
  decide
theorem witness_CopiesComplete : (let s := cmdIn (cmdOf .cpyInline) [] State.reset
    s.cmd? 5 = some (cmdOf .cpyInline) ∧ (cmdOf .cpyInline).req.kind.granular = true ∧ s.net = [] ∧ s.ctx? 0 = some (idleCtx 0)) := ⟨rfl, rfl, rfl, rfl⟩
theorem witness_EngineFaults : (let c := { cmdOf .cpy with fault := some (engFault .cpyRecord 0x4000) }
    (cmdIn c [] State.reset).cmd? 5 = some c ∧ (cmdIn c [] State.reset).ctx? 0 = some (idleCtx 0)) := ⟨rfl, rfl⟩
def granMsg (d : Option (List Byte)) : Msg := ⟨3, .cmd 5, 15, .gran 5 0x5000 0 0x6000 0 d, none, 3, 0, none⟩
theorem witness_CommandsResume : (let c := { cmdOf .cpy with phase := .stopped }
    let s := { cmdIn c [] State.reset with net := [granMsg none] }
    s.cmd? 5 = some c ∧ c.req.kind.copy = true ∧ (∃ m ∈ s.net, m.src = .cmd 5)
      ∧ (cmdIn { cmdOf .meshInit with phase := .stopped } [] State.reset).cmd? 5 = some { cmdOf .meshInit with phase := .stopped }
      ∧ (cmdOf .meshInit).req.kind.copy = false) := ⟨rfl, rfl, ⟨granMsg none, by simp, rfl⟩, rfl, rfl⟩
theorem witness_CommandsAbort : (cmdIn (cmdOf .cpy) [] State.reset).cmd? 5 = some (cmdOf .cpy) ∧ (cmdOf .cpy).phase ≠ .finished := ⟨rfl, by decide⟩

/-- Mesh records at 0x1000, one triangle at 0x2000, and the mesh they build. -/
def meshCells : State := (((tMapped.poke 0x1008 8 1).poke 0x1010 8 0x2000).poke 0x1018 8 1).poke 0x1028 8 128
def meshMem : State := (meshCells.poke 0x200C 4 1).poke 0x2010 4 2
def aMesh : MeshHome :=
  { ptr := 0x1000, phase := .ready, kind := 0, maxd := 0, maxc := 1, rootp := 0x3000, base := [⟨0, [0, 1, 2], [0, 0, 0]⟩], nfree := 0, ncnt := 0, gen := 0
    cur := [(0, [])], old := none, opens := [], busyBy := none }
def initIn (s : State) : State := cmdIn (cmdOf .meshInit) [(0, 0), (1, 0x1000), (3, 1)] s
def built (s : State) (c : Cmd) (ws : List Word) : Option (Except (Cause × Nat) MeshHome) :=
  match engOutcome (withWords c ws) 0x1000 false 0 (engInit (withWords c ws)) (afterRecord s c ws) with
  | .ok (r, _) => some r
  | .error _ => none
theorem witness_MeshesBuilt : runsMesh (initIn meshMem) .meshInit (fun c ws =>
      ws.getD 1 0 == 0x1000 && (match built (initIn meshMem) c ws with | some (.ok m) => m.cur == [(0, [])] | _ => false)) = true
    ∧ runsMesh (initIn tMapped) .meshInit (fun c ws =>
      match built (initIn tMapped) c ws with | some (.error e) => e == (.meshFormat, meshDetail 1 8) | _ => false) = true
    ∧ meshMem.mesh? 0x1000 = none := by decide +kernel
def meshOn (k : CmdKind) (ws : List (Nat × Nat)) (s : State) : State := { cmdIn (cmdOf k) ws s with meshes := [aMesh] }
def adaptWords : List (Nat × Nat) := [(0, 1), (1, 0x1000), (2, 0x5000), (3, 0x6000), (4, 8), (5, 0x7000)]
theorem witness_MeshesAdapted : [(0, true), (2, false)].all (fun t =>
      let s := meshOn .meshAdapt adaptWords (tMapped.poke 0x5000 1 t.1)
      s.mesh? 0x1000 == some aMesh && runsMesh s .meshAdapt (fun c ws => match engOutcome (withWords c ws) aMesh.ptr false 2 (engAdapt (withWords c ws) aMesh) (afterRecord s c ws) with
        | .ok (.ok m, _) => t.2 && m.gen == 1 | .ok (.error _, _) => !t.2 | .error _ => false)) = true := by decide +kernel
theorem witness_MeshesFreed : (let s := meshOn .meshFree [(0, 4), (1, 0x1000)] tMapped
      runsMesh s .meshFree (fun c ws => ws.getD 1 0 == 0x1000 && (match engFree (withWords c ws) aMesh (afterRecord s c ws) with | .ok _ => true | .error _ => false))) = true
    ∧ runsMesh (cmdIn (cmdOf .meshFree) [(0, 4), (1, 0x1000)] tMapped) .meshFree (fun _ _ => true) = true
    ∧ (cmdIn (cmdOf .meshFree) [(0, 4), (1, 0x1000)] tMapped).mesh? 0x1000 = none := by decide +kernel
theorem witness_NeighboursStreamed : [(0, true), (1, false)].all (fun t =>
      let s := meshOn .nbrStream [(0, 2), (1, 0x1000), (2, 0x1000), (3, t.1), (4, 1), (5, 0x5000)] tMapped
      s.builtMesh 0x1000 == some aMesh && aMesh.leavesOf 0x1000 == some [(0, [])] && runsMesh s .nbrStream (fun c ws =>
        decide ((ws.getD 3 0).toNat + (ws.getD 4 0).toNat ≤ 1) == t.2 && handleMesh (ws.getD 2 0) == ws.getD 1 0
          && (match engPuts (withWords c ws) 8 (ws.getD 5 0) 0 (streamEntry aMesh.shape [(0, [])] 0) (afterRecord s c ws) with | .ok _ => true | .error _ => false))) = true := by decide +kernel
def mshMsg (r : OpReq) : Msg := ⟨3, .ctx 0, 15, .op r sigSrc, none, 3, 0, none⟩
theorem witness_MeshesOpened : (let s := { tMapped with meshes := [aMesh], net := [mshMsg (.meshOpen 0x1000)] }
      s.msg? 3 = some (mshMsg (.meshOpen 0x1000)) ∧ s.eligible (mshMsg (.meshOpen 0x1000)) = true ∧ s.builtMesh 0x1000 = some aMesh
        ∧ s.meshAhead (mshMsg (.meshOpen 0x1000)).src 3 (some 0x1000) = false)
    ∧ (let s := { tMapped with net := [mshMsg (.meshOpen 0x1000)] }
      s.msg? 3 = some (mshMsg (.meshOpen 0x1000)) ∧ s.eligible (mshMsg (.meshOpen 0x1000)) = true ∧ s.builtMesh 0x1000 = none
        ∧ s.meshAhead (mshMsg (.meshOpen 0x1000)).src 3 (some 0x1000) = false) := by decide
theorem witness_MeshesClosed : (let g := { aMesh with opens := [(0, 0)] }
      let s := { tMapped with meshes := [g], net := [mshMsg (.meshClose 0x1000)] }
      s.msg? 3 = some (mshMsg (.meshClose 0x1000)) ∧ s.eligible (mshMsg (.meshClose 0x1000)) = true ∧ s.builtMesh (handleMesh 0x1000) = some g
        ∧ g.openGen 0x1000 = some 0 ∧ s.meshAhead (mshMsg (.meshClose 0x1000)).src 3 (some (handleMesh 0x1000)) = false)
    ∧ (let s := { tMapped with net := [mshMsg (.meshClose 0x1000)] }
      s.eligible (mshMsg (.meshClose 0x1000)) = true ∧ s.builtMesh (handleMesh 0x1000) = none
        ∧ s.meshAhead (mshMsg (.meshClose 0x1000)).src 3 (some (handleMesh 0x1000)) = false) := by decide
theorem witness_NeighbourQueries : (let m : Msg := ⟨3, .ctx 0, 15, .opRead 7 0 0 (.nbr 0x1000 2 false 0 [(0, 0)]), none, 3, 0, none⟩
      let s := { State.reset with meshes := [aMesh], net := [m] }
      s.msg? 3 = some m ∧ s.builtMesh (handleMesh 0x1000) = some aMesh ∧ aMesh.leavesOf 0x1000 = some [(0, [])] ∧ 2 < kindFaces aMesh.kind)
    ∧ (match nbrElems (nbrElem aMesh.shape [(0, [])] 2 false 0) [(0, 0)] with | .ok l => l.length | .error _ => 0) = 1
    ∧ (match nbrElems (nbrElem aMesh.shape [(0, [])] 2 false 0) [(0, 9)] with | .ok _ => false | .error _ => true) = true := by decide
/-- Two entries of two indices, which share index 1; and 33 entries that all share one. -/
theorem witness_EntriesColoured : (let ws := [(0, 3), (2, 0x5000), (3, 2 ^ 32 + 2), (4, 0x6000), (5, 0x7000), (6, 0x8000)]
    let s := cmdIn (cmdOf .colBuild) ws (tMapped.poke 0x5000 4 1)
    runsMesh s .colBuild (fun c ws => match engColour (withWords c ws) (afterRecord s c ws) with | .ok (none, _) => true | _ => false)) = true
    ∧ (let ws := [(0, 3), (2, 0x5000), (3, 33), (4, 0x6000), (5, 0x7000), (6, 0x8000)]
    let s := cmdIn (cmdOf .colBuild) ws tMapped
    runsMesh s .colBuild (fun c ws => match engColour (withWords c ws) (afterRecord s c ws) with | .ok (some e, _) => e == 32 | _ => false)) = true := by decide +kernel
theorem witness_ColouringProper : (colourGo 2 [0, 1, 1, 2] (List.range 2) []).2 = none
    ∧ (colourGo 2 [0, 1, 1, 2] (List.range 2) []).1.map (·.1) = [1, 0] := by decide
theorem witness_RemapCopies : [((0x5000 : Word), 0, 8, true, true), (0x5000000000000000, 1, 8, true, false), (0x5000, 0, 0, false, true)].all (fun (t : Word × Nat × Nat × Bool × Bool) =>
      let c := { cmdOf .cpyr with words := [4, 0x6000, t.1, BitVec.ofNat 64 t.2.1, 0, 0x7000, 0, 0, 0, BitVec.ofNat 64 t.2.2.1] }
      let s := cmdIn c [] tMapped
      s.ready 5 .cpyr == some c && s.net.isEmpty && (decide (8 ≤ natBits (c.w 9) 0 16) && decide (natBits (c.w 9) 0 16 ≤ 4096) && natBits (c.w 9) 0 16 % 8 == 0) == t.2.2.2.1
        && (!t.2.2.2.1 || (s.cpyrGo c (c.w 3) (c.aux.headD 0)).2.2.isNone == t.2.2.2.2)) = true := by decide

/-! ### Homes, the managed heap and the load balancer -/

/-- A request that its home performs now. -/
def performs (s : State) (m : Nat) (msg : Msg) : Bool :=
  s.msg? m == some msg && s.eligible msg && s.homeReady msg && (s.peerStep msg).isNone && s.mustWait msg.body == none && s.copiesFor msg == [] && s.fab.served.all (fun v => v.msg != msg.id)
def plainPlace (s : State) (p : Place) (n : Nat) : Bool :=
  p.peer == none && decide (p.key + n ≤ 2 ^ 62) && !s.fenced p && !s.isPoisoned p.key n && decide (0 < n)
/-- A strand's request alone in flight. -/
def reqOf (b : Body) : Msg := ⟨3, .ctx 0, 0, b, none, 3, 0, none⟩
def sent (s : State) (b : Body) : State := { s with net := [reqOf b], ctxs := [idleCtx 0] }
def pl0 : Place := ⟨0x1000, none, none⟩
def ld8 (cache : Bool) : Body := .load 7 0 [⟨0, 0, 8⟩] 0x1000 pl0 8 cache none
theorem witness_LoadsPerform : [false, true].all (fun cache => performs (sent State.reset (ld8 cache)) 3 (reqOf (ld8 cache))) = true
    ∧ plainPlace State.reset pl0 8 = true ∧ ({ CoreSt.reset with cache := [⟨0x80, 0x80, 0, List.replicate 32 7⟩] }.hit 0x1000 0).isSome = true := by decide
theorem witness_StoresPerform : performs (sent State.reset (.store pl0 ([1, 2].map (fun b => (b, 255))) none 0x1000)) 3
      (reqOf (.store pl0 ([1, 2].map (fun b => (b, 255))) none 0x1000)) = true ∧ plainPlace State.reset pl0 2 = true ∧ Memory.wf State.reset.mem = true := by decide
theorem witness_AtomicsPerform : performs (sent State.reset (.atomic 0 .add 8 pl0 1 0 .die .rlx 0x1000)) 3 (reqOf (.atomic 0 .add 8 pl0 1 0 .die .rlx 0x1000)) = true
    ∧ plainPlace State.reset pl0 8 = true := by decide
/-- R263, R136: a store of 7, then an atomic add of 5 at its home. -/
theorem test_store_then_atomic : (match exec (.homeRequest 3) (sent State.reset (.store pl0 [(7, 255)] none 0x1000)) with
      | .next t => (match exec (.homeRequest 3) { t with net := [reqOf (.atomic 0 .add 8 pl0 5 0 .die .rlx 0x1000)] } with
        | .next u => u.peek 0x1000 8 == 12 && u.net.map (·.resp) == [some (.val (some 7))] | _ => false) | _ => false) = true := by decide
theorem witness_FencesAndTriggersPerform : performs (sent State.reset (.fence .die 0xFFFF)) 3 (reqOf (.fence .die 0xFFFF)) = true
    ∧ performs (sent State.reset (.trigger 1 0)) 3 (reqOf (.trigger 1 0)) = true
    ∧ (let s := sent State.reset (.trigger 1 0)
      s.copiesChanged ((s.dropMsg 3).nestCount 1 0) = []) := by decide
theorem witness_GranulesMove : [none, some (List.replicate 32 (7 : Byte))].all (fun d =>
      let s := { cmdIn (cmdOf .cpy) [] tMapped with net := [granMsg d] }
      performs s 3 (granMsg d) && s.cmd? 5 == some (cmdOf .cpy)
        && (match s.cmdRead (cmdOf .cpy) 32 32 0x5000 0 with | .ok bs => bs.length == 32 | .error _ => false)
        && (match s.cmdPlace (cmdOf .cpy) { wr := true } 32 32 0x6000 0 with | .ok a => a.place.peer.isNone | .error _ => false)) = true := by decide

/-- An object of 64 bytes at heap address 0x8000 of M-die 8, whose header lies at the key 0x8000, and its reference. -/
def objRef : Word := 0x2000000000008000
def objIn (pins : Nat) : State := tMapped.poke 0x8000 8 (2 ^ 48 + pins * 2 ^ 32 + 64)
theorem witness_HeapOperationsPerform : [(OpReq.pin objRef, 0), (.unpin objRef, 1), (.refeq objRef objRef, 0), (.hpMake 0x1000 objRef pl0 64, 0)].all (fun t =>
      performs (sent (objIn t.2) (.op t.1 sigSrc)) 3 (reqOf (.op t.1 sigSrc))) = true
    ∧ [0, 1].all (fun p => match (objIn p).barrier true true objRef with
      | .ok o => o.pins == p && o.size == 64 && o.hdr == 0x8000 && ((objIn p).placeErr ⟨o.hdr, none, none⟩ 16 true).isNone | .error _ => false) = true
    ∧ (match (objIn 0).refDest true false objRef with | .ok d => d.ha == 0x8000 | .error _ => false) = true
    ∧ (match (objIn 0).heapPlace (refReq true true 16) (refHint objRef) (refHa objRef) with
      | .ok (_, p) => ((objIn 0).placeErr p 16 false).isNone | .error _ => false) = true
    ∧ ((objIn 0).placeErr pl0 8 false).isNone = true := by decide
/-- The object while it is being copied to 0x9000. -/
def copying (w : List Nat) (s : State) : State :=
  s.setHeap 8 { HeapHome.reset with fwd := [⟨0x8000, 0x9000, 64, 8, 0, true, 5, w⟩] }
theorem witness_RequestsWaitForCopy : (let b : Body := .refStore objRef 0 [7] true
    let s := copying [] (sent (objIn 0) b)
    s.msg? 3 = some (reqOf b) ∧ s.eligible (reqOf b) = true ∧ s.homeReady (reqOf b) = true ∧ (s.peerStep (reqOf b)).isNone = true
      ∧ s.mustWait b = some (8, ⟨0x8000, 0x9000, 64, 8, 0, true, 5, []⟩)) := by decide
theorem witness_CopiesInvalidatedFirst : (let b : Body := .store pl0 [(7, 255)] none 0x1000
    let s := { sent State.reset b with fab := { Fabric.reset with copies := [⟨0x80, 5, 0x80, 1⟩] } }
    s.eligible (reqOf b) = true ∧ s.homeReady (reqOf b) = true ∧ (s.peerStep (reqOf b)).isNone = true ∧ s.mustWait b = none
      ∧ s.copiesFor (reqOf b) = [⟨0x80, 5, 0x80, 1⟩]) := by decide
theorem witness_PeerRequestsLeave : (let b : Body := .load 7 0 [⟨0, 0, 8⟩] 0x1000 ⟨0x1000, some 5, none⟩ 8 false none
    let s := { sent State.reset b with fab := { Fabric.reset with links := [(0, { LinkSt.start 5 0 with up := true })] } }
    s.eligible (reqOf b) = true ∧ s.homeReady (reqOf b) = true ∧ (match s.peerStep (reqOf b) with | some (some _) => true | _ => false) = true) := by decide
theorem witness_SilentSharerDropped : (let i : Inval := ⟨3, 0x80, 5, 0x80, 0⟩
    let s := { State.reset with now := 2000000, fab := { Fabric.reset with invals := [i] } }
    s.fab.invals.find? (fun i => i.msg = 3 && decide (i.since + 2000000 ≤ s.now)) = some i) := by decide

def relocCmd (dst : Word) : Cmd := { cmdOf .hpRelocate with req := { (cmdOf .hpRelocate).req with p0 := objRef, p1 := dst } }
theorem witness_RelocationAccepted : [(1, (0x2000000000009000 : Word), true), (0, 0x2000000000008010, false), (0, 0x2000000000009000, true)].all
      (fun (t : Nat × Word × Bool) =>
        let s := { objIn t.1 with cmds := [relocCmd t.2.1] }
        s.cmd? 5 == some (relocCmd t.2.1) && s.relocNext (relocCmd t.2.1)
          && (match s.barrier false true objRef with
            | .ok o => !o.dest.copying && o.pins == t.1 && decide ((s.heap o.dest.home).fwd.length < 65536) && (s.destOk t.2.1 o.dest.ha o.size).isSome == t.2.2
            | .error _ => false)) = true := by decide
/-- The object of a command that stands at another M-die. -/
theorem witness_RelocationAccepted_elsewhere : (let c := { relocCmd 0x2000000000009000 with mdie := 9 }
    let s := { objIn 0 with cmds := [c] }
    s.cmd? 5 = some c ∧ s.relocNext c = true ∧ (match s.barrier false true objRef with | .ok o => o.dest.home | .error _ => 0) = 8) := by decide
def relocRun (s : State) : State := copying [] { s with cmds := [{ relocCmd 0x2000000000009000 with aux := [8, 0x8000] }] }
theorem witness_RelocationCopies : Memory.wf (relocRun (objIn 0)).mem = true
    ∧ (match (relocRun (objIn 0)).relocation 5 with
      | some (c, home, f) => c.words == [] && f.waiting == [] && home == 8 && (match (relocRun (objIn 0)).copySpans c home f with
        | .ok (a, b) => a == [(0x8000, 80)] && b == [(0x9000, 80)] | .error _ => false)
      | none => false) = true := by decide
theorem witness_RelocationFaults : (match (relocRun State.reset).relocation 5 with
      | some (c, home, f) => f.waiting == [] && (match (relocRun State.reset).copySpans c home f with | .ok _ => false | .error _ => true)
      | none => false) = true := by decide
theorem witness_EpochAdvances : (let c := { cmdOf .hpEpoch with req := { (cmdOf .hpEpoch).req with p0 := 0, p1 := 0 } }
    let s := { State.reset with cmds := [c] }
    s.cmd? 5 = some c ∧ c.req.kind = .hpEpoch ∧ c.phase = .running ∧ c.words = []
      ∧ ((s.cmds.filter (fun d => d.req.kind = .hpEpoch && d.phase = .running)).head?).map (·.id) = some 5 ∧ s.heaps = []
      ∧ c.aux.length < 9 ∧ 9 ≤ ({ c with aux := List.replicate 9 0 } : Cmd).aux.length) := by decide

def cutWords (n : Nat) : List (Nat × Nat) := [(0, 0x40), (2, 0x5000), (3, n), (4, 2), (5, 0x6000)]
theorem witness_CutsWritten : [(4, false), (0, true)].all (fun t =>
      let s := cmdIn (cmdOf .lbCut) (cutWords t.1) tMapped
      runs s .lbCut (fun c ws => (withWords c ws).lbBad == t.2 && (t.2 || (match engCut (withWords c ws) (afterRecord s c ws) with | .ok _ => true | .error _ => false)
        && (match engRead (withWords c ws) 4 (4 * (withWords c ws).w 3) (ws.getD 2 0) 0 (afterRecord s c ws) with | .ok (bs, _) => bs.length == 16 | .error _ => false)))) = true := by
  decide
theorem witness_CutIsLeast : 1 ≤ 2 ∧ [0, 0].sum = 0 ∧ [4, 1].sum ≠ 0 := by decide
/-- Two triangles side by side, in two parts of one cell each; the part table at 0x7000. -/
def twoCells : MeshHome := { aMesh with base := [⟨0, [0, 1, 2], [0, 0, 0]⟩, ⟨1, [2, 1, 3], [0, 0, 0]⟩], maxc := 2, cur := [(0, []), (1, [])] }
def partTable (gcap : Nat) (s : State) : State :=
  [(0x7000, 0x10000), (0x7008, 0x11000), (0x7010, 0x12000), (0x7018, gcap), (0x7020, 0x13000), (0x7028, 0x14000), (0x7030, 0x15000), (0x7038, gcap)].foldl
    (fun t w => t.poke w.1 8 w.2) s
def cutsAt (l : List Nat) (a : Nat) (s : State) : State := (l.zipIdx).foldl (fun t w => t.poke (a + 4 * w.2) 4 w.1) s
def lbWords (opk : Nat) (old : Nat) : List (Nat × Nat) := [(0, opk), (1, 0x1000), (2, old), (3, 0x6000), (4, 0x7000), (5, 8), (6, 2)]
def lbIn (k : CmdKind) (opk old gcap : Nat) (cut : List Nat) : State :=
  { cmdIn (cmdOf k) (lbWords opk old) (partTable gcap (cutsAt cut 0x6000 (cutsAt [0, 1, 2] 0x5000 tMapped))) with meshes := [twoCells] }
theorem witness_PartsMigrate : [(1, [0, 1, 2], LbEnd.done), (1, [0, 2, 1], .format), (0, [0, 1, 2], .capacity 0)].all (fun (t : Nat × List Nat × LbEnd) =>
      let s := lbIn .lbMigrate 0x41 0x5000 t.1 t.2.1
      s.builtMesh (handleMesh 0x1000) == some twoCells && twoCells.leavesOf 0x1000 == some twoCells.cur
        && runs s .lbMigrate (fun c ws => !(withWords c ws).lbBad && (match engMigrate (withWords c ws) twoCells.shape twoCells.cur (afterRecord s c ws) with
          | .ok (e, _) => e == t.2.2 | .error _ => false))) = true := by decide +kernel
theorem witness_PartsMigrate_sync : [([0, 1, 2], LbEnd.done), ([0, 2, 1], .format)].all (fun (t : List Nat × LbEnd) =>
      let s := lbIn .ghostSync 0x42 0 1 t.1
      runs s .ghostSync (fun c ws => !(withWords c ws).lbBad && (match engSync (withWords c ws) twoCells.shape twoCells.cur (afterRecord s c ws) with
          | .ok (e, _) => e == t.2 | .error _ => false))) = true := by decide +kernel
/-- lb.migrate with a write of its own out at chip 5: the command waits for the acknowledgement. -/
theorem witness_PartsMigrate_acks : (let s := { lbIn .lbMigrate 0x41 0x5000 1 [0, 1, 2] with
        net := [{ reqOf (.store ⟨0x14000, some 5, none⟩ (fullBytes 8 0) none 0x4005000000014000) with src := .cmd 5 }] }
      runs s .lbMigrate (fun c ws => (match engMigrate (withWords c ws) twoCells.shape twoCells.cur (afterRecord s c ws) with
        | .ok (e, t) => e == .done && t.net.any (fun n => n.src == .cmd c.id) | .error _ => false))) = true
    ∧ (let c := { cmdOf .lbMigrate with aux := [3] }
      ({ State.reset with cmds := [c] }).ready 5 .lbMigrate == some c) = true := by decide +kernel

/-! ### The fabric -/

/-- A machine with one page mapped whose rg.load names a table at 0x20000; its bytes are zero but for those listed. -/
def rgIn (l : List Host.Cell) : State :=
  { State.reset with tlbs := [(8, { Tlb.reset with entries := [(0, 0x84, 0xFC)] })], mem := (0x4012, 2) :: l, cmds := [cmdOf .rgLoad] }
/-- The table's bytes as the engine reads them, parsed. -/
def rgParse (s : State) : Option (Option Nat) :=
  match s.ready 5 .rgLoad with
  | some c => (match s.readRecord c with
    | .ok ws => if (withWords c ws).rgBad then none
      else (match engRead (withWords c ws) 32 0x8440 (ws.getD 2 0) 0 (afterRecord s c ws) with
        | .ok (bs, t) => (match tableParse t.chip bs with | .ok _ => some none | .error off => some (some off))
        | .error _ => none)
    | .error _ => none)
  | none => none
/-- A table of one heat with a DUR of 1,000 ns, and one whose DUR is 0. -/
theorem witness_TableLoaded : rgParse (rgIn [(0x20040, 0xE8), (0x20041, 3)]) = some none := by decide +kernel
theorem witness_TableLoaded_bad : rgParse (rgIn []) = some (some 0x40) := by decide +kernel
def tableBytes : List Byte := ((((List.replicate 0x88 0).set 0x40 0xE8).set 0x41 3).set 0x48 5).set 0x49 0x80
theorem witness_AcceptedTables : (match tableParse 0 tableBytes with | .ok hs => hs.map (fun h => (h.dur, h.guard, h.pmap)) | .error _ => []) = [(1000, 1000, [(0, 5)])] := by
  decide

def aHeat : Heat := { dur := 1000, guard := 1000, pmap := [(0, 5)], reach := [] }
def aLink : LinkSt := { LinkSt.start 5 0 with up := true, pausedAt := none, pinc := some 0 }
/-- A running heat that maps port 0 to chip 5, whose link has block 0. -/
def fabOf (k : LinkSt) : Fabric := { Fabric.reset with en := true, heats := [aHeat], running := true, paired := [(0, 5)], links := [(0, k)] }
def fabIn (k : LinkSt) : State := { State.reset with fab := fabOf k }
def aFlit : FlitIn := ⟨0, false, .req, 0, 0, 5, 0, .none, true, true⟩
theorem witness_TableSwitches : (let p : RgPending := ⟨5, [aHeat], 0⟩
    { State.reset with fab := { Fabric.reset with pending := some p } }.switchDue = some p) := by decide
theorem witness_HeatsRotate : (let s := { State.reset with now := 2000, fab := { fabOf aLink with running := false } }
      s.heatNow = some aHeat ∧ s.fab.running = false ∧ s.fab.since + 2 * aHeat.guard ≤ s.now ∧ s.switchDue = none)
    ∧ (let s := { State.reset with now := 2000, fab := fabOf aLink }
      s.heatNow = some aHeat ∧ s.fab.running = true ∧ s.fab.since + 2 * aHeat.dur ≤ s.now) := by decide
def sound (s : State) (l : Nat) (k : LinkSt) (f : FlitIn) (control : Bool) : Bool :=
  s.link? l == some k && s.fab.en && k.up && !k.align && (s.rxCheck l k f control).isNone
theorem witness_FlitsReceived : [aFlit, { aFlit with dst := 6 }, { aFlit with seq := 1 }].all (fun f => sound (fabIn aLink) 0 aLink f false && FlitType.carries f.type
      && !(fabIn aLink).unsplit f) = true ∧ aFlit.seq = aLink.rxnext ∧ aFlit.dst = State.reset.chip := by decide
theorem witness_BrokenFlitsDropped : (fabIn aLink).link? 0 = some aLink ∧ aLink.up = true ∧ aLink.align = false
    ∧ ({ aFlit with crc := false }).crc = false ∧ (fabIn aLink).unsplit { aFlit with crc := false } = false := by decide
theorem witness_AcksSent : (let k := { aLink with firstAt := some 0 }
    let s := { fabIn k with now := 400 }
    s.link? 0 = some k ∧ k.firstAt = some 0 ∧ 0 + 400 ≤ s.now) := by decide
theorem witness_AcksFree : (let k := { aLink with buffer := [aFlit, { aFlit with seq := 1 }] }
    let f : FlitIn := { aFlit with type := .ack, pay := .ack 1 false }
    sound (fabIn k) 0 k f true = true ∧ (1 + 4096 - k.acked) % 4096 ≤ k.buffer.length ∧ k.roll = .idle) := by decide
theorem witness_TimeoutResends : (let k (r : Nat) := { aLink with buffer := [aFlit], resends := r }
    let s (r : Nat) := { fabIn (k r) with now := 8000 }
    (s 0).link? 0 = some (k 0) ∧ (s 0).serves 5 = true ∧ (k 0).ackAt + 8000 ≤ (s 0).now ∧ (k 0).resends + 1 < 16
      ∧ (s 15).link? 0 = some (k 15) ∧ (s 15).serves 5 = true ∧ 16 ≤ (k 15).resends + 1) := by decide
theorem witness_KeysRoll : (fabIn aLink).link? 0 = some aLink ∧ aLink.roll = .idle ∧ aLink.rxprev = false
    ∧ (fabIn { aLink with roll := .rolling }).link? 0 = some { aLink with roll := .rolling }
    ∧ sound (fabIn aLink) 0 aLink { aFlit with type := .keyRetire } false = true := by decide
theorem witness_FlitsSent : [FlitType.keyRetire, .ack].all (fun ty =>
      let f : FlitIn := { aFlit with type := ty, dst := 5, src := 0 }
      let k := { aLink with queues := [(3, f)] }
      let s := fabIn k
      s.link? 0 == some k && s.heatNow == some aHeat && !(s.portsTo k.peer).isEmpty && workCount k.txw (s.portsTo k.peer) == 16
        && decide (s.now + 4 * ((16 + 16 - 1) / 16) ≤ s.fab.since + 2 * aHeat.dur) && decide (k.kcnt < 2 ^ 32 - 1) && decide (k.buffer.length < 512)) = true
    ∧ FlitTypeSequenced .keyRetire = true ∧ FlitTypeSequenced .ack = false := by decide
theorem witness_LightLost : 0 / 32 ∈ (fabIn aLink).portsTo 5 ∧ workOf aLink.rxw 0 &&& BitVec.toNat (1 : BitVec 16) = 1
    ∧ workOf aLink.rxw 0 &&& BitVec.toNat (0xFFFF : BitVec 16) = 0xFFFF := by decide
theorem witness_LanesTaken : (let f : FlitIn := { aFlit with type := .lane, pay := .lane 0xFFFE }
    (fabIn aLink).link? (0 % 32) = some aLink ∧ aLink.pinc.isSome = true ∧ 0 / 32 ∈ (fabIn aLink).portsTo 5
      ∧ ((fabIn aLink).rxCheck 0 aLink f true).isNone = true) := by decide
theorem witness_WavelengthsRejoin : (let k := { aLink with steady := [(0, 3, 0)], up := false, downAt := some 0 }
    let s := { fabIn k with fab := { fabOf k with since := 2000000 } }
    s.link? 0 = some k ∧ k.steady.find? (fun e => e.1 = 0 && e.2.1 = 3) = some (0, 3, 0) ∧ s.serves 5 = true ∧ 0 + 2000000 ≤ s.fab.since) := by decide
theorem witness_DownLinksFail : (let k := { aLink with up := false, downAt := some 0 }
    let s := { fabIn k with now := 20000000, fab := { fabOf k with out := [⟨1, 5, 0⟩] } }
    s.link? 0 = some k ∧ (⟨1, 5, 0⟩ : PeerReq) ∈ s.fab.out ∧ (s.fabRoute 5).any (fun t => t.1 = 0) = true) := by decide
theorem witness_PeersRejoin : (fabIn { aLink with pinc := none }).linkOf 5 = some (0, { aLink with pinc := none })
    ∧ (fabIn aLink).linkOf 5 = some (0, aLink) ∧ aLink.pinc = some 0 ∧ 0 ≠ 1 := by decide
theorem witness_LasersFail : 3 < 64 ∧ 3 ∉ State.reset.fab.lasers := by decide
def farCmd (far : Word) : Cmd := { cmdOf .cpyx with words := [5, far, 0x6000, 64, 0, 0, 0, 0, 0, 0] }
theorem witness_CrossCopiesRun : [(0x4400000000000000 : Word), 0x4005000000000000].all (fun far =>
      [State.reset, fabIn aLink].all (fun s => ({ s with cmds := [farCmd far] }).ready 5 .cpyx == some (farCmd far) && (farCmd far).resumeAt == some 0
        && ({ farCmd far with aux := [4, 32] } : Cmd).resumeAt == some 32 && spaceOf ((farCmd far).words.getD 1 0) == 4)) = true
    ∧ groupOf (chipOf 0x4400000000000000) ≠ groupOf 0 ∧ groupOf (chipOf 0x4005000000000000) = groupOf 0 ∧ chipOf 0x4005000000000000 ≠ 0
    ∧ State.reset.fabRoute 5 = none ∧ (fabIn aLink).fabRoute 5 = some (0, aLink) ∧ aLink.full 2 = false ∧ aLink.chan = none := by decide
theorem witness_CrossCopiesComplete : [Ending.ok, ⟨0xA0, 0x4005000000000020, 0⟩].all (fun code =>
      let s := { cmdIn (cmdOf .cpyx) [] State.reset with fab := { Fabric.reset with dones := [(5, code)] } }
      s.cmd? 5 == some (cmdOf .cpyx) && s.fab.dones.find? (fun d => d.1 = 5) == some (5, code)) = true := by decide
theorem witness_MulticastStarts : (let c := { cmdOf .mcx with words := [6, 0x6000, 0x5000, 64, 0, 0, 0, 0, 0, 0x7000] }
    let s := { tMapped with cmds := [c] }
    s.ready 5 .mcx = some c ∧ (match engRead c 8 128 (c.words.getD 9 0) 0 s with | .ok (bs, _) => bs.length == 128 | .error _ => false) = true) := by decide
theorem witness_MulticastSplits : (let d : McDesc := ⟨0, 5, 0x6000, 64, [5], none, 0, [5], false⟩
    let s := { fabIn aLink with fab := { fabOf aLink with mcasts := [d] } }
    s.fab.mcasts[0]? = some d ∧ s.heatNow = some aHeat ∧ mcastMissed aHeat d.members = [] ∧ s.fab.links.all (fun t => t.2.chan.isNone && !t.2.full 2) = true) := by decide

/-! ### The cluster router -/

/-- A router request of strand 0, alone at cluster 0's router. -/
def rtReq (r : RtReq) : Msg := ⟨3, .ctx 0, 15, .router r 0 true, none, 3, 0, none⟩
def rtIn (k : ClusterSt) (r : RtReq) (s : State) : State := { s with net := [rtReq r], ctxs := [idleCtx 0], clusters := [(0, k)] }
def atRouter (k : ClusterSt) (r : RtReq) (s : State) : Bool :=
  (match (rtIn k r s).rtMsg 3 with | some (m, q, cl, u, x) => m == rtReq r && q == r && cl == 0 && u && x.id == 0 && x.core == 0 | none => false)
    && ((rtIn k r s).cluster 0) == k
/-- An open set of one FILTER stage and one MAP stage, and a record of it. -/
def openSet : RtSet := { RtSet.reset with state := .open_, stages := [⟨0, 0, 0, 1, 0, 0, 0⟩, ⟨1, 0, 0, 1, 0, 0, 0⟩] }
def recPtr : Word := 0x1000000000000000
def aRec (w : RtWhere) : RtRec := ⟨recPtr, 0, 0, 9, 0, 0, false, 0, 0, w⟩
def cluster0 (l : List RtRec) : ClusterSt := { ClusterSt.reset with sets := [(0, openSet)], recs := l }
theorem witness_SetsDeclared : [(8, true), (7, false)].all (fun t =>
      let s := rtIn ClusterSt.reset (.decl 0x1000) (tMapped.poke 0x1000 8 (t.1 * 256))
      atRouter ClusterSt.reset (.decl 0x1000) (tMapped.poke 0x1000 8 (t.1 * 256)) && (match s.rtDeclRead (idleCtx 0) true 0x1000 with
        | some w => (rtDeclBad w).isNone == t.2 && ((s.cluster 0).set (natBits (w.getD 0 0) 0 2)).state == .idle | none => false)) = true
    ∧ atRouter (cluster0 []) (.decl 0x1000) (tMapped.poke 0x1000 8 0x800) = true ∧ ((cluster0 []).set 0).state ≠ .idle := by decide
theorem witness_RecordsPushed : [ClusterSt.reset, cluster0 [], { cluster0 [] with sets := [(0, { openSet with ordered := true, logw := 0 })], recs := [{ aRec .waitfx with ptr := recPtr + 64 }] }].all
      (fun k => atRouter k (.push 0 recPtr 9) State.reset && decide (3 ∉ k.held) && (rtIn k (.push 0 recPtr 9) State.reset).rtAdmissible 0 == none
        && !(rtIn k (.push 0 recPtr 9) State.reset).rtHeld 0 0) = true
    ∧ ClusterSt.reset.pushBad 0 recPtr = true ∧ (cluster0 []).pushBad 0 recPtr = false ∧ (cluster0 []).room 0 1 = true
    ∧ (let k := { cluster0 [] with sets := [(0, { openSet with ordered := true, logw := 0 })], recs := [{ aRec .waitfx with ptr := recPtr + 64 }] }
      k.pushBad 0 recPtr = false ∧ k.room 0 1 = false) := by decide
theorem witness_HeldPushAdmitted : (let k := { cluster0 [] with held := [3] }
    atRouter k (.push 0 recPtr 9) State.reset = true ∧ k.pushBad 0 recPtr = false ∧ k.room 0 1 = true)
    ∧ (let k := { ClusterSt.reset with held := [3] }
    atRouter k (.push 0 recPtr 9) State.reset = true ∧ k.pushBad 0 recPtr = true) := by decide
theorem witness_RecordsTaken : [ClusterSt.reset, cluster0 [], cluster0 [aRec (.queued 0)]].all (fun k => atRouter k (.take 0 false 255) State.reset && decide (3 ∉ k.takes)
      && (rtIn k (.take 0 false 255) State.reset).rtServable 0 == none) = true
    ∧ (cluster0 []).takeable 0 255 = none ∧ (cluster0 [aRec (.queued 0)]).takeable 0 255 = some (aRec (.queued 0), 0) ∧ ((cluster0 []).set 0).state ≠ .idle
    ∧ [ClusterSt.reset, { ClusterSt.reset with poison := [recPtr] }].all (fun k => atRouter k (.take 0 true 255) State.reset) = true := by decide
theorem witness_WaitingTakeServed : (let k := { cluster0 [aRec (.queued 0)] with takes := [3] }
    atRouter k (.take 0 false 255) State.reset = true ∧ ((rtIn k (.take 0 false 255) State.reset).rtServe (rtReq (.take 0 false 255)) 0 0 255 (idleCtx 0)).isSome = true) := by
  decide
theorem witness_RecordsDone : [0, 1, 2].all (fun o => atRouter (cluster0 [aRec (.taken 0 0 1 0)]) (.done recPtr 1 o) State.reset) = true
    ∧ (cluster0 [aRec (.taken 0 0 1 0)]).recs.find? (fun r => r.ptr = recPtr && (match r.at_ with | .taken c _ i _ => c = 0 && i = 1 | _ => false))
      = some (aRec (.taken 0 0 1 0)) ∧ atRouter (cluster0 []) (.done recPtr 1 0) State.reset = true ∧ (idleCtx 0).id = 0 := by decide
theorem witness_WindowCloses : (let s := { State.reset with now := 2000, clusters := [(0, { cluster0 [] with sets := [(0, { openSet with twin := 1 })] })] }
    ((s.cluster 0).set 0).state ≠ .idle ∧ ((s.cluster 0).set 0).twin ≠ 0 ∧ ((s.cluster 0).set 0).wstart + 2000 * ((s.cluster 0).set 0).twin ≤ s.now) := by decide
/-- R249: 3 of 4 records passed at a cost of 40: F is a quarter of 65,536 and C is 10. -/
theorem test_stage_closes : (RtStage.close ⟨0, 0, 0, 1, 4, 3, 40⟩) = ⟨0, 0, 16384, 10, 0, 0, 0⟩ := by decide
/-- R248: the first step of the lottery from 1. -/
theorem test_lottery_step : rtLfsrStep 1 = 3 ∧ rtLfsrStep 0x80000000 = 1 := by decide
theorem witness_RecordsRouted : openSet.todo { aRec .waitfx with done := 1 } (· ≠ 2) = [1] ∧ openSet.todo { aRec .waitfx with done := 3 } (· ≠ 2) = []
    ∧ openSet.todo { aRec .waitfx with done := 3 } (· = 2) = [] ∧ (openSet.todo (aRec .waitfx) (· ≠ 2)).length = 2 := by decide
theorem witness_StatisticsRead : [false, true].all (fun c => atRouter (cluster0 []) (.stat 0 c) State.reset) = true := by decide
theorem witness_SetsDrained : [ClusterSt.reset, cluster0 [], cluster0 [aRec .waitfx]].all (fun k => atRouter k (.drain 0) State.reset && decide (3 ∉ (k.set 0).drains)) = true
    ∧ (cluster0 []).inflight 0 = 0 ∧ ((cluster0 []).set 0).state = .open_ ∧ (cluster0 [aRec .waitfx]).inflight 0 ≠ 0 := by decide
theorem witness_LotterySeeded : atRouter ClusterSt.reset (.seed 5) State.reset = true := by decide

/-! ### Device registers and the package -/

/-- Registers that a write may reach right after reset. -/
def writable (off : Nat) (r : DevReg) : Bool := devReg off == r && State.reset.xdie.firmware && State.reset.net.isEmpty
theorem writable_of {s : State} {off : Nat} {r : DevReg} (hf : s.xdie.firmware = true) (hn : s.net = []) (h : writable off r = true) : Writable s off r := by
  simp only [writable, Bool.and_eq_true, beq_iff_eq] at h
  exact ⟨h.1.1, hf, by simp [hn]⟩
theorem witness_CoreRegistersWritten : writable (clusterOff 3 8) (.rtlfsr 3) = true ∧ writable (coreOff 70 8) (.cctl 70) = true
    ∧ writable (coreOff 70 0x18) (.meuse 70) = true ∧ natBits (0x10000 : Word).toNat 16 12 ≠ 0 := by decide
theorem witness_SlotTableSwitches : writable (coreOff 1 0x28) (.mxslot 1) = true ∧ writable (coreOff 1 0x20) (.mxcfg 1) = true
    ∧ State.reset.tableDue 1 = false
    ∧ (let s := { State.reset with now := 2048, cores := [(1, { CoreSt.reset with pendAt := some 5 })] }
      s.tableDue 1 = true ∧ devReg (coreOff 1 0x28) = .mxslot 1 ∧ s.xdie.firmware = true ∧ s.net = [] ∧ (s.core 1).pendAt = some 5
        ∧ (5 - (s.core 1).resetAt) / 1024 < (s.matrixAc 1 - (s.core 1).resetAt) / 1024 ∧ s.ctxs = []) := by decide
theorem witness_DieReset : writable (dieOff 2 0x30) (.drst 2) = true ∧ (State.reset.die 2).dstate = 0 := by decide
def xdieOff (r : Nat) : Nat := 12 * 0x400000 + r
theorem witness_DoorbellRings : writable (xdieOff 0x1010) (.lqtail 0) = true
    ∧ [true, false].all (fun f => let s := { State.reset with xdie := { XDie.reset with featDone := f, lqs := [(0, { LaunchQ.reset with logn := 4 })] } }
      s.xdie.featDone == f && decide (((16 : Word).toNat + 2 ^ 64 - (s.lq 0).head) % 2 ^ 64 ≤ 2 ^ (s.lq 0).logn)
        && decide (2 ^ (s.lq 0).logn < ((17 : Word).toNat + 2 ^ 64 - (s.lq 0).head) % 2 ^ 64)) = true := by decide
theorem witness_PackageRegistersWritten : writable (xdieOff 0x1800) .msitrig = true ∧ writable (xdieOff 0x2060) .featctl = true
    ∧ writable (xdieOff 0x6000) .bar2map = true ∧ writable (xdieOff 0x4018) (.island 3) = true
    ∧ spaceOf 0x0C00000000000000 = 0 ∧ (globalOwner 0x0C00000000000000).isSome = true ∧ offsetOf 0x0C00000000000000 % State.reset.xdie.bar2Size = 0
    ∧ spaceOf 0x1000000000000000 ≠ 0 ∧ State.reset.xdie.featDone = false := by decide
theorem witness_RegistersWritten : writable (dieOff 3 0) (.fqbase 3) = true ∧ writable (dieOff 3 8) (.fqctl 3) = true ∧ writable (dieOff 3 0x10) (.fqhead 3) = true
    ∧ writable (dieOff 3 0x20) (.fqovf 3) = true ∧ writable (xdieOff 0x1008) (.lqctl 0) = true ∧ writable (dieOff 12 0x30) .none = true
    ∧ writable (coreOff 5 0) (.cid 5) = true ∧ writable (dieOff 3 0x18) (.fqtail 3) = true := by decide
theorem witness_TranslationsCommanded : writable (dieOff 8 0x2018) (.tlbcmd 8) = true ∧ (State.reset.tlb 8).busy = none
    ∧ natBits (1 : Word).toNat 0 2 = 1 ∧ natBits (2 : Word).toNat 0 2 = 2 ∧ natBits (7 : Word).toNat 0 2 = 3 ∧ natBit (7 : Word).toNat 2 = 1
    ∧ tlbRefused 0x84 0xFC = false ∧ tlbRefused 0x100000000000000 0xFC = true := by decide
theorem witness_TranslationDrains : (let b : TlbBusy := ⟨some 0, 0⟩
    let s := { State.reset with tlbs := [(8, { Tlb.reset with busy := some b })] }
    (s.tlb 8).busy = some b ∧ s.net = [] ∧ s.ctxs = []) := by decide

theorem witness_DieRecovers : (let s := State.reset.setDie 2 { DieRegs.reset with dstate := 1 }
    (s.die 2).dstate = 1 ∧ s.launches = [] ∧ s.running = []) := by decide
theorem witness_WatchdogsExpire : (cmdIn (cmdOf .cpy) [] State.reset).cmd? 5 = some (cmdOf .cpy) ∧ (cmdOf .cpy).mdie = 8 ∧ (cmdOf .cpy).phase = .running
    ∧ (State.reset.die 2).dstate = 0 := by decide
theorem witness_ScrubFinds : State.reset.isPoisoned 0x1000 1 = false ∧ (State.reset.die (homeDie 0x1000)).logn = 0
    ∧ ({ State.reset with poison := [0x80] }).isPoisoned 0x1000 1 = true
    ∧ (({ State.reset with cores := [(3, { CoreSt.reset with cache := [⟨0x80, 0x80, 0, List.replicate 32 7⟩] })] }).core 3).cache[0]?
      = some ⟨0x80, 0x80, 0, List.replicate 32 7⟩ := by decide
theorem witness_QueueEntriesAborted : (let c := { cmdOf .cpy with phase := .queued }
      (cmdIn c [] State.reset).cmd? 5 = some c ∧ c.phase = .queued)
    ∧ ((rtIn (cluster0 [aRec (.queued 0)]) (.seed 0) State.reset).cluster 0).recs[0]? = some (aRec (.queued 0))
    ∧ ((cardIn 0 0).core 0).queue[0]? = some ⟨aCard, 0, 0, none, 0⟩ := by decide
theorem witness_LinksFail : 3 ∉ State.reset.xdie.deadLinks ∧ splitDies (3 :: State.reset.xdie.deadLinks) = [] := by decide
/-- Queue 0 holds one packet at 0x1000, whose CTL names die 0 or, when it is refused, no die. -/
def packetIn (ctl : Nat) : State :=
  State.setLq (tMapped.poke 0x1008 8 ctl) 0 { LaunchQ.reset with base := 0x1000, logn := 4, en := true, tail := 1 }
theorem witness_PacketsTaken : [(1, false), (0, true)].all (fun t =>
      ((List.range 64).map (fun i => ((packetIn t.1).xdie.lqNext + i) % 64)).find? (fun k => (packetIn t.1).lqReady k) == some 0
        && (match (packetIn t.1).packetAt ((packetIn t.1).lq 0) with | some ws => packetBad ws == t.2 | none => false)) = true := by decide
/-- The bottom of BAR2 at a page that host requests may use. -/
def hostMem : State := { tMapped with tlbs := [8, 9, 10, 11].map (fun j => (j, { Tlb.reset with entries := [(0, 0x84, 0xFC)] })) }
theorem witness_HostAccesses : (match hostMem.bar2Parts 0 8 false true with | .ok _ => true | .error _ => false) = true
    ∧ (match hostMem.bar2Parts 0 8 true false with | .ok _ => true | .error _ => false) = true
    ∧ (match State.reset.bar2Parts 0 8 true false with | .ok _ => false | .error _ => true) = true
    ∧ (match hostMem.bar2Parts 0 8 true true with | .ok _ => true | .error _ => false) = true
    ∧ natBit (({ XDie.reset with featNeg := XDie.reset.featNeg.set 0 2 }).featNeg.toList.getD 0 0).toNat 1 = 1 ∧ 0 + 8 ≤ hostMem.xdie.bar2Size := by decide
theorem witness_Bar2Resized : 3 < 10 ∧ 30 + 3 ≤ 36 ∧ natBit (({ XDie.reset with featNeg := XDie.reset.featNeg.set 0 4 }).featNeg.toList.getD 0 0).toNat 2 = 1 := by
  decide
theorem witness_PowerManaged : (let s := { State.reset with now := 20000 }
    s.xdie.powerAt + 20000 ≤ s.now ∧ (List.range 128).all (fun i => decide (4 ≤ (s.island i).1) && decide ((s.island i).1 ≤ 16)) = true) := by decide

/-! ### What holds of every instruction and every step -/

theorem witness_DecodeEncode : (Instr.ld (la .d)).wf = true ∧ (Instr.ld (la .d)).isWord = true ∧ decInstr (encode (.ld (la .d))) = .ok (.ld (la .d), 2) := ⟨by decide, by decide, rfl⟩
theorem witness_DecodedIsEncoded : decInstr (wordParcels 0xE8000602) = .ok (.ld ⟨.always, 0, 0, .d, ⟨.left, 2⟩, .bare⟩, 2)
    ∧ emptyPrefix (wordParcels 0x88000000 ++ wordParcels 0xFF0401FF) = true ∧ decInstr (wordParcels 0x88000000 ++ wordParcels 0xFF0401FF) = .ok (.tz ⟨.always, 0, false⟩, 4) :=
  ⟨rfl, by decide, rfl⟩
/-- A strand whose one instruction is ready, and one whose branch has fired. -/
def readyIn : State := { State.reset with ctxs := [tCtx (tEx (.add ⟨.always, .s64, Target.none, Target.none, none⟩) 4 3 0 (sc 1) (sc 2) unused unused)] }
theorem witness_StepRunsDecoded : readyIn.agenda = [] ∧ readyIn.readyFiring = some (0, 0) ∧ (readyIn.parcelsAt 0 false 0).isSome = true
    ∧ (match readyIn.parcelsAt 0 false 0 with | some ps => (match decInstr ps with | .ok (i, _) => i == .add ⟨.always, .s64, Target.none, Target.none, none⟩ | .error _ => false) | none => false) = true
    ∧ State.reset.agenda = [] ∧ State.reset.readyFiring = none := by decide
theorem witness_StepRunsDecoded_idle : (match State.reset.tryAll State.reset.ownEvents with | none => true | some _ => false) = true := by decide
/-- With nothing to do, a step from reset only lets time pass. -/
theorem test_step_idle : (match step State.reset with | .next t => t.now == 1 | _ => false) = true := by decide
theorem witness_PitchHoldsMemory : (match pitchState.decodePitch ⟨true, 0, pitchState.mem⟩ 0 with | .ok p => p.code.length | .error _ => 0) = 5 := by decide
theorem witness_StepKeepsMemoryForm : State.reset.Canonical ∧ (match step State.reset with | .next _ => true | _ => false) = true := ⟨rfl, by decide⟩
theorem witness_StepKeepsMode : ModeInv readyIn ∧ (match step readyIn with | .next _ => true | _ => false) = true :=
  ⟨by intro x hx; rw [List.mem_singleton.1 hx]; rfl, by decide⟩
/-- The strand that has been inside a trap: SUP is INTRAP there as well. -/
theorem witness_StepKeepsMode_trap : ModeInv { State.reset with ctxs := [{ idleCtx 0 with sup := true, intrap := true }] } := by
  intro x hx; rw [List.mem_singleton.1 hx]
theorem witness_MemoryReadsWrites : Memory.wf [(5, 7)] = true ∧ memRead [(5, 7)] 5 = 7 ∧ memRead [(5, 7)] 6 = Config.emptyByte := by decide
theorem witness_ValuesLittleEndian : 0x1234 < 256 ^ 2 ∧ natLe 2 0x1234 = [0x34, 0x12] := by decide
theorem witness_FiringChangesOnlyItsPitch : (Instr.add ⟨.always, .s64, Target.none, Target.none, none⟩).isWord = true
    ∧ (match exec (.add ⟨.always, .s64, Target.none, Target.none, none⟩) (tAt (tEx (.add ⟨.always, .s64, Target.none, Target.none, none⟩) 4 3 0 (sc 1) (sc 2) unused unused)) with
      | .next _ => true | _ => false) = true := by decide
def slotEx : Exec := { tEx (.cMov ca) 4 3 0 unused unused unused unused with hdr := { (tEx (.cMov ca) 4 3 0 unused unused unused unused).hdr with wmap := [5] } }
theorem witness_TokensDelivered : slotEx.slot 3 .left = none ∧ slotEx.slot 0 .left = some unused ∧ slotEx.hdr.wmap[0]? = some 5 ∧ slotEx.wslots = [] ∧ slotEx.reserved = []
    ∧ slotRefuses 5 (sc 1) = none ∧ (slotRefuses 5 vv).isSome = true := by decide
theorem witness_RegistersReadAndWritten : (sc 1).isNull = false ∧ Token.nullScalar.isNull = true ∧ vv.kind = .vec ∧ vv.lw = 6 ∧ 4 * 2 ^ vv.lw ≤ 2048 ∧ mm.kind = .mask := by decide
/-- A strand inside a trap whose frame is mapped. -/
def retIn (s : State) : State := { s with ctxs := [{ idleCtx 0 with ff := 0x10000, sup := true, intrap := true }] }
/-- Zeros at the end of a frame change nothing of what its check reads. -/
theorem take_drop_zeros (l : List Byte) (k off n : Nat) : ∃ j, ((l ++ List.replicate k 0).drop off).take n = (l.drop off).take n ++ List.replicate j 0 := by
  rw [List.drop_append, List.take_append, List.drop_replicate, List.take_replicate]
  exact ⟨_, rfl⟩
theorem leNat_zeros : ∀ (j : Nat) (l : List Byte), leNat (l ++ List.replicate j 0) = leNat l
  | 0, [] => rfl
  | j + 1, [] => by
    have ih := leNat_zeros j []
    rw [List.nil_append] at ih ⊢
    show (0 : Byte).toNat + 256 * leNat (List.replicate j 0) = 0
    rw [ih]
    rfl
  | j, b :: l => by rw [List.cons_append, leNat, leNat, leNat_zeros j l]
theorem frameCheck_zeros (l : List Byte) (k : Nat) : frameCheck (l ++ List.replicate k 0) = frameCheck l := by
  have hw (off n : Nat) : frameWord (l ++ List.replicate k 0) off n = frameWord l off n := by
    obtain ⟨j, hj⟩ := take_drop_zeros l k off n
    rw [frameWord, hj, leNat_zeros, frameWord]
  have hz (off n : Nat) : (((l ++ List.replicate k 0).drop off).take n).all (fun b => b = 0) = ((l.drop off).take n).all (fun b => b = 0) := by
    obtain ⟨j, hj⟩ := take_drop_zeros l k off n
    rw [hj, List.all_append, List.all_replicate]
    simp
  simp only [frameCheck, hw, hz]

/-- The worked pitch at 0, and a frame at 0x10000 in whose word 0x38 byte 1 is `b`, byte 0 is 0xFF and the others are 0. -/
def frameMem (b : Byte) : State := retIn { pitchState with mem := pitchState.mem ++ [(0x10038, 0xFF), (0x10039, b)] }
theorem memRead_skip (m : List Host.Cell) (k : Nat) : ∀ l : List Host.Cell, (∀ c ∈ l, c.1 < k) → memRead (l ++ m) k = memRead m k
  | [], _ => rfl
  | c :: l, h => by
    have hc := h c List.mem_cons_self
    rw [List.cons_append, memRead, if_neg (by omega), if_neg (by omega)]
    exact memRead_skip m k l (fun d hd => h d (List.mem_cons_of_mem c hd))
/-- Its bytes up to those. -/
def frameHead (b : Byte) : List Byte := List.replicate 56 0 ++ [0xFF, b]
theorem frame_byte (b : Byte) (i : Nat) : memRead [(0x10038, 0xFF), (0x10039, b)] (0x10000 + i) = (frameHead b)[i]?.getD 0 := by
  obtain h | rfl | rfl | h : i < 56 ∨ i = 56 ∨ i = 57 ∨ 57 < i := by omega
  · rw [memRead, if_neg (by omega), if_pos (by omega), frameHead, List.getElem?_append_left (by simpa using h), List.getElem?_replicate, if_pos h]
    rfl
  · rfl
  · rfl
  · rw [memRead, if_neg (by omega), if_neg (by omega), memRead, if_neg (by omega), if_neg (by omega), memRead, List.getElem?_eq_none (by simp [frameHead]; omega)]
    rfl
theorem frame_read (b : Byte) : ((List.range 16).map (fun p => 0x10000 + 4096 * p)).flatMap (fun p => (frameMem b).ownRead 0 p 4096)
    = frameHead b ++ List.replicate 65478 0 := by
  have hm (n a : Nat) : memReadN (frameMem b).mem a n = (List.range n).map (fun i => memRead (frameMem b).mem (a + i)) := by
    induction n generalizing a with
    | zero => rfl
    | succ n ih => rw [memReadN, ih, List.range_succ_eq_map, List.map_cons, List.map_map]; simp only [Function.comp_def, Nat.succ_eq_add_one, Nat.add_zero, Nat.add_assoc, Nat.add_comm 1]
  have h (p : Nat) : (frameMem b).ownRead 0 (0x10000 + 4096 * p) 4096 = (List.range 4096).map (fun i => (frameHead b)[4096 * p + i]?.getD 0) := by
    show memReadN (frameMem b).mem _ _ = _
    rw [hm]
    simp only [Nat.add_assoc]
    refine List.map_congr_left (fun i _ => ?_)
    rw [← frame_byte]
    refine memRead_skip _ _ _ (fun c hc => ?_)
    have hk : ∀ c ∈ pitchState.mem, c.1 < 0x10000 := by decide +kernel
    exact Nat.lt_of_lt_of_le (hk c hc) (Nat.le_add_right _ _)
  rw [List.flatMap_map]
  simp only [h]
  rw [flatMap_pages (fun i => (frameHead b)[i]?.getD 0) 4096 16]
  have hl : (frameHead b).length = 58 := by rw [frameHead, List.length_append, List.length_replicate]; rfl
  apply List.ext_getElem?
  intro i
  obtain h1 | h1 | h1 : i < 58 ∨ 58 ≤ i ∧ i < 65536 ∨ 65536 ≤ i := by omega
  · rw [List.getElem?_map, List.getElem?_range (by omega), List.getElem?_append_left (by omega), Option.map_some, List.getElem?_eq_getElem (by omega)]
    rfl
  · rw [List.getElem?_map, List.getElem?_range (by omega), List.getElem?_append_right (by omega), List.getElem?_replicate, if_pos (by omega), Option.map_some,
      List.getElem?_eq_none (by omega)]
    rfl
  · rw [List.getElem?_eq_none (by rw [List.length_map, List.length_range]; omega), List.getElem?_eq_none (by rw [List.length_append, List.length_replicate]; omega)]
theorem frame_pages (b : Byte) (hb : b = 0 ∨ b = 1) : (match (frameMem b).framePages 0x10000 { rd := true } 16 0 with
    | .ok ps => ps.map (·.1) == (List.range 16).map (fun p => 0x10000 + 4096 * p) && ((frameMem b).framePoison ps).isNone | .error _ => false) = true := by
  obtain rfl | rfl := hb <;> decide +kernel
/-- A poisoned sector of the frame. -/
theorem witness_TrapReturns_poison : (match ({ frameMem 0 with poison := [0x803] } : State).framePages 0x10000 { rd := true } 16 0 with
    | .ok ps => ({ frameMem 0 with poison := [0x803] } : State).framePoison ps == some 0x10060 | .error _ => false) = true := by decide +kernel
/-- A frame of zeros fails its check at word 0x38. -/
theorem witness_TrapReturns_bad : frameCheck (List.replicate 0x260 0) = some 0x38 := by decide +kernel
/-- The pitch at the frame's pc decodes. -/
theorem witness_TrapReturns_pitch : (match (frameMem 0).decodePitch ⟨true, 0, (frameMem 0).codeAt (idleCtx 0)⟩ 0 with | .ok _ => true | .error _ => false) = true := by
  decide +kernel
/-- The frame's pages are mapped and free of poison, and it is in order with byte 1 of word 0x38 at 1 (trapped before it began) and at 0. -/
theorem witness_TrapReturns_frame (b : Byte) (hb : b = 0 ∨ b = 1) : ∃ pages, (frameMem b).framePages 0x10000 { rd := true } 16 0 = .ok pages
    ∧ (frameMem b).framePoison pages = none ∧ frameCheck (pages.flatMap (fun p => (frameMem b).ownRead 0 p.1 4096)) = none
    ∧ natBit (frameWord (pages.flatMap (fun p => (frameMem b).ownRead 0 p.1 4096)) 0x38 8) 8 = b.toNat := by
  have hp := frame_pages b hb
  split at hp
  · rename_i ps h
    rw [Bool.and_eq_true, beq_iff_eq, Option.isNone_iff_eq_none] at hp
    have hr : ps.flatMap (fun p => (frameMem b).ownRead 0 p.1 4096) = frameHead b ++ List.replicate 65478 0 := by
      rw [← frame_read, ← hp.1, List.flatMap_map]
    refine ⟨ps, h, hp.2, ?_, ?_⟩
    · rw [hr, frameCheck_zeros]
      obtain rfl | rfl := hb <;> decide
    · rw [hr, frameWord]
      obtain ⟨j, hj⟩ := take_drop_zeros (frameHead b) 65478 0x38 8
      rw [hj, leNat_zeros]
      obtain rfl | rfl := hb <;> decide
  · exact absurd hp (by decide)
theorem witness_FrameCarriesImages : brEx.img.vl < 2 ^ 64 ∧ (idleCtx 0).sq < 2 ^ 64 ∧ (idleCtx 0).sk < 2 ^ 64 := by decide
theorem witness_StripProgressKept : (brEx.ffmin.getD brEx.img.vl) < (10 : BitVec 48).toNat ∧ natBits (0x0403 : Word).toNat 8 8 ≠ 0 := by decide
theorem witness_ElementChecksInOrder : spaceOf 0x2000000000000000 = 2 ∧ spaceLegal 0x5000000000000000 = false ∧ (addOffset 0x1000 (2 ^ 60)).2 = false
    ∧ offsetOf (addOffset 0x1000 1).1 % 8 ≠ 0 ∧ spaceOf 0x6000000000000000 = 6 ∧ spaceLegal 0x6000000000000000 = true
    ∧ spaceOf 0x1000000000000000 = 1 ∧ inWindow [] (scratchCore 0x1000000000000000) 0 8 = false := by decide

/-! ### Completion -/

/-- The premises of a matrix instruction that is alone in its pitch. -/
def nextMx (i : Instr) (ex : Exec) (o : Operands) : Bool :=
  fired i ex o && mxAccepts (tSite ex) o i == some true && ex.instr? 0 == some i && ex.mx.seq.isNone && !ex.mxPast 0 && !ex.mxBlocked 0
theorem next_of {i : Instr} {ex : Exec} {o : Operands} (s : State) (h : nextMx i ex o = true) : NextMatrix i (tIn s ex) (tSite ex) o := by
  simp only [nextMx, Bool.and_eq_true, beq_iff_eq, Option.isNone_iff_eq_none, Bool.not_eq_true'] at h
  exact ⟨⟨fires_of s h.1.1.1.1.1, rfl⟩, rfl, (show (0 : Nat) < 64 by decide), h.1.1.1.1.2, h.1.1.1.2, h.1.1.2, h.1.2, h.2, fun t _ ht => absurd ht (Nat.not_lt_zero _)⟩
/-- A sample's premises, and the machine, the strand and the execution once it has fired. -/
def nextSample (t : Instr × Token × Token) : Bool := nextMx t.1 (mxEx t) (opsOf t.1 t.2.1 t.2.2 unused none)
def afterFiring (s : State) (t : Instr × Token × Token) : State := firedState (tIn s (mxEx t)) (tSite (mxEx t))
def readableAfter (t : Instr × Token × Token) (rs : List MxRegion) : Option Nat :=
  readable (afterFiring tMapped t) (firedCtx (tSite (mxEx t))) (firedMx (tSite (mxEx t))) rs
theorem witness_TransfersComplete : mxSamples.all nextSample = true
    ∧ mxSamples.all (fun t => (match t.1 with | .tz _ | .ldt _ | .stt _ | .scld _ => wholeOpen t.1 (opsOf t.1 t.2.1 t.2.2 unused none) | _ => true)) = true
    ∧ readableAfter (.ldt (ta true), sc 0x1000, sc 256) (tileRows (ta true) (opsOf (.ldt (ta true)) (sc 0x1000) (sc 256) unused none)) = some 8192
    ∧ (let a : ScldArgs := ⟨.always, 0, 3, .s9⟩
      readableAfter (.scld a, sc 0x1000, unused) (scaleRows a (opsOf (.scld a) (sc 0x1000) unused unused none)) = some 8) := by decide
theorem witness_TransfersComplete_stt : (let t : Instr × Token × Token := (.stt (ta false), sc 0x1000, sc 128)
    let s := afterFiring tMapped t
    (match s.mxCheck (firedCtx (tSite (mxEx t))) true true (tileRows (ta false) (opsOf t.1 t.2.1 t.2.2 unused none)) with | .ok _ => true | .error _ => false)
      && decide (s.tsbUsed 0 + 1 ≤ 16)) = true := by decide

def gt : GemmArgs := ⟨.always, 0, 0, .tile, .tile, 0, 2, 0⟩
def solverSamples : List (Instr × BlockArgs) :=
  [(.cholT b1, b1), (.trsmT bl, bl), (.syrkT bl, bl), (.qrT bl, bl)]
theorem slotGranted_reset (s : State) (x : Ctx) (h : x.slot < 8) (ht : (s.slotTable x.core).1 = 0x8888888888888888)
    (hr : s.rotation x.core / 64 < 16) : SlotGranted s x := by
  refine ⟨h, Or.inl ?_⟩
  rw [ht]
  generalize s.rotation x.core / 64 = n at hr
  revert n
  decide
theorem witness_SteppedInstructionsComplete : nextSample (.opa oa, v64 [fone, ftwo], v64 [ftwo, fone]) = true ∧ nextSample (.gemmT gt, unused, unused) = true
    ∧ State.reset.noSlot 0 0 = false ∧ (Desc.ofWord d64).scl = 0 ∧ (mxEx (.opa oa, v64 [fone, ftwo], v64 [ftwo, fone])).img.fe = 0
    ∧ (match (afterFiring State.reset (.gemmT gt, unused, unused)).gemmSeq (firedCtx (tSite (mxEx (.gemmT gt, unused, unused))))
        (firedMx (tSite (mxEx (.gemmT gt, unused, unused)))) 0 gt (opsOf (.gemmT gt) unused unused unused none) false with
      | .ok q => q.total == 1 | .error _ => false) = true
    ∧ wholeOpen (.gemmT gt) (opsOf (.gemmT gt) unused unused unused none) = true ∧ State.reset.early = []
    ∧ solverSamples.all (fun t => nextSample (t.1, unused, unused) && solver t.1 == some t.2 && (solverOverlap t.1).isNone
        && wholeOpen t.1 (opsOf t.1 unused unused unused none)) = true ∧ b1.f1 = false := by decide
theorem witness_SteppedInstructionsComplete_granted (t : Instr × Token × Token) : SlotGranted (tIn State.reset (mxEx t)) (tSite (mxEx t)).x :=
  slotGranted_reset _ _ (show (0 : Nat) < 8 by decide) rfl (Nat.div_lt_of_lt_mul (Nat.mod_lt _ (by decide)))

theorem witness_ProductSteps : (let t : Instr × Token × Token := (.gemmT gt, unused, unused)
    let q : MxSeq := ⟨0, 0, 1, [], [3], [5]⟩
    let s := tIn tMapped (stepEx t)
    s.granted (tCtx (stepEx t)) && (stepEx t).instr? 0 == some t.1 && (stepEx t).operands 0 (slotsOf t.1) == some (opsOf t.1 t.2.1 t.2.2 unused none)
      && ((stepEx t).env (tCtx (stepEx t)) 0).fe == 0
      && (match s.gemmBlocks (tCtx (stepEx t)) (stepEx t) q gt (opsOf t.1 t.2.1 t.2.2 unused none) none 0 with | .ok (a, b) => a == 3 && b == 5 | .error _ => false)) = true := by
  decide

/-- The lead's request, and a follower's that matches it, in a channel that waits. -/
def pairT : Instr × Token × Token := (.gemmTPair gt, unused, unused)
def otherSide : PairSide := { pairRequest (tSite (mxEx pairT)) gt with ctx := 9, lead := false }
def halfPair : PairCh := ⟨0, .half, [otherSide], 0, [], [], otherSide, []⟩
def follower : Ctx := { idleCtx 0 with id := 9, core := 16 }
theorem witness_RopedProductsComplete : nextSample pairT = true ∧ wholeOpen pairT.1 (opsOf pairT.1 unused unused unused none) = true
    ∧ (match (afterFiring State.reset pairT).gemmSeq (firedCtx (tSite (mxEx pairT))) (firedMx (tSite (mxEx pairT))) 0 gt
        (opsOf pairT.1 unused unused unused none) (!(tSite (mxEx pairT)).x.isLead) with | .ok q => q.total == 1 | .error _ => false) = true
    ∧ (tIn State.reset (mxEx pairT)).pair? (pairId 0 0) = none
    ∧ (let s0 := tIn { State.reset with pairs := [halfPair] } (mxEx pairT)
      let s := { s0 with ctxs := s0.ctxs ++ [follower] }
      s.site = some (tSite (mxEx pairT)) ∧ s.pair? (pairId 0 0) = some halfPair ∧ halfPair.stage = .half ∧ halfPair.party = [] ∧ otherSide.lead ≠ (tSite (mxEx pairT)).x.isLead
        ∧ otherSide.fits (pairRequest (tSite (mxEx pairT)) gt) = true ∧ s.ctx? 9 = some follower ∧ s.noSlot 16 0 = false ∧ s.noSlot 0 0 = false) := by decide
theorem witness_RopedProductsComplete_step : (let p : PairCh := ⟨0, .run, [otherSide, pairRequest (tSite (mxEx pairT)) gt], 0, [], [], otherSide, []⟩
    let s0 := tIn { State.reset with pairs := [p] } (stepEx pairT)
    let s := { s0 with ctxs := s0.ctxs ++ [follower] }
    s.granted (tCtx (stepEx pairT)) && s.pair? (pairId 0 0) == some p && s.pairActive p && decide (p.blocks.length < 8) && (tCtx (stepEx pairT)).isLead
      && (match s.gemmBlocks (tCtx (stepEx pairT)) (stepEx pairT) ⟨0, 0, 1, [], [], []⟩ gt (opsOf pairT.1 unused unused unused none) none 0 with
        | .ok _ => true | .error _ => false)) = true := by decide

/-- A strand's pitch that belays with one effect. -/
def loneIn (x : Ctx → Ctx) (s : State) (e : Effect) : State := { s with ctxs := [x (tCtx (doneEx (.goto 0x80) [(1, e)]))], nextId := 8 }
theorem lone_of (s : State) (e : Effect) (h : (loneIn id s e).belayWaits (tCtx (doneEx (.goto 0x80) [(1, e)])) (doneEx (.goto 0x80) [(1, e)]) = false) :
    LoneEffect (loneIn id s e) 0 (tCtx (doneEx (.goto 0x80) [(1, e)])) (doneEx (.goto 0x80) [(1, e)]) 1 e :=
  ⟨⟨rfl, rfl, rfl⟩, rfl, ⟨0, 0x80, rfl⟩, rfl, by decide, rfl, rfl, rfl, rfl, rfl, h⟩
def loneWaits (e : Effect) : Bool := (loneIn id State.reset e).belayWaits (tCtx (doneEx (.goto 0x80) [(1, e)])) (doneEx (.goto 0x80) [(1, e)])
theorem witness_BelayIssuesCommands : [CmdKind.cpyInline, .cpy, .meshInit, .hpRelocate, .rgLoad, .lbCut].all (fun k =>
    !loneWaits (.cmd ⟨k, 0, 0x4000, 0x5000, 2, 7, false⟩)) = true := by decide
theorem witness_BelaySendsRequests : [Effect.router (.seed 5), .router (.push 0 recPtr 9), .op (.jobq 3) [], .op (.meshClose 0x1000) [], .op (.cardSig 0x0C00000000002000) [],
      .op (.cardPost 0x0C00000000002000 5) [], .esack 3].all (fun e => !loneWaits e) = true ∧ plainOp (.jobq 3) = true ∧ selPeer 5 = false := by decide
theorem witness_BelaySendsRequests_trigger : (let x : Ctx → Ctx := fun x => { x with job := .nest 1 0 }
    LoneEffect (loneIn x State.reset .trigger) 0 (x (tCtx (doneEx (.goto 0x80) [(1, .trigger)]))) (doneEx (.goto 0x80) [(1, .trigger)]) 1 .trigger
      ∧ (x (tCtx (doneEx (.goto 0x80) [(1, .trigger)]))).triggered = false) :=
  ⟨⟨⟨rfl, rfl, rfl⟩, rfl, ⟨0, 0x80, rfl⟩, rfl, by decide, rfl, rfl, rfl, rfl, rfl, by decide⟩, rfl⟩

theorem witness_UnitCommandsRun : Alone State.reset ∧ NoCopies State.reset
    ∧ [CmdKind.cpyr, .meshInit, .meshAdapt, .meshFree, .nbrStream, .colBuild, .lbCut, .lbMigrate, .ghostSync].all (fun k =>
      ({ State.reset with cmds := [cmdOf k] }).ready 5 k == some (cmdOf k)) = true := ⟨⟨rfl, rfl⟩, by intro h hh; simp [State.reset] at hh, by decide⟩
theorem witness_ScopesNest : Scope.below .cluster .home = true ∧ Scope.holds .cluster 0 0 5 7 (.strand 3 9 8) = true
    ∧ Scope.below .engine .package = true ∧ Scope.holds .engine 0 4 5 7 (.engine 8 (some 4)) = true := by decide
/-- A fence at die scope has let a load perform early; a unit of that die would write what it read. -/
theorem witness_UnitWritesTakeTurns : (let e : Early := { id := 4, ctx := 0, core := 0, launch := 1, bytes := [(none, 0x1000, 8)], wr := false, passed := [(3, [.die])] }
    let s := { State.reset with net := [⟨3, .ctx 0, 15, .fence .die 0xFFFF, none, 3, 0, none⟩], early := [e] }
    s.earlyChanged (s.poke 0x1000 8 5) (.unit 0) = true ∧ s.earlyChanged (s.poke 0x1000 8 5) (.unit 4) = false) := by decide

end Sys2Proof.Tests
end

section

namespace Sys2Proof.Machine

/-! ### The order of values (R101) -/

/-- The sign of a significand acts as negation. -/
theorem finInt_not (s : Bool) (n : Nat) : finInt (!s) n = -finInt s n := by
  cases s <;> simp [finInt]

/-- `a - b` and `b - a` are opposite. -/
theorem addExact_not_swap (s : Bool) (m : Nat) (e : Int) (t : Bool) (n : Nat) (g : Int) :
    (addExact t n g (!s) m e).1 = -(addExact s m e (!t) n g).1 := by
  simp only [addExact, finInt_not, min_comm g e]
  omega

/-- Two zeros differ by zero, whatever their signs and exponents. -/
theorem addExact_zeros (s : Bool) (e : Int) (t : Bool) (g : Int) : (addExact s 0 e t 0 g).1 = 0 := by
  simp [addExact, finInt]

theorem fEq_comm (a b : FVal) : fEq a b = fEq b a := by
  cases a with
  | nan p => cases b <;> rfl
  | inf s => cases b with
    | nan q => rfl
    | inf t => exact Bool.beq_comm
    | fin t n g => rfl
  | fin s m e => cases b with
    | nan q => rfl
    | inf t => rfl
    | fin t n g =>
      rw [Bool.eq_iff_iff]
      simp [fEq, addExact_not_swap s m e t n g]

theorem fEq_eq_false_of_fLt {a b : FVal} (h : fLt a b = true) : fEq a b = false := by
  cases a with
  | nan p => rfl
  | inf s => cases b with
    | nan q => rfl
    | inf t => cases s <;> cases t <;> simp [fLt, fEq] at h ⊢
    | fin t n g => rfl
  | fin s m e => cases b with
    | nan q => rfl
    | inf t => rfl
    | fin t n g =>
      have hneg : (addExact s m e (!t) n g).1 < 0 := of_decide_eq_true h
      simpa [fEq] using hneg.ne

theorem fLt_asymm {a b : FVal} (h : fLt a b = true) : fLt b a = false := by
  cases a with
  | nan p => cases b <;> rfl
  | inf s => cases b with
    | nan q => rfl
    | inf t => cases s <;> cases t <;> simp [fLt] at h ⊢
    | fin t n g => simpa [fLt] using h
  | fin s m e => cases b with
    | nan q => rfl
    | inf t => simpa [fLt] using h
    | fin t n g =>
      have hneg : (addExact s m e (!t) n g).1 < 0 := of_decide_eq_true h
      simp only [fLt, addExact_not_swap s m e t n g]
      exact decide_eq_false (by omega)

/-- Where one value is numerically less, R101's order is the numeric one. -/
theorem fBelow_of_fLt {a b : FVal} (h : fLt a b = true) : fBelow a b = true := by
  simp [fBelow, fEq_eq_false_of_fLt h, h]

theorem not_fBelow_of_fLt {a b : FVal} (h : fLt a b = true) : fBelow b a = false := by
  simp [fBelow, fEq_comm b a, fEq_eq_false_of_fLt h, fLt_asymm h]

/-- Among zeros the sign alone decides. -/
theorem fBelow_zeros (s : Bool) (e : Int) (t : Bool) (g : Int) : fBelow (.fin s 0 e) (.fin t 0 g) = (s && !t) := by
  simp [fBelow, fEq, addExact_zeros, FVal.sign]

/-! ### vfmin and vfmax on values (R101) -/

@[simp] theorem isNan_nan (p : Bool) : (FVal.nan p).isNan = true := rfl
@[simp] theorem isSig_nan (p : Bool) : (FVal.nan p).isSig = p := rfl

/-- A number is no signalling NaN. -/
theorem isSig_eq_false_of_not_isNan {a : FVal} (h : a.isNan = false) : a.isSig = false := by
  cases a with
  | nan p => cases h
  | inf s => rfl
  | fin s m e => rfl

theorem fMinMax_of_isSig (w : Bool) {a b : FVal} (h : a.isSig = true ∨ b.isSig = true) : fMinMax w a b = (.nan false, flNV) :=
  if_pos (by simpa using h)

theorem fMinMax_quiet_left (w : Bool) {a : FVal} (ha : a.isNan = false) : fMinMax w (.nan false) a = (a, 0) := by
  simp [fMinMax, ha, isSig_eq_false_of_not_isNan ha, flNone]

theorem fMinMax_quiet_right (w : Bool) {a : FVal} (ha : a.isNan = false) : fMinMax w a (.nan false) = (a, 0) := by
  simp [fMinMax, ha, isSig_eq_false_of_not_isNan ha, flNone]

/-- On numbers `fMinMax` only chooses between its operands. -/
theorem fMinMax_of_numbers (w : Bool) {a b : FVal} (ha : a.isNan = false) (hb : b.isNan = false) :
    fMinMax w a b = (if (if w then fBelow a b else fBelow b a) then b else a, 0) := by
  cases w <;> simp [fMinMax, ha, hb, isSig_eq_false_of_not_isNan, flNone]

theorem fMinMax_flags_of_not_isSig (w : Bool) {a b : FVal} (ha : a.isSig = false) (hb : b.isSig = false) : (fMinMax w a b).2 = 0 := by
  simp only [fMinMax, ha, hb, Bool.or_self, Bool.false_eq_true, if_false]
  split_ifs <;> rfl

theorem fMinMax_of_fLt {a b : FVal} (ha : a.isNan = false) (hb : b.isNan = false) (h : fLt a b = true) :
    fMinMax false a b = (a, 0) ∧ fMinMax true a b = (b, 0) := by
  simp [fMinMax_of_numbers, ha, hb, fBelow_of_fLt h, not_fBelow_of_fLt h]

theorem fMinMax_of_fLt_swap {a b : FVal} (ha : a.isNan = false) (hb : b.isNan = false) (h : fLt b a = true) :
    fMinMax false a b = (b, 0) ∧ fMinMax true a b = (a, 0) := by
  simp [fMinMax_of_numbers, ha, hb, fBelow_of_fLt h, not_fBelow_of_fLt h]

/-- Of two zeros the minimum is the first unless only the second is negative, and the maximum the first unless only it is negative. -/
theorem fMinMax_zeros (w s : Bool) (e : Int) (t : Bool) (g : Int) :
    fMinMax w (.fin s 0 e) (.fin t 0 g) = (if (if w then s && !t else t && !s) then .fin t 0 g else .fin s 0 e, 0) := by
  simp only [fMinMax_of_numbers w (a := .fin s 0 e) (b := .fin t 0 g) rfl rfl, fBelow_zeros]

/-- Settles O5: the order is asymmetric because exchanging two values negates their difference, and what either instruction delivers
for an element is its form by definition. -/
theorem floatMinMaxOrdersZerosAndNaNs : Obligations.FloatMinMaxOrdersZerosAndNaNs := by
  refine ⟨fun w a b h => fMinMax_of_isSig w h, fun w => rfl, fun w a ha => ⟨fMinMax_quiet_left w ha, fMinMax_quiet_right w ha⟩,
    fun w a b ha hb => fMinMax_flags_of_not_isSig w ha hb, fun a b ha hb => fMinMax_of_fLt ha hb,
    fun a b ha hb => fMinMax_of_fLt_swap ha hb, fun e e' => ?zeros, fun o env d xs => ⟨rfl, rfl⟩⟩
  case zeros => simp [fMinMax_zeros]

end Sys2Proof.Machine

end

section

namespace Sys2Proof.Machine

open Sys2Proof.Claims

/-! ### The working image of the windows (R191) -/

section WorkingImage

variable (s : State) (x : Ctx) (ex : Exec)

/-- A window is read from the context's windows, its core's tiles and the working image given: the stored execution does not enter it. -/
@[simp] theorem tile_withExec (e : Exec) (w : Nat) : (withExec s x e).tile { x with cur := some e } ex w = s.tile x ex w := rfl

@[simp] theorem tile_mxApplied (k w : Nat) : s.tile x (ex.mxApplied k) w = s.tile x ex w := rfl

@[simp] theorem tile_setTile_self (w : Nat) (b : BitVec 32768) : s.tile x (ex.setTile w b) w = b := by
  simp [State.tile, Exec.setTile]

theorem tile_setTile_ne {w u : Nat} (b : BitVec 32768) (h : w ≠ u) : s.tile x (ex.setTile u b) w = s.tile x ex w := by
  simp only [State.tile, Exec.setTile, List.find?_cons, Ne.symm h, decide_false]
  rw [find?_filter_ne w u ex.mx.tiles h]

end WorkingImage

/-! ### Applying a matrix instruction (R191) -/

/-- Index `k` is past once it has been applied: a pitch has 64 indices. -/
theorem mxPast_mxApplied (ex : Exec) {k : Nat} (h : k < 64) : (ex.mxApplied k).mxPast k = true := by
  have hbit : (BitVec.ofNat 64 (2 ^ k)).getLsbD k = true := by
    rw [BitVec.getLsbD_ofNat, Nat.testBit_two_pow_self, Bool.and_true, decide_eq_true h]
  simp only [Exec.mxPast, Exec.mxApplied, BitVec.getLsbD_or, hbit, Bool.or_true, Bool.true_or]

/-- An instruction that acts as one whole is skipped exactly when it does not take effect (R17). -/
theorem skip_eq_not_wholeOpen (i : Instr) (v : Operands) :
    (!predOpen v.p 0 || (usedTokens i v).any (·.isNull)) = !wholeOpen i v := by
  simp [wholeOpen, List.all_eq_not_any_not]

/-- A due matrix instruction does what `mxApply` says. -/
theorem exec_matrixApply_of_due {s t : State} {c k : Nat} {x : Ctx} {ex : Exec} {i : Instr} {v : Operands}
    (h : DueMatrix s c k x ex i v) (happly : s.mxApply x ex k i v = some t) : exec (.matrixApply c k) s = .next t := by
  obtain ⟨⟨hctx, hactive, hcur⟩, hdue, hinstr, hops⟩ := h
  simp [exec_matrixApply, execMatrixApply, hctx, hactive, hcur, hdue, hinstr, hops, happly]

theorem ctx?_withExec {s : State} {c : Nat} {x : Ctx} (h : s.ctx? c = some x) (ex : Exec) :
    (withExec s x ex).ctx? c = some { x with cur := some ex } :=
  ctx?_setCtx h (show x.id = c from ctx?_id h)

/-! ### tz (R199) -/

/-- The working image with the windows that tz names set to 0. -/
def Exec.zeroTiles (ex : Exec) (a : TileArgs) : Exec :=
  if a.pair then (ex.setTile a.td.toNat 0).setTile (a.td.toNat + 1) 0 else ex.setTile a.td.toNat 0

section ZeroTiles

variable (s : State) (x : Ctx) (ex : Exec) {a : TileArgs}

theorem mxApply_tz {k : Nat} {v : Operands} (h : wholeOpen (.tz a) v = true) :
    s.mxApply x ex k (.tz a) v = some (withExec s x ((ex.zeroTiles a).mxApplied k)) := by
  simp only [State.mxApply, skip_eq_not_wholeOpen, h]
  rfl

theorem tile_zeroTiles_first : s.tile x (ex.zeroTiles a) a.td.toNat = 0 := by
  unfold Exec.zeroTiles
  split
  · rw [tile_setTile_ne s x _ 0 (Nat.ne_add_one _), tile_setTile_self]
  · exact tile_setTile_self s x ex _ 0

theorem tile_zeroTiles_second (h : a.pair = true) : s.tile x (ex.zeroTiles a) (a.td.toNat + 1) = 0 := by
  rw [Exec.zeroTiles, if_pos h, tile_setTile_self]

theorem tile_zeroTiles_other {w : Nat} (hfirst : w ≠ a.td.toNat) (hsecond : a.pair = true → w ≠ a.td.toNat + 1) :
    s.tile x (ex.zeroTiles a) w = s.tile x ex w := by
  unfold Exec.zeroTiles
  split
  case isTrue hpair => rw [tile_setTile_ne s x _ 0 (hsecond hpair), tile_setTile_ne s x ex 0 hfirst]
  case isFalse => exact tile_setTile_ne s x ex 0 hfirst

end ZeroTiles

/-- Settles O18: a due tz is applied as `zeroTiles` and marked as past, and reading a window after `setTile` finds the written image
under its own number and the old one under any other. -/
theorem tzZeroesTheTile : Obligations.TzZeroesTheTile := by
  intro s c k x ex a v hdue hk hopen
  obtain ⟨hctx, -, -⟩ := hdue.1
  refine ⟨_, _, _, exec_matrixApply_of_due hdue (mxApply_tz s x ex hopen), ctx?_withExec hctx _, rfl, mxPast_mxApplied _ hk,
    ?first, fun hpair => ?second, fun w hfirst hsecond => ?others⟩
  case first => simpa using tile_zeroTiles_first s x ex
  case second => simpa using tile_zeroTiles_second s x ex hpair
  case others => simpa using tile_zeroTiles_other s x ex hfirst hsecond

end Sys2Proof.Machine

end

section

namespace Sys2Proof.Machine

open Sys2Proof.Claims

/-! ### The step of a unit whose command's record is read (R276, R277) -/

/-- `unitWrite` takes a unit's step as `UnitStep` has it: at once when unhindered, else the copies' invalidations leave first. -/
theorem unitStep_unitWrite (s t : State) (a : Agent) (event : String) : UnitStep s t a (s.unitWrite t a event) := by
  refine ⟨fun ⟨hcopies, hearly⟩ => ?atOnce, fun hearly hcopies hfree => ?invalidated⟩
  case atOnce => simp [State.unitWrite, hcopies, hearly]
  case invalidated =>
    have hbusy : (s.copiesChanged t).any (fun c => s.sectorBusy s.nextId (32 * c.sector) 32) = false := by
      simpa using hfree
    simp [State.unitWrite, hearly, hcopies, hbusy]

/-- The kinds whose record names a mesh are those of `CmdKind.mesh`. -/
theorem withWords_eq (c : Cmd) (ws : List Word) :
    withWords c ws = { c with words := ws, mdie := if c.req.kind.mesh then meshDie (ws.getD 1 0) else c.mdie } := by
  unfold withWords
  split <;> simp_all [CmdKind.mesh]

/-- A run on a record that reads as `ws` is a unit's step to what the run leaves. -/
theorem unitStep_withRecord {s t : State} {c : Cmd} {ws : List Word} {event : String} {f : State → Cmd → Option State}
    (hrec : s.readRecord c = .ok ws) (hrun : f (afterRecord s c ws) (withWords c ws) = some t) :
    UnitStep s t (.engine (withWords c ws).mdie c.ctx) (s.withRecord c event f) := by
  have hwrite : s.withRecord c event f = s.unitWrite t (.engine (withWords c ws).mdie c.ctx) event := by
    rw [afterRecord, withWords_eq] at hrun
    simp only [State.withRecord, hrec, withWords_eq, hrun]
  rw [hwrite]
  exact unitStep_unitWrite s t _ event

/-! ### lb.cut at its unit (R390, R391) -/

/-- A command that awaits no peer's acknowledgement is run. -/
theorem lbNext_of_ready {s : State} {cmd : Nat} {k : CmdKind} {c : Cmd} (hready : s.ready cmd k = some c) (haux : c.aux ≠ [3])
    (event : String) (run : Cmd → Out) : s.lbNext cmd k event run = run c := by
  simp [State.lbNext, hready, haux]

/-- With no write of its own out at a peer, a command that has made its accesses completes. -/
theorem lbEnd_of_no_writes_out {t : State} {c : Cmd} (h : ∀ m ∈ t.net, m.src ≠ .cmd c.id) : t.lbEnd c = t.cmdDone c false :=
  if_neg (by simpa using h)

theorem unitStep_lbCutRun_of_lbBad {s : State} {cmd : Nat} {c : Cmd} {ws : List Word} (hnext : RunsNext s cmd .lbCut c ws)
    (haux : c.aux ≠ [3]) (hbad : (withWords c ws).lbBad = true) :
    UnitStep s ((afterRecord s c ws).lbReject (withWords c ws)) (.engine (withWords c ws).mdie c.ctx) (exec (.lbCutRun cmd) s) := by
  obtain ⟨hready, hrec⟩ := hnext
  rw [exec_lbCutRun, execLbCutRun, lbNext_of_ready hready haux]
  exact unitStep_withRecord hrec (if_pos hbad)

theorem unitStep_lbCutRun_of_engCut {s t : State} {cmd : Nat} {c : Cmd} {ws : List Word} (hnext : RunsNext s cmd .lbCut c ws)
    (haux : c.aux ≠ [3]) (hbad : (withWords c ws).lbBad = false) (hcut : engCut (withWords c ws) (afterRecord s c ws) = .ok ((), t))
    (hout : ∀ m ∈ t.net, m.src ≠ .cmd c.id) :
    UnitStep s (t.cmdDone (withWords c ws) false) (.engine (withWords c ws).mdie c.ctx) (exec (.lbCutRun cmd) s) := by
  obtain ⟨hready, hrec⟩ := hnext
  rw [exec_lbCutRun, execLbCutRun, lbNext_of_ready hready haux]
  exact unitStep_withRecord hrec (by simp [hbad, State.runEng, hcut, ranTo, lbEnd_of_no_writes_out (c := withWords c ws) hout])

/-- What lb.cut does with the weights that it has read. -/
theorem engCut_of_engRead {c : Cmd} {u v : State} {bs : List Byte} (h : engRead c 4 (4 * c.w 3) (c.words.getD 2 0) 0 u = .ok (bs, v)) :
    engCut c u = engPuts c 4 (c.words.getD 5 0) 0
      (cutArray (c.w 4) ((List.range (c.w 3)).map (fun i => leNat ((bs.drop (4 * i)).take 4)))) v := by
  simp only [engCut, bind, StateT.bind, h, Except.bind]

/-! ### The cut array (R391) -/

theorem prefixSums_append_singleton (ws : List Nat) (w : Nat) :
    prefixSums (ws ++ [w]) = prefixSums ws ++ [(prefixSums ws).getLastD 0 + w] := by
  simp [prefixSums]

/-- S(c) is the sum of the first c weights. -/
theorem prefixSums_eq_map_sum_take (ws : List Nat) :
    prefixSums ws = (List.range (ws.length + 1)).map (fun c => (ws.take c).sum) := by
  induction ws using List.reverseRecOn with
  | nil => rfl
  | append_singleton ws w ih =>
    have hshort : (List.range (ws.length + 1)).map (fun c => ((ws ++ [w]).take c).sum)
        = (List.range (ws.length + 1)).map (fun c => (ws.take c).sum) := by
      refine List.map_congr_left fun c hc => ?_
      rw [List.take_append_of_le_length (Nat.lt_succ_iff.mp (List.mem_range.mp hc))]
    rw [prefixSums_append_singleton, List.length_append, List.length_singleton, List.range_succ (n := ws.length + 1), List.map_append,
      hshort, ih]
    simp [List.range_succ]

theorem getElem_prefixSums {ws : List Nat} {c : Nat} (h : c < (prefixSums ws).length) : (prefixSums ws)[c] = (ws.take c).sum := by
  simp [prefixSums_eq_map_sum_take]

/-- T = S(N). -/
@[simp] theorem getLast?_prefixSums (ws : List Nat) : (prefixSums ws).getLast? = some ws.sum := by
  simp [prefixSums_eq_map_sum_take, List.range_succ]

/-- The first place where S meets a bound: S meets it there and at no earlier place. -/
theorem findIdx_prefixSums_least {ws : List Nat} {q : Nat → Bool} (htotal : q ws.sum = true) :
    q (ws.take ((prefixSums ws).findIdx q)).sum = true ∧ ∀ c, c < (prefixSums ws).findIdx q → q (ws.take c).sum = false := by
  have hlt : (prefixSums ws).findIdx q < (prefixSums ws).length := by
    refine List.findIdx_lt_length_of_exists ⟨ws.sum, ?_, htotal⟩
    rw [prefixSums_eq_map_sum_take]
    exact List.mem_map.mpr ⟨ws.length, by simp, by simp⟩
  refine ⟨?here, fun c hc => ?earlier⟩
  case here =>
    have h := List.findIdx_getElem (w := hlt)
    rwa [getElem_prefixSums] at h
  case earlier =>
    have h := List.not_of_lt_findIdx hc
    rw [getElem_prefixSums] at h
    simpa using h

@[simp] theorem length_cutArray (parts : Nat) (ws : List Nat) : (cutArray parts ws).length = parts + 1 := by
  simp [cutArray]

theorem getD_cutArray {ws : List Nat} {parts p : Nat} (hp : p ≤ parts) :
    (cutArray parts ws).getD p 0 =
      if ws.sum = 0 then p * ws.length / parts else (prefixSums ws).findIdx (fun x => decide (p * ws.sum ≤ parts * x)) := by
  simp [cutArray, List.getElem?_range (Nat.lt_succ_of_le hp)]

/-- The cut of a part meets the part's share, for the whole meets every share, and nothing below the cut does. -/
theorem cutArray_least {ws : List Nat} {parts p : Nat} (hp : p ≤ parts) (hsum : ws.sum ≠ 0) :
    p * ws.sum ≤ parts * (ws.take ((cutArray parts ws).getD p 0)).sum
      ∧ ∀ c, c < (cutArray parts ws).getD p 0 → parts * (ws.take c).sum < p * ws.sum := by
  rw [getD_cutArray hp, if_neg hsum]
  have hwhole : decide (p * ws.sum ≤ parts * ws.sum) = true := decide_eq_true (Nat.mul_le_mul_right _ hp)
  obtain ⟨hmeets, hbelow⟩ := findIdx_prefixSums_least (q := fun x => decide (p * ws.sum ≤ parts * x)) hwhole
  exact ⟨of_decide_eq_true hmeets, fun c hc => Nat.not_le.mp (of_decide_eq_false (hbelow c hc))⟩

/-- Settles O37: a run of lb.cut is a unit's step to what `lbBad` and `engCut` decide, and a cut is the first place whose sum of weights
meets its part's share. -/
theorem loadBalancerCutsEvenly : Obligations.LoadBalancerCutsEvenly := by
  refine ⟨fun s cmd c ws hnext haux => ⟨?rejected, ?written, ?array⟩,
    fun ws P p _ hp => ⟨length_cutArray P ws, ?noWeight, ?weighted⟩, ?worked⟩
  case rejected => exact unitStep_lbCutRun_of_lbBad hnext haux
  case written => exact fun hbad t hcut hout => unitStep_lbCutRun_of_engCut hnext haux hbad hcut hout
  case array => exact fun u v bs hread => engCut_of_engRead (c := withWords c ws) hread
  case noWeight => exact fun hsum => (getD_cutArray hp).trans (if_pos hsum)
  case weighted => exact cutArray_least hp
  case worked => decide

end Sys2Proof.Machine

end

section

namespace Sys2Proof.Machine

open Sys2Proof.Claims

/-! ### The list of bytes -/

/-- Below its bound a well-formed list has no byte. -/
theorem memRead_of_lt {lo k : Nat} {m : List Host.Cell} (h : memWfFrom lo m = true) (hk : k < lo) : memRead m k = Config.emptyByte := by
  cases m with
  | nil => rfl
  | cons c m =>
    simp only [memWfFrom, Bool.and_eq_true, decide_eq_true_eq] at h
    have hlt : k < c.1 := lt_of_lt_of_le hk h.1.1
    simp [memRead, hlt, hlt.ne]

/-- Reading after a write: the byte written at its key, the old one elsewhere. -/
theorem memRead_memWrite {lo : Nat} (a : Nat) (b : Byte) (k : Nat) :
    ∀ {m : List Host.Cell}, memWfFrom lo m = true → memRead (memWrite m a b) k = if k = a then b else memRead m k
  | [], _ => by
    by_cases hb : b = Config.emptyByte <;> by_cases hk : k = a <;> simp [memWrite, memRead, hb, hk]
  | (j, c) :: m, h => by
    simp only [memWfFrom, Bool.and_eq_true, decide_eq_true_eq] at h
    have htail := h.2
    have hout : ∀ i, i ≤ j → memRead m i = Config.emptyByte := fun i hi => memRead_of_lt htail (by omega)
    unfold memWrite
    split
    case isTrue hab => by_cases hb : b = Config.emptyByte <;> grind [memRead]
    case isFalse hab =>
      split
      case isTrue hlt => by_cases hb : b = Config.emptyByte <;> grind [memRead]
      case isFalse hlt => grind [memRead, memRead_memWrite a b k htail]

/-- A merge of masked bytes changes the bits of its masks at its keys and nothing elsewhere. -/
theorem memRead_memMergeN (k : Nat) : ∀ (bs : List (Byte × Byte)) {m : List Host.Cell} (a : Nat), Memory.wf m = true →
    memRead (memMergeN m a bs) k =
      match bs[k - a]? with
      | some (b, mask) => if a ≤ k then (b &&& mask) ||| (memRead m k &&& ~~~mask) else memRead m k
      | none => memRead m k
  | [], _, _, _ => rfl
  | (b, mask) :: bs, m, a, h => by
    rw [memMergeN, memRead_memMergeN k bs (a + 1) (memWrite_wf h a _), memRead_memWrite _ _ _ h]
    rcases lt_trichotomy k a with hlt | rfl | hgt
    · have hsub : k - a = 0 := by omega
      have hsub' : k - (a + 1) = 0 := by omega
      cases bs <;> simp [hsub, hsub', hlt.ne, Nat.not_le.mpr hlt, show ¬ a + 1 ≤ k by omega]
    · cases bs <;> simp
    · obtain ⟨d, rfl⟩ : ∃ d, k = a + 1 + d := ⟨k - (a + 1), by omega⟩
      have hidx : a + 1 + d - a = d + 1 := by omega
      have hne : a + 1 + d ≠ a := by omega
      simp [hidx, hne, show a ≤ a + 1 + d by omega]

theorem memRead_store {s : State} (h : s.Canonical) (a : Nat) (bs : List (Byte × Byte)) (k : Nat) :
    memRead (s.store a bs).mem k =
      match bs[k - a]? with
      | some (b, mask) => if a ≤ k then (b &&& mask) ||| (memRead s.mem k &&& ~~~mask) else memRead s.mem k
      | none => memRead s.mem k :=
  memRead_memMergeN k bs a h

theorem sameOutside_store {s : State} (h : s.Canonical) (a : Nat) (bs : List (Byte × Byte)) :
    SameOutside s (s.store a bs) a bs.length := by
  intro k hk
  rw [memRead_store h]
  rcases hk with hlt | hge
  · split
    · rw [if_neg (Nat.not_le.mpr hlt)]
    · rfl
  · rw [List.getElem?_eq_none (by omega)]

theorem memRead_store_at {s : State} (h : s.Canonical) {a i : Nat} {bs : List (Byte × Byte)} {b mask : Byte} (hi : bs[i]? = some (b, mask)) :
    memRead (s.store a bs).mem (a + i) = (b &&& mask) ||| (memRead s.mem (a + i) &&& ~~~mask) := by
  rw [memRead_store h, Nat.add_sub_cancel_left, hi]
  exact if_pos (Nat.le_add_right a i)

/-- Two canonical lists that start alike at or above a bound and read alike are equal. -/
theorem memWfFrom_ext : ∀ {m n : List Host.Cell} {lo lo' : Nat}, memWfFrom lo m = true → memWfFrom lo' n = true →
    (∀ k, memRead m k = memRead n k) → m = n
  | [], [], _, _, _, _, _ => rfl
  | [], (j, c) :: n, _, _, _, hn, hread => by
    simp only [memWfFrom, Bool.and_eq_true, bne_iff_ne, ne_eq] at hn
    exact absurd (by simpa [memRead] using (hread j).symm) hn.1.2
  | (j, c) :: m, [], _, _, hm, _, hread => by
    simp only [memWfFrom, Bool.and_eq_true, bne_iff_ne, ne_eq] at hm
    exact absurd (by simpa [memRead] using hread j) hm.1.2
  | (i, b) :: m, (j, c) :: n, _, _, hm, hn, hread => by
    simp only [memWfFrom, Bool.and_eq_true, bne_iff_ne, ne_eq] at hm hn
    have hi := hread i
    have hj := hread j
    obtain rfl : i = j := by
      rcases lt_trichotomy i j with hlt | heq | hgt
      · simp only [memRead, if_true, hlt.ne, if_false, hlt] at hi
        exact absurd hi hm.1.2
      · exact heq
      · simp only [memRead, if_true, hgt.ne, if_false, hgt] at hj
        exact absurd hj.symm hn.1.2
    obtain rfl : b = c := by simpa [memRead] using hi
    have htail : ∀ k, memRead m k = memRead n k := by
      intro k
      by_cases hk : k ≤ i
      · rw [memRead_of_lt hm.2 (by omega), memRead_of_lt hn.2 (by omega)]
      · have hk' := hread k
        simpa [memRead, show k ≠ i by omega, show ¬ k < i by omega] using hk'
    rw [memWfFrom_ext hm.2 hn.2 htail]

/-! ### Little-endian values (R3) -/

theorem leNat_natLe : ∀ (n v : Nat), v < 256 ^ n → leNat (natLe n v) = v
  | 0, v, h => by simpa [natLe, leNat, eq_comm] using h
  | n + 1, v, h => by
    have hdiv : v / 256 < 256 ^ n := Nat.div_lt_of_lt_mul (by rwa [pow_succ'] at h)
    rw [natLe, leNat, leNat_natLe n _ hdiv, BitVec.toNat_ofNat]
    omega

theorem getElem?_natLe : ∀ (n v i : Nat), i < n → (natLe n v)[i]? = some (BitVec.ofNat 8 (v / 256 ^ i))
  | n + 1, v, 0, _ => by simp [natLe]
  | n + 1, v, i + 1, h => by
    rw [natLe, List.getElem?_cons_succ, getElem?_natLe n _ i (Nat.lt_of_succ_lt_succ h), Nat.div_div_eq_div_mul, pow_succ']

@[simp] theorem length_natLe : ∀ (n v : Nat), (natLe n v).length = n
  | 0, _ => rfl
  | n + 1, v => by rw [natLe, List.length_cons, length_natLe n]

theorem memReadN_eq_map (m : List Host.Cell) : ∀ (n a : Nat), memReadN m a n = (List.range n).map (fun i => memRead m (a + i))
  | 0, _ => rfl
  | n + 1, a => by
    rw [memReadN, memReadN_eq_map m n (a + 1), List.range_succ_eq_map, List.map_cons, List.map_map]
    simp [Function.comp_def, Nat.add_assoc, Nat.add_comm 1]

theorem memReadN_poke {s : State} (h : s.Canonical) (a n v : Nat) : memReadN (s.poke a n v).mem a n = natLe n v := by
  refine List.ext_getElem? fun i => ?_
  by_cases hi : i < n
  · have hb : (fullBytes n v)[i]? = some (BitVec.ofNat 8 (v / 256 ^ i), 255) := by
      simp [fullBytes, getElem?_natLe n v i hi]
    have hfull (b c : Byte) : (b &&& 255) ||| (c &&& ~~~255) = b := by
      rw [show (255 : Byte) = BitVec.allOnes 8 from rfl, BitVec.not_allOnes, BitVec.and_allOnes, BitVec.and_zero, BitVec.or_zero]
    rw [memReadN_eq_map, List.getElem?_map, List.getElem?_range hi, getElem?_natLe n v i hi, State.poke, Option.map_some,
      memRead_store_at h hb, hfull]
  · simp [memReadN_eq_map, Nat.not_lt.mp hi]

theorem peek_poke {s : State} (h : s.Canonical) {a n v : Nat} (hv : v < 256 ^ n) : (s.poke a n v).peek a n = v := by
  rw [State.peek, memReadN_poke h, leNat_natLe n v hv]

/-- Settles O56: a well-formed list is searched past the key it was written at, and is determined by what it reads as. -/
theorem memoryKeepsWhatIsWritten : Obligations.MemoryKeepsWhatIsWritten := by
  refine ⟨⟨fun m a b h => ⟨memWrite_wf h a b, ?same, fun k hk => ?other⟩, fun s a bs h => ⟨store_canonical h a bs, sameOutside_store h a bs, ?masked⟩,
    fun m n hm hn => memWfFrom_ext hm hn⟩, leNat_natLe, fun n v i hi => getElem?_natLe n v i hi, fun s a n v h hv => peek_poke h hv⟩
  case same => rw [memRead_memWrite a b a h, if_pos rfl]
  case other => rw [memRead_memWrite a b k h, if_neg hk]
  case masked => exact fun i b k hi => memRead_store_at h hi

/-! ### Right after reset -/

/-- Settles O55: every list of the reset state is empty, so each unit reads as its reset value. -/
theorem resetStateAsStated : Obligations.ResetStateAsStated := by
  refine ⟨⟨rfl, rfl, rfl, rfl, fun j => rfl, fun d => ⟨rfl, rfl, rfl, rfl⟩, fun n => ⟨rfl, rfl, rfl⟩, rfl, fun j base p need => rfl⟩,
    reset_mem_wf, fun x hx => ?noStrand⟩
  case noStrand => exact absurd hx List.not_mem_nil

/-! ### The checks of one element (R131) -/

/-- Settles O60: each condition stands alone once those before it have failed. -/
theorem elementChecksComeInOrder : Obligations.ElementChecksComeInOrder := by
  intro s wins r f base d p
  refine ⟨fun hatom hspace => ?path, fun hatom hspace => ?illegal, fun hatom hwaitv hlegal => ⟨fun hout => ?overflow, fun hin =>
    ⟨fun halign => ?misaligned, fun halign => ⟨fun h6 hdev => ?shape, fun h6 hdev huser => ?mode, fun h1 hwin => ?window⟩⟩⟩⟩
  all_goals simp only [p] at *
  case path => rcases hspace with h | h <;> simp [State.checkElem, hatom, h]
  case illegal => rcases hspace with h | ⟨hwaitv, h⟩ <;> simp [State.checkElem, *]
  case overflow => simp [State.checkElem, hatom, hwaitv, hlegal, hout]
  case misaligned => simp [State.checkElem, hatom, hwaitv, hlegal, hin, halign]
  case shape => simp [State.checkElem, hatom, hwaitv, hlegal, hin, halign, h6, hdev]
  case mode => simp [State.checkElem, hatom, hwaitv, hlegal, hin, halign, h6, hdev, huser]
  case window => simp [State.checkElem, hatom, hwaitv, hlegal, hin, halign, h1, hwin]

/-- Settles O50: each example is decoded. -/
theorem specExamplesDecode : Obligations.SpecExamplesDecode := by
  intro t ht
  simp only [specWords, List.mem_cons, List.not_mem_nil, or_false] at ht
  rcases ht with rfl | rfl | rfl | rfl | rfl | rfl | rfl | rfl | rfl | rfl | rfl | rfl | rfl | rfl | rfl | rfl | rfl | rfl | rfl | rfl <;> rfl

/-! ### Time (R1) -/

/-- A fold of steps that leave the clock leaves the clock. -/
theorem now_foldl {α : Type} {f : State → α → State} (hf : ∀ s a, (f s a).now = s.now) (l : List α) (s : State) :
    (l.foldl f s).now = s.now := by
  induction l generalizing s with
  | nil => rfl
  | cons a l ih => rw [List.foldl_cons, ih, hf]

@[simp] theorem reply_now (s : State) (m : Msg) (r : Resp) : (s.reply m r).now = s.now := by
  unfold State.reply
  split <;> rfl

@[simp] theorem noticeWatches_now (s : State) : s.noticeWatches.now = s.now := by
  refine now_foldl (fun t m => ?_) _ s
  unfold State.noticeWatch
  split
  · dsimp only
    split <;> simp
  · rfl

@[simp] theorem noteBlocks_now (s : State) : s.noteBlocks.now = s.now := by
  refine now_foldl (fun t x => ?_) _ s
  split
  · unfold State.noteBlock
    dsimp only
    split
    · rfl
    · split <;> rfl
  · rfl

@[simp] theorem refillQueues_now (s : State) : s.refillQueues.now = s.now := by
  refine now_foldl (fun t d => now_foldl (fun u o => ?_) _ t) _ s
  unfold State.refillQueue
  dsimp only
  split <;> simp

@[simp] theorem askFills_now (s : State) : s.askFills.now = s.now := by
  refine now_foldl (fun t x => ?_) _ s
  dsimp only
  split <;> rfl

@[simp] theorem keepPeaks_now (s : State) : s.keepPeaks.now = s.now := by
  refine now_foldl (fun t x => ?_) _ s
  split <;> rfl

theorem after_now (s : State) : s.after.now = s.now + 1 := by
  simp [State.after]

/-! ### A step's choice -/

/-- The instruction at an index runs as it decodes. -/
theorem fireAt_of_decodes {s : State} {c idx n : Nat} {spec : Bool} {ps : List Parcel} {i : Instr} (hparcels : s.parcelsAt c spec idx = some ps)
    (hdec : decInstr ps = .ok (i, n)) :
    s.fireAt c spec idx = endFiring (exec i { s with firing := some ⟨c, spec, idx, s.reformDue c spec idx⟩ }) := by
  simp only [State.fireAt, hparcels, hdec]

/-- Settles O51: the step's choice is a case of its definition, and none of what ends a step moves the clock but its last act. -/
theorem stepRunsTheDecodedInstruction : Obligations.StepRunsTheDecodedInstruction := by
  refine ⟨fun s c spec idx rest ps i n hag hparcels hdec => ?asked, fun s c idx ps i n hag hready hparcels hdec => ?ready,
    fun s i rest hag => ?event, fun s hag hready hown => ⟨?idle, after_now s⟩⟩
  case asked =>
    have hfire := fireAt_of_decodes (s := { s with agenda := rest }) (show State.parcelsAt { s with agenda := rest } c spec idx = some ps from hparcels) hdec
    simp only [step, hag, hfire]
    rfl
  case ready => simp only [step, hag, hready, fireAt_of_decodes hparcels hdec]
  case event => simp only [step, hag]
  case idle => simp only [step, hag, hready, hown]

end Sys2Proof.Machine

end

section

namespace Sys2Proof

open Sys2Proof.Claims

/-! ### Fields of a word -/

/-- A field that lies above the low part of a concatenation. -/
theorem fld_append_of_le {m n : Nat} (a : BitVec m) (b : BitVec n) {lo len : Nat} (h : n ≤ lo) :
    fld (a ++ b) lo len = fld a (lo - n) len := by
  ext i hi
  simp [fld, BitVec.getLsbD_append, show ¬ lo + i < n by omega, show lo + i - n = lo - n + i by omega]

/-- A field that lies within the low part of a concatenation. -/
theorem fld_append_of_lt {m n : Nat} (a : BitVec m) (b : BitVec n) {lo len : Nat} (h : lo + len ≤ n) :
    fld (a ++ b) lo len = fld b lo len := by
  ext i hi
  simp [fld, BitVec.getLsbD_append, show lo + i < n by omega]

theorem getLsbD_append_of_le {m n : Nat} (a : BitVec m) (b : BitVec n) {k : Nat} (h : n ≤ k) : (a ++ b).getLsbD k = a.getLsbD (k - n) := by
  rw [BitVec.getLsbD_append, if_neg (Nat.not_lt.mpr h)]

theorem getLsbD_append_of_lt {m n : Nat} (a : BitVec m) (b : BitVec n) {k : Nat} (h : k < n) : (a ++ b).getLsbD k = b.getLsbD k := by
  rw [BitVec.getLsbD_append, if_pos h]

@[simp] theorem fld_zero {n lo len : Nat} : fld (0#n) lo len = 0#len := by
  ext i hi
  simp [fld]

@[simp] theorem fld_self {n : Nat} (a : BitVec n) : fld a 0 n = a := by
  ext i hi
  simp [fld]

/-- A word is its high half before its low half. -/
theorem halves_append (w : BitVec 32) : fld w 16 16 ++ fld w 0 16 = w := by
  refine BitVec.eq_of_getLsbD_eq fun i hi => ?_
  rw [BitVec.getLsbD_append]
  split
  case isTrue h => simp [fld, h]
  case isFalse h => simp [fld, show i - 16 < 16 by omega, show 16 + (i - 16) = i by omega]

theorem fld_fld {n : Nat} (w : BitVec n) {lo len a b : Nat} (h : a + b ≤ len) : fld (fld w lo len) a b = fld w (lo + a) b := by
  ext i hi
  simp [fld, show a + i < len by omega, Nat.add_assoc]

/-! ### From parcels to the base word (R34, R51) -/

/-- A word starts like a base word: its top bits are 11. -/
abbrev IsBase (w : BitVec 32) : Prop := fld w 30 2 = 3

theorem getLsbD_fld {n : Nat} (w : BitVec n) (lo len i : Nat) : (fld w lo len).getLsbD i = (decide (i < len) && w.getLsbD (lo + i)) := by
  simp [fld]

/-- A flag is the bit of its one-bit field. -/
theorem getLsbD_of_fld {n : Nat} {w : BitVec n} {k : Nat} {b : Bool} (h : fld w k 1 = BitVec.ofBool b) : w.getLsbD k = b := by
  have hbit := getLsbD_fld w k 1 0
  rw [h] at hbit
  cases b <;> simpa using hbit.symm

theorem isBase_bits {w : BitVec 32} (h : IsBase w) : w.getLsbD 31 = true ∧ w.getLsbD 30 = true := by
  have h0 := getLsbD_fld w 30 2 0
  have h1 := getLsbD_fld w 30 2 1
  rw [h] at h0 h1
  exact ⟨by simpa using h1.symm, by simpa using h0.symm⟩

theorem parcelLen_high (w : BitVec 32) :
    parcelLen (fld w 16 16) = if !w.getLsbD 31 then 1 else if w.getLsbD 30 then 2 else 4 := by
  simp only [parcelLen, getLsbD_fld]
  rfl

theorem decInstr_base {w : BitVec 32} (h : IsBase w) (rest : List Parcel) :
    decInstr (wordParcels w ++ rest) = baseResult 2 0 (decBase none w) := by
  obtain ⟨h31, h30⟩ := isBase_bits h
  have hlen : parcelLen (fld w 16 16) = 2 := by rw [parcelLen_high, h31, h30]; rfl
  simp only [decInstr, wordParcels, List.cons_append, hlen, halves_append]

theorem decInstr_prefixed {p : PrefixWord} {w : BitVec 32} (h : IsBase w) (hk : p.kind.toNat ≤ 8) (rest : List Parcel) :
    decInstr (withPre (some p) w ++ rest) = baseResult 4 2 (decBase (some p) w) := by
  have hlen : parcelLen (fld (2#2 ++ (p.kind ++ p.payload)) 16 16) = 4 := by
    rw [parcelLen_high, BitVec.getLsbD_append (i := 31), BitVec.getLsbD_append (i := 30)]
    rfl
  have hkind : fld (2#2 ++ (p.kind ++ p.payload)) 26 4 = p.kind := by
    rw [fld_append_of_lt _ _ (by omega), fld_append_of_le _ _ (by omega), fld_self]
  have hpay : fld (2#2 ++ (p.kind ++ p.payload)) 0 26 = p.payload := by
    rw [fld_append_of_lt _ _ (by omega), fld_append_of_lt _ _ (by omega), fld_self]
  have htop : fld (fld w 16 16) 14 2 = 3 := by rw [fld_fld w (by omega)]; exact h
  simp only [decInstr, withPre, wordParcels, List.cons_append, List.nil_append, hlen, halves_append, hkind, hpay, htop]
  simp [Nat.not_lt.mpr hk]

/-- A base word with its optional prefixes decodes as `decBase` says. -/
theorem decInstr_withPre {pre : Option PrefixWord} {w : BitVec 32} {i : Instr} (h : IsBase w) (hk : ∀ p ∈ pre, p.kind.toNat ≤ 8)
    (hdec : decBase pre w = .ok i) (rest : List Parcel) : decInstr (withPre pre w ++ rest) = .ok (i, (withPre pre w).length) := by
  cases pre with
  | none => rw [withPre, decInstr_base h, hdec]; rfl
  | some p => rw [decInstr_prefixed h (hk p rfl), hdec]; rfl

/-! ### From the base word to its opcode's decoder (R58) -/

/-- The decoder of an opcode. -/
def decOps (op : Nat) : Pm → Option PrefixWord → BitVec 32 → BaseDec :=
  if op < 0x20 then decOps0 op else if op < 0x40 then decOps1 op else if op < 0x50 then decOps2 op else if op < 0x78 then decOps3 op
  else decOps4 op

theorem decPm_enc (pm : Pm) : decPm pm.enc = some pm := by cases pm <;> rfl

/-- A base word whose opcode, PM and prefixes pass the first checks is its opcode's decoder's. -/
theorem decBase_eq_decOps {pre : Option PrefixWord} {w : BitVec 32} {op : BitVec 7} {pm : Pm} (hop : fld w 23 7 = op)
    (hpm : fld w 21 2 = pm.enc) (hassigned : opAssigned op.toNat = true)
    (hfam : ¬ (op.toNat = 0x7E ∧ ((fld w 17 4).toNat < 2 ∨ 8 < (fld w 17 4).toNat)))
    (hpre : preAccepted op.toNat (fld w 17 4) pre = true) : decBase pre w = decOps op.toNat pm pre w := by
  unfold decBase decOps
  simp only [hop, hpm, hassigned, hfam, hpre, decPm_enc, if_false, Bool.not_true, Bool.false_eq_true]
  split_ifs <;> rfl

/-! ### Codes of fields (R43 to R51) -/

@[simp] theorem decShape_enc (x : Shape) : decShape x.enc = some x := by cases x <;> rfl
@[simp] theorem decWs_enc (ws : MemW) : decWs ws.enc = some ws := by cases ws <;> rfl
@[simp] theorem decScope_enc (x : Scope) : decScope x.enc = some x := by cases x <;> rfl
@[simp] theorem decAmoOrd_enc (x : AmoOrd) : decAmoOrd x.enc = some x := by cases x <;> rfl
@[simp] theorem decCond_enc (x : Cond) : decCond x.enc = some x := by cases x <;> rfl
@[simp] theorem decPerm_enc (x : PermOp) : decPerm x.enc = some x := by cases x <;> rfl
@[simp] theorem decFirst_enc (x : FirstOp) : decFirst x.enc = some x := by cases x <;> rfl
@[simp] theorem decPtrField_enc (x : PtrField) : decPtrField x.enc = some x := by cases x <;> rfl
@[simp] theorem decSf_enc (x : ScaleFmt) : decSf x.enc = some x := by cases x <;> rfl
@[simp] theorem decSrc_enc (x : PanelSrc) : decSrc x.enc = some x := by cases x <;> rfl
@[simp] theorem decBs_enc (x : BarScope) : decBs x.enc = some x := by cases x <;> rfl
@[simp] theorem decLvl_enc (l : Fin 6) : decLvl (encLvl l) = some l := by revert l; decide

@[simp] theorem decTarget_enc (t : Target) : decTarget t.enc = t := by
  obtain ⟨kind, index⟩ := t
  have hidx : fld (kind.enc ++ index) 0 7 = index := by rw [fld_append_of_lt _ _ (by omega), fld_self]
  have h8 : (kind.enc ++ index).getLsbD 8 = kind.enc.getLsbD 1 := by rw [BitVec.getLsbD_append]; rfl
  have h7 : (kind.enc ++ index).getLsbD 7 = kind.enc.getLsbD 0 := by rw [BitVec.getLsbD_append]; rfl
  rw [fld] at hidx
  simp only [decTarget, Target.enc, h8, h7, hidx]
  cases kind <;> rfl

@[simp] theorem decFan_enc (f : Fan) : decFan f.enc = f := by
  have h2 : fld f.enc 17 9 = f.t2.enc := by
    rw [Fan.enc, fld_append_of_le _ _ (by omega), fld_append_of_le _ _ (by omega), fld_self]
  have h3 : fld f.enc 8 9 = f.t3.enc := by
    rw [Fan.enc, fld_append_of_le _ _ (by omega), fld_append_of_lt _ _ (by omega), fld_self]
  rw [decFan, h2, h3, decTarget_enc, decTarget_enc]

theorem fld_fan_reserved (f : Fan) : fld f.enc 0 8 = 0 := by
  exact (fld_append_of_lt _ _ (by omega)).trans (fld_self _)

@[simp] theorem fanOf_encFan (f : Option Fan) : fanOf (encFan f) = f := by
  cases f <;> simp [fanOf, encFan]

@[simp] theorem fanResOk_encFan (f : Option Fan) : fanResOk (encFan f) = true := by
  cases f <;> simp [fanResOk, encFan, fld_fan_reserved]

@[simp] theorem preOf_encPre (p : Pre) : preOf (encPre p) = p := by
  cases p <;> simp [preOf, encPre]

@[simp] theorem fanResOk_encPre (p : Pre) : fanResOk (encPre p) = true := by
  cases p <;> simp [fanResOk, encPre, fld_fan_reserved]

@[simp] theorem immOf_none : immOf none = none := rfl
@[simp] theorem immOf_some (p : PrefixWord) : immOf (some p) = some p.payload := rfl

@[simp] theorem immOf_encImm (v : Option (BitVec 26)) : immOf (encImm v) = v := by
  cases v <;> rfl

/-! ### Which prefixes a form may have (R51) -/

theorem kind_encFan_le (f : Option Fan) : ∀ p ∈ encFan f, p.kind.toNat ≤ 8 := by
  cases f <;> simp [encFan]

theorem kind_encPre_le (q : Pre) : ∀ p ∈ encPre q, p.kind.toNat ≤ 8 := by
  cases q <;> simp [encPre]

theorem preAccepted_encFan {op : Nat} (h : preClass op = .fanOnly) (fam : BitVec 4) (f : Option Fan) :
    preAccepted op fam (encFan f) = true := by
  cases f <;> simp [preAccepted, encFan, h]

theorem preAccepted_encPre {op : Nat} (h : preClass op = .immOrFan) (fam : BitVec 4) (p : Pre) :
    preAccepted op fam (encPre p) = true := by
  cases p <;> simp [preAccepted, encPre, h]

theorem preAccepted_map {α : Type} {op : Nat} (h : preClass op = .immOnly) (fam : BitVec 4) (v : Option α) (g : α → BitVec 26) :
    preAccepted op fam (v.map (fun a => ⟨0, g a⟩)) = true := by
  cases v <;> simp [preAccepted, h]

/-! ### The general layout (R43) -/

section General

variable (op : BitVec 7) (pm : Pm) (aux : BitVec 3) (t1 t0 : BitVec 9)

theorem isBase_encBase : IsBase (encBase op pm aux t1 t0) := by
  simp (disch := omega) only [IsBase, encBase, fld_append_of_le]
  rfl

@[simp] theorem encBase_op : fld (encBase op pm aux t1 t0) 23 7 = op := by
  simp (disch := omega) only [encBase, fld_append_of_le, fld_append_of_lt]
  exact fld_self _

@[simp] theorem encBase_pm : fld (encBase op pm aux t1 t0) 21 2 = pm.enc := by
  simp (disch := omega) only [encBase, fld_append_of_le, fld_append_of_lt]
  exact fld_self _

@[simp] theorem encBase_aux : fld (encBase op pm aux t1 t0) 18 3 = aux := by
  simp (disch := omega) only [encBase, fld_append_of_le, fld_append_of_lt]
  exact fld_self _

@[simp] theorem encBase_t1 : fld (encBase op pm aux t1 t0) 9 9 = t1 := by
  simp (disch := omega) only [encBase, fld_append_of_le, fld_append_of_lt]
  exact fld_self _

@[simp] theorem encBase_t0 : fld (encBase op pm aux t1 t0) 0 9 = t0 := by
  simp (disch := omega) only [encBase, fld_append_of_lt]
  exact fld_self _

end General

/-! ### The memory layout (R46) -/

section Memory

variable (op : BitVec 7) (pm : Pm) (lsid : BitVec 5) (cls : BitVec 4) (ws : BitVec 3) (t0 : BitVec 9)

theorem isBase_encMem : IsBase (encMem op pm lsid cls ws t0) := by
  simp (disch := omega) only [IsBase, encMem, fld_append_of_le]
  rfl

@[simp] theorem encMem_op : fld (encMem op pm lsid cls ws t0) 23 7 = op := by
  simp (disch := omega) only [encMem, fld_append_of_le, fld_append_of_lt]
  exact fld_self _

@[simp] theorem encMem_pm : fld (encMem op pm lsid cls ws t0) 21 2 = pm.enc := by
  simp (disch := omega) only [encMem, fld_append_of_le, fld_append_of_lt]
  exact fld_self _

@[simp] theorem encMem_lsid : fld (encMem op pm lsid cls ws t0) 16 5 = lsid := by
  simp (disch := omega) only [encMem, fld_append_of_le, fld_append_of_lt]
  exact fld_self _

@[simp] theorem encMem_cls : fld (encMem op pm lsid cls ws t0) 12 4 = cls := by
  simp (disch := omega) only [encMem, fld_append_of_le, fld_append_of_lt]
  exact fld_self _

@[simp] theorem encMem_ws : fld (encMem op pm lsid cls ws t0) 9 3 = ws := by
  simp (disch := omega) only [encMem, fld_append_of_le, fld_append_of_lt]
  exact fld_self _

@[simp] theorem encMem_t0 : fld (encMem op pm lsid cls ws t0) 0 9 = t0 := by
  simp (disch := omega) only [encMem, fld_append_of_lt]
  exact fld_self _

end Memory

/-! ### The control layout (R48) -/

section Control

variable (op : BitVec 7) (pm : Pm) (aux : BitVec 3) (f : Bool) (off : BitVec 17)

theorem isBase_encCtl : IsBase (encCtl op pm aux f off) := by
  simp (disch := omega) only [IsBase, encCtl, fld_append_of_le]
  rfl

@[simp] theorem encCtl_op : fld (encCtl op pm aux f off) 23 7 = op := by
  simp (disch := omega) only [encCtl, fld_append_of_le, fld_append_of_lt]
  exact fld_self _

@[simp] theorem encCtl_pm : fld (encCtl op pm aux f off) 21 2 = pm.enc := by
  simp (disch := omega) only [encCtl, fld_append_of_le, fld_append_of_lt]
  exact fld_self _

@[simp] theorem encCtl_aux : fld (encCtl op pm aux f off) 18 3 = aux := by
  simp (disch := omega) only [encCtl, fld_append_of_le, fld_append_of_lt]
  exact fld_self _

@[simp] theorem encCtl_off : fld (encCtl op pm aux f off) 0 17 = off := by
  simp (disch := omega) only [encCtl, fld_append_of_lt]
  exact fld_self _

end Control

/-! ### The CSR layout (R49) -/

section Csr

variable (op : BitVec 7) (pm : Pm) (csr : BitVec 12) (t0 : BitVec 9)

theorem isBase_encCsr : IsBase (encCsr op pm csr t0) := by
  simp (disch := omega) only [IsBase, encCsr, fld_append_of_le]
  rfl

@[simp] theorem encCsr_op : fld (encCsr op pm csr t0) 23 7 = op := by
  simp (disch := omega) only [encCsr, fld_append_of_le, fld_append_of_lt]
  exact fld_self _

@[simp] theorem encCsr_pm : fld (encCsr op pm csr t0) 21 2 = pm.enc := by
  simp (disch := omega) only [encCsr, fld_append_of_le, fld_append_of_lt]
  exact fld_self _

@[simp] theorem encCsr_csr : fld (encCsr op pm csr t0) 9 12 = csr := by
  simp (disch := omega) only [encCsr, fld_append_of_le, fld_append_of_lt]
  exact fld_self _

@[simp] theorem encCsr_t0 : fld (encCsr op pm csr t0) 0 9 = t0 := by
  simp (disch := omega) only [encCsr, fld_append_of_lt]
  exact fld_self _

end Csr

/-! ### The short forms (R50) -/

section Family

variable (pm : Pm) (fam : BitVec 4) (sub : BitVec 8) (t0 : BitVec 9)

theorem isBase_encFam : IsBase (encFam pm fam sub t0) := by
  simp (disch := omega) only [IsBase, encFam, fld_append_of_le]
  rfl

@[simp] theorem encFam_op : fld (encFam pm fam sub t0) 23 7 = 0x7E := by
  simp (disch := omega) only [encFam, fld_append_of_le, fld_append_of_lt]
  exact fld_self _

@[simp] theorem encFam_pm : fld (encFam pm fam sub t0) 21 2 = pm.enc := by
  simp (disch := omega) only [encFam, fld_append_of_le, fld_append_of_lt]
  exact fld_self _

@[simp] theorem encFam_fam : fld (encFam pm fam sub t0) 17 4 = fam := by
  simp (disch := omega) only [encFam, fld_append_of_le, fld_append_of_lt]
  exact fld_self _

@[simp] theorem encFam_sub : fld (encFam pm fam sub t0) 9 8 = sub := by
  simp (disch := omega) only [encFam, fld_append_of_le, fld_append_of_lt]
  exact fld_self _

@[simp] theorem encFam_t0 : fld (encFam pm fam sub t0) 0 9 = t0 := by
  simp (disch := omega) only [encFam, fld_append_of_lt]
  exact fld_self _

end Family

end Sys2Proof

end

section

namespace Sys2Proof

open Sys2Proof.Claims

/-- What `decInstr_withPre` needs of a base word that is no short form: its opcode's decoder gives the instruction. -/
theorem decInstr_of_decOps {pre : Option PrefixWord} {w : BitVec 32} {op : BitVec 7} {pm : Pm} {i : Instr} (h : IsBase w)
    (hop : fld w 23 7 = op) (hpm : fld w 21 2 = pm.enc) (hassigned : opAssigned op.toNat = true) (hfam : op.toNat ≠ 0x7E)
    (hkind : ∀ p ∈ pre, p.kind.toNat ≤ 8) (hpre : preAccepted op.toNat (fld w 17 4) pre = true) (hdec : decOps op.toNat pm pre w = .ok i)
    (rest : List Parcel) : decInstr (withPre pre w ++ rest) = .ok (i, (withPre pre w).length) :=
  decInstr_withPre h hkind ((decBase_eq_decOps hop hpm hassigned (fun hf => hfam hf.1) hpre).trans hdec) rest

section Forms

variable {op : BitVec 7} (rest : List Parcel)

/-- An opcode whose forms take prefixes of kind 1 only. -/
abbrev FanOp (op : BitVec 7) : Prop := opAssigned op.toNat = true ∧ op.toNat ≠ 0x7E ∧ preClass op.toNat = .fanOnly

/-- An opcode whose forms take prefixes of kind 0 or 1. -/
abbrev PreOp (op : BitVec 7) : Prop := opAssigned op.toNat = true ∧ op.toNat ≠ 0x7E ∧ preClass op.toNat = .immOrFan

/-- An opcode whose forms take prefixes of kind 0 only. -/
abbrev ImmOp (op : BitVec 7) : Prop := opAssigned op.toNat = true ∧ op.toNat ≠ 0x7E ∧ preClass op.toNat = .immOnly

theorem decInstr_fan {w : BitVec 32} {pm : Pm} {i : Instr} {f : Option Fan} (h : FanOp op) (hb : IsBase w) (hop : fld w 23 7 = op)
    (hpm : fld w 21 2 = pm.enc) (hdec : decOps op.toNat pm (encFan f) w = .ok i) :
    decInstr (withPre (encFan f) w ++ rest) = .ok (i, (withPre (encFan f) w).length) :=
  decInstr_of_decOps hb hop hpm h.1 h.2.1 (kind_encFan_le f) (preAccepted_encFan h.2.2 _ f) hdec rest

theorem decInstr_pre {w : BitVec 32} {pm : Pm} {i : Instr} {p : Pre} (h : PreOp op) (hb : IsBase w) (hop : fld w 23 7 = op)
    (hpm : fld w 21 2 = pm.enc) (hdec : decOps op.toNat pm (encPre p) w = .ok i) :
    decInstr (withPre (encPre p) w ++ rest) = .ok (i, (withPre (encPre p) w).length) :=
  decInstr_of_decOps hb hop hpm h.1 h.2.1 (kind_encPre_le p) (preAccepted_encPre h.2.2 _ p) hdec rest

theorem decInstr_imm {α : Type} {w : BitVec 32} {pm : Pm} {i : Instr} {v : Option α} {g : α → BitVec 26} (h : ImmOp op) (hb : IsBase w)
    (hop : fld w 23 7 = op) (hpm : fld w 21 2 = pm.enc) (hdec : decOps op.toNat pm (v.map (fun a => ⟨0, g a⟩)) w = .ok i) :
    decInstr (withPre (v.map (fun a => ⟨0, g a⟩)) w ++ rest) = .ok (i, (withPre (v.map (fun a => ⟨0, g a⟩)) w).length) :=
  decInstr_of_decOps hb hop hpm h.1 h.2.1 (by cases v <;> simp) (preAccepted_map h.2.2 _ v g) hdec rest

/-! ### Integer, pointer and floating-point forms (R94 to R105) -/

theorem decInstr_encInt {mk : IntArgs → Instr} {ok : Shape → Bool} {o : IntArgs} (h : FanOp op)
    (hdec : ∀ pm pre w, decOps op.toNat pm pre w = decInt mk ok pm pre w) (hok : ok o.shape = true) :
    decInstr (encInt op o ++ rest) = .ok (mk o, (encInt op o).length) :=
  decInstr_fan rest h (isBase_encBase ..) (encBase_op ..) (encBase_pm ..) (by simp [hdec, decInt, hok])

theorem decInstr_encImmForm {mk : ImmArgs → Instr} {ok : Shape → Bool} {o : ImmArgs} (h : PreOp op)
    (hdec : ∀ pm pre w, decOps op.toNat pm pre w = decImm mk ok pm pre w) (hok : (ok o.shape && o.pre.immOk) = true) :
    decInstr (encImmForm op o ++ rest) = .ok (mk o, (encImmForm op o).length) := by
  rw [Bool.and_eq_true] at hok
  exact decInstr_pre rest h (isBase_encBase ..) (encBase_op ..) (encBase_pm ..) (by simp [hdec, decImm, hok])

theorem decInstr_encShift {mk : ShiftArgs → Instr} {o : ShiftArgs} (h : FanOp op)
    (hdec : ∀ pm pre w, decOps op.toNat pm pre w = decShift mk pm pre w) (hok : o.shape.basic = true) :
    decInstr (encShift op o ++ rest) = .ok (mk o, (encShift op o).length) := by
  have hhigh : fld (encBase op o.pm o.shape.enc (0#3 ++ o.sh) o.t0.enc) 15 3 = 0 := by
    simp (disch := omega) only [encBase, fld_append_of_le, fld_append_of_lt]
    exact fld_self _
  have hsh : fld (encBase op o.pm o.shape.enc (0#3 ++ o.sh) o.t0.enc) 9 6 = o.sh := by
    simp (disch := omega) only [encBase, fld_append_of_le, fld_append_of_lt]
    exact fld_self _
  exact decInstr_fan rest h (isBase_encBase ..) (encBase_op ..) (encBase_pm ..) (by simp [hdec, decShift, hok, hhigh, hsh])

theorem decInstr_encPtr {mk : PtrArgs → Instr} {ok : PtrField → Bool} {o : PtrArgs} (h : FanOp op)
    (hdec : ∀ pm pre w, decOps op.toNat pm pre w = decPtr mk ok pm pre w) (hok : ok o.field = true) :
    decInstr (encPtr op o ++ rest) = .ok (mk o, (encPtr op o).length) :=
  decInstr_fan rest h (isBase_encBase ..) (encBase_op ..) (encBase_pm ..) (by simp [hdec, decPtr, hok])

theorem decInstr_encFp {mk : FpArgs → Instr} {o : FpArgs} (h : FanOp op)
    (hdec : ∀ pm pre w, decOps op.toNat pm pre w = decFp mk pm pre w) :
    decInstr (encFp op o ++ rest) = .ok (mk o, (encFp op o).length) :=
  decInstr_fan rest h (isBase_encBase ..) (encBase_op ..) (encBase_pm ..) (by simp [hdec, decFp])

theorem decInstr_encPlain {mk : PlainArgs → Instr} {o : PlainArgs} (h : FanOp op)
    (hdec : ∀ pm pre w, decOps op.toNat pm pre w = decPlain mk pm pre w) :
    decInstr (encPlain op o ++ rest) = .ok (mk o, (encPlain op o).length) :=
  decInstr_fan rest h (isBase_encBase ..) (encBase_op ..) (encBase_pm ..) (by simp [hdec, decPlain])

theorem decInstr_encFlag {mk : FlagArgs → Instr} {o : FlagArgs} (h : FanOp op)
    (hdec : ∀ pm pre w, decOps op.toNat pm pre w = decFlag mk pm pre w) :
    decInstr (encFlag op o ++ rest) = .ok (mk o, (encFlag op o).length) := by
  have hhigh : fld (encBase op o.pm (0#2 ++ BitVec.ofBool o.flag) o.t1.enc o.t0.enc) 19 2 = 0 := by
    simp (disch := omega) only [encBase, fld_append_of_le, fld_append_of_lt]
    exact fld_self _
  have hflag : (encBase op o.pm (0#2 ++ BitVec.ofBool o.flag) o.t1.enc o.t0.enc).getLsbD 18 = o.flag := by
    refine getLsbD_of_fld ?_
    simp (disch := omega) only [encBase, fld_append_of_le, fld_append_of_lt]
    exact fld_self _
  exact decInstr_fan rest h (isBase_encBase ..) (encBase_op ..) (encBase_pm ..) (by simp only [hdec, decFlag, hhigh, hflag]; simp)

/-! ### Memory forms (R46, R125 to R137) -/

theorem decInstr_encLoad {mk : LoadArgs → Instr} {ok : MemW → Bool} {o : LoadArgs} (h : PreOp op)
    (hdec : ∀ pm pre w, decOps op.toNat pm pre w = decLoad mk ok pm pre w) (hok : ok o.ws = true) :
    decInstr (encLoad op o ++ rest) = .ok (mk o, (encLoad op o).length) :=
  decInstr_pre rest h (isBase_encMem ..) (encMem_op ..) (encMem_pm ..) (by simp [hdec, decLoad, hok])

theorem decInstr_encLoadX {mk : LoadXArgs → Instr} {ws : MemW} {o : LoadXArgs} (h : PreOp op)
    (hdec : ∀ pm pre w, decOps op.toNat pm pre w = decLoadX mk ws pm pre w) :
    decInstr (encLoadX op ws o ++ rest) = .ok (mk o, (encLoadX op ws o).length) :=
  decInstr_pre rest h (isBase_encMem ..) (encMem_op ..) (encMem_pm ..) (by simp [hdec, decLoadX])

theorem decInstr_lda (o : LdaArgs) : decInstr (encode (.lda o) ++ rest) = .ok (.lda o, (encode (.lda o)).length) := by
  have hdec (pm pre w) : decOps (0x5B#7).toNat pm pre w = decLda pm pre w := rfl
  exact decInstr_pre rest (by decide) (isBase_encMem ..) (encMem_op ..) (encMem_pm ..)
    ((hdec ..).trans (by simp [decLda, show 4#3 = MemW.x.enc from rfl]))

theorem decInstr_waitv {o : LoadXArgs} (hok : o.pre.timeoutOk = true) :
    decInstr (encode (.waitv o) ++ rest) = .ok (.waitv o, (encode (.waitv o)).length) := by
  have hdec (pm pre w) : decOps (0x6F#7).toNat pm pre w = decWaitv pm pre w := rfl
  exact decInstr_pre rest (by decide) (isBase_encMem ..) (encMem_op ..) (encMem_pm ..) ((hdec ..).trans (by simp [decWaitv, hok]))

section Offsets

variable (pm : Pm) (lsid : BitVec 5) (cls : BitVec 4) (ws : BitVec 3) (hi : BitVec 4) (ofs5 : BitVec 5)

theorem encMem_ofs5 : fld (encMem op pm lsid cls ws (hi ++ ofs5)) 0 5 = ofs5 := by
  simp (disch := omega) only [encMem, fld_append_of_lt]
  exact fld_self _

theorem encMem_high : fld (encMem op pm lsid cls ws (hi ++ ofs5)) 5 4 = hi := by
  simp (disch := omega) only [encMem, fld_append_of_le, fld_append_of_lt]
  exact fld_self _

end Offsets

theorem decInstr_encStore {mk : StoreArgs → Instr} {ok : MemW → Bool} {o : StoreArgs} (h : ImmOp op)
    (hdec : ∀ pm pre w, decOps op.toNat pm pre w = decStore mk ok pm pre w) (hok : (ok o.ws && storeOfsOk o.ofs5 o.imm) = true) :
    decInstr (encStore op o ++ rest) = .ok (mk o, (encStore op o).length) := by
  rw [Bool.and_eq_true] at hok
  refine decInstr_imm rest h (isBase_encMem ..) (encMem_op ..) (encMem_pm ..) ((hdec _ (encImm o.imm) _).trans ?_)
  simp [decStore, encMem_ofs5, encMem_high, hok]

theorem decInstr_encStoreX {mk : StoreXArgs → Instr} {ws : MemW} {o : StoreXArgs} (h : ImmOp op)
    (hdec : ∀ pm pre w, decOps op.toNat pm pre w = decStoreX mk ws pm pre w) (hok : storeOfsOk o.ofs5 o.imm = true) :
    decInstr (encStoreX op ws o ++ rest) = .ok (mk o, (encStoreX op ws o).length) := by
  refine decInstr_imm rest h (isBase_encMem ..) (encMem_op ..) (encMem_pm ..) ((hdec _ (encImm o.imm) _).trans ?_)
  simp [decStoreX, encMem_ofs5, encMem_high, hok]

theorem decInstr_encAtomic {mk : AtomicArgs → Instr} {o : AtomicArgs} (h : FanOp op)
    (hdec : ∀ pm pre w, decOps op.toNat pm pre w = decAtomic mk pm pre w) (hok : (o.t0.slotOnly && Fan.slotOnly o.fan) = true) :
    decInstr (encAtomic op o ++ rest) = .ok (mk o, (encAtomic op o).length) := by
  rw [Bool.and_eq_true] at hok
  refine decInstr_fan rest h (isBase_encMem ..) (encMem_op ..) (encMem_pm ..) ?_
  obtain ⟨pm, lsid, scope, ord, t0, fan⟩ := o
  cases fan with
  | none => simp [hdec, decAtomic, hok.1]
  | some f =>
    have hfan : f.t2.slotOnly = true ∧ f.t3.slotOnly = true := by simpa [Fan.slotOnly] using hok.2
    simp [hdec, decAtomic, hok.1, hfan]

theorem decInstr_stl {o : StlArgs} (hok : storeOfsOk o.ofs5 o.imm = true) :
    decInstr (encode (.stl o) ++ rest) = .ok (.stl o, (encode (.stl o)).length) := by
  have hdec (pm pre w) : decOps (0x67#7).toNat pm pre w = decStl pm pre w := rfl
  refine decInstr_imm rest (by decide) (isBase_encMem ..) (encMem_op ..) (encMem_pm ..) ((hdec _ (encImm o.imm) _).trans ?_)
  simp [decStl, encMem_ofs5, encMem_high, hok, show 4#3 = MemW.x.enc from rfl]

theorem decInstr_fence (o : FenceArgs) : decInstr (encode (.fence o) ++ rest) = .ok (.fence o, (encode (.fence o)).length) := by
  have hdec (pm pre w) : decOps (0x6D#7).toNat pm pre w = decFence pm pre w := rfl
  have hhigh (m : BitVec 16) : fld (0#10 ++ m) 16 10 = 0 := (fld_append_of_le _ _ (by omega)).trans (fld_self _)
  have hlow (m : BitVec 16) : fld (0#10 ++ m) 0 16 = m := (fld_append_of_lt _ _ (by omega)).trans (fld_self _)
  refine decInstr_imm rest (by decide) (isBase_encMem ..) (encMem_op ..) (encMem_pm ..) ((hdec ..).trans ?_)
  obtain ⟨pm, lsid, scope, mask⟩ := o
  cases mask with
  | none => simp [decFence]
  | some m => simp [decFence, hhigh, hlow]

theorem decInstr_waitc (o : WaitcArgs) : decInstr (encode (.waitc o) ++ rest) = .ok (.waitc o, (encode (.waitc o)).length) := by
  have hdec (pm pre w) : decOps (0x6E#7).toNat pm pre w = decWaitc pm pre w := rfl
  have hpay (c : WaitCounts) : let p : BitVec 26 := 0#2 ++ (c.loads ++ (c.stores ++ (c.copies ++ c.tiles)))
      fld p 24 2 = 0 ∧ fld p 18 6 = c.loads ∧ fld p 12 6 = c.stores ∧ fld p 6 6 = c.copies ∧ fld p 0 6 = c.tiles := by
    simp (disch := omega) only [fld_append_of_le, fld_append_of_lt]
    exact ⟨fld_self _, fld_self _, fld_self _, fld_self _, fld_self _⟩
  refine decInstr_imm rest (by decide) (isBase_encMem ..) (encMem_op ..) (encMem_pm ..) ((hdec ..).trans ?_)
  obtain ⟨pm, cls, counts⟩ := o
  cases counts with
  | none => simp [decWaitc]
  | some c =>
    obtain ⟨hres, hloads, hstores, hcopies, htiles⟩ := hpay c
    simp [decWaitc, hres, hloads, hstores, hcopies, htiles]

/-! ### Control and CSR forms (R48, R49) -/

/-- An unprefixed word that is no short form. -/
theorem decInstr_bare {w : BitVec 32} {pm : Pm} {i : Instr} (hassigned : opAssigned op.toNat = true) (hfam : op.toNat ≠ 0x7E)
    (hb : IsBase w) (hop : fld w 23 7 = op) (hpm : fld w 21 2 = pm.enc) (hdec : decOps op.toNat pm none w = .ok i) :
    decInstr (wordParcels w ++ rest) = .ok (i, (wordParcels w).length) :=
  decInstr_of_decOps (pre := none) hb hop hpm hassigned hfam (by simp) rfl hdec rest

section Flag

variable (pm : Pm) (aux : BitVec 3) (f : Bool)

@[simp] theorem encCtl_flag (off : BitVec 17) : (encCtl op pm aux f off)[17] = f := by
  rw [← BitVec.getLsbD_eq_getElem]
  refine getLsbD_of_fld ?_
  simp (disch := omega) only [encCtl, fld_append_of_le, fld_append_of_lt]
  exact fld_self _

theorem encCtl_zero : fld (encCtl op pm aux false 0#17) 0 18 = 0#18 := by
  simp (disch := omega) only [encCtl, fld_append_of_lt]
  exact fld_self _

theorem encCtl_xreg (xreg : BitVec 5) (off : BitVec 12) : fld (encCtl op pm aux f (xreg ++ off)) 12 5 = xreg := by
  simp (disch := omega) only [encCtl, fld_append_of_le, fld_append_of_lt]
  exact fld_self _

theorem encCtl_off12 (xreg : BitVec 5) (off : BitVec 12) : fld (encCtl op pm aux f (xreg ++ off)) 0 12 = off := by
  simp (disch := omega) only [encCtl, fld_append_of_lt]
  exact fld_self _

end Flag

/-- A word of the br family, of the loops, or of strand control. -/
theorem decInstr_encCtl {pm : Pm} {aux : BitVec 3} {f : Bool} {off : BitVec 17} {i : Instr} (hassigned : opAssigned op.toNat = true)
    (hfam : op.toNat ≠ 0x7E) (hdec : decOps op.toNat pm none (encCtl op pm aux f off) = .ok i) :
    decInstr (wordParcels (encCtl op pm aux f off) ++ rest) = .ok (i, (wordParcels (encCtl op pm aux f off)).length) :=
  decInstr_bare rest hassigned hfam (isBase_encCtl ..) (encCtl_op ..) (encCtl_pm ..) hdec

theorem decInstr_loopSet {pm : Pm} {l : Fin 6} {f : Bool} {xreg : BitVec 5} {off : BitVec 12} {trip : Option (BitVec 26)} :
    decInstr (withPre (encImm trip) (encCtl 0x7A pm (encLvl l) f (xreg ++ off)) ++ rest)
      = .ok (if f then .loopw ⟨pm, l, xreg, off, trip⟩ else .loopc ⟨pm, l, xreg, off, trip⟩,
          (withPre (encImm trip) (encCtl 0x7A pm (encLvl l) f (xreg ++ off))).length) := by
  have hdec (pm pre w) : decOps (0x7A#7).toNat pm pre w = decLoopSet pm pre w := rfl
  refine decInstr_imm rest (by decide) (isBase_encCtl ..) (encCtl_op ..) (encCtl_pm ..) ((hdec _ (encImm trip) _).trans ?_)
  cases f <;> simp [decLoopSet, encCtl_xreg, encCtl_off12]

theorem decInstr_csrr (o : CsrrArgs) : decInstr (encode (.csrr o) ++ rest) = .ok (.csrr o, (encode (.csrr o)).length) := by
  have hdec (pm pre w) : decOps (0x7C#7).toNat pm pre w
      = if !fanResOk pre then errResv true else .ok (.csrr ⟨pm, fld w 9 12, decTarget (fld w 0 9), fanOf pre⟩) := rfl
  exact decInstr_fan rest (by decide) (isBase_encCsr ..) (encCsr_op ..) (encCsr_pm ..) ((hdec ..).trans (by simp))

theorem decInstr_csrw (o : CsrwArgs) : decInstr (encode (.csrw o) ++ rest) = .ok (.csrw o, (encode (.csrw o)).length) := by
  have hdec (pm pre w) : decOps (0x7D#7).toNat pm pre w = .ok (.csrw ⟨pm, fld w 9 12, decTarget (fld w 0 9)⟩) := rfl
  exact decInstr_bare rest (by decide) (by decide) (isBase_encCsr ..) (encCsr_op ..) (encCsr_pm ..) ((hdec ..).trans (by simp))

end Forms

/-! ### Compressed forms (R54) -/

theorem decInstr_compressed {p : Parcel} {i : Instr} (hlen : p.getLsbD 15 = false) (hdec : decCompressed p = .ok i) (rest : List Parcel) :
    decInstr ([p] ++ rest) = .ok (i, 1) := by
  have hone : parcelLen p = 1 := by simp only [parcelLen, hlen]; rfl
  simp only [decInstr, List.cons_append, hone, hdec]

theorem decInstr_encC {cop : BitVec 6} {o : CArgs} {mk : CArgs → Instr} (hdec : ∀ p, fld p 9 6 = cop → decCompressed p = .ok (mk ⟨decTarget (fld p 0 9)⟩))
    (rest : List Parcel) : decInstr (encC cop o ++ rest) = .ok (mk o, (encC cop o).length) := by
  have hcop : fld (0#1 ++ (cop ++ o.t0.enc)) 9 6 = cop := by
    simp (disch := omega) only [fld_append_of_le, fld_append_of_lt]
    exact fld_self _
  have ht0 : fld (0#1 ++ (cop ++ o.t0.enc)) 0 9 = o.t0.enc := by
    simp (disch := omega) only [fld_append_of_lt]
    exact fld_self _
  have hlen : (0#1 ++ (cop ++ o.t0.enc)).getLsbD 15 = false := by
    rw [BitVec.getLsbD_append]
    rfl
  refine decInstr_compressed hlen ((hdec _ hcop).trans ?_) rest
  rw [ht0, decTarget_enc]

theorem decCompressed_cLi {p : Parcel} (h : 0x10 ≤ (fld p 9 6).toNat ∧ (fld p 9 6).toNat ≤ 0x1F) :
    decCompressed p = .ok (.cLi ⟨fld p 9 4, decTarget (fld p 0 9)⟩) := by
  unfold decCompressed
  split
  case h_30 => exact if_pos h
  all_goals omega

theorem decInstr_cLi (rest : List Parcel) (o : CliArgs) : decInstr (encode (.cLi o) ++ rest) = .ok (.cLi o, (encode (.cLi o)).length) := by
  have hcop : fld (0#1 ++ ((1#2 ++ o.n) ++ o.t0.enc)) 9 6 = 1#2 ++ o.n := by
    simp (disch := omega) only [fld_append_of_le, fld_append_of_lt]
    exact fld_self _
  have hn : fld (0#1 ++ ((1#2 ++ o.n) ++ o.t0.enc)) 9 4 = o.n := by
    simp (disch := omega) only [fld_append_of_le, fld_append_of_lt]
    exact fld_self _
  have ht0 : fld (0#1 ++ ((1#2 ++ o.n) ++ o.t0.enc)) 0 9 = o.t0.enc := by
    simp (disch := omega) only [fld_append_of_lt]
    exact fld_self _
  have hlen : (0#1 ++ ((1#2 ++ o.n) ++ o.t0.enc)).getLsbD 15 = false := by
    rw [BitVec.getLsbD_append]
    rfl
  have hrange : 0x10 ≤ (1#2 ++ o.n).toNat ∧ (1#2 ++ o.n).toNat ≤ 0x1F := by
    generalize o.n = n
    revert n
    decide
  rw [← hcop] at hrange
  refine decInstr_compressed hlen ((decCompressed_cLi hrange).trans ?_) rest
  rw [hn, ht0, decTarget_enc]

/-! ### Short forms of the families (R50) -/

/-- The decoder of a family. -/
def decFam (fam : Nat) (pm : Pm) (p : BitVec 26) (sub : Nat) (t0 : BitVec 9) : BaseDec :=
  match fam with
  | 2 => decFam2 pm p sub t0
  | 3 => decFam3 pm p sub t0
  | 4 => decFam4 pm p sub t0
  | 5 => decFam5 pm p sub t0
  | 6 => decFam6 pm p sub t0
  | 7 => decFam7 pm p sub t0
  | _ => decFam8 pm p sub t0

theorem decFamily_eq_decFam (pm : Pm) (pre : Option PrefixWord) (w : BitVec 32) :
    decFamily pm pre w = decFam (fld w 17 4).toNat pm ((immOf pre).getD 0) (fld w 9 8).toNat (fld w 0 9) := rfl

/-- An unprefixed short form has payload 0. -/
theorem decInstr_fam {pm : Pm} {fam : BitVec 4} {sub : BitVec 8} {payload : BitVec 26} {t0 : BitVec 9} {i : Instr}
    (hfam : 2 ≤ fam.toNat ∧ fam.toNat ≤ 8) (hdec : decFam fam.toNat pm payload sub.toNat t0 = .ok i) (rest : List Parcel) :
    decInstr (famParcels pm fam sub payload t0 ++ rest) = .ok (i, (famParcels pm fam sub payload t0).length) := by
  have hpay : ((immOf (if payload = 0 then none else some ⟨fam, payload⟩)).getD 0) = payload := by
    split <;> simp [*]
  have hpre : ∀ f : BitVec 4, f = fam → preAccepted 0x7E f (if payload = 0 then none else some ⟨fam, payload⟩) = true := by
    rintro f rfl
    have hclass : preClass 0x7E = .family := rfl
    split <;> simp [preAccepted, hclass]
  have hkind : ∀ p ∈ (if payload = 0 then none else some ⟨fam, payload⟩ : Option PrefixWord), p.kind.toNat ≤ 8 := by
    split <;> simp [hfam.2]
  refine decInstr_withPre (isBase_encFam ..) hkind ?_ rest
  have hbase := decBase_eq_decOps (encFam_op pm fam sub t0) (encFam_pm pm fam sub t0) (by decide) (by rw [encFam_fam]; omega)
    (hpre _ (encFam_fam ..))
  have hops (pre w) : decOps (BitVec.toNat (0x7E : BitVec 7)) pm pre w = decFamily pm pre w := rfl
  rw [hbase, hops, decFamily_eq_decFam, encFam_fam, encFam_sub, encFam_t0, hpay, hdec]

section Shapes

variable {fam : BitVec 4} {sub : BitVec 8} {i : Instr} (hfam : 2 ≤ fam.toNat ∧ fam.toNat ≤ 8)
include hfam

theorem decInstr_encBare {o : BareArgs} (hdec : decFam fam.toNat o.pm 0 sub.toNat 0x1FF = .ok i) (rest : List Parcel) :
    decInstr (encBare fam sub o ++ rest) = .ok (i, (encBare fam sub o).length) := decInstr_fam hfam hdec rest

theorem decInstr_encRes {o : ResArgs} (hdec : decFam fam.toNat o.pm 0 sub.toNat o.t0.enc = .ok i) (rest : List Parcel) :
    decInstr (encRes fam sub o ++ rest) = .ok (i, (encRes fam sub o).length) := decInstr_fam hfam hdec rest

theorem decInstr_encCmd {o : CmdArgs} (hdec : decFam fam.toNat o.pm (priPayload o.pri) sub.toNat o.t0.enc = .ok i) (rest : List Parcel) :
    decInstr (encCmd fam sub o ++ rest) = .ok (i, (encCmd fam sub o).length) := decInstr_fam hfam hdec rest

end Shapes

/-- Settles O48: by the form of the instruction, its layout's fields read back what the encoder put into them. -/
theorem decodingInvertsEncoding : Obligations.DecodingInvertsEncoding := by
  intro i rest hwf hword
  cases i
  case add o | sub o | mul o | and o | or o | xor o | andn o | sll o | srl o | sra o | min o | max o | minu o | maxu o | mulh o | mulhu o
      | div o | divu o | rem o | remu o | clz o | ctz o | popc o | bfx o =>
    exact decInstr_encInt rest (by decide) (fun _ _ _ => rfl) hwf
  case addi o | andi o => exact decInstr_encImmForm rest (by decide) (fun _ _ _ => rfl) hwf
  case slli o | srli o | srai o => exact decInstr_encShift rest (by decide) (fun _ _ _ => rfl) hwf
  case padd o => exact decInstr_encPtr rest (by decide) (fun _ _ _ => rfl) hwf
  case pset o | pget o => exact decInstr_encPtr rest (by decide) (fun _ _ _ => rfl) rfl
  case ld o | lds o | ldg o | ldff o | ldgff o | ldb o | ldk o => exact decInstr_encLoad rest (by decide) (fun _ _ _ => rfl) hwf
  case ldx o | ldm o | ldref o | ldrefH o => exact decInstr_encLoadX rest (by decide) (fun _ _ _ => rfl)
  case st o | sts o | stg o | stk o => exact decInstr_encStore rest (by decide) (fun _ _ _ => rfl) hwf
  case stx o | stm o | stref o => exact decInstr_encStoreX rest (by decide) (fun _ _ _ => rfl) hwf
  case amoAdd o | amoAnd o | amoOr o | amoXor o | amoMin o | amoMax o | amoSwap o | amoCas o =>
    exact decInstr_encAtomic rest (by decide) (fun _ _ _ => rfl) hwf
  case lda o => exact decInstr_lda rest o
  case waitv o => exact decInstr_waitv rest hwf
  case stl o => exact decInstr_stl rest hwf
  case fence o => exact decInstr_fence rest o
  case waitc o => exact decInstr_waitc rest o
  case csrr o => exact decInstr_csrr rest o
  case csrw o => exact decInstr_csrw rest o
  case loopc o | loopw o => exact decInstr_loopSet rest
  case br o | brCall o | brInd o | brRet o | brStrip o | brEs o =>
    exact decInstr_encCtl rest (by decide) (by decide) (by simp [decOps, decOps4, decBr])
  case loop o => exact decInstr_encCtl rest (by decide) (by decide) (by simp [decOps, decOps4, decLoop])
  case trigger o | yield o | setrecov o | rtp o | fin o =>
    exact decInstr_encCtl rest (by decide) (by decide) (by simp [decOps, decOps4, decControl, encCtl_zero])
  case cMov o | cFan o | cVl o | cSb o | cSn o | cEidx o | cNeg o | cNot o | cInc o | cDec o | cShl1 o | cShr1 o | cSar1 o | cSext32 o
      | cZext32 o | cIsz o | cNez o | cAdd o | cSub o | cAnd o | cOr o | cXor o | cNull o | cNullv o | cNullm o | cNullif o | cKeepif o
      | cZfill o | cIsnull o =>
    exact decInstr_encC (fun p hp => by simp [decCompressed, hp]) rest
  case tz o | opa o | mvtv o | ldt o | stt o | scld o =>
    refine decInstr_fam ?_ ?_ rest
    · decide
    simp (disch := omega) only [decFam, decFam2, BitVec.ofNat_eq_ofNat, BitVec.toNat_ofNat, Nat.reducePow, Nat.reduceMod, fld_append_of_le, fld_append_of_lt,
      getLsbD_append_of_le, getLsbD_append_of_lt]
    simp [noRes]
  case gemmT o | gemmTPair o =>
    refine decInstr_fam ?_ ?_ rest
    · decide
    simp (disch := omega) only [decFam, decFam2, BitVec.ofNat_eq_ofNat, BitVec.toNat_ofNat, Nat.reducePow, Nat.reduceMod, fld_append_of_le, fld_append_of_lt,
      ]
    simp [noRes]
  case mvvt o =>
    have ht0 : o.t0 = Target.none := by simpa [Instr.wf] using hwf
    refine decInstr_fam ?_ ?_ rest
    · decide
    simp (disch := omega) only [decFam, decFam2, BitVec.ofNat_eq_ofNat, BitVec.toNat_ofNat, Nat.reducePow, Nat.reduceMod, fld_append_of_le, fld_append_of_lt,
      getLsbD_append_of_le, getLsbD_append_of_lt]
    simp [noRes, ← ht0]
  case cholT o =>
    obtain ⟨pm, td, ds, bd, ts, bs, f1, f2⟩ := o
    obtain ⟨⟨rfl, rfl⟩, rfl⟩ : (ts = 0 ∧ bs = 0) ∧ f2 = false := by simpa [Instr.wf] using hwf
    have hres : fld (0#3 ++ (0#4 ++ (BitVec.ofBool f1 ++ 0#8))) 9 7 = 0#7 := by cases f1 <;> rfl
    refine decInstr_fam ?_ ?_ rest
    · decide
    simp (disch := omega) only [decFam, decFam2, BitVec.ofNat_eq_ofNat, BitVec.toNat_ofNat, Nat.reducePow, Nat.reduceMod, fld_append_of_le, fld_append_of_lt,
      getLsbD_append_of_le, getLsbD_append_of_lt]
    simp [noRes, hres]
  case trsmT o =>
    refine decInstr_fam ?_ ?_ rest
    · decide
    simp (disch := omega) only [decFam, decFam2, BitVec.ofNat_eq_ofNat, BitVec.toNat_ofNat, Nat.reducePow, Nat.reduceMod, fld_append_of_le, fld_append_of_lt,
      getLsbD_append_of_le, getLsbD_append_of_lt]
    simp [noRes]
  case syrkT o =>
    obtain ⟨pm, td, ds, bd, ts, bs, f1, f2⟩ := o
    obtain rfl : f2 = false := by simpa [Instr.wf] using hwf
    refine decInstr_fam ?_ ?_ rest
    · decide
    simp (disch := omega) only [decFam, decFam2, BitVec.ofNat_eq_ofNat, BitVec.toNat_ofNat, Nat.reducePow, Nat.reduceMod, fld_append_of_le, fld_append_of_lt,
      getLsbD_append_of_le, getLsbD_append_of_lt]
    simp [noRes]
  case qrT o =>
    obtain ⟨pm, td, ds, bd, ts, bs, f1, f2⟩ := o
    obtain ⟨⟨rfl, rfl⟩, hbd⟩ : (f1 = false ∧ f2 = false) ∧ fld bd 2 2 = 0#2 := by
      simpa [Instr.wf, fld] using hwf
    refine decInstr_fam ?_ ?_ rest
    · decide
    simp (disch := omega) only [decFam, decFam2, BitVec.ofNat_eq_ofNat, BitVec.toNat_ofNat, Nat.reducePow, Nat.reduceMod, fld_append_of_le, fld_append_of_lt,
      ]
    simp [noRes, hbd]
  case cpy o | cpyRec o =>
    refine decInstr_fam ?_ ?_ rest
    · decide
    simp (disch := omega) only [decFam, decFam3, BitVec.ofNat_eq_ofNat, BitVec.toNat_ofNat, Nat.reducePow, Nat.reduceMod, fld_append_of_le, fld_append_of_lt,
      getLsbD_append_of_le]
    simp
  case cpy2 o | cpy3 o | cpyg o | cpyr o | cpyx o =>
    refine decInstr_encCmd ?_ ?_ rest
    · decide
    simp (disch := omega) only [priPayload, decFam, decFam3, BitVec.ofNat_eq_ofNat, BitVec.toNat_ofNat, Nat.reducePow, Nat.reduceMod, fld_append_of_le, fld_append_of_lt,
      getLsbD_append_of_le]
    simp
  case esack o =>
    refine decInstr_fam ?_ ?_ rest
    · decide
    simp (disch := omega) only [priPayload, decFam, decFam3, BitVec.ofNat_eq_ofNat, BitVec.toNat_ofNat, Nat.reducePow, Nat.reduceMod, fld_append_of_le, fld_append_of_lt,
      getLsbD_append_of_le]
    simp [noRes]
  case rtPush o =>
    refine decInstr_fam ?_ ?_ rest
    · decide
    simp (disch := omega) only [decFam, decFam4, BitVec.ofNat_eq_ofNat, BitVec.toNat_ofNat, Nat.reducePow, Nat.reduceMod, fld_append_of_le, fld_append_of_lt,
      ]
    simp [noRes]
  case rtDecl o | rtDone o | rtSeed o =>
    refine decInstr_encBare ?_ ?_ rest
    · decide
    simp (disch := omega) only [decFam, decFam4, BitVec.ofNat_eq_ofNat, BitVec.toNat_ofNat, Nat.reducePow, Nat.reduceMod, 
      ]
    simp [noRes]
  case rtTake o | rtStat o | rtDrain o =>
    have hslot : o.t0.slotOnly = true := hwf
    refine decInstr_fam ?_ ?_ rest
    · decide
    simp (disch := omega) only [decFam, decFam4, BitVec.ofNat_eq_ofNat, BitVec.toNat_ofNat, Nat.reducePow, Nat.reduceMod, fld_append_of_le, fld_append_of_lt,
      getLsbD_append_of_le, getLsbD_append_of_lt]
    simp [slotRes, hslot]
  case bar o =>
    refine decInstr_fam ?_ ?_ rest
    · decide
    simp (disch := omega) only [decFam, decFam5, BitVec.ofNat_eq_ofNat, BitVec.toNat_ofNat, Nat.reducePow, Nat.reduceMod, fld_append_of_le, fld_append_of_lt,
      ]
    simp [noRes]
  case cardPost o | cardSig o =>
    refine decInstr_encBare ?_ ?_ rest
    · decide
    simp (disch := omega) only [decFam, decFam5, BitVec.ofNat_eq_ofNat, BitVec.toNat_ofNat, Nat.reducePow, Nat.reduceMod, 
      ]
    simp [noRes]
  case futSet o =>
    have hslot : o.t0.slotOnly = true := hwf
    refine decInstr_fam ?_ ?_ rest
    · decide
    simp (disch := omega) only [decFam, decFam5, BitVec.ofNat_eq_ofNat, BitVec.toNat_ofNat, Nat.reducePow, Nat.reduceMod, fld_append_of_lt,
      getLsbD_append_of_le]
    simp [slotRes, hslot]
  case futWait o | jobq o =>
    have hslot : o.t0.slotOnly = true := hwf
    refine decInstr_encRes ?_ ?_ rest
    · decide
    simp (disch := omega) only [decFam, decFam5, BitVec.ofNat_eq_ofNat, BitVec.toNat_ofNat, Nat.reducePow, Nat.reduceMod, 
      ]
    simp [slotRes, hslot]
  case meshInit o | meshAdapt o | nbrStream o | colBuild o | meshFree o =>
    refine decInstr_encCmd ?_ ?_ rest
    · decide
    simp (disch := omega) only [priPayload, decFam, decFam6, BitVec.ofNat_eq_ofNat, BitVec.toNat_ofNat, Nat.reducePow, Nat.reduceMod, fld_append_of_le, fld_append_of_lt,
      getLsbD_append_of_le]
    simp
  case nbrLd o | nbrLd2 o | vsaddCol o =>
    refine decInstr_fam ?_ ?_ rest
    · decide
    simp (disch := omega) only [decFam, decFam6, BitVec.ofNat_eq_ofNat, BitVec.toNat_ofNat, Nat.reducePow, Nat.reduceMod, fld_append_of_le, fld_append_of_lt,
      getLsbD_append_of_le, getLsbD_append_of_lt]
    simp [noRes]
  case meshClose o =>
    refine decInstr_encBare ?_ ?_ rest
    · decide
    simp (disch := omega) only [decFam, decFam6, BitVec.ofNat_eq_ofNat, BitVec.toNat_ofNat, Nat.reducePow, Nat.reduceMod, 
      ]
    simp [noRes]
  case meshOpen o =>
    have hslot : o.t0.slotOnly = true := hwf
    refine decInstr_encRes ?_ ?_ rest
    · decide
    simp (disch := omega) only [decFam, decFam6, BitVec.ofNat_eq_ofNat, BitVec.toNat_ofNat, Nat.reducePow, Nat.reduceMod, 
      ]
    simp [slotRes, hslot]
  case hpMake o =>
    refine decInstr_fam ?_ ?_ rest
    · decide
    simp (disch := omega) only [decFam, decFam7, BitVec.ofNat_eq_ofNat, BitVec.toNat_ofNat, Nat.reducePow, Nat.reduceMod, fld_append_of_le, fld_append_of_lt,
      ]
    simp [noRes]
  case unpin o =>
    refine decInstr_encBare ?_ ?_ rest
    · decide
    simp (disch := omega) only [decFam, decFam7, BitVec.ofNat_eq_ofNat, BitVec.toNat_ofNat, Nat.reducePow, Nat.reduceMod, 
      ]
    simp [noRes]
  case pin o | refeq o =>
    have hslot : o.t0.slotOnly = true := hwf
    refine decInstr_encRes ?_ ?_ rest
    · decide
    simp (disch := omega) only [decFam, decFam7, BitVec.ofNat_eq_ofNat, BitVec.toNat_ofNat, Nat.reducePow, Nat.reduceMod, 
      ]
    simp [slotRes, hslot]
  case hpRelocate o | hpEpoch o =>
    have hslot : o.t0.slotOnly = true := hwf
    refine decInstr_encCmd ?_ ?_ rest
    · decide
    simp (disch := omega) only [priPayload, decFam, decFam7, BitVec.ofNat_eq_ofNat, BitVec.toNat_ofNat, Nat.reducePow, Nat.reduceMod, fld_append_of_le, fld_append_of_lt,
      getLsbD_append_of_le]
    simp [slotRes, hslot]
  case rgLoad o | mcx o | lbCut o | lbMigrate o | ghostSync o =>
    refine decInstr_encCmd ?_ ?_ rest
    · decide
    simp (disch := omega) only [priPayload, decFam, decFam8, BitVec.ofNat_eq_ofNat, BitVec.toNat_ofNat, Nat.reducePow, Nat.reduceMod, fld_append_of_le, fld_append_of_lt,
      getLsbD_append_of_le]
    simp
  case cLi o => exact decInstr_cLi rest o
  case vfadd o | vfsub o | vfmul o | vfdiv o | vfsqrt o | vfmin o | vfmax o | vfabs o | vfneg o | vfma o | vfms o | vfnma o | vfnms o
      | vfrcp o | vfrsq o | vfsgn o | vfclass o | vfscale o | vflogb o | vfrnd o | vcvt o | vcvtb o | vsumO o | vsumT o | vminR o
      | vmaxR o | vandR o | vorR o | vfeq o | vflt o | vfle o | vfun o =>
    exact decInstr_encFp rest (by decide) (fun _ _ _ => rfl)
  case sel o | vins o | mpop o | viota o | vcomp o => exact decInstr_encPlain rest (by decide) (fun _ _ _ => rfl)
  case vext o | mrange o => exact decInstr_encFlag rest (by decide) (fun _ _ _ => rfl)
  case cmp o | vperm o | mlog o | mfirst o =>
    exact decInstr_fan rest (by decide) (isBase_encBase ..) (encBase_op ..) (encBase_pm ..) (by simp [decOps, decOps2])
  case cmpi o =>
    have himm : o.pre.immOk = true := hwf
    exact decInstr_pre rest (by decide) (isBase_encBase ..) (encBase_op ..) (encBase_pm ..) (by simp [decOps, decOps2, himm])
  all_goals exact absurd hword Bool.false_ne_true

end Sys2Proof

end

section

namespace Sys2Proof

open Sys2Proof.Claims

/-! ### A word is the concatenation of its fields -/

/-- Two neighbouring fields of a word, joined. -/
theorem append_fld {n a b lo : Nat} {w : BitVec n} {x : BitVec a} {y : BitVec b} (hx : x = fld w (lo + b) a) (hy : y = fld w lo b) :
    x ++ y = fld w lo (a + b) := by
  subst hx hy
  ext i hi
  rw [BitVec.getElem_append]
  split
  case isTrue h => simp [fld]
  case isFalse h => simp [fld, Nat.add_assoc, show b + (i - b) = i by omega]

theorem ofBool_getLsbD {n : Nat} (w : BitVec n) (k : Nat) : BitVec.ofBool (w.getLsbD k) = fld w k 1 := by
  ext i hi
  obtain rfl : i = 0 := by omega
  simp [fld]

theorem ofBool_eq_fld {n : Nat} {w : BitVec n} {k : Nat} {b : Bool} (h : w.getLsbD k = b) : BitVec.ofBool b = fld w k 1 :=
  h ▸ ofBool_getLsbD w k

/-! ### Codes of fields are encoded back -/

theorem enc_of_decPm {b : BitVec 2} {x : Pm} (h : decPm b = some x) : x.enc = b := by
  unfold decPm at h
  split at h <;> cases h <;> rfl

theorem enc_of_decShape {b : BitVec 3} {x : Shape} (h : decShape b = some x) : x.enc = b := by
  unfold decShape at h
  split at h <;> cases h <;> rfl

theorem enc_of_decWs {b : BitVec 3} {ws : MemW} (h : decWs b = some ws) : ws.enc = b := by
  unfold decWs at h
  split at h <;> cases h <;> rfl

theorem enc_of_decScope {b : BitVec 4} {x : Scope} (h : decScope b = some x) : x.enc = b := by
  unfold decScope at h
  split at h <;> cases h <;> rfl

theorem enc_of_decAmoOrd {b : BitVec 3} {x : AmoOrd} (h : decAmoOrd b = some x) : x.enc = b := by
  unfold decAmoOrd at h
  split at h <;> cases h <;> rfl

theorem enc_of_decCond {b : BitVec 3} {x : Cond} (h : decCond b = some x) : x.enc = b := by
  unfold decCond at h
  split at h <;> cases h <;> rfl

theorem enc_of_decPerm {b : BitVec 3} {x : PermOp} (h : decPerm b = some x) : x.enc = b := by
  unfold decPerm at h
  split at h <;> cases h <;> rfl

theorem enc_of_decFirst {b : BitVec 3} {x : FirstOp} (h : decFirst b = some x) : x.enc = b := by
  unfold decFirst at h
  split at h <;> cases h <;> rfl

theorem enc_of_decPtrField {b : BitVec 3} {x : PtrField} (h : decPtrField b = some x) : x.enc = b := by
  unfold decPtrField at h
  split at h <;> cases h <;> rfl

theorem enc_of_decSf {b : BitVec 2} {x : ScaleFmt} (h : decSf b = some x) : x.enc = b := by
  unfold decSf at h
  split at h <;> cases h <;> rfl

theorem enc_of_decSrc {b : BitVec 2} {x : PanelSrc} (h : decSrc b = some x) : x.enc = b := by
  unfold decSrc at h
  split at h <;> cases h <;> rfl

theorem enc_of_decBs {b : BitVec 2} {x : BarScope} (h : decBs b = some x) : x.enc = b := by
  unfold decBs at h
  split at h <;> cases h <;> rfl

theorem encLvl_of_decLvl {b : BitVec 3} {l : Fin 6} (h : decLvl b = some l) : encLvl l = b := by
  unfold decLvl at h
  split at h
  · cases h
    simp [encLvl]
  · cases h

@[simp] theorem enc_decTarget (b : BitVec 9) : (decTarget b).enc = b := by
  have hkind : (decTarget b).kind.enc = fld b 7 2 := by
    refine Eq.trans ?_ (append_fld (ofBool_getLsbD b 8) (ofBool_getLsbD b 7))
    simp only [decTarget]
    cases b.getLsbD 8 <;> cases b.getLsbD 7 <;> rfl
  exact (append_fld (lo := 0) hkind rfl).trans (fld_self b)

theorem enc_decFan {p : BitVec 26} (h : fld p 0 8 = 0) : (decFan p).enc = p := by
  refine Eq.trans ?_ (fld_self p)
  exact append_fld (append_fld (enc_decTarget _) (enc_decTarget _)) h.symm

/-! ### Prefixes are encoded back (R51) -/

theorem encFan_fanOf {op : Nat} {fam : BitVec 4} {pre : Option PrefixWord} (hclass : preClass op = .fanOnly)
    (hacc : preAccepted op fam pre = true) (hres : fanResOk pre = true) : encFan (fanOf pre) = pre := by
  cases pre with
  | none => rfl
  | some p =>
    obtain ⟨k, v⟩ := p
    obtain rfl : k = 1 := by simpa [preAccepted, hclass] using hacc
    simp only [fanResOk, bne_self_eq_false, Bool.false_or, beq_iff_eq] at hres
    simp [fanOf, encFan, enc_decFan hres]

theorem encPre_preOf {op : Nat} {fam : BitVec 4} {pre : Option PrefixWord} (hclass : preClass op = .immOrFan)
    (hacc : preAccepted op fam pre = true) (hres : fanResOk pre = true) : encPre (preOf pre) = pre := by
  cases pre with
  | none => rfl
  | some p =>
    obtain ⟨k, v⟩ := p
    have hk : k = 0 ∨ k = 1 := by simpa [preAccepted, hclass] using hacc
    obtain rfl | rfl := hk
    · rfl
    · simp only [fanResOk, bne_self_eq_false, Bool.false_or, beq_iff_eq] at hres
      simp [preOf, encPre, enc_decFan hres]

theorem encImm_immOf {op : Nat} {fam : BitVec 4} {pre : Option PrefixWord} (hclass : preClass op = .immOnly)
    (hacc : preAccepted op fam pre = true) : encImm (immOf pre) = pre := by
  cases pre with
  | none => rfl
  | some p =>
    obtain ⟨k, v⟩ := p
    obtain rfl : k = 0 := by simpa [preAccepted, hclass] using hacc
    rfl

theorem eq_none_of_preAccepted {op : Nat} {fam : BitVec 4} {pre : Option PrefixWord} (hclass : preClass op = .nothing)
    (hacc : preAccepted op fam pre = true) : pre = none := by
  cases pre with
  | none => rfl
  | some p => simp [preAccepted, hclass] at hacc

/-! ### Layouts are encoded back (R43, R46, R48, R49) -/

/-- A base word of an opcode and PM, after prefixes that the opcode accepts. -/
structure WordOf (op : Nat) (pm : Pm) (pre : Option PrefixWord) (w : BitVec 32) : Prop where
  base : IsBase w
  code : BitVec.ofNat 7 op = fld w 23 7
  mode : pm.enc = fld w 21 2
  acc  : preAccepted op (fld w 17 4) pre = true

/-- The instruction is well formed, and its parcels are those of the word after its prefixes. -/
abbrev Rebuilt (pre : Option PrefixWord) (w : BitVec 32) (i : Instr) : Prop := i.wf = true ∧ encode i = withPre pre w

section Layouts

variable {op : Nat} {pm : Pm} {pre : Option PrefixWord} {w : BitVec 32} (hw : WordOf op pm pre w)
include hw

theorem WordOf.join {rest : BitVec 21} (h : rest = fld w 0 21) : (3#2 ++ (BitVec.ofNat 7 op ++ (pm.enc ++ rest)) : BitVec 32) = w :=
  (append_fld hw.base.symm (append_fld hw.code (append_fld hw.mode h))).trans (fld_self w)

theorem WordOf.encBase_eq {aux : BitVec 3} {t1 t0 : BitVec 9} (haux : aux = fld w 18 3) (ht1 : t1 = fld w 9 9) (ht0 : t0 = fld w 0 9) :
    encBase (BitVec.ofNat 7 op) pm aux t1 t0 = w := hw.join (append_fld haux (append_fld ht1 ht0))

theorem WordOf.encMem_eq {lsid : BitVec 5} {cls : BitVec 4} {ws : BitVec 3} {t0 : BitVec 9} (hl : lsid = fld w 16 5) (hc : cls = fld w 12 4)
    (hws : ws = fld w 9 3) (ht0 : t0 = fld w 0 9) : encMem (BitVec.ofNat 7 op) pm lsid cls ws t0 = w :=
  hw.join (append_fld hl (append_fld hc (append_fld hws ht0)))

theorem WordOf.encCtl_eq {aux : BitVec 3} {f : Bool} {off : BitVec 17} (haux : aux = fld w 18 3) (hf : BitVec.ofBool f = fld w 17 1)
    (hoff : off = fld w 0 17) : encCtl (BitVec.ofNat 7 op) pm aux f off = w := hw.join (append_fld haux (append_fld hf hoff))

theorem WordOf.encCsr_eq {csr : BitVec 12} {t0 : BitVec 9} (hcsr : csr = fld w 9 12) (ht0 : t0 = fld w 0 9) :
    encCsr (BitVec.ofNat 7 op) pm csr t0 = w := hw.join (append_fld hcsr ht0)

theorem WordOf.encFam_eq {fam : BitVec 4} {sub : BitVec 8} {t0 : BitVec 9} (hop : op = 0x7E) (hfam : fam = fld w 17 4) (hsub : sub = fld w 9 8)
    (ht0 : t0 = fld w 0 9) : encFam pm fam sub t0 = w := by
  subst hop
  exact hw.join (append_fld hfam (append_fld hsub ht0))

end Layouts

/-! ### When a decoder accepts -/

section Accepts

variable {b c : Prop} [Decidable c] {i j : Instr} {x y : BaseDec}

@[simp] theorem errResv_ne_ok (q : Bool) : (errResv q = .ok i) = False := by simp [errResv]
@[simp] theorem errField_ne_ok : (errField = .ok i) = False := by simp [errField]
@[simp] theorem errFieldPre_ne_ok : (errFieldPre = .ok i) = False := by simp [errFieldPre]
@[simp] theorem errScope_ne_ok (v : BitVec 4) : (errScope v = .ok i) = False := by simp [errScope]
@[simp] theorem errTarget_ne_ok (v : BitVec 9) : (errTarget v = .ok i) = False := by simp [errTarget]

theorem ite_eq_ok : ((if c then x else y) = .ok i) ↔ c ∧ x = .ok i ∨ ¬ c ∧ y = .ok i := by
  split <;> simp [*]

@[simp] theorem noRes_eq_ok (t0 : BitVec 9) : noRes t0 j = .ok i ↔ t0 = 0x1FF ∧ j = i := by
  simp [noRes, ite_eq_ok]

@[simp] theorem slotRes_eq_ok (t0 : BitVec 9) : slotRes t0 j = .ok i ↔ (decTarget t0).slotOnly = true ∧ j = i := by
  simp [slotRes, ite_eq_ok]

end Accepts

end Sys2Proof

end

section

namespace Sys2Proof

open Sys2Proof.Claims

section Forms

variable {op : Nat} {pm : Pm} {pre : Option PrefixWord} {w : BitVec 32} {i : Instr} (hw : WordOf op pm pre w)
include hw

/-! ### General forms (R43) -/

theorem decInt_ok {mk : IntArgs → Instr} {ok : Shape → Bool} (hclass : preClass op = .fanOnly)
    (henc : ∀ o, encode (mk o) = encInt (BitVec.ofNat 7 op) o) (hwf : ∀ o, (mk o).wf = ok o.shape) (h : decInt mk ok pm pre w = .ok i) :
    Rebuilt pre w i := by
  simp only [decInt, ite_eq_ok, errResv_ne_ok, and_false, false_or, Bool.not_eq_true', Bool.not_eq_false] at h
  obtain ⟨hres, h⟩ := h
  split at h <;> simp [ite_eq_ok] at h
  next s hs =>
    obtain ⟨hok, rfl⟩ := h
    refine ⟨(hwf _).trans hok, ?_⟩
    exact (henc _).trans (congrArg₂ withPre (encFan_fanOf hclass hw.acc hres) (hw.encBase_eq (enc_of_decShape hs) (enc_decTarget _) (enc_decTarget _)))

theorem decImm_ok {mk : ImmArgs → Instr} {ok : Shape → Bool} (hclass : preClass op = .immOrFan)
    (henc : ∀ o, encode (mk o) = encImmForm (BitVec.ofNat 7 op) o) (hwf : ∀ o, (mk o).wf = (ok o.shape && o.pre.immOk))
    (h : decImm mk ok pm pre w = .ok i) : Rebuilt pre w i := by
  simp only [decImm, ite_eq_ok, errResv_ne_ok, and_false, false_or, Bool.and_eq_true, Bool.not_eq_true', Bool.not_eq_false] at h
  obtain ⟨⟨hres, himm⟩, h⟩ := h
  split at h <;> simp [ite_eq_ok] at h
  next s hs =>
    obtain ⟨hok, rfl⟩ := h
    refine ⟨(hwf _).trans (by simp [hok, himm]), ?_⟩
    exact (henc _).trans (congrArg₂ withPre (encPre_preOf hclass hw.acc hres) (hw.encBase_eq (enc_of_decShape hs) rfl (enc_decTarget _)))

theorem decShift_ok {mk : ShiftArgs → Instr} (hclass : preClass op = .fanOnly)
    (henc : ∀ o, encode (mk o) = encShift (BitVec.ofNat 7 op) o) (hwf : ∀ o, (mk o).wf = o.shape.basic) (h : decShift mk pm pre w = .ok i) :
    Rebuilt pre w i := by
  simp only [decShift, ite_eq_ok, errResv_ne_ok, and_false, false_or, Bool.not_eq_true', Bool.not_eq_false] at h
  obtain ⟨hres, hhigh, h⟩ := h
  split at h <;> simp [ite_eq_ok] at h
  next s hs =>
    obtain ⟨hok, rfl⟩ := h
    refine ⟨(hwf _).trans hok, ?_⟩
    exact (henc _).trans (congrArg₂ withPre (encFan_fanOf hclass hw.acc hres) (hw.encBase_eq (enc_of_decShape hs) (append_fld (not_not.mp hhigh).symm rfl) (enc_decTarget _)))

theorem decPtr_ok {mk : PtrArgs → Instr} {ok : PtrField → Bool} (hclass : preClass op = .fanOnly)
    (henc : ∀ o, encode (mk o) = encPtr (BitVec.ofNat 7 op) o) (hwf : ∀ o, (mk o).wf = ok o.field) (h : decPtr mk ok pm pre w = .ok i) :
    Rebuilt pre w i := by
  simp only [decPtr, ite_eq_ok, errResv_ne_ok, and_false, false_or, Bool.not_eq_true', Bool.not_eq_false] at h
  obtain ⟨hres, h⟩ := h
  split at h <;> simp [ite_eq_ok] at h
  next f hf =>
    obtain ⟨hok, rfl⟩ := h
    refine ⟨(hwf _).trans hok, ?_⟩
    exact (henc _).trans (congrArg₂ withPre (encFan_fanOf hclass hw.acc hres) (hw.encBase_eq (enc_of_decPtrField hf) (enc_decTarget _) (enc_decTarget _)))

theorem decFp_ok {mk : FpArgs → Instr} (hclass : preClass op = .fanOnly) (henc : ∀ o, encode (mk o) = encFp (BitVec.ofNat 7 op) o)
    (hwf : ∀ o, (mk o).wf = true) (h : decFp mk pm pre w = .ok i) : Rebuilt pre w i := by
  simp [decFp, ite_eq_ok] at h
  obtain ⟨hres, rfl⟩ := h
  refine ⟨hwf _, ?_⟩
  exact (henc _).trans (congrArg₂ withPre (encFan_fanOf hclass hw.acc hres) (hw.encBase_eq rfl (enc_decTarget _) (enc_decTarget _)))

theorem decPlain_ok {mk : PlainArgs → Instr} (hclass : preClass op = .fanOnly) (henc : ∀ o, encode (mk o) = encPlain (BitVec.ofNat 7 op) o)
    (hwf : ∀ o, (mk o).wf = true) (h : decPlain mk pm pre w = .ok i) : Rebuilt pre w i := by
  simp [decPlain, ite_eq_ok] at h
  obtain ⟨hres, haux, rfl⟩ := h
  refine ⟨hwf _, ?_⟩
  exact (henc _).trans (congrArg₂ withPre (encFan_fanOf hclass hw.acc hres) (hw.encBase_eq haux.symm (enc_decTarget _) (enc_decTarget _)))

theorem decFlag_ok {mk : FlagArgs → Instr} (hclass : preClass op = .fanOnly) (henc : ∀ o, encode (mk o) = encFlag (BitVec.ofNat 7 op) o)
    (hwf : ∀ o, (mk o).wf = true) (h : decFlag mk pm pre w = .ok i) : Rebuilt pre w i := by
  simp [decFlag, ite_eq_ok] at h
  obtain ⟨hres, hhigh, rfl⟩ := h
  refine ⟨hwf _, ?_⟩
  exact (henc _).trans (congrArg₂ withPre (encFan_fanOf hclass hw.acc hres) (hw.encBase_eq (append_fld hhigh.symm (ofBool_getLsbD w 18)) (enc_decTarget _) (enc_decTarget _)))

/-! ### Memory forms (R46) -/

theorem decLoad_ok {mk : LoadArgs → Instr} {ok : MemW → Bool} (hclass : preClass op = .immOrFan)
    (henc : ∀ o, encode (mk o) = encLoad (BitVec.ofNat 7 op) o) (hwf : ∀ o, (mk o).wf = ok o.ws) (h : decLoad mk ok pm pre w = .ok i) :
    Rebuilt pre w i := by
  simp only [decLoad, ite_eq_ok, errResv_ne_ok, and_false, false_or, Bool.not_eq_true', Bool.not_eq_false] at h
  obtain ⟨hres, h⟩ := h
  split at h <;> simp [ite_eq_ok] at h
  next ws hws =>
    obtain ⟨hok, rfl⟩ := h
    refine ⟨(hwf _).trans hok, ?_⟩
    exact (henc _).trans (congrArg₂ withPre (encPre_preOf hclass hw.acc hres) (hw.encMem_eq rfl rfl (enc_of_decWs hws) (enc_decTarget _)))

theorem decLoadX_ok {mk : LoadXArgs → Instr} {ws : MemW} (hclass : preClass op = .immOrFan)
    (henc : ∀ o, encode (mk o) = encLoadX (BitVec.ofNat 7 op) ws o) (hwf : ∀ o, (mk o).wf = true) (h : decLoadX mk ws pm pre w = .ok i) :
    Rebuilt pre w i := by
  simp only [decLoadX, ite_eq_ok, errResv_ne_ok, and_false, false_or, Bool.not_eq_true', Bool.not_eq_false] at h
  obtain ⟨hres, h⟩ := h
  split at h <;> simp [ite_eq_ok] at h
  next hws =>
    obtain ⟨rfl, rfl⟩ := h
    refine ⟨hwf _, ?_⟩
    exact (henc _).trans (congrArg₂ withPre (encPre_preOf hclass hw.acc hres) (hw.encMem_eq rfl rfl (enc_of_decWs hws) (enc_decTarget _)))

theorem decStore_ok {mk : StoreArgs → Instr} {ok : MemW → Bool} (hclass : preClass op = .immOnly)
    (henc : ∀ o, encode (mk o) = encStore (BitVec.ofNat 7 op) o) (hwf : ∀ o, (mk o).wf = (ok o.ws && storeOfsOk o.ofs5 o.imm))
    (h : decStore mk ok pm pre w = .ok i) : Rebuilt pre w i := by
  unfold decStore at h
  split at h <;> simp [ite_eq_ok] at h
  next ws hws =>
    obtain ⟨hofs, hok, hhigh, rfl⟩ := h
    refine ⟨(hwf _).trans (by simp [hofs, hok]), ?_⟩
    exact (henc _).trans (congrArg₂ withPre (encImm_immOf hclass hw.acc) (hw.encMem_eq rfl rfl (enc_of_decWs hws) (append_fld hhigh.symm rfl)))

theorem decStoreX_ok {mk : StoreXArgs → Instr} {ws : MemW} (hclass : preClass op = .immOnly)
    (henc : ∀ o, encode (mk o) = encStoreX (BitVec.ofNat 7 op) ws o) (hwf : ∀ o, (mk o).wf = storeOfsOk o.ofs5 o.imm)
    (h : decStoreX mk ws pm pre w = .ok i) : Rebuilt pre w i := by
  unfold decStoreX at h
  split at h <;> simp [ite_eq_ok] at h
  next hws =>
    obtain ⟨hofs, ⟨rfl, hhigh⟩, rfl⟩ := h
    refine ⟨(hwf _).trans hofs, ?_⟩
    exact (henc _).trans (congrArg₂ withPre (encImm_immOf hclass hw.acc) (hw.encMem_eq rfl rfl (enc_of_decWs hws) (append_fld hhigh.symm rfl)))

theorem decAtomic_ok {mk : AtomicArgs → Instr} (hclass : preClass op = .fanOnly)
    (henc : ∀ o, encode (mk o) = encAtomic (BitVec.ofNat 7 op) o) (hwf : ∀ o, (mk o).wf = (o.t0.slotOnly && Fan.slotOnly o.fan))
    (h : decAtomic mk pm pre w = .ok i) : Rebuilt pre w i := by
  simp only [decAtomic, ite_eq_ok, errResv_ne_ok, and_false, false_or, Bool.not_eq_true', Bool.not_eq_false] at h
  obtain ⟨hres, h⟩ := h
  split at h <;> simp at h
  next ord hord =>
    split at h <;> simp [ite_eq_ok] at h
    next sc hsc =>
      obtain ⟨hslot, h⟩ := h
      have hparcels (f : Option Fan) (hf : fanOf pre = f) :
          encode (mk ⟨pm, fld w 16 5, sc, ord, decTarget (fld w 0 9), f⟩) = withPre pre w := by
        rw [henc, encAtomic, ← hf, encFan_fanOf hclass hw.acc hres,
          hw.encMem_eq rfl (enc_of_decScope hsc) (enc_of_decAmoOrd hord) (enc_decTarget _)]
      split at h <;> simp [ite_eq_ok] at h
      next hf =>
        subst h
        exact ⟨(hwf _).trans (by simp [hslot, Fan.slotOnly]), hparcels _ hf⟩
      next f hf =>
        obtain ⟨h2, h3, rfl⟩ := h
        exact ⟨(hwf _).trans (by simp [hslot, Fan.slotOnly, h2, h3]), hparcels _ hf⟩

end Forms

section Single

variable {pm : Pm} {pre : Option PrefixWord} {w : BitVec 32} {i : Instr}

theorem decLda_ok (hw : WordOf 0x5B pm pre w) (h : decLda pm pre w = .ok i) : Rebuilt pre w i := by
  simp only [decLda, ite_eq_ok, errResv_ne_ok, and_false, false_or, Bool.not_eq_true', Bool.not_eq_false] at h
  obtain ⟨hres, h⟩ := h
  split at h <;> simp [ite_eq_ok] at h
  next ws hws =>
    split at h <;> simp at h
    next sc hsc =>
      obtain ⟨rfl, rfl⟩ := h
      refine ⟨rfl, ?_⟩
      exact congrArg₂ withPre (encPre_preOf rfl hw.acc hres) (hw.encMem_eq rfl (enc_of_decScope hsc) (enc_of_decWs hws) (enc_decTarget _))

theorem decWaitv_ok (hw : WordOf 0x6F pm pre w) (h : decWaitv pm pre w = .ok i) : Rebuilt pre w i := by
  simp only [decWaitv, ite_eq_ok, errResv_ne_ok, and_false, false_or, Bool.not_eq_true', Bool.not_eq_false] at h
  obtain ⟨hres, h⟩ := h
  split at h <;> simp [ite_eq_ok] at h
  next ws hws =>
    obtain ⟨rfl, htime, rfl⟩ := h
    refine ⟨htime, ?_⟩
    exact congrArg₂ withPre (encPre_preOf rfl hw.acc hres) (hw.encMem_eq rfl rfl (enc_of_decWs hws) (enc_decTarget _))

theorem decStl_ok (hw : WordOf 0x67 pm pre w) (h : decStl pm pre w = .ok i) : Rebuilt pre w i := by
  unfold decStl at h
  split at h <;> simp [ite_eq_ok] at h
  next ws hws =>
    split at h <;> simp at h
    next sc hsc =>
      obtain ⟨hofs, ⟨rfl, hcls⟩, rfl⟩ := h
      refine ⟨hofs, ?_⟩
      exact congrArg₂ withPre (encImm_immOf rfl hw.acc) (hw.encMem_eq rfl hcls.symm (enc_of_decWs hws) (append_fld (enc_of_decScope hsc) rfl))

theorem decFence_ok (hw : WordOf 0x6D pm pre w) (h : decFence pm pre w = .ok i) : Rebuilt pre w i := by
  unfold decFence at h
  simp only [ite_eq_ok, errResv_ne_ok, and_false, false_or] at h
  obtain ⟨hres, hrest, h⟩ := h
  split at h <;> simp at h
  next sc hsc =>
    subst h
    obtain ⟨hws, ht0⟩ : fld w 9 3 = 0 ∧ fld w 0 9 = 0x1FF := by simpa using hrest
    replace hres := not_not.mp hres
    refine ⟨rfl, ?_⟩
    refine congrArg₂ withPre ?_ (hw.encMem_eq rfl (enc_of_decScope hsc) hws.symm ht0.symm)
    refine Eq.trans ?_ (encImm_immOf rfl hw.acc)
    cases hpay : immOf pre with
    | none => rfl
    | some p =>
      have hmask : 0#10 ++ fld p 0 16 = p := (append_fld (lo := 0) (by simpa [hpay] using hres.symm) rfl).trans (fld_self p)
      simp [encImm, hmask]

theorem decWaitc_ok (hw : WordOf 0x6E pm pre w) (h : decWaitc pm pre w = .ok i) : Rebuilt pre w i := by
  simp [decWaitc, ite_eq_ok] at h
  obtain ⟨hres, ⟨hl, hws, ht0⟩, rfl⟩ := h
  refine ⟨rfl, ?_⟩
  refine congrArg₂ withPre ?_ (hw.encMem_eq hl.symm rfl hws.symm ht0.symm)
  refine Eq.trans ?_ (encImm_immOf rfl hw.acc)
  cases hpay : immOf pre with
  | none => rfl
  | some p =>
    have hzero : 0#2 = fld p 24 2 := by simpa [hpay] using hres.symm
    have hcounts : 0#2 ++ (fld p 18 6 ++ (fld p 12 6 ++ (fld p 6 6 ++ fld p 0 6))) = fld p 0 26 :=
      append_fld hzero (append_fld rfl (append_fld rfl (append_fld rfl rfl)))
    simp [encImm, hcounts]

/-! ### Control and CSR forms (R48, R49) -/

theorem Rebuilt.of_bare {op : Nat} (hw : WordOf op pm pre w) (hclass : preClass op = .nothing) {v : BitVec 32} (hwf : i.wf = true)
    (henc : encode i = wordParcels v) (hv : v = w) : Rebuilt pre w i := by
  rw [eq_none_of_preAccepted hclass hw.acc]
  exact ⟨hwf, hv ▸ henc⟩

/-- The 18 low bits of a control word whose F and offset are 0. -/
theorem low_zero (h : fld w 0 18 = 0) : BitVec.ofBool false = fld w 17 1 ∧ 0 = fld w 0 17 := by
  have hbit : fld (fld w 0 18) 17 1 = fld w 17 1 := fld_fld w (by omega)
  have hoff : fld (fld w 0 18) 0 17 = fld w 0 17 := fld_fld w (by omega)
  rw [h] at hbit hoff
  exact ⟨hbit, hoff⟩

theorem decBr_ok (hw : WordOf 0x78 pm pre w) (h : decBr pm w = .ok i) : Rebuilt pre w i := by
  have hf := ofBool_getLsbD w 17
  unfold decBr at h
  split at h <;> simp [ite_eq_ok] at h
  next haux => exact h ▸ .of_bare hw rfl rfl rfl (hw.encCtl_eq haux.symm hf rfl)
  next haux => exact h ▸ .of_bare hw rfl rfl rfl (hw.encCtl_eq haux.symm hf rfl)
  next haux => exact h.2 ▸ .of_bare hw rfl rfl rfl (hw.encCtl_eq haux.symm hf h.1.symm)
  next haux => exact h.2 ▸ .of_bare hw rfl rfl rfl (hw.encCtl_eq haux.symm hf h.1.symm)
  next haux => exact h.2 ▸ .of_bare hw rfl rfl rfl (hw.encCtl_eq haux.symm (ofBool_eq_fld h.1) rfl)
  next haux => exact h ▸ .of_bare hw rfl rfl rfl (hw.encCtl_eq haux.symm hf rfl)

theorem decControl_ok (hw : WordOf 0x7B pm pre w) (h : decControl pm w = .ok i) : Rebuilt pre w i := by
  have hzero {aux : BitVec 3} (haux : fld w 18 3 = aux) (hz : fld w 0 18 = 0) : encCtl (BitVec.ofNat 7 0x7B) pm aux false 0 = w :=
    hw.encCtl_eq haux.symm (low_zero hz).1 (low_zero hz).2
  unfold decControl at h
  split at h <;> simp [ite_eq_ok] at h
  next haux => exact h.2 ▸ .of_bare hw rfl rfl rfl (hzero haux h.1)
  next haux => exact h.2 ▸ .of_bare hw rfl rfl rfl (hzero haux h.1)
  next haux => exact h.2 ▸ .of_bare hw rfl rfl rfl (hw.encCtl_eq haux.symm (ofBool_eq_fld h.1) rfl)
  next haux => exact h.2 ▸ .of_bare hw rfl rfl rfl (hzero haux h.1)
  next haux => exact h.2 ▸ .of_bare hw rfl rfl rfl (hzero haux h.1)

theorem decLoop_ok (hw : WordOf 0x79 pm pre w) (h : decLoop pm w = .ok i) : Rebuilt pre w i := by
  unfold decLoop at h
  split at h <;> simp at h
  next l hl => exact h ▸ .of_bare hw rfl rfl rfl (hw.encCtl_eq (encLvl_of_decLvl hl) (ofBool_getLsbD w 17) rfl)

theorem decLoopSet_ok (hw : WordOf 0x7A pm pre w) (h : decLoopSet pm pre w = .ok i) : Rebuilt pre w i := by
  unfold decLoopSet at h
  split at h <;> simp only [errField_ne_ok, Except.ok.injEq] at h
  next l hl =>
    subst h
    have hword {f : Bool} (hf : w.getLsbD 17 = f) : encCtl (BitVec.ofNat 7 0x7A) pm (encLvl l) f (fld w 12 5 ++ fld w 0 12) = w :=
      hw.encCtl_eq (encLvl_of_decLvl hl) (ofBool_eq_fld hf) (append_fld rfl rfl)
    split
    next hf => exact ⟨rfl, congrArg₂ withPre (encImm_immOf rfl hw.acc) (hword hf)⟩
    next hf => exact ⟨rfl, congrArg₂ withPre (encImm_immOf rfl hw.acc) (hword (Bool.not_eq_true _ ▸ hf))⟩

end Single

end Sys2Proof

end

section

namespace Sys2Proof

open Sys2Proof.Claims

/-! ### Short forms of the families (R50) -/

/-- The instruction is well formed, and its parcels are those of a short form. -/
abbrev Short (fam : BitVec 4) (pm : Pm) (sub : Nat) (p : BitVec 26) (t0 : BitVec 9) (i : Instr) : Prop :=
  i.wf = true ∧ encode i = famParcels pm fam (BitVec.ofNat 8 sub) p t0

section Families

variable {fam : BitVec 4} {pm : Pm} {sub : Nat} {p payload : BitVec 26} {t0 t : BitVec 9} {i : Instr}

theorem Short.intro (hwf : i.wf = true) (henc : encode i = famParcels pm fam (BitVec.ofNat 8 sub) payload t) (hp : payload = fld p 0 26)
    (ht : t = t0) : Short fam pm sub p t0 i := by
  rw [fld_self] at hp
  exact ⟨hwf, by rw [henc, hp, ht]⟩

/-- A form whose payload is 0. -/
theorem Short.of_zero (hwf : i.wf = true) (henc : encode i = famParcels pm fam (BitVec.ofNat 8 sub) 0 t) (hp : p = 0) (ht : t = t0) :
    Short fam pm sub p t0 i := .intro hwf henc ((fld_self p).trans hp).symm ht

/-- An engine command, whose payload holds PRI alone. -/
theorem Short.of_pri (hwf : i.wf = true) (henc : encode i = famParcels pm fam (BitVec.ofNat 8 sub) (priPayload (fld p 23 2)) t)
    (hrec : p.getLsbD 25 = false) (hlow : fld p 0 23 = 0) (ht : t = t0) : Short fam pm sub p t0 i :=
  .intro hwf henc (append_fld (ofBool_eq_fld hrec) (append_fld rfl hlow.symm)) ht

theorem decFam2_ok (h : decFam2 pm p sub t0 = .ok i) : Short 2 pm sub p t0 i := by
  have hbit (k : Nat) := ofBool_getLsbD p k
  unfold decFam2 at h
  split at h
  next =>
    simp [ite_eq_ok] at h
    obtain ⟨hz, rfl, rfl⟩ := h
    exact .intro rfl rfl (append_fld rfl (append_fld (hbit _) hz.symm)) rfl
  next =>
    simp [ite_eq_ok] at h
    obtain ⟨hz, rfl, rfl⟩ := h
    exact .intro rfl rfl (append_fld rfl (append_fld rfl (append_fld (hbit _) hz.symm))) rfl
  next =>
    simp [ite_eq_ok] at h
    obtain ⟨hz, rfl, rfl⟩ := h
    exact .intro rfl rfl (append_fld rfl (append_fld (hbit _) (append_fld (hbit _) (append_fld rfl hz.symm)))) rfl
  next =>
    simp [ite_eq_ok] at h
    obtain ⟨hz, rfl⟩ := h
    exact .intro rfl rfl (append_fld rfl (append_fld (hbit _) (append_fld (hbit _) (append_fld rfl hz.symm)))) (enc_decTarget _)
  case h_5 | h_6 =>
    simp [ite_eq_ok] at h
    obtain ⟨hz, rfl, rfl⟩ := h
    exact .intro rfl rfl (append_fld rfl (append_fld (hbit _) hz.symm)) rfl
  next =>
    simp only [ite_eq_ok, errResv_ne_ok, and_false, false_or] at h
    obtain ⟨hz, h⟩ := h
    split at h <;> simp at h
    next sf hsf =>
      obtain ⟨rfl, rfl⟩ := h
      exact .intro rfl rfl (append_fld rfl (append_fld rfl (append_fld (enc_of_decSf hsf) (not_not.mp hz).symm))) rfl
  case h_8 | h_9 =>
    split at h <;> simp at h
    next a b ha hb =>
      obtain ⟨rfl, rfl⟩ := h
      exact .intro rfl rfl (append_fld rfl (append_fld rfl (append_fld (enc_of_decSrc ha) (append_fld (enc_of_decSrc hb)
        (append_fld rfl (append_fld rfl rfl)))))) rfl
  next =>
    simp [ite_eq_ok] at h
    obtain ⟨⟨hz, hmid⟩, rfl, rfl⟩ := h
    have hts : 0 = fld p 13 3 := by rw [← fld_fld (lo := 9) (len := 7) (a := 4) p (by omega), hmid]; rfl
    have hbs : 0 = fld p 9 4 := by rw [← fld_fld (lo := 9) (len := 7) (a := 0) p (by omega), hmid]; rfl
    have hf2 : BitVec.ofBool false = fld p 7 1 := by rw [← fld_fld (lo := 0) (len := 8) (a := 7) p (by omega), hz]; rfl
    have hlow : 0 = fld p 0 7 := by rw [← fld_fld (lo := 0) (len := 8) (a := 0) p (by omega), hz]; rfl
    exact .intro rfl rfl (append_fld rfl (append_fld rfl (append_fld rfl (append_fld hts (append_fld hbs (append_fld (hbit _)
      (append_fld hf2 hlow))))))) rfl
  next =>
    simp [ite_eq_ok] at h
    obtain ⟨hz, rfl, rfl⟩ := h
    exact .intro rfl rfl (append_fld rfl (append_fld rfl (append_fld rfl (append_fld rfl (append_fld rfl (append_fld (hbit _)
      (append_fld (hbit _) hz.symm))))))) rfl
  next =>
    simp [ite_eq_ok] at h
    obtain ⟨hz, rfl, rfl⟩ := h
    have hf2 : BitVec.ofBool false = fld p 7 1 := by rw [← fld_fld (lo := 0) (len := 8) (a := 7) p (by omega), hz]; rfl
    have hlow : 0 = fld p 0 7 := by rw [← fld_fld (lo := 0) (len := 8) (a := 0) p (by omega), hz]; rfl
    exact .intro rfl rfl (append_fld rfl (append_fld rfl (append_fld rfl (append_fld rfl (append_fld rfl (append_fld (hbit _)
      (append_fld hf2 hlow))))))) rfl
  next =>
    simp [ite_eq_ok] at h
    obtain ⟨⟨hz, hmid⟩, rfl, rfl⟩ := h
    have hf1 : BitVec.ofBool false = fld p 8 1 := by rw [← fld_fld (lo := 0) (len := 9) (a := 8) p (by omega), hz]; rfl
    have hf2 : BitVec.ofBool false = fld p 7 1 := by rw [← fld_fld (lo := 0) (len := 9) (a := 7) p (by omega), hz]; rfl
    have hlow : 0 = fld p 0 7 := by rw [← fld_fld (lo := 0) (len := 9) (a := 0) p (by omega), hz]; rfl
    have hbd : fld (fld p 16 4) 2 2 = 0 := (fld_fld p (by omega)).trans hmid
    refine .intro ?_ rfl (append_fld rfl (append_fld rfl (append_fld rfl (append_fld rfl (append_fld rfl (append_fld hf1
      (append_fld hf2 hlow))))))) rfl
    simpa [Instr.wf, fld] using hbd
  next => simp at h

theorem decFam3_ok (h : decFam3 pm p sub t0 = .ok i) : Short 3 pm sub p t0 i := by
  have hlow (h3 : fld p 20 3 = 0) (h0 : fld p 0 20 = 0) : fld p 0 23 = 0 := (append_fld (lo := 0) h3.symm h0.symm).symm.trans (by rfl)
  dsimp only [decFam3] at h
  split at h <;> simp [ite_eq_ok, -BitVec.getLsbD_eq_getElem] at h
  next =>
    obtain ⟨h3, ⟨hrec, h0, rfl⟩ | ⟨hrec, rfl⟩⟩ := h
    · exact .intro rfl rfl (append_fld (ofBool_eq_fld hrec) (append_fld rfl (hlow h3 h0).symm)) (enc_decTarget _)
    · exact .intro rfl rfl (append_fld (ofBool_eq_fld hrec) (append_fld rfl (append_fld h3.symm rfl))) (enc_decTarget _)
  case h_2 | h_3 | h_4 | h_5 | h_6 =>
    obtain ⟨⟨hrec, h3, h0⟩, rfl⟩ := h
    exact .of_pri rfl rfl hrec (hlow h3 h0) (enc_decTarget _)
  next =>
    obtain ⟨⟨hrec, h3, h0⟩, rfl, rfl⟩ := h
    exact .of_pri rfl rfl hrec (hlow h3 h0) rfl

theorem decFam4_ok (h : decFam4 pm p sub t0 = .ok i) : Short 4 pm sub p t0 i := by
  have hbit (k : Nat) := ofBool_getLsbD p k
  dsimp only [decFam4] at h
  split at h <;> simp [ite_eq_ok, -BitVec.getLsbD_eq_getElem] at h
  next =>
    obtain ⟨hz, rfl, rfl⟩ := h
    exact .of_zero rfl rfl hz rfl
  next =>
    obtain ⟨hz, rfl, rfl⟩ := h
    exact .intro rfl rfl (append_fld rfl hz.symm) rfl
  next =>
    obtain ⟨hz, hslot, rfl⟩ := h
    exact .intro hslot rfl (append_fld rfl (append_fld (hbit _) hz.symm)) (enc_decTarget _)
  next =>
    obtain ⟨hz, rfl, rfl⟩ := h
    exact .of_zero rfl rfl hz rfl
  next =>
    obtain ⟨⟨hz, htop⟩, hslot, rfl⟩ := h
    exact .intro hslot rfl (append_fld htop.symm (append_fld (hbit _) hz.symm)) (enc_decTarget _)
  next =>
    obtain ⟨hz, hslot, rfl⟩ := h
    exact .intro hslot rfl (append_fld rfl hz.symm) (enc_decTarget _)
  next =>
    obtain ⟨hz, rfl, rfl⟩ := h
    exact .of_zero rfl rfl hz rfl

theorem decFam5_ok (h : decFam5 pm p sub t0 = .ok i) : Short 5 pm sub p t0 i := by
  unfold decFam5 at h
  split at h
  case h_6 =>
    simp only [ite_eq_ok, errResv_ne_ok, and_false, false_or] at h
    obtain ⟨hz, h⟩ := h
    split at h <;> simp at h
    next bs hbs =>
      obtain ⟨rfl, rfl⟩ := h
      exact .intro rfl rfl (append_fld (enc_of_decBs hbs) (append_fld rfl (append_fld rfl (not_not.mp hz).symm))) rfl
  all_goals simp [ite_eq_ok, -BitVec.getLsbD_eq_getElem] at h
  case h_1 | h_2 =>
    obtain ⟨hz, rfl, rfl⟩ := h
    exact .of_zero rfl rfl hz rfl
  next =>
    obtain ⟨hz, hslot, rfl⟩ := h
    exact .of_zero hslot rfl hz (enc_decTarget _)
  next =>
    obtain ⟨hz, hslot, rfl⟩ := h
    exact .intro hslot rfl (append_fld (ofBool_getLsbD p 25) hz.symm) (enc_decTarget _)
  next =>
    obtain ⟨hz, hslot, rfl⟩ := h
    exact .of_zero hslot rfl hz (enc_decTarget _)

theorem decFam6_ok (h : decFam6 pm p sub t0 = .ok i) : Short 6 pm sub p t0 i := by
  dsimp only [decFam6] at h
  split at h <;> simp [ite_eq_ok, -BitVec.getLsbD_eq_getElem] at h
  case h_1 | h_2 | h_3 | h_4 | h_5 =>
    obtain ⟨⟨hz, hrec⟩, rfl⟩ := h
    exact .of_pri rfl rfl hrec hz (enc_decTarget _)
  next =>
    obtain ⟨hz, hslot, rfl⟩ := h
    exact .of_zero hslot rfl hz (enc_decTarget _)
  next =>
    obtain ⟨hz, rfl, rfl⟩ := h
    exact .of_zero rfl rfl hz rfl
  next =>
    obtain ⟨⟨hz, htop⟩, rfl⟩ := h
    exact .intro rfl rfl (append_fld htop.symm (append_fld rfl hz.symm)) (enc_decTarget _)
  next =>
    obtain ⟨⟨hz, htop⟩, h19, rfl⟩ := h
    exact .intro rfl rfl (append_fld htop.symm (append_fld rfl (append_fld (ofBool_eq_fld h19) (append_fld (ofBool_getLsbD p 18) hz.symm))))
      (enc_decTarget _)
  next =>
    obtain ⟨⟨hz, htop⟩, rfl, rfl⟩ := h
    exact .intro rfl rfl (append_fld htop.symm (append_fld rfl hz.symm)) rfl

theorem decFam7_ok (h : decFam7 pm p sub t0 = .ok i) : Short 7 pm sub p t0 i := by
  dsimp only [decFam7] at h
  split at h <;> simp [ite_eq_ok, -BitVec.getLsbD_eq_getElem] at h
  next =>
    obtain ⟨hz, hslot, rfl⟩ := h
    exact .of_zero hslot rfl hz (enc_decTarget _)
  next =>
    obtain ⟨hz, rfl, rfl⟩ := h
    exact .of_zero rfl rfl hz rfl
  next =>
    obtain ⟨hz, hslot, rfl⟩ := h
    exact .of_zero hslot rfl hz (enc_decTarget _)
  next =>
    obtain ⟨htop, rfl, rfl⟩ := h
    exact .intro rfl rfl (append_fld htop.symm rfl) rfl
  case h_5 | h_6 =>
    obtain ⟨⟨hz, hrec⟩, hslot, rfl⟩ := h
    exact .of_pri hslot rfl hrec hz (enc_decTarget _)

theorem decFam8_ok (h : decFam8 pm p sub t0 = .ok i) : Short 8 pm sub p t0 i := by
  dsimp only [decFam8] at h
  split at h <;> simp [ite_eq_ok, -BitVec.getLsbD_eq_getElem] at h
  all_goals
    obtain ⟨⟨hz, hrec⟩, rfl⟩ := h
    exact .of_pri rfl rfl hrec hz (enc_decTarget _)

end Families

end Sys2Proof

end

section

namespace Sys2Proof

open Sys2Proof.Claims

/-! ### Words that do not give the same parcels back: empty prefixes of short forms (R50) -/

/-- The instruction's parcels are those of the word without the empty prefixes of a family. -/
def EmptyPrefix (pre : Option PrefixWord) (w : BitVec 32) (i : Instr) : Prop :=
  ∃ k : BitVec 4, (2 ≤ k.toNat ∧ k.toNat ≤ 8) ∧ pre = some ⟨k, 0⟩ ∧ i.wf = true ∧ encode i = wordParcels w

section Words

variable {op : Nat} {pm : Pm} {pre : Option PrefixWord} {w : BitVec 32} {i : Instr}

/-- A short form's parcels are those of its word, but for empty prefixes. -/
theorem rebuilt_or_emptyPrefix (hw : WordOf 0x7E pm pre w) (hfam : 2 ≤ (fld w 17 4).toNat ∧ (fld w 17 4).toNat ≤ 8)
    (h : Short (fld w 17 4) pm (fld w 9 8).toNat ((immOf pre).getD 0) (fld w 0 9) i) : Rebuilt pre w i ∨ EmptyPrefix pre w i := by
  obtain ⟨hwf, henc⟩ := h
  rw [famParcels, BitVec.ofNat_toNat, BitVec.setWidth_eq, hw.encFam_eq rfl rfl rfl rfl] at henc
  cases pre with
  | none => exact .inl ⟨hwf, henc⟩
  | some q =>
    obtain ⟨k, v⟩ := q
    obtain rfl : k = fld w 17 4 := by simpa [preAccepted, preClass] using hw.acc
    by_cases hv : v = 0
    case pos =>
      subst hv
      exact .inr ⟨_, hfam, rfl, hwf, henc⟩
    case neg =>
      rw [immOf_some, Option.getD_some, if_neg hv] at henc
      exact .inl ⟨hwf, henc⟩

theorem decFamily_ok (hw : WordOf 0x7E pm pre w) (hfam : 2 ≤ (fld w 17 4).toNat ∧ (fld w 17 4).toNat ≤ 8)
    (h : decFamily pm pre w = .ok i) : Rebuilt pre w i ∨ EmptyPrefix pre w i := by
  refine rebuilt_or_emptyPrefix hw hfam ?_
  have hcode {n : Nat} (hn : n < 16) (heq : (fld w 17 4).toNat = n) : fld w 17 4 = BitVec.ofNat 4 n :=
    BitVec.eq_of_toNat_eq (by rw [heq, BitVec.toNat_ofNat, Nat.mod_eq_of_lt hn])
  unfold decFamily at h
  dsimp only at h
  split at h
  next heq => exact hcode (by decide) heq ▸ decFam2_ok h
  next heq => exact hcode (by decide) heq ▸ decFam3_ok h
  next heq => exact hcode (by decide) heq ▸ decFam4_ok h
  next heq => exact hcode (by decide) heq ▸ decFam5_ok h
  next heq => exact hcode (by decide) heq ▸ decFam6_ok h
  next heq => exact hcode (by decide) heq ▸ decFam7_ok h
  next =>
    have heq : (fld w 17 4).toNat = 8 := by
      simp only [imp_false] at *
      omega
    exact hcode (by decide) heq ▸ decFam8_ok h

theorem decOps0_ok (hw : WordOf op pm pre w) (hop : op < 0x20) (h : decOps0 op pm pre w = .ok i) : Rebuilt pre w i := by
  unfold decOps0 at h
  split at h
  case h_14 | h_15 => exact decImm_ok hw rfl (fun _ => rfl) (fun _ => rfl) h
  case h_16 | h_24 | h_25 => exact decShift_ok hw rfl (fun _ => rfl) (fun _ => rfl) h
  case h_30 | h_31 => exact decPtr_ok hw rfl (fun _ => rfl) (fun _ => rfl) h
  case h_32 =>
    obtain rfl : op = 0x1F := by
      simp only [imp_false] at *
      omega
    exact decPtr_ok hw rfl (fun _ => rfl) (fun _ => rfl) h
  all_goals exact decInt_ok hw rfl (fun _ => rfl) (fun _ => rfl) h

theorem decOps1_ok (hw : WordOf op pm pre w) (hassigned : opAssigned op = true) (hlo : 0x20 ≤ op) (hop : op < 0x40)
    (h : decOps1 op pm pre w = .ok i) : Rebuilt pre w i := by
  unfold decOps1 at h
  split at h
  case h_28 =>
    obtain rfl : op = 0x3F := by
      simp [opAssigned] at hassigned
      simp only [imp_false] at *
      omega
    exact decFp_ok hw rfl (fun _ => rfl) (fun _ => rfl) h
  all_goals exact decFp_ok hw rfl (fun _ => rfl) (fun _ => rfl) h

theorem decOps2_ok (hw : WordOf op pm pre w) (hlo : 0x40 ≤ op) (hop : op < 0x50) (h : decOps2 op pm pre w = .ok i) : Rebuilt pre w i := by
  dsimp only [decOps2] at h
  split at h
  case h_1 =>
    simp only [ite_eq_ok, errResv_ne_ok, and_false, false_or, Bool.not_eq_true', Bool.not_eq_false] at h
    obtain ⟨hres, h⟩ := h
    split at h <;> simp at h
    next c hc =>
      subst h
      exact ⟨rfl, congrArg₂ withPre (encFan_fanOf rfl hw.acc hres) (hw.encBase_eq (enc_of_decCond hc) (enc_decTarget _) (enc_decTarget _))⟩
  case h_2 =>
    simp only [ite_eq_ok, errResv_ne_ok, and_false, false_or, Bool.and_eq_true, Bool.not_eq_true', Bool.not_eq_false] at h
    obtain ⟨⟨hres, himm⟩, h⟩ := h
    split at h <;> simp at h
    next c hc =>
      subst h
      exact ⟨himm, congrArg₂ withPre (encPre_preOf rfl hw.acc hres) (hw.encBase_eq (enc_of_decCond hc) rfl (enc_decTarget _))⟩
  case h_8 =>
    simp only [ite_eq_ok, errResv_ne_ok, and_false, false_or, Bool.not_eq_true', Bool.not_eq_false] at h
    obtain ⟨hres, h⟩ := h
    split at h <;> simp at h
    next c hc =>
      subst h
      exact ⟨rfl, congrArg₂ withPre (encFan_fanOf rfl hw.acc hres) (hw.encBase_eq (enc_of_decPerm hc) (enc_decTarget _) (enc_decTarget _))⟩
  case h_11 =>
    simp [ite_eq_ok] at h
    obtain ⟨hres, rfl⟩ := h
    exact ⟨rfl, congrArg₂ withPre (encFan_fanOf rfl hw.acc hres) (hw.encBase_eq rfl (enc_decTarget _) (enc_decTarget _))⟩
  case h_12 =>
    simp only [ite_eq_ok, errResv_ne_ok, and_false, false_or, Bool.not_eq_true', Bool.not_eq_false] at h
    obtain ⟨hres, h⟩ := h
    split at h <;> simp at h
    next c hc =>
      subst h
      exact ⟨rfl, congrArg₂ withPre (encFan_fanOf rfl hw.acc hres) (hw.encBase_eq (enc_of_decFirst hc) (enc_decTarget _) (enc_decTarget _))⟩
  case h_3 | h_4 | h_5 | h_6 => exact decFp_ok hw rfl (fun _ => rfl) (fun _ => rfl) h
  case h_9 => exact decFlag_ok hw rfl (fun _ => rfl) (fun _ => rfl) h
  case h_16 =>
    obtain rfl : op = 0x4F := by
      simp only [imp_false] at *
      omega
    exact decFlag_ok hw rfl (fun _ => rfl) (fun _ => rfl) h
  all_goals exact decPlain_ok hw rfl (fun _ => rfl) (fun _ => rfl) h

theorem decOps3_ok (hw : WordOf op pm pre w) (hassigned : opAssigned op = true) (hlo : 0x50 ≤ op) (hop : op < 0x78)
    (h : decOps3 op pm pre w = .ok i) : Rebuilt pre w i := by
  unfold decOps3 at h
  split at h
  case h_6 | h_7 | h_9 | h_10 => exact decLoadX_ok hw rfl (fun _ => rfl) (fun _ => rfl) h
  case h_12 => exact decLda_ok hw h
  case h_13 | h_14 | h_15 | h_19 => exact decStore_ok hw rfl (fun _ => rfl) (fun _ => rfl) h
  case h_16 | h_17 | h_18 => exact decStoreX_ok hw rfl (fun _ => rfl) (fun _ => rfl) h
  case h_20 => exact decStl_ok hw h
  case h_21 => exact decFence_ok hw h
  case h_22 => exact decWaitc_ok hw h
  case h_23 => exact decWaitv_ok hw h
  case h_24 | h_25 | h_26 | h_27 | h_28 | h_29 | h_30 => exact decAtomic_ok hw rfl (fun _ => rfl) (fun _ => rfl) h
  case h_31 =>
    obtain rfl : op = 0x77 := by
      simp [opAssigned] at hassigned
      simp only [imp_false] at *
      omega
    exact decAtomic_ok hw rfl (fun _ => rfl) (fun _ => rfl) h
  all_goals exact decLoad_ok hw rfl (fun _ => rfl) (fun _ => rfl) h

theorem decOps4_ok (hw : WordOf op pm pre w) (hassigned : opAssigned op = true) (hlo : 0x78 ≤ op)
    (hfam : op = 0x7E → 2 ≤ (fld w 17 4).toNat ∧ (fld w 17 4).toNat ≤ 8) (h : decOps4 op pm pre w = .ok i) :
    Rebuilt pre w i ∨ EmptyPrefix pre w i := by
  unfold decOps4 at h
  split at h
  case h_1 => exact .inl (decBr_ok hw h)
  case h_2 => exact .inl (decLoop_ok hw h)
  case h_3 => exact .inl (decLoopSet_ok hw h)
  case h_4 => exact .inl (decControl_ok hw h)
  case h_5 =>
    simp [ite_eq_ok] at h
    obtain ⟨hres, rfl⟩ := h
    exact .inl ⟨rfl, congrArg₂ withPre (encFan_fanOf rfl hw.acc hres) (hw.encCsr_eq rfl (enc_decTarget _))⟩
  case h_6 =>
    simp only [Except.ok.injEq] at h
    exact .inl (h ▸ .of_bare hw rfl rfl rfl (hw.encCsr_eq rfl (enc_decTarget _)))
  case h_7 =>
    obtain rfl : op = 0x7E := by
      simp [opAssigned] at hassigned
      simp only [imp_false] at *
      omega
    exact decFamily_ok hw (hfam rfl) h

theorem decBase_ok (hbase : IsBase w) (h : decBase pre w = .ok i) : Rebuilt pre w i ∨ EmptyPrefix pre w i := by
  unfold decBase at h
  simp only [ite_eq_ok, reduceCtorEq, and_false, false_or, Bool.not_eq_true', Bool.not_eq_false] at h
  obtain ⟨hfam, hassigned, h⟩ := h
  split at h
  next => cases h
  next pm hpm =>
    simp only [ite_eq_ok, reduceCtorEq, and_false, false_or, Bool.not_eq_false] at h
    obtain ⟨hacc, h⟩ := h
    have hw : WordOf (fld w 23 7).toNat pm pre w := ⟨hbase, by simp, enc_of_decPm hpm, hacc⟩
    obtain ⟨h0, h⟩ | ⟨h0, ⟨h1, h⟩ | ⟨h1, ⟨h2, h⟩ | ⟨h2, ⟨h3, h⟩ | ⟨h3, h⟩⟩⟩⟩ := h
    · exact .inl (decOps0_ok hw h0 h)
    · exact .inl (decOps1_ok hw hassigned (by omega) h1 h)
    · exact .inl (decOps2_ok hw (by omega) h2 h)
    · exact .inl (decOps3_ok hw hassigned (by omega) h3 h)
    · exact decOps4_ok hw hassigned (by omega) (fun hop => by omega) h

end Words

/-! ### Parcels (R34, R51, R54) -/

theorem parcelLen_cases (p : Parcel) : (parcelLen p = 1 ∧ p.getLsbD 15 = false) ∨ (parcelLen p = 2 ∧ fld p 14 2 = 3)
    ∨ (parcelLen p = 4 ∧ fld p 14 2 = 2) := by
  have htop : fld p 14 2 = BitVec.ofBool (p.getLsbD 15) ++ BitVec.ofBool (p.getLsbD 14) :=
    (append_fld (ofBool_getLsbD p 15) (ofBool_getLsbD p 14)).symm
  unfold parcelLen
  rw [htop]
  cases p.getLsbD 15 <;> cases p.getLsbD 14 <;> decide

/-- The parcels of a word whose halves they are. -/
theorem wordParcels_append (p q : Parcel) : wordParcels (p ++ q) = [p, q] := by
  have hp : fld (p ++ q) 16 16 = p := (fld_append_of_le _ _ (by omega)).trans (fld_self p)
  have hq : fld (p ++ q) 0 16 = q := (fld_append_of_lt _ _ (by omega)).trans (fld_self q)
  rw [wordParcels, hp, hq]

theorem isBase_append {p q : Parcel} (h : fld p 14 2 = 3) : IsBase (p ++ q) :=
  (fld_append_of_le p q (by omega)).trans h

theorem decCompressed_ok {p : Parcel} {i : Instr} (hlen : p.getLsbD 15 = false) (h : decCompressed p = .ok i) :
    i.wf = true ∧ encode i = [p] := by
  have hbase (cop : BitVec 6) (hcop : cop = fld p 9 6) : 0#1 ++ (cop ++ (decTarget (fld p 0 9)).enc) = p := by
    refine Eq.trans ?_ (fld_self p)
    exact append_fld (ofBool_eq_fld hlen) (append_fld hcop (enc_decTarget _))
  have hform {mk : CArgs → Instr} {cop : BitVec 6} (henc : ∀ o, encode (mk o) = encC cop o) (hwf : ∀ o, (mk o).wf = true)
      (hi : (.ok (mk ⟨decTarget (fld p 0 9)⟩) : Except Cause Instr) = .ok i) (hcop : cop = fld p 9 6) : i.wf = true ∧ encode i = [p] := by
    cases hi
    exact ⟨hwf _, (henc _).trans (congrArg (fun q => [q]) (hbase cop hcop))⟩
  have hcode {n : Nat} (hn : n < 64) (heq : (fld p 9 6).toNat = n) : BitVec.ofNat 6 n = fld p 9 6 :=
    (BitVec.eq_of_toNat_eq (by rw [heq, BitVec.toNat_ofNat, Nat.mod_eq_of_lt hn])).symm
  dsimp only [decCompressed] at h
  split at h
  case h_30 =>
    split at h
    next hrange =>
      cases h
      refine ⟨rfl, congrArg (fun q => [q]) (hbase _ (append_fld ?_ rfl))⟩
      refine BitVec.eq_of_toNat_eq ?_
      simp [fld] at hrange ⊢
      omega
    next => cases h
  all_goals
    next heq => exact hform (fun _ => rfl) (fun _ => rfl) h (hcode (by decide) heq)

theorem baseResult_ok {n m : Nat} {r : BaseDec} {x : Instr × Nat} (h : baseResult n m r = .ok x) : r = .ok x.1 ∧ x.2 = n := by
  cases r <;> cases h
  exact ⟨rfl, rfl⟩

/-- Prefixes of a family's kind whose payload is 0, as two parcels. -/
theorem emptyPrefix_of_payload {p q : Parcel} (rest : List Parcel) {k : BitVec 4} (htop : fld p 14 2 = 2) (hk : fld (p ++ q) 26 4 = k)
    (hrange : 2 ≤ k.toNat ∧ k.toNat ≤ 8) (hpay : fld (p ++ q) 0 26 = 0) : emptyPrefix (p :: q :: rest) = true := by
  have hkind : fld p 10 4 = k := (fld_append_of_le p q (by omega)).symm.trans hk
  have hhigh : fld p 0 10 = 0 := by
    rw [← fld_append_of_le (n := 16) p q (lo := 16) (by omega), ← fld_fld (len := 26) (a := 16) (lo := 0) _ (by omega), hpay]
    rfl
  have hlow : q = 0 := by
    rw [← fld_self q, ← fld_append_of_lt p q (by omega), ← fld_fld (len := 26) (a := 0) (lo := 0) _ (by omega), hpay]
    rfl
  simp [emptyPrefix, hkind, hrange, htop, hhigh, hlow]

/-- Settles O49: the parcels of what decodes are taken apart along the decoder's branches, and each form's fields join to its word. -/
theorem decodedParcelsAreTheEncoding : Obligations.DecodedParcelsAreTheEncoding := by
  intro ps i n h
  cases ps with
  | nil => cases h
  | cons p rest =>
    have hlen := parcelLen_cases p
    dsimp only [decInstr] at h
    split at h
    next h1 =>
      split at h <;> cases h
      next hdec =>
        obtain ⟨hwf, henc⟩ := decCompressed_ok (by simpa [h1] using hlen) hdec
        exact ⟨hwf, by simp [Instr.isWord, henc], .inl rfl, by simp, .inl henc⟩
    next h2 =>
      split at h
      next q tail =>
        obtain ⟨hdec, rfl⟩ := baseResult_ok h
        obtain ⟨hwf, henc⟩ | ⟨_, _, hpre, _⟩ := decBase_ok (isBase_append (by simpa [h2] using hlen)) hdec
        · rw [withPre, wordParcels_append] at henc
          exact ⟨hwf, by simp [Instr.isWord, henc], .inr (.inl rfl), by simp, .inl henc⟩
        · cases hpre
      next => cases h
    next h1 h2 =>
      have htop : fld p 14 2 = 2 := by
        obtain ⟨hone, _⟩ | ⟨htwo, _⟩ | ⟨_, htop⟩ := hlen
        · exact absurd hone h1
        · exact absurd htwo h2
        · exact htop
      split at h
      next q a b tail =>
        split_ifs at h with hk hbase
        obtain ⟨hdec, rfl⟩ := baseResult_ok h
        obtain ⟨hwf, henc⟩ | ⟨k, hrange, hpre, hwf, henc⟩ := decBase_ok (isBase_append (not_not.mp hbase)) hdec
        · have hprefix : 2#2 ++ (fld (p ++ q) 26 4 ++ fld (p ++ q) 0 26) = p ++ q := by
            refine Eq.trans ?_ (fld_self (p ++ q))
            exact append_fld ((fld_append_of_le p q (by omega)).trans htop).symm (append_fld rfl rfl)
          rw [withPre, hprefix, wordParcels_append, wordParcels_append] at henc
          exact ⟨hwf, by simp [Instr.isWord, henc], .inr (.inr rfl), by simp, .inl henc⟩
        · rw [wordParcels_append] at henc
          rw [Option.some.injEq, PrefixWord.mk.injEq] at hpre
          exact ⟨hwf, by simp [Instr.isWord, henc], .inr (.inr rfl), by simp,
            .inr ⟨rfl, emptyPrefix_of_payload _ htop hpre.1 hrange hpre.2, henc⟩⟩
      next => cases h

end Sys2Proof

end

section

namespace Sys2Proof.Machine

open Sys2Proof.Claims

/-! ### The decoder looks at the parcels of its instruction only (R34) -/

theorem decInstr_take {ps : List Parcel} {i : Instr} {n : Nat} (h : decInstr ps = .ok (i, n)) : decInstr (ps.take n) = .ok (i, n) := by
  cases ps with
  | nil => cases h
  | cons p rest =>
    dsimp only [decInstr] at h
    split at h
    next h1 =>
      split at h <;> cases h
      next hdec => simp only [List.take_succ_cons, decInstr, h1, hdec]
    next h2 =>
      split at h
      next q tail =>
        obtain ⟨hdec, rfl⟩ := baseResult_ok h
        simpa only [List.take_succ_cons, decInstr, h2] using h
      next => cases h
    next h1 h2 =>
      split at h
      next q a b tail =>
        have h' := h
        split_ifs at h' with hk hbase
        obtain ⟨hdec, rfl⟩ := baseResult_ok h'
        simp only [List.take_succ_cons, decInstr]
        exact h
      next => cases h

/-! ### Fetch lines (R35 to R38) -/

theorem length_parcelsOf (bs : List Byte) : (parcelsOf bs).length = bs.length / 2 := by
  fun_induction parcelsOf bs with
  | case1 a b bs ih =>
    simp only [List.length_cons, ih]
    omega
  | case2 bs h =>
    match bs with
    | [] => rfl
    | [_] => simp
    | a :: b :: bs => exact (h a b bs rfl).elim

theorem length_lineImage (s : State) (m : DecMode) (i key : Nat) : (s.lineImage m i key).length = 128 := by
  unfold State.lineImage
  dsimp only
  split_ifs <;> simp [memReadN_eq_map]

theorem fetchLine_ok {s : State} {m : DecMode} {i : Nat} {a : Word} {l : Line} (h : s.fetchLine m i a = .ok l) :
    l.addr = a ∧ l.body.length = 63 := by
  unfold State.fetchLine at h
  split at h
  next => cases h
  next => cases h
  next key fl _ =>
    have hlen := length_parcelsOf (s.lineImage m i key)
    rw [length_lineImage] at hlen
    split at h <;> cases h
    next hps =>
      rw [hps] at hlen
      exact ⟨rfl, by simpa using hlen⟩
    next hps => simp [hps] at hlen

/-- In space 0 the next fetch line is another one, and in the same space. -/
theorem lineAt_one {a : Word} (h : spaceOf a = 0) : lineAt a 1 ≠ a ∧ spaceOf (lineAt a 1) = 0 := by
  have hline : lineAt a 1 = setField a 0 56 (intToNat 56 (natBits a.toNat 0 56 + 128)) := by
    simp only [lineAt, addOffset, offsetOf, h, offsetWidth]
    rfl
  have hbound := a.isLt
  have hval : (lineAt a 1).toNat = a.toNat - a.toNat % 2 ^ 56 + (a.toNat % 2 ^ 56 + 128) % 2 ^ 56 := by
    rw [hline]
    simp only [setField, intToNat, natBits, BitVec.toNat_ofNat]
    omega
  constructor
  · intro heq
    have hsame := congrArg BitVec.toNat heq
    rw [hval] at hsame
    omega
  · simp only [spaceOf, natBits] at h ⊢
    rw [hval]
    omega

/-- Lines that the strand fetched, no two neighbours at one address. -/
structure Fetched (s : State) (m : DecMode) (ls : List Line) : Prop where
  each  : ∀ l ∈ ls, l.body.length = 63 ∧ ∃ q, s.fetchLine m q l.addr = .ok l
  chain : ls.IsChain (fun l l' => l'.addr ≠ l.addr)

theorem bind_eq_ok {ε α β : Type} {x : Except ε α} {f : α → Except ε β} {b : β} : (x >>= f) = .ok b ↔ ∃ a, x = .ok a ∧ f a = .ok b := by
  cases x <;> simp [bind, Except.bind]

theorem fetchLines_ok {s : State} {m : DecMode} {fuel : Nat} {a : Word} {ls : List Line} (ha : spaceOf a = 0)
    (h : s.fetchLines m a fuel = .ok ls) : Fetched s m ls ∧ ∀ l ∈ ls.head?, l.addr = a := by
  induction fuel generalizing a ls with
  | zero =>
    cases h
    exact ⟨⟨by simp, .nil⟩, by simp⟩
  | succ fuel ih =>
    obtain ⟨l, hl, h⟩ := bind_eq_ok.mp h
    obtain ⟨rfl, hbody⟩ := fetchLine_ok hl
    split at h
    next =>
      cases h
      exact ⟨⟨by simpa using ⟨hbody, fuel, hl⟩, .singleton _⟩, by simp⟩
    next =>
      obtain ⟨hne, hspace⟩ := lineAt_one ha
      obtain ⟨tail, htail, h⟩ := bind_eq_ok.mp h
      cases h
      obtain ⟨⟨heach, hchain⟩, hhead⟩ := ih hspace htail
      refine ⟨⟨?_, hchain.cons fun l' hl' => ?_⟩, by simp⟩
      · rintro l' (_ | ⟨_, hl'⟩)
        · exact ⟨hbody, fuel, hl⟩
        · exact heach l' hl'
      · rw [hhead l' hl']
        exact hne

/-! ### The content of the lines (R36) -/

/-- The content parcels of lines, in order. -/
def contentOf (ls : List Line) : Content := ls.flatMap (fun l => numberParcels l.addr l.last (l.addr + 2) (l.body.take l.np))

theorem checkLines_ok {pos : Nat} {ls : List Line} {c : Content} (h : checkLines pos ls = .ok c) :
    c = contentOf ls ∧ ∀ l ∈ ls, l.np ≠ 0 := by
  induction ls generalizing pos c with
  | nil =>
    cases h
    exact ⟨rfl, by simp⟩
  | cons l ls ih =>
    obtain ⟨_, hl, h⟩ := bind_eq_ok.mp h
    obtain ⟨rest, hrest, h⟩ := bind_eq_ok.mp h
    obtain ⟨rfl, hnp⟩ := ih hrest
    cases h
    refine ⟨by simp [contentOf], ?_⟩
    have hl0 : l.np ≠ 0 := by
      intro h0
      simp [checkLine, h0] at hl
    simpa using ⟨hl0, hnp⟩

theorem numberParcels_drop (la : Word) (last : Bool) (a : Word) (ps : List Parcel) (k : Nat) :
    (numberParcels la last a ps).drop k = numberParcels la last (a + BitVec.ofNat 64 (2 * k)) (ps.drop k) := by
  induction k generalizing a ps with
  | zero => simp
  | succ k ih =>
    cases ps with
    | nil => simp [numberParcels]
    | cons p ps =>
      have haddr : a + 2 + BitVec.ofNat 64 (2 * k) = a + BitVec.ofNat 64 (2 * (k + 1)) := by
        rw [BitVec.add_assoc, show 2 * (k + 1) = 2 + 2 * k by omega, BitVec.ofNat_add]
        rfl
      rw [numberParcels, List.drop_succ_cons, ih, haddr, List.drop_succ_cons]

/-- The run of one line's parcels, where what follows belongs to another line. -/
theorem takeWhile_numberParcels {la : Word} {last : Bool} {a : Word} {ps : List Parcel} {rest : Content}
    (hrest : ∀ x ∈ rest.head?, x.2.1 ≠ la) :
    (((numberParcels la last a ps ++ rest).takeWhile (fun x => x.2.1 = la)).map (fun x => x.2.2.2)) = ps := by
  induction ps generalizing a with
  | nil =>
    cases rest with
    | nil => rfl
    | cons x rest => simp [numberParcels, hrest x rfl]
  | cons p ps ih => simp [numberParcels, ih]

theorem head_contentOf {ls : List Line} (hne : ∀ l ∈ ls, l.np ≠ 0 ∧ l.body.length = 63) {x : Word × Word × Bool × Parcel}
    (hx : x ∈ (contentOf ls).head?) : ∃ l ∈ ls.head?, x.2.1 = l.addr := by
  cases ls with
  | nil => simp [contentOf] at hx
  | cons l ls =>
    obtain ⟨hnp, hbody⟩ := hne l (by simp)
    refine ⟨l, rfl, ?_⟩
    cases hps : l.body.take l.np with
    | nil =>
      have hlen := congrArg List.length hps
      rw [List.length_take, hbody, List.length_nil] at hlen
      omega
    | cons p ps =>
      simp [contentOf, hps, numberParcels] at hx
      rw [← hx]

/-- What is left of the content begins inside a line, and its run are the parcels that are left of that line. -/
theorem line_of_suffix {ls : List Line} (hchain : ls.IsChain (fun l l' => l'.addr ≠ l.addr)) (hne : ∀ l ∈ ls, l.np ≠ 0 ∧ l.body.length = 63)
    {a la : Word} {last : Bool} {p : Parcel} {c : Content} (h : (a, la, last, p) :: c <:+ contentOf ls) :
    ∃ l ∈ ls, ∃ k, la = l.addr ∧ a = l.addr + BitVec.ofNat 64 (2 + 2 * k)
      ∧ p :: (c.takeWhile (fun x => x.2.1 = la)).map (fun x => x.2.2.2) = (l.body.take l.np).drop k := by
  induction ls with
  | nil => simp [contentOf] at h
  | cons l ls ih =>
    have htail : ∀ l' ∈ ls, l'.np ≠ 0 ∧ l'.body.length = 63 := fun l' hl' => hne l' (by simp [hl'])
    have hrest : ∀ x ∈ (contentOf ls).head?, x.2.1 ≠ l.addr := by
      intro x hx
      obtain ⟨l', hl', hxl⟩ := head_contentOf htail hx
      rw [hxl]
      exact hchain.rel_head? hl'
    have hinduct (hs : (a, la, last, p) :: c <:+ contentOf ls) := ih hchain.tail htail hs
    obtain ⟨u, hu⟩ := h
    rw [contentOf, List.flatMap_cons, ← contentOf] at hu
    obtain ⟨v, hv, hc⟩ | ⟨v, -, hv⟩ := List.append_eq_append_iff.mp hu
    case inl =>
      have hdrop := congrArg (List.drop u.length) hv
      rw [List.drop_left, numberParcels_drop] at hdrop
      cases hk : (l.body.take l.np).drop u.length with
      | nil =>
        rw [hk, numberParcels] at hdrop
        rw [← hdrop, List.nil_append] at hc
        obtain ⟨l', hl', hrun⟩ := hinduct (hc ▸ List.suffix_refl _)
        exact ⟨l', by simp [hl'], hrun⟩
      | cons q qs =>
        rw [hk, numberParcels] at hdrop
        rw [← hdrop, List.cons_append, List.cons.injEq] at hc
        obtain ⟨hfirst, rfl⟩ := hc
        obtain ⟨rfl, rfl, -, rfl⟩ : a = _ ∧ la = _ ∧ last = _ ∧ p = _ := by simpa using hfirst
        refine ⟨l, by simp, u.length, rfl, ?_, ?_⟩
        · rw [BitVec.add_assoc, BitVec.ofNat_add]
        · rw [takeWhile_numberParcels hrest, hk]
    case inr =>
      obtain ⟨l', hl', hrun⟩ := hinduct ⟨v, hv.symm⟩
      exact ⟨l', by simp [hl'], hrun⟩

/-! ### What decoding leaves of the content (R36, R39 to R42) -/

theorem headerWord_ok {hfa : Word} {c : Content} {w : BitVec 32} {a : Word} {rest : Content} (h : headerWord hfa c = .ok (w, a, rest)) :
    rest <:+ c := by
  unfold headerWord at h
  split at h
  next =>
    split_ifs at h
    cases h
    exact (List.suffix_cons _ _).trans (List.suffix_cons _ _)
  next => split_ifs at h
  next => cases h

theorem readMap_ok {hfa : Word} {icnt wcnt n : Nat} {c c' : Content} {r : List (Nat × Target × Target × Word)}
    (h : readMap hfa icnt wcnt n c = .ok (r, c')) : c' <:+ c := by
  induction n generalizing c c' r with
  | zero =>
    cases h
    exact List.suffix_refl _
  | succ n ih =>
    obtain ⟨⟨w, a, c1⟩, hw, h⟩ := bind_eq_ok.mp h
    dsimp only at h
    split_ifs at h
    obtain ⟨_, _, h⟩ := bind_eq_ok.mp h
    obtain ⟨⟨tail, c2⟩, htail, h⟩ := bind_eq_ok.mp h
    cases h
    exact (ih htail).trans (headerWord_ok hw)

theorem writeMap_ok {hfa : Word} {tiles wcnt n : Nat} {seen r : List Nat} {c c' : Content}
    (h : writeMap hfa tiles wcnt n seen c = .ok (r, c')) : c' <:+ c := by
  induction n generalizing seen c with
  | zero =>
    cases h
    exact List.suffix_refl _
  | succ n ih =>
    obtain ⟨⟨w, a, c1⟩, hw, h⟩ := bind_eq_ok.mp h
    obtain ⟨_, _, h⟩ := bind_eq_ok.mp h
    exact (ih h).trans (headerWord_ok hw)

/-- What an instruction of a pitch has to do with the lines: it is what its parcels decode to, and they stand in a line at its address. -/
def CodedFrom (ls : List Line) (x : Coded) : Prop :=
  decInstr x.2.2.2 = .ok (x.2.2.1, x.2.2.2.length) ∧ ∃ l ∈ ls, ∃ k, x.2.2.2 = (l.body.drop k).take x.2.2.2.length
    ∧ k + x.2.2.2.length ≤ l.np ∧ x.2.1 = l.addr + BitVec.ofNat 64 (2 + 2 * k + if x.2.2.2.length = 4 then 4 else 0)

/-- The instruction whose first parcel stands `k` parcels into what a line still holds. -/
theorem codedFrom_of_run {ls : List Line} {l : Line} (hl : l ∈ ls) {k n len : Nat} {run : List Parcel} {i : Instr} {a : Word}
    (hrun : run = (l.body.take l.np).drop k) (hdec : decInstr (run.take 4) = .ok (i, len)) (ha : a = l.addr + BitVec.ofNat 64 (2 + 2 * k)) :
    CodedFrom ls (n, if len = 4 then a + 4 else a, i, (run.take 4).take len) := by
  obtain ⟨-, -, hsize, hle, -⟩ := decodedParcelsAreTheEncoding _ _ _ hdec
  have hlen : ((run.take 4).take len).length = len := by
    rw [List.length_take]
    omega
  have hroom : len ≤ run.length := hle.trans (List.length_take_le' ..)
  have hfour : len ≤ 4 := by omega
  rw [hrun, List.length_drop, List.length_take] at hroom
  refine ⟨by rw [hlen]; exact decInstr_take hdec, l, hl, k, ?_, ?_, ?_⟩
  · dsimp only
    rw [hlen, List.take_take, Nat.min_eq_left hfour, hrun, List.drop_take, List.take_take, Nat.min_eq_left (by omega)]
  · dsimp only
    rw [hlen]
    omega
  · dsimp only
    rw [hlen, ha]
    split
    · rw [BitVec.add_assoc, BitVec.ofNat_add (2 + 2 * k)]
      rfl
    · rfl

theorem decodeStream_ok {m : DecMode} {pc hfa : Word} {icnt wcnt fuel n total : Nat} {ls : List Line} {c : Content} {code : List Coded}
    (hchain : ls.IsChain (fun l l' => l'.addr ≠ l.addr)) (hne : ∀ l ∈ ls, l.np ≠ 0 ∧ l.body.length = 63) (hc : c <:+ contentOf ls)
    (h : decodeStream m pc hfa icnt wcnt fuel n c = .ok (code, total)) : ∀ x ∈ code, CodedFrom ls x := by
  induction fuel generalizing n c code total with
  | zero =>
    cases h
    simp
  | succ fuel ih =>
    match c with
    | [] =>
      cases h
      simp
    | (a, la, last, p) :: c =>
      obtain ⟨l, hl, k, rfl, ha, hrun⟩ := line_of_suffix hchain hne hc
      simp only [decodeStream] at h
      split at h
      next => cases h
      next i len hdec =>
        obtain ⟨_, _, h⟩ := bind_eq_ok.mp h
        obtain ⟨_, _, h⟩ := bind_eq_ok.mp h
        obtain ⟨_, _, h⟩ := bind_eq_ok.mp h
        obtain ⟨⟨tail, count⟩, htail, h⟩ := bind_eq_ok.mp h
        cases h
        have hsuffix := ((List.drop_suffix (len - 1) c).trans (List.suffix_cons _ c)).trans hc
        rintro x (_ | ⟨_, hx⟩)
        · exact codedFrom_of_run hl hrun hdec ha
        · exact ih hsuffix htail x hx

theorem decodeHead_ok {s : State} {m : DecMode} {pc a : Word} {n rcnt wcnt : Nat} {hdr : Header} {c : Content}
    (h : s.decodeHead m pc = .ok (n, hdr, c, a, rcnt, wcnt)) : ∃ ls, Fetched s m ls ∧ (∀ l ∈ ls, l.np ≠ 0) ∧ c <:+ contentOf ls := by
  unfold State.decodeHead at h
  dsimp only at h
  split_ifs at h with hspace hline
  obtain ⟨ls, hls, h⟩ := bind_eq_ok.mp h
  obtain ⟨_, _, h⟩ := bind_eq_ok.mp h
  obtain ⟨c0, hc0, h⟩ := bind_eq_ok.mp h
  obtain ⟨rfl, hnp⟩ := checkLines_ok hc0
  split_ifs at h
  obtain ⟨⟨w0, a0, c1⟩, hw0, h⟩ := bind_eq_ok.mp h
  dsimp only at h
  split_ifs at h
  obtain ⟨⟨w1, a1, c2⟩, hw1, h⟩ := bind_eq_ok.mp h
  cases h
  obtain ⟨hfetched, -⟩ := fetchLines_ok (by simpa using fun h0 => hspace (.inl h0)) hls
  exact ⟨ls, hfetched, hnp, (headerWord_ok hw1).trans (headerWord_ok hw0)⟩

theorem decodeRest_ok {m : DecMode} {pc a : Word} {n : Nat} {hdr : Header} {ls : List Line} {c : Content} {p : Pitch}
    (hchain : ls.IsChain (fun l l' => l'.addr ≠ l.addr)) (hne : ∀ l ∈ ls, l.np ≠ 0 ∧ l.body.length = 63) (hc : c <:+ contentOf ls)
    (h : decodeRest m pc n hdr c a = .ok p) : ∀ x ∈ p.code, CodedFrom ls x := by
  obtain ⟨⟨rm, c1⟩, hrm, h⟩ := bind_eq_ok.mp h
  obtain ⟨⟨wm, c2⟩, hwm, h⟩ := bind_eq_ok.mp h
  obtain ⟨⟨code, total⟩, hcode, h⟩ := bind_eq_ok.mp h
  dsimp only at h
  split_ifs at h
  obtain ⟨_, _, h⟩ := bind_eq_ok.mp h
  obtain ⟨_, _, h⟩ := bind_eq_ok.mp h
  obtain ⟨_, _, h⟩ := bind_eq_ok.mp h
  split at h <;> cases h
  exact decodeStream_ok hchain hne ((writeMap_ok hwm).trans ((readMap_ok hrm).trans hc)) hcode

/-- Settles O52: what decoding reads is always a suffix of the fetched lines' content, and an instruction's parcels are a run of one line. -/
theorem pitchesHoldWhatMemoryHolds : Obligations.PitchesHoldWhatMemoryHolds := by
  intro s m pc p n a i ps h hx
  obtain ⟨⟨lines, hdr, c, a1, _, _⟩, hhead, hrest⟩ := bind_eq_ok.mp h
  obtain ⟨ls, ⟨heach, hchain⟩, hnp, hc⟩ := decodeHead_ok hhead
  obtain ⟨hdec, l, hl, k, hps, hroom, ha⟩ := decodeRest_ok hchain (fun l hl => ⟨hnp l hl, (heach l hl).1⟩) hc hrest _ hx
  obtain ⟨-, q, hq⟩ := heach l hl
  exact ⟨hdec, l, k, q, hq, hps, hroom, ha⟩

end Sys2Proof.Machine

end

section

namespace Sys2Proof.Machine

open Sys2Proof.Claims

/-! ### Fields of a frame (R167) -/

theorem frameWord_append_of_le {a b : List Byte} {off : Nat} (n : Nat) (h : a.length ≤ off) :
    frameWord (a ++ b) off n = frameWord b (off - a.length) n := by
  rw [frameWord, List.drop_append, List.drop_of_length_le h, List.nil_append, frameWord]

/-- A word that begins here. -/
theorem frameWord_natLe {v : Nat} (b : List Byte) (h : v < 2 ^ 64) : frameWord (natLe 8 v ++ b) 0 8 = v := by
  rw [frameWord, List.drop_zero, List.take_left' (length_natLe 8 v), leNat_natLe 8 v (by omega)]

/-- The words of a vector. -/
def wordBytes {k w : Nat} (v : Vector (BitVec w) k) : List Byte := v.toList.flatMap (fun x => natLe 8 x.toNat)

theorem length_flatMap_natLe {w : Nat} (l : List (BitVec w)) : (l.flatMap (fun x => natLe 8 x.toNat)).length = 8 * l.length := by
  induction l with
  | nil => rfl
  | cons x l ih =>
    rw [List.flatMap_cons, List.length_append, length_natLe, ih, List.length_cons]
    omega

@[simp] theorem length_wordBytes {k w : Nat} (v : Vector (BitVec w) k) : (wordBytes v).length = 8 * k := by
  rw [wordBytes, length_flatMap_natLe, Vector.length_toList]

theorem frameWord_flatMap {w : Nat} (hw : w ≤ 64) (b : List Byte) (l : List (BitVec w)) (i : Nat) (h : i < l.length) :
    frameWord (l.flatMap (fun x => natLe 8 x.toNat) ++ b) (8 * i) 8 = l[i].toNat := by
  induction l generalizing i with
  | nil => simp at h
  | cons x l ih =>
    rw [List.flatMap_cons, List.append_assoc]
    cases i with
    | zero => exact frameWord_natLe _ (x.isLt.trans_le (Nat.pow_le_pow_right (by decide) hw))
    | succ i =>
      rw [frameWord_append_of_le 8 (by rw [length_natLe]; omega), length_natLe, show 8 * (i + 1) - 8 = 8 * i by omega]
      exact ih i (Nat.lt_of_succ_lt_succ h)

/-- The words of a vector that begins here. -/
theorem frameVec_wordBytes {k w : Nat} (hw : w ≤ 64) (v : Vector (BitVec w) k) (b : List Byte) : frameVec (wordBytes v ++ b) 0 k w = v := by
  ext1 i hi
  rw [frameVec, Vector.getElem_ofFn, Nat.zero_add, wordBytes, frameWord_flatMap hw b _ i (by simpa using hi)]
  simp

theorem frameVec_append_of_le {a b : List Byte} {off k w : Nat} (h : a.length ≤ off) :
    frameVec (a ++ b) off k w = frameVec b (off - a.length) k w := by
  unfold frameVec
  congr 1
  funext i
  rw [frameWord_append_of_le 8 (by omega), Nat.sub_add_comm h]

theorem toNat_lt_word {w : Nat} (v : BitVec w) (hw : w ≤ 64) : v.toNat < 2 ^ 64 := v.isLt.trans_le (Nat.pow_le_pow_right (by decide) hw)

theorem drop_natLe_append {v n : Nat} (b : List Byte) (h : 8 ≤ n) : (natLe 8 v ++ b).drop n = b.drop (n - 8) := by
  rw [List.drop_append, List.drop_of_length_le (by rwa [length_natLe]), length_natLe, List.nil_append]

/-- After the twelve words of the pitch's progress a frame holds the strand's images. -/
theorem drop_frame (ex : Exec) (x : Ctx) (fc fa : Word) : ∃ tail, (ex.frame x fc fa).drop 0x60
    = natLe 8 ex.img.sb.toNat ++ (natLe 8 ex.img.sn.toNat ++ (natLe 8 ex.img.vl ++ (natLe 8 ex.img.sc.toNat ++ (natLe 8 ex.img.sl.toNat
    ++ (natLe 8 ex.img.fr.toNat ++ (natLe 8 ex.img.fx.toNat ++ (natLe 8 ex.img.fe.toNat ++ (wordBytes ex.img.lp ++ (wordBytes ex.img.lm
    ++ (wordBytes ex.img.ls ++ (wordBytes ex.img.lc ++ (natLe 8 x.sq ++ (natLe 8 x.sk ++ (natLe 16 0 ++ (wordBytes ex.img.d
    ++ tail))))))))))))))) := by
  unfold Exec.frame
  simp (disch := omega) only [List.append_assoc, drop_natLe_append, Nat.reduceSub, List.drop_zero]
  exact ⟨_, rfl⟩

theorem frameWord_of_drop {fr b : List Byte} {m off n : Nat} (h : fr.drop m = b) (hoff : m ≤ off) : frameWord fr off n = frameWord b (off - m) n := by
  rw [← h, frameWord, frameWord, List.drop_drop, Nat.add_sub_cancel' hoff]

theorem frameVec_of_drop {fr b : List Byte} {m off k w : Nat} (h : fr.drop m = b) (hoff : m ≤ off) :
    frameVec fr off k w = frameVec b (off - m) k w := by
  unfold frameVec
  congr 1
  funext i
  rw [frameWord_of_drop h (by omega), Nat.sub_add_comm hoff]

/-- Settles O23: after its head the frame is the images' bytes, and each field is read where its bytes begin. -/
theorem replayFrameCarriesTheStrand : Obligations.ReplayFrameCarriesTheStrand := by
  intro x y ex fc fa hvl hsq hsk
  obtain ⟨tail, hframe⟩ := drop_frame ex x fc fa
  have hword (off n : Nat) (h : 0x60 ≤ off) := frameWord_of_drop (n := n) hframe h
  have hvec (off k w : Nat) (h : 0x60 ≤ off) := frameVec_of_drop (k := k) (w := w) hframe h
  simp (disch := simp) only [Ctx.restore, hword, hvec, frameWord_append_of_le, frameVec_append_of_le, length_natLe, length_wordBytes,
    Nat.reduceSub, Nat.reduceMul]
  simp only [frameWord_natLe _ hvl, frameWord_natLe _ hsq, frameWord_natLe _ hsk, frameWord_natLe _ (toNat_lt_word _ (show 48 ≤ 64 by decide)),
    frameWord_natLe _ (toNat_lt_word _ (Nat.le_refl 64)), frameVec_wordBytes (show 48 ≤ 64 by decide), frameVec_wordBytes (Nat.le_refl 64),
    BitVec.ofNat_toNat, BitVec.setWidth_eq, and_self]

end Sys2Proof.Machine

end

section

namespace Sys2Proof.Machine

open Sys2Proof.Claims

/-! ### Elements of a register (R7, R18) -/

theorem elemMask_succ (w : Nat) (keep : Nat → Bool) (n : Nat) :
    elemMask w keep (n + 1) = 2 ^ (w * n) * (if keep n then 2 ^ w - 1 else 0) + elemMask w keep n := by
  rw [elemMask]
  split
  · rw [Nat.mul_comm, Nat.add_comm]
  · simp

theorem elemMask_lt (w : Nat) (keep : Nat → Bool) : ∀ n, elemMask w keep n < 2 ^ (w * n)
  | 0 => Nat.one_pos
  | n + 1 => by
    have hpart : (if keep n then 2 ^ w - 1 else 0) < 2 ^ w := by
      split
      · exact Nat.sub_lt (Nat.two_pow_pos w) Nat.one_pos
      · exact Nat.two_pow_pos w
    rw [elemMask_succ, Nat.mul_succ, pow_add]
    exact (Nat.mul_add_lt_mul_of_lt_of_lt hpart (elemMask_lt w keep n)).trans_eq (Nat.mul_comm ..)

/-- A bit of an element is in the mask exactly when the element is kept. -/
theorem testBit_elemMask {w j : Nat} (keep : Nat → Bool) (hj : j < w) {n e : Nat} (he : e < n) :
    (elemMask w keep n).testBit (e * w + j) = keep e := by
  induction n with
  | zero => omega
  | succ n ih =>
    rw [elemMask_succ, Nat.testBit_two_pow_mul_add _ (elemMask_lt w keep n)]
    rcases Nat.lt_succ_iff_lt_or_eq.mp he with hlt | rfl
    · have hin : e * w + j < w * n := by
        calc e * w + j < (e + 1) * w := by rw [Nat.succ_mul]; omega
          _ ≤ w * n := by rw [Nat.mul_comm w]; exact Nat.mul_le_mul_right w hlt
      rw [if_pos hin, ih hlt]
    · rw [Nat.mul_comm w e, if_neg (by omega), Nat.add_sub_cancel_left]
      split
      · rw [Nat.testBit_two_pow_sub_one]
        simp [*]
      · simp [*]

theorem mergeElems_bit (old : BitVec 2048) {w n e j : Nat} {t : Token} (ht : t.kind ≠ .scalar) (hw : n * w ≤ 2048) (he : e < n) (hj : j < w) :
    (mergeElems old w n t).getLsbD (e * w + j) = if t.nullAt e then old.getLsbD (e * w + j) else t.bits.getLsbD (e * w + j) := by
  have hin : e * w + j < 2048 := by
    calc e * w + j < (e + 1) * w := by rw [Nat.succ_mul]; omega
      _ ≤ n * w := Nat.mul_le_mul_right w he
      _ ≤ 2048 := hw
  have hmask : (BitVec.ofNat 2048 (elemMask w (fun e => !t.nullAt e) n)).getLsbD (e * w + j) = !t.nullAt e := by
    rw [BitVec.getLsbD_ofNat, testBit_elemMask _ hj he]
    simp [hin]
  simp only [mergeElems, if_neg ht, BitVec.getLsbD_or, BitVec.getLsbD_and, BitVec.getLsbD_not, hmask]
  cases t.nullAt e <;> simp [hin]

/-! ### The registers of a strand (R7, R18) -/

section Registers

variable (x : Ctx) (vl lsew : Nat) (t : Token)

@[simp] theorem writeReg_x0 : x.writeReg vl lsew 0 t = x := rfl
@[simp] theorem writeReg_m0 : x.writeReg vl lsew 64 t = x := rfl

theorem writeReg_x (r : Fin 32) (hr : r.val ≠ 0) (ht : t.isNull = false) : x.writeReg vl lsew r.val t = { x with x := x.x.set r.val t.word } := by
  simp [Ctx.writeReg, hr, ht]

theorem writeReg_x_null (r : Fin 32) (ht : t.isNull = true) : x.writeReg vl lsew r.val t = x := by
  simp [Ctx.writeReg, ht]

theorem writeReg_v (r : Fin 32) (ht : t.kind ≠ .scalar) :
    x.writeReg vl lsew (32 + r.val) t = { x with v := x.v.set r.val (mergeElems x.v[r.val] (2 ^ t.lw) vl t) } := by
  have hnot : ¬ 32 + r.val < 32 := by omega
  simp [Ctx.writeReg, hnot, ht]

theorem writeReg_m (r : Fin 8) (hr : r.val ≠ 0) :
    x.writeReg vl lsew (64 + r.val) t
      = { x with m := x.m.set r.val ((mergeElems ((x.m[r.val]).setWidth 2048) 1 vl t).setWidth 256) } := by
  have hx : ¬ 64 + r.val < 32 := by omega
  have hv : ¬ 64 + r.val - 32 < 32 := by omega
  simp [Ctx.writeReg, hx, hv, hr]

theorem writeReg_d (r : Fin 8) (ht : t.isNull = false) : x.writeReg vl lsew (72 + r.val) t = { x with d := x.d.set r.val t.word } := by
  have hx : ¬ 72 + r.val < 32 := by omega
  have hv : ¬ 72 + r.val - 32 < 32 := by omega
  have hm : ¬ 72 + r.val - 64 < 8 := by omega
  have hne : 72 + r.val ≠ 64 := by omega
  simp [Ctx.writeReg, hx, hv, hm, hne, ht]

theorem writeReg_k (r : Fin 16) (ht : t.isNull = false) : x.writeReg vl lsew (80 + r.val) t = { x with k := x.k.set r.val t.word } := by
  have hx : ¬ 80 + r.val < 32 := by omega
  have hv : ¬ 80 + r.val - 32 < 32 := by omega
  have hm : ¬ 80 + r.val - 64 < 8 := by omega
  have hd : ¬ 80 + r.val - 72 < 8 := by omega
  have hne : 80 + r.val ≠ 64 := by omega
  simp [Ctx.writeReg, hx, hv, hm, hd, hne, ht]

end Registers

theorem registersReadAndWritten : RegistersReadAndWritten := by
  refine ⟨fun _ _ _ _ => ⟨rfl, rfl⟩, fun x vl lsew => ⟨rfl, fun e he hvl => ?_⟩, fun x vl lsew t r hr ht => ?_,
    fun x vl lsew t r ht => writeReg_x_null x vl lsew t r ht, fun x vl lsew t r ht => ?_, fun x vl lsew t r ht => ?_,
    fun x vl lsew t r e j hkind hlw hvl he hj => ?_, fun x vl lsew t r e hr hkind hvl he => ?_⟩
  · show (BitVec.ofNat 2048 (2 ^ vl - 1)).getLsbD e = true
    rw [BitVec.getLsbD_ofNat, Nat.testBit_two_pow_sub_one]
    simp [he, show e < 2048 by omega]
  · rw [writeReg_x x vl lsew t r hr ht]
    exact ⟨Vector.getElem_set_self _, fun q hq => Vector.getElem_set_ne r.isLt q.isLt fun h => hq (Fin.ext h.symm)⟩
  · rw [writeReg_d x vl lsew t r ht]
    exact Vector.getElem_set_self _
  · rw [writeReg_k x vl lsew t r ht]
    exact Vector.getElem_set_self _
  · have hscalar : t.kind ≠ .scalar := by rw [hkind]; decide
    rw [writeReg_v x vl lsew t r hscalar, Vector.getElem_set_self, mergeElems_bit _ hscalar hvl he hj]
  · have hscalar : t.kind ≠ .scalar := by rw [hkind]; decide
    have hbit := mergeElems_bit ((x.m[r.val]).setWidth 2048) (j := 0) hscalar (by omega : vl * 1 ≤ 2048) he Nat.one_pos
    simp only [Nat.mul_one, Nat.add_zero] at hbit
    rw [writeReg_m x vl lsew t r hr, Vector.getElem_set_self, BitVec.getLsbD_setWidth, hbit]
    simp [show e < 256 by omega, show e < 2048 by omega]

/-! ### The registers that csrw writes (R10 to R12) -/

theorem setField_low16 (v : Word) : setField v 0 16 0 = v &&& ~~~0xFFFF := by
  have hclear : setField v 0 16 0 = BitVec.ofNat 64 (2 ^ 16 * (v.toNat / 2 ^ 16)) := by
    simp only [setField, natBits]
    congr 1
    omega
  refine BitVec.eq_of_getLsbD_eq fun i hi => ?_
  have hmask : (0xFFFF : Word).getLsbD i = decide (i < 16) := by
    rw [show (0xFFFF : Word) = BitVec.ofNat 64 (2 ^ 16 - 1) from rfl, BitVec.getLsbD_ofNat, Nat.testBit_two_pow_sub_one]
    simp [hi]
  rw [hclear, BitVec.getLsbD_ofNat, BitVec.getLsbD_and, BitVec.getLsbD_not, hmask, Nat.testBit_two_pow_mul, Nat.testBit_div_two_pow]
  by_cases hlow : i < 16
  case pos => simp [hlow]
  case neg => simp [hlow, hi, BitVec.getLsbD, Nat.not_lt.mp hlow]

section Loops

variable (x : Ctx) (v : Word) (l : Fin 6)

theorem csrPut_lp : x.csrPut (0x10 + l.val) v = { x with lp := x.lp.set l.val (BitVec.ofNat 48 v.toNat) } := by
  fin_cases l <;> rfl

theorem csrPut_lm : x.csrPut (0x18 + l.val) v = { x with lm := x.lm.set l.val (BitVec.ofNat 48 v.toNat) } := by
  fin_cases l <;> rfl

theorem csrPut_ls : x.csrPut (0x20 + l.val) v = { x with ls := x.ls.set l.val v } := by
  fin_cases l <;> rfl

theorem csrPut_lc : x.csrPut (0x28 + l.val) v = { x with lc := x.lc.set l.val (v &&& 0xFF) } := by
  fin_cases l <;> rfl

end Loops

theorem controlRegistersWritten : ControlRegistersWritten := by
  intro x v
  refine ⟨?_, ?_, rfl, setField_low16 v, rfl, rfl, rfl, rfl, rfl, fun l => ?_⟩
  · simp [Ctx.csrPut]
  · simp [Ctx.csrPut]
  · rw [csrPut_lp, csrPut_lm, csrPut_ls, csrPut_lc]
    simp

/-- Settles O59: each register's write is one lemma, and the merge is read bit by bit. -/
theorem registersMergeAtTheBelay : Obligations.RegistersMergeAtTheBelay := ⟨registersReadAndWritten, controlRegistersWritten⟩

end Sys2Proof.Machine

end

section

namespace Sys2Proof.Machine

open Sys2Proof.Claims

/-! ### Guards and the element loop -/

theorem need_bind {α : Type} (b : Bool) (r : Raw) (f : Unit → Except Raw α) : (need b r >>= f) = if b then f () else .error r := by
  cases b <;> rfl

theorem ok_bind {α β : Type} (a : α) (f : α → Except Raw β) : ((.ok a : Except Raw α) >>= f) = f a := rfl

theorem error_bind {α β : Type} (r : Raw) (f : α → Except Raw β) : ((.error r : Except Raw α) >>= f) = .error r := rfl

/-- The element loop stops at the first element that faults. -/
theorem loopElems_error {f : Nat → Except Raw (Option Nat × Flags)} {r : Raw} {e : Nat} (hf : f e = .error r) :
    ∀ {es : List Nat}, e ∈ es → es.Pairwise (· < ·) → (∀ k ∈ es, k < e → ∃ v, f k = .ok v) → loopElems f es = .error r
  | k :: es, he, hes, hlow => by
    obtain ⟨hk, hsorted⟩ := List.pairwise_cons.mp hes
    rcases List.mem_cons.mp he with rfl | hmem
    · simp only [loopElems, hf]
    · obtain ⟨v, hv⟩ := hlow k (by simp) (hk e hmem)
      have hrest := loopElems_error hf hmem hsorted (fun j hj => hlow j (by simp [hj]))
      simp only [loopElems, hv, hrest]

theorem widthOk_of_fits {vl : Nat} {wide : Bool} {k : ResKind} (h : fits vl wide k = true) : widthOk k wide vl = .ok () := by
  cases k with
  | mask => rfl
  | vec lw => exact if_pos h

/-- An element-wise operation whose lowest faulting element is `e` faults with it. -/
theorem elementwise_error {env : Env} {p : Pred} {ops : List (Token × Nat)} {k : ResKind} {f : Nat → List Nat → Except Raw (Nat × Flags)}
    (hp : predKindOk p = true) (hk : fits env.vl (wideOps p ops) k = true) {e : Nat} {r : Raw} (he : e < elemsOf env.vl (wideOps p ops))
    (hlive : liveAt p ops e = true) (hf : f e (opBits ops e) = .error r)
    (hlow : ∀ j, j < e → liveAt p ops j = true → ∃ v, f j (opBits ops j) = .ok v) :
    elementwise env p ops k f = .error { r with elem := some e } := by
  unfold elementwise
  have hw : widthOk k (predWide p || ops.any (fun o => o.1.wide)) env.vl = .ok () := widthOk_of_fits hk
  simp only [need_bind, hp, if_true, hw, ok_bind]
  rw [loopElems_error (e := e) (r := { r with elem := some e })]
  · rfl
  · simp only [liveAt, opBits] at hlive hf
    rw [if_pos hlive, hf]
  · exact List.mem_range.mpr he
  · exact List.pairwise_lt_range
  · intro j _ hj
    by_cases hl : liveAt p ops j = true
    · obtain ⟨v, hv⟩ := hlow j hj hl
      simp only [liveAt, opBits] at hl hv
      exact ⟨(some v.1, v.2), by rw [if_pos hl, hv]⟩
    · exact ⟨(none, 0), if_neg hl⟩

/-! ### Scalars -/

theorem Token.wide_scalar {t : Token} (h : t.kind = .scalar) : t.wide = false := by simp [Token.wide, h]

theorem predWide_scalar {p : Pred} (h : predScalarOk p = true) : predWide p = false := by
  cases p with
  | none => rfl
  | some q => exact Token.wide_scalar (by simpa [predScalarOk] using h)

theorem predKindOk_scalar {p : Pred} (h : predScalarOk p = true) : predKindOk p = true := by
  cases p with
  | none => rfl
  | some q =>
    have hq : q.2.kind = .scalar := by simpa [predScalarOk] using h
    simp [predKindOk, hq]

theorem okVec_scalar {lw : Nat} {t : Token} (h : t.kind = .scalar) : okVec lw t = true := by simp [okVec, h]

theorem Token.nullAt_scalar {t : Token} (h : t.kind = .scalar) (e : Nat) : t.nullAt e = t.isNull := by simp [Token.nullAt, Token.isNull, h]

/-- A scalar read at 64 bits. -/
theorem Token.elem_scalar {t : Token} (h : t.kind = .scalar) (e : Nat) : t.elem 6 e = t.word.toNat := by
  simp [Token.elem, h, Token.word]

@[simp] theorem scalar_kind (v : Nat) : (Token.scalar v).kind = .scalar := rfl
@[simp] theorem scalar_isNull (v : Nat) : (Token.scalar v).isNull = false := by simp [Token.isNull, Token.scalar]

theorem scalar_word (v : Nat) : (Token.scalar v).word = BitVec.ofNat 64 v := by
  refine BitVec.eq_of_toNat_eq ?_
  have hlt : v % 2 ^ 64 < 2 ^ 2048 := (Nat.mod_lt _ (by decide)).trans_le (Nat.pow_le_pow_right (by decide) (by decide))
  simp only [Token.word, Token.scalar, BitVec.toNat_ofNat, Nat.mod_eq_of_lt hlt, Nat.mod_mod]

/-- An element-wise operation on scalars, with an open scalar predicate and no null operand, is its function of their words. -/
theorem elemResult_scalars {vl lw : Nat} {p : Pred} {a b : Token} {k : Nat → List Nat → Nat × Flags} {r : ResKind} (hp : predScalarOk p = true)
    (hopen : predOpen p 0 = true) (ha : a.kind = .scalar) (hb : b.kind = .scalar) (hna : a.isNull = false) (hnb : b.isNull = false) (hlw : lw = 6) :
    elemResult vl p [(a, lw), (b, lw)] r k = ⟨Token.scalar (k 0 [a.word.toNat, b.word.toNat]).1, (k 0 [a.word.toNat, b.word.toNat]).2⟩ := by
  subst hlw
  have hwide : wideOps p [(a, 6), (b, 6)] = false := by simp [wideOps, predWide_scalar hp, Token.wide_scalar ha, Token.wide_scalar hb]
  have hlive : liveAt p [(a, 6), (b, 6)] 0 = true := by simp [liveAt, hopen, Token.nullAt_scalar ha, Token.nullAt_scalar hb, hna, hnb]
  have hbits : opBits [(a, 6), (b, 6)] 0 = [a.word.toNat, b.word.toNat] := by simp [opBits, Token.elem_scalar ha, Token.elem_scalar hb]
  simp [elemResult, hwide, hlive, hbits, ResKind.build, Token.scalarOpt]

theorem finish_eq_delivers (st : Site) (i : Instr) (t : Token) : st.finish i ⟨t, 0⟩ = st.delivers i t := complete_okTok st i t

/-! ### Integer instructions (R93 to R96) -/

theorem exec_intForm {i : Instr} {sh : Shape} {f : IntOp} {b : Operands → Token} (h : intForm i = some (sh, f, b)) (s : State) :
    exec i s = fireTok i s (fun env v => intOp sh f env v.p v.l (b v)) := by
  unfold intForm at h
  split at h <;> cases h <;> rfl

/-- An integer operation on operands of its shape's kinds is its element-wise operation. -/
theorem intOp_of_kinds {sh : Shape} {f : IntOp} {env : Env} {p : Pred} {a b : Token} (h : intKinds sh env p a b = true)
    (hw : ¬ (sh = .vw ∧ env.lsew = 6)) (hfit : fits env.vl (wideOps p [(a, 0), (b, 0)]) (intKind sh env) = true) :
    intOp sh f env p a b = .ok (intResult sh f env p a b) := by
  simp only [intKinds, Bool.and_eq_true] at h
  obtain ⟨⟨⟨hp, hs⟩, hl⟩, hr⟩ := h
  have hvw : (!(sh == .vw && shapeLw sh env.lsew == 6)) = true := by
    cases sh <;> simp_all [shapeLw]
  have hlr : ((okVec (shapeLw sh env.lsew) a || (sh == .vw && a.kind == .vec && a.lw == shapeLw sh env.lsew + 1))
      && okVec (shapeLw sh env.lsew) b) = true := by rw [hr, Bool.and_true]; exact hl
  simp only [intOp, need_bind, hp, hs, hlr, hvw, if_true]
  exact elementwise_ok (g := fun _ xs => finishInt sh (2 ^ shapeLw sh env.lsew) (f (sh == .vsu)
    (if wideLeft sh (shapeLw sh env.lsew) a then 2 * 2 ^ shapeLw sh env.lsew else 2 ^ shapeLw sh env.lsew) (2 ^ shapeLw sh env.lsew)
    (xs.getD 0 0) (xs.getD 1 0))) hp hfit (fun _ _ _ => rfl)

theorem intOp_error {sh : Shape} {f : IntOp} {env : Env} {p : Pred} {a b : Token} (h : intKinds sh env p a b = false) :
    intOp sh f env p a b = .error tokenKind := by
  have hlr (hp : predKindOk p = true) (hs : (!shapeScalar sh || (okScalar a && okScalar b && predScalarOk p)) = true) :
      ((okVec (shapeLw sh env.lsew) a || (sh == .vw && a.kind == .vec && a.lw == shapeLw sh env.lsew + 1)) && okVec (shapeLw sh env.lsew) b) = false := by
    simpa only [intKinds, hp, hs, wideLeft, Bool.true_and] using h
  simp only [intOp, need_bind]
  split
  next hp =>
    split
    next hs => rw [hlr hp hs]; rfl
    next => rfl
  next => rfl

theorem intOp_widthRange {sh : Shape} {f : IntOp} {env : Env} {p : Pred} {a b : Token} (h : intKinds sh env p a b = true) (hsh : sh = .vw)
    (hsew : env.lsew = 6) : intOp sh f env p a b = .error (Raw.of .widthRange (env.vl * 128)) := by
  simp only [intKinds, Bool.and_eq_true] at h
  obtain ⟨⟨⟨hp, hs⟩, hl⟩, hr⟩ := h
  have hlr : ((okVec (shapeLw sh env.lsew) a || (sh == .vw && a.kind == .vec && a.lw == shapeLw sh env.lsew + 1))
      && okVec (shapeLw sh env.lsew) b) = true := by rw [hr, Bool.and_true]; exact hl
  simp only [intOp, need_bind, hp, hs, hlr, if_true]
  simp [hsh, shapeLw, hsew]

/-- Settles O1: an integer form is `intOp` on its operands, whose guards are `intKinds` and whose loop never faults. -/
theorem integerInstructionsRun : Obligations.IntegerInstructionsRun := by
  refine ⟨fun i sh f b hi s st o hf hk hw hfit => ?_, fun i sh f b hi s st o hf => ⟨fun hk => ?_, fun hk hsh hsew => ?_⟩⟩
  · rw [exec_intForm hi, fireTok_of_fires hf, intOp_of_kinds hk hw hfit]
    rfl
  · rw [exec_intForm hi, fireTok_of_fires hf, intOp_error hk]
    rfl
  · rw [exec_intForm hi, fireTok_of_fires hf, intOp_widthRange hk hsh hsew]
    rfl

/-! ### 64-bit words (R94 to R96) -/

theorem natToInt_toNat (a : Word) : natToInt 64 a.toNat = a.toInt := by
  have h := a.isLt
  simp only [natToInt, Nat.mod_eq_of_lt h, BitVec.toInt_eq_toNat_cond]

theorem intToNat_eq (v : Int) : intToNat 64 v = (BitVec.ofInt 64 v).toNat := by
  rw [BitVec.toNat_ofInt]
  rfl

section Words

variable (a b : Word)

theorem opAdd_word : BitVec.ofInt 64 (opAdd false 64 64 a.toNat b.toNat) = a + b := by
  simp [opAdd, readInt, natToInt_toNat, BitVec.ofInt_add]

theorem opSub_word : BitVec.ofInt 64 (opSub false 64 64 a.toNat b.toNat) = a - b := by
  simp [opSub, readInt, natToInt_toNat, Int.sub_eq_add_neg, BitVec.ofInt_add, BitVec.ofInt_neg, BitVec.sub_eq_add_neg]

theorem opMul_word : BitVec.ofInt 64 (opMul false 64 64 a.toNat b.toNat) = a * b := by
  simp [opMul, readInt, natToInt_toNat, BitVec.ofInt_mul]

theorem opAnd_word : BitVec.ofInt 64 (opAnd false 64 64 a.toNat b.toNat) = a &&& b := by
  rw [opAnd, BitVec.ofInt_natCast, ← BitVec.toNat_and, BitVec.ofNat_toNat, BitVec.setWidth_eq]

theorem opOr_word : BitVec.ofInt 64 (opOr false 64 64 a.toNat b.toNat) = a ||| b := by
  rw [opOr, BitVec.ofInt_natCast, ← BitVec.toNat_or, BitVec.ofNat_toNat, BitVec.setWidth_eq]

theorem opXor_word : BitVec.ofInt 64 (opXor false 64 64 a.toNat b.toNat) = a ^^^ b := by
  rw [opXor, BitVec.ofInt_natCast, ← BitVec.toNat_xor, BitVec.ofNat_toNat, BitVec.setWidth_eq]

theorem opAndn_word : BitVec.ofInt 64 (opAndn false 64 64 a.toNat b.toNat) = a &&& ~~~b := by
  rw [opAndn, BitVec.ofInt_natCast, Nat.mod_eq_of_lt b.isLt, ← BitVec.toNat_not, ← BitVec.toNat_and, BitVec.ofNat_toNat, BitVec.setWidth_eq]

theorem opSll_word : BitVec.ofInt 64 (opSll false 64 64 a.toNat b.toNat) = a <<< (b.toNat % 64) := by
  refine BitVec.eq_of_toNat_eq ?_
  rw [opSll, BitVec.ofInt_natCast, BitVec.toNat_ofNat, BitVec.toNat_shiftLeft, Nat.shiftLeft_eq]

theorem opSrl_word : BitVec.ofInt 64 (opSrl false 64 64 a.toNat b.toNat) = a >>> (b.toNat % 64) := by
  refine BitVec.eq_of_toNat_eq ?_
  rw [opSrl, BitVec.ofInt_natCast, BitVec.toNat_ofNat, BitVec.toNat_ushiftRight, Nat.shiftRight_eq_div_pow,
    Nat.mod_eq_of_lt ((Nat.div_le_self _ _).trans_lt a.isLt)]

theorem opSra_word : BitVec.ofInt 64 (opSra false 64 64 a.toNat b.toNat) = a.sshiftRight (b.toNat % 64) := by
  rw [opSra, natToInt_toNat, ← BitVec.ofInt_toInt (x := a.sshiftRight _), BitVec.toInt_sshiftRight, Int.shiftRight_eq_div_pow]

theorem opMin_word : BitVec.ofInt 64 (opMin false 64 64 a.toNat b.toNat) = if a.toInt ≤ b.toInt then a else b := by
  simp only [opMin, natToInt_toNat]
  split <;> exact BitVec.ofInt_toInt

theorem opMax_word : BitVec.ofInt 64 (opMax false 64 64 a.toNat b.toNat) = if a.toInt ≤ b.toInt then b else a := by
  simp only [opMax, natToInt_toNat]
  split <;> exact BitVec.ofInt_toInt

theorem opMinu_word : BitVec.ofInt 64 (opMinu false 64 64 a.toNat b.toNat) = if a ≤ b then a else b := by
  rw [opMinu, BitVec.ofInt_natCast, Nat.min_def]
  simp only [BitVec.le_def]
  split <;> simp

theorem opMaxu_word : BitVec.ofInt 64 (opMaxu false 64 64 a.toNat b.toNat) = if a ≤ b then b else a := by
  rw [opMaxu, BitVec.ofInt_natCast, Nat.max_def]
  simp only [BitVec.le_def]
  split <;> simp

theorem opMulh_word : BitVec.ofInt 64 (opMulh false 64 64 a.toNat b.toNat) = BitVec.ofInt 64 (a.toInt * b.toInt / 2 ^ 64) := by
  rw [opMulh, natToInt_toNat, natToInt_toNat]
  rfl

theorem opMulhu_word : BitVec.ofInt 64 (opMulhu false 64 64 a.toNat b.toNat) = BitVec.ofNat 64 (a.toNat * b.toNat / 2 ^ 64) := by
  rw [opMulhu, BitVec.ofInt_natCast]

theorem toNat_eq_zero_iff : b.toNat = 0 ↔ b = 0 := (BitVec.toNat_eq (y := 0)).symm

theorem opDiv_word : BitVec.ofInt 64 (opDiv false 64 64 a.toNat b.toNat) = if b = 0 then -1 else BitVec.ofInt 64 (a.toInt.tdiv b.toInt) := by
  simp only [opDiv, natToInt_toNat, toNat_eq_zero_iff]
  split <;> rfl

theorem opDivu_word : BitVec.ofInt 64 (opDivu false 64 64 a.toNat b.toNat) = if b = 0 then -1 else a / b := by
  simp only [opDivu, toNat_eq_zero_iff]
  split
  · rfl
  · rw [BitVec.ofInt_natCast, ← BitVec.toNat_udiv, BitVec.ofNat_toNat, BitVec.setWidth_eq]

theorem opRem_word : BitVec.ofInt 64 (opRem false 64 64 a.toNat b.toNat) = if b = 0 then a else BitVec.ofInt 64 (a.toInt.tmod b.toInt) := by
  simp only [opRem, natToInt_toNat, toNat_eq_zero_iff]
  split
  · exact BitVec.ofInt_toInt
  · rfl

theorem opRemu_word : BitVec.ofInt 64 (opRemu false 64 64 a.toNat b.toNat) = if b = 0 then a else a % b := by
  simp only [opRemu, toNat_eq_zero_iff]
  split
  · rw [BitVec.ofInt_natCast, BitVec.ofNat_toNat, BitVec.setWidth_eq]
  · rw [BitVec.ofInt_natCast, ← BitVec.toNat_umod, BitVec.ofNat_toNat, BitVec.setWidth_eq]

end Words

/-- An S64 form on non-null scalars delivers what its operation makes of their words. -/
theorem exec_s64 {i : Instr} {sh : Shape} {f : IntOp} {b : Operands → Token} {g : Word → Word → Word} (hi : intForm i = some (sh, f, b)) (hsh : sh = .s64)
    (hop : ∀ a b, BitVec.ofInt 64 (f false 64 64 a.toNat b.toNat) = g a b) {s : State} {st : Site} {o : Operands} (hf : Fires i s st o)
    (hl : o.l.kind = .scalar) (hr : (b o).kind = .scalar) (hnl : o.l.isNull = false) (hnr : (b o).isNull = false)
    (hp : predScalarOk o.p = true) (hopen : predOpen o.p 0 = true) :
    exec i s = .next (st.put s (st.delivers i (Token.scalar (g o.l.word (b o).word).toNat))) := by
  subst hsh
  have hkinds : intKinds .s64 (envOf st) o.p o.l (b o) = true := by
    simp [intKinds, predKindOk_scalar hp, okScalar, hl, hr, hp, okVec_scalar]
  have hwide : wideOps o.p [(o.l, 0), (b o, 0)] = false := by
    simp [wideOps, predWide_scalar hp, Token.wide_scalar hl, Token.wide_scalar hr]
  rw [exec_intForm hi, fireTok_of_fires hf, intOp_of_kinds hkinds (by simp) (by simp [hwide, fits, intKind]), ← finish_eq_delivers, ← hop,
    ← intToNat_eq]
  have hres := elemResult_scalars (vl := (envOf st).vl) (r := intKind .s64 (envOf st)) (lw := shapeLw .s64 (envOf st).lsew)
    (k := fun _ xs => finishInt .s64 64 (f false (if wideLeft .s64 6 o.l then 2 * 64 else 64) 64 (xs.getD 0 0) (xs.getD 1 0)))
    hp hopen hl hr hnl hnr rfl
  have hleft : wideLeft .s64 6 o.l = false := rfl
  rw [hleft] at hres
  exact congrArg (fun r => Host.Outcome.next (st.put s (st.finish i r))) hres

/-- Settles O2: each operation on the operands' numbers is the operation on their words. -/
theorem integerScalarResultsAreWordArithmetic : Obligations.IntegerScalarResultsAreWordArithmetic := by
  intro i f hi hs s st o hf hl hr hnl hnr hp hopen
  have himm (v : Nat) : (Token.scalar v).kind = .scalar ∧ (Token.scalar v).isNull = false := ⟨rfl, scalar_isNull v⟩
  have hshift (n : BitVec 6) : (BitVec.ofNat 64 n.toNat).toNat % 64 = n.toNat := by
    have hn := n.isLt
    rw [BitVec.toNat_ofNat]
    omega
  unfold wordResult at hi
  split at hi <;> cases hi
  all_goals have hsh := of_decide_eq_true hs
  next => exact exec_s64 rfl hsh opAdd_word hf hl hr hnl hnr hp hopen
  next => exact exec_s64 rfl hsh opSub_word hf hl hr hnl hnr hp hopen
  next => exact exec_s64 rfl hsh opAnd_word hf hl hr hnl hnr hp hopen
  next => exact exec_s64 rfl hsh opOr_word hf hl hr hnl hnr hp hopen
  next => exact exec_s64 rfl hsh opXor_word hf hl hr hnl hnr hp hopen
  next => exact exec_s64 rfl hsh opAndn_word hf hl hr hnl hnr hp hopen
  next => exact exec_s64 rfl hsh opSll_word hf hl hr hnl hnr hp hopen
  next => exact exec_s64 rfl hsh opSrl_word hf hl hr hnl hnr hp hopen
  next => exact exec_s64 rfl hsh opSra_word hf hl hr hnl hnr hp hopen
  next => exact exec_s64 rfl hsh opMin_word hf hl hr hnl hnr hp hopen
  next => exact exec_s64 rfl hsh opMax_word hf hl hr hnl hnr hp hopen
  next => exact exec_s64 rfl hsh opMinu_word hf hl hr hnl hnr hp hopen
  next => exact exec_s64 rfl hsh opMaxu_word hf hl hr hnl hnr hp hopen
  next => exact exec_s64 rfl hsh opMul_word hf hl hr hnl hnr hp hopen
  next => exact exec_s64 rfl hsh opMulh_word hf hl hr hnl hnr hp hopen
  next => exact exec_s64 rfl hsh opMulhu_word hf hl hr hnl hnr hp hopen
  next => exact exec_s64 rfl hsh opDiv_word hf hl hr hnl hnr hp hopen
  next => exact exec_s64 rfl hsh opDivu_word hf hl hr hnl hnr hp hopen
  next => exact exec_s64 rfl hsh opRem_word hf hl hr hnl hnr hp hopen
  next => exact exec_s64 rfl hsh opRemu_word hf hl hr hnl hnr hp hopen
  next => simpa only [scalar_word] using exec_s64 rfl hsh opAdd_word hf hl (himm _).1 hnl (himm _).2 hp hopen
  next => simpa only [scalar_word] using exec_s64 rfl hsh opAnd_word hf hl (himm _).1 hnl (himm _).2 hp hopen
  next => simpa only [scalar_word, hshift] using exec_s64 rfl hsh opSll_word hf hl (himm _).1 hnl (himm _).2 hp hopen
  next => simpa only [scalar_word, hshift] using exec_s64 rfl hsh opSrl_word hf hl (himm _).1 hnl (himm _).2 hp hopen
  next => simpa only [scalar_word, hshift] using exec_s64 rfl hsh opSra_word hf hl (himm _).1 hnl (himm _).2 hp hopen

end Sys2Proof.Machine

end

section

namespace Sys2Proof.Machine

open Sys2Proof.Claims

/-! ### Floating-point instructions (R99 to R102, R107) -/

theorem exec_fpForm {i : Instr} {F : FpForm} (h : fpForm i = some F) (s : State) :
    exec i s = fireTok i s (fun env v => do
      let d ← descCheck env F.d F.use (F.ok env)
      fpElems env F.d d v.p (F.ops v) (F.kind env) (F.run env d)) := by
  unfold fpForm at h
  split at h <;> cases h <;> rfl

theorem descCheck_ok {env : Env} {n : BitVec 3} {u : DescUse} {ok : Desc → Bool} (h : descOk env n u ok = true) :
    descCheck env n u ok = .ok (descOf env n) := by
  simp only [descOk, Bool.and_eq_true, Bool.not_eq_true'] at h
  obtain ⟨hres, hok⟩ := h
  exact (if_neg (Bool.eq_false_iff.mp hres)).trans (if_pos hok)

theorem condResult_ok {fe n : Nat} {r : Nat × Flags} (h : fpTrap fe r.2 = none) : condResult fe n r = .ok r := by
  simp only [condResult, h]

theorem condResult_error {fe n : Nat} {r : Nat × Flags} {c : Cause} (h : fpTrap fe r.2 = some c) : condResult fe n r = .error (Raw.of c n) := by
  simp only [condResult, h]

section Form

variable {F : FpForm} {env : Env} {o : Operands} (h : F.accepts env o = true)
include h

theorem accepts_parts : descOk env F.d F.use (F.ok env) = true ∧ predKindOk o.p = true ∧ (F.ops o).all (okVec env.lsew) = true
    ∧ fits env.vl (wideOps o.p (F.at env o)) (F.kind env) = true := by
  simpa only [FpForm.accepts, Bool.and_eq_true, and_assoc] using h

/-- A form that takes its descriptor and operands is its element-wise operation with the conditions of each element. -/
theorem fpForm_run_eq : (do
      let d ← descCheck env F.d F.use (F.ok env)
      fpElems env F.d d o.p (F.ops o) (F.kind env) (F.run env d))
    = elementwise env o.p (F.at env o) (F.kind env) (fun _ xs => condResult env.fe F.d.toNat (F.run env (descOf env F.d) xs)) := by
  obtain ⟨hd, hp, hops, -⟩ := accepts_parts h
  simp only [descCheck_ok hd, ok_bind, fpElems, need_bind, hp, hops, if_true, FpForm.at]

end Form

/-- Settles O4: the elements are computed in ascending order, each with its conditions, so the lowest that traps decides. -/
theorem floatInstructionsRun : Obligations.FloatInstructionsRun := by
  refine ⟨fun i F hi s st o hf hacc htrap => ?_, fun i F hi s st o hf hacc e c he hlive htrap hlow => ?_⟩
  all_goals
    obtain ⟨-, hp, -, hfit⟩ := accepts_parts hacc
    rw [exec_fpForm hi, fireTok_of_fires hf, fpForm_run_eq hacc]
  · rw [elementwise_ok (g := fun _ xs => F.run (envOf st) (descOf (envOf st) F.d) xs) hp hfit
      (fun e he hlive => condResult_ok (htrap e he hlive))]
    rfl
  · rw [elementwise_error hp hfit he hlive (condResult_error htrap) (fun k hk hl => ⟨_, condResult_ok (hlow k hk hl)⟩)]
    rfl

/-! ### Tagged pointers (R97, R98) -/

theorem exec_ptrForm {i : Instr} {f : Nat → Nat → Except Raw (Nat × Flags)} {b : Operands → Token} (h : ptrForm i = some (f, b)) (s : State) :
    exec i s = fireTok i s (fun env v => ptrOp env v.p v.l (b v) f) := by
  unfold ptrForm at h
  split at h <;> cases h <;> rfl

/-- A pointer operation on operands it takes is its element-wise operation. -/
theorem ptrOp_eq {env : Env} {p : Pred} {a b : Token} (f : Nat → Nat → Except Raw (Nat × Flags)) (hp : predKindOk p = true)
    (ha : okVec 6 a = true) (hb : okVec 6 b = true) (hw : wideOps p [(a, 6), (b, 6)] = true → env.lsew = 6) :
    ptrOp env p a b f = elementwise env p [(a, 6), (b, 6)] (.vec 6) (fun _ xs => f (xs.getD 0 0) (xs.getD 1 0)) := by
  have hmask {t : Token} (ht : okVec 6 t = true) : (t.kind != .mask) = true := by
    cases hk : t.kind <;> simp [okVec, hk] at ht ⊢
  have hsew : (!(a.kind == .vec || b.kind == .vec) || env.lsew == 6) = true := by
    by_cases hwide : (a.kind == .vec || b.kind == .vec) = true
    · have h6 := hw (by
        simp only [Bool.or_eq_true, beq_iff_eq] at hwide
        rcases hwide with hk | hk <;> simp [wideOps, Token.wide, hk])
      simp [h6]
    · simp [Bool.not_eq_true _ ▸ hwide]
  simp only [ptrOp, need_bind, hp, hmask ha, hmask hb, hsew, ha, hb, Bool.and_self, if_true]

section Scalars

variable {env : Env} {o : Operands} {b : Token} (f : Nat → Nat → Except Raw (Nat × Flags)) (hl : o.l.kind = .scalar) (hb : b.kind = .scalar)
  (hnl : o.l.isNull = false) (hnb : b.isNull = false) (hp : predScalarOk o.p = true) (hopen : predOpen o.p 0 = true)
include hl hb hnl hnb hp hopen

theorem scalar_sides : wideOps o.p [(o.l, 6), (b, 6)] = false ∧ liveAt o.p [(o.l, 6), (b, 6)] 0 = true
    ∧ opBits [(o.l, 6), (b, 6)] 0 = [o.l.word.toNat, b.word.toNat] := by
  refine ⟨?_, ?_, ?_⟩
  · simp [wideOps, predWide_scalar hp, Token.wide_scalar hl, Token.wide_scalar hb]
  · simp [liveAt, hopen, Token.nullAt_scalar hl, Token.nullAt_scalar hb, hnl, hnb]
  · simp [opBits, Token.elem_scalar hl, Token.elem_scalar hb]

/-- A pointer operation on two scalars delivers what it makes of their words. -/
theorem ptrOp_scalars {n : Nat} (h : f o.l.word.toNat b.word.toNat = .ok (n, 0)) : ptrOp env o.p o.l b f = okTok (Token.scalar n) := by
  obtain ⟨hwide, hlive, hbits⟩ := scalar_sides hl hb hnl hnb hp hopen
  rw [ptrOp_eq f (predKindOk_scalar hp) (okVec_scalar hl) (okVec_scalar hb) (by simp [hwide]),
    elementwise_ok (g := fun _ _ => (n, 0)) (predKindOk_scalar hp) (by simp [fits, hwide]),
    elemResult_scalars hp hopen hl hb hnl hnb rfl, okTok]
  intro e he _
  obtain rfl : e = 0 := by simpa [hwide] using he
  rw [hbits]
  exact h

/-- A pointer operation on two scalars that faults faults with element 0. -/
theorem ptrOp_scalars_error {r : Raw} (h : f o.l.word.toNat b.word.toNat = .error r) :
    ptrOp env o.p o.l b f = .error { r with elem := some 0 } := by
  obtain ⟨hwide, hlive, hbits⟩ := scalar_sides hl hb hnl hnb hp hopen
  rw [ptrOp_eq f (predKindOk_scalar hp) (okVec_scalar hl) (okVec_scalar hb) (by simp [hwide])]
  exact elementwise_error (predKindOk_scalar hp) (by simp [fits, hwide]) (by simp [elemsOf, hwide]) hlive (by rw [hbits]; exact h)
    (fun j hj _ => absurd hj (Nat.not_lt_zero j))

end Scalars

theorem pointerInstructionsComplete : PointerInstructionsComplete := by
  intro i f b hi s st o hf hp hl hb hsew hfit g hg
  rw [exec_ptrForm hi, fireTok_of_fires hf, ptrOp_eq f hp hl hb hsew,
    elementwise_ok (f := fun _ xs => f (xs.getD 0 0) (xs.getD 1 0)) (g := fun _ xs => (g (xs.getD 0 0) (xs.getD 1 0), 0)) hp hfit hg]
  rfl

/-! ### Fields of a pointer -/

/-- The extents of the fields that spaces have. -/
theorem fieldExtent_of_mem {fd : PtrField} {sp lo w : Nat} (h : (fd, sp, lo, w) ∈ pointerFields) :
    fieldExtent fd sp = some (lo, w) ∧ lo + w ≤ 64 ∧ 0 < w ∧ (fd = .space ∨ spaceKnown sp = true) ∧ (fd = .space → lo = 60 ∧ w = 4) := by
  have hall : ∀ t ∈ pointerFields, fieldExtent t.1 t.2.1 = some (t.2.2.1, t.2.2.2) ∧ t.2.2.1 + t.2.2.2 ≤ 64 ∧ 0 < t.2.2.2
      ∧ (t.1 = .space ∨ spaceKnown t.2.1 = true) ∧ (t.1 = .space → t.2.2.1 = 60 ∧ t.2.2.2 = 4) := by decide
  exact hall _ h

theorem natBits_space (a : Word) : natBits a.toNat 60 4 = a.toNat / 2 ^ 60 := by
  have h := a.isLt
  simp only [natBits]
  omega

theorem ptrExtent_ok {fd : PtrField} {sp lo w : Nat} (h : (fd, sp, lo, w) ∈ pointerFields) {a : Word} (ha : a.toNat / 2 ^ 60 = sp) :
    ptrExtent fd a.toNat = .ok (lo, w) := by
  obtain ⟨hext, -, -, hknown, -⟩ := fieldExtent_of_mem h
  unfold ptrExtent
  rw [natBits_space, ha]
  dsimp only
  rw [if_neg, hext]
  rintro ⟨hne, hk⟩
  rcases hknown with hs | hs
  · exact hne hs
  · rw [hs] at hk
    exact absurd hk (by decide)

theorem ptrFault_word (c : Cause) (a : Word) : ptrFault c a.toNat = { Raw.of c with fa := some a } := by
  simp [ptrFault]

theorem natBits_mul_le (n lo w : Nat) : natBits n lo w * 2 ^ lo ≤ n :=
  (Nat.mul_le_mul_right _ (Nat.mod_le _ _)).trans (Nat.div_mul_le_self _ _)

/-- A pointer with a field replaced, as a sum. -/
theorem setField_eq_add (a : Word) {lo w v : Nat} (hv : v < 2 ^ w) :
    setField a lo w v = a + BitVec.ofInt 64 ((v : Int) - natBits a.toNat lo w) <<< lo := by
  have hle := natBits_mul_le a.toNat lo w
  have hsum : ((a.toNat - natBits a.toNat lo w * 2 ^ lo + v * 2 ^ lo : Nat) : Int) = a.toNat + ((v : Int) - natBits a.toNat lo w) * ((2 ^ lo : Nat) : Int) := by
    rw [Nat.cast_add, Nat.cast_sub hle, Nat.cast_mul, Nat.cast_mul, Int.sub_mul]
    omega
  have hpow : BitVec.ofInt 64 ((2 ^ lo : Nat) : Int) = BitVec.twoPow 64 lo := by
    rw [BitVec.ofInt_natCast]
    exact BitVec.eq_of_toNat_eq (by rw [BitVec.toNat_ofNat, BitVec.toNat_twoPow])
  rw [setField, Nat.mod_eq_of_lt hv, ← BitVec.ofInt_natCast, hsum, BitVec.ofInt_add, BitVec.ofInt_mul, hpow, BitVec.ofInt_natCast,
    BitVec.ofNat_toNat, BitVec.setWidth_eq, BitVec.shiftLeft_eq_mul_twoPow]

/-- A pointer with a field replaced, bit by bit. -/
theorem getLsbD_setField (a : Word) {lo w v j : Nat} (hv : v < 2 ^ w) (hj : j < 64) :
    (setField a lo w v).getLsbD j = if lo ≤ j ∧ j < lo + w then v.testBit (j - lo) else a.getLsbD j := by
  have hsplit : a.toNat - natBits a.toNat lo w * 2 ^ lo + v % 2 ^ w * 2 ^ lo
      = 2 ^ lo * (2 ^ w * (a.toNat / 2 ^ lo / 2 ^ w) + v) + a.toNat % 2 ^ lo := by
    have h1 := Nat.div_add_mod a.toNat (2 ^ lo)
    have h2 := Nat.div_add_mod (a.toNat / 2 ^ lo) (2 ^ w)
    have h3 : 2 ^ lo * (a.toNat / 2 ^ lo) = 2 ^ lo * (2 ^ w * (a.toNat / 2 ^ lo / 2 ^ w)) + natBits a.toNat lo w * 2 ^ lo := by
      rw [Nat.mul_comm (natBits ..), ← Nat.mul_add, natBits, h2]
    rw [Nat.mod_eq_of_lt hv, Nat.mul_add, Nat.mul_comm v]
    omega
  rw [setField, hsplit, BitVec.getLsbD_ofNat, Nat.testBit_two_pow_mul_add _ (Nat.mod_lt _ (Nat.two_pow_pos lo)),
    Nat.testBit_two_pow_mul_add _ hv, Nat.testBit_mod_two_pow, Nat.testBit_div_two_pow, Nat.testBit_div_two_pow, BitVec.getLsbD]
  by_cases hlow : j < lo
  case pos => simp [hj, hlow, Nat.not_le.mpr hlow]
  case neg =>
    have hle := Nat.not_lt.mp hlow
    by_cases hmid : j - lo < w
    case pos => simp [hj, hlow, hmid, hle, show j < lo + w by omega]
    case neg => simp [hj, hlow, hmid, hle, show ¬ j < lo + w by omega, show j - lo - w + w + lo = j by omega]

section Elements

variable {fd : PtrField} {sp lo w : Nat} (h : (fd, sp, lo, w) ∈ pointerFields) {a b : Word} (ha : a.toNat / 2 ^ 60 = sp)
include h ha

theorem pgetEl_ok : pgetEl fd a.toNat = .ok (a.toNat / 2 ^ lo % 2 ^ w, 0) := by
  rw [pgetEl, ptrExtent_ok h ha]
  rfl

theorem paddEl_ok (h0 : 0 ≤ ((a.toNat / 2 ^ lo % 2 ^ w : Nat) : Int) + b.toInt) (h1 : ((a.toNat / 2 ^ lo % 2 ^ w : Nat) : Int) + b.toInt < 2 ^ w) :
    paddEl fd a.toNat b.toNat = .ok ((a + (b <<< lo)).toNat, 0) := by
  have h1' : ((a.toNat / 2 ^ lo % 2 ^ w : Nat) : Int) + b.toInt < ((2 ^ w : Nat) : Int) := by rwa [Nat.cast_pow]
  have hval := Int.toNat_of_nonneg h0
  have hlt : (((a.toNat / 2 ^ lo % 2 ^ w : Nat) : Int) + b.toInt).toNat < 2 ^ w := by omega
  have hset := setField_eq_add a (lo := lo) hlt
  rw [hval, natBits, add_sub_cancel_left, BitVec.ofInt_toInt] at hset
  rw [paddEl, ptrExtent_ok h ha, ok_bind]
  dsimp only
  rw [natToInt_toNat, natBits, if_pos ⟨h0, h1'⟩, BitVec.ofNat_toNat, BitVec.setWidth_eq, hset]

theorem paddEl_error (hv : ((a.toNat / 2 ^ lo % 2 ^ w : Nat) : Int) + b.toInt < 0 ∨ 2 ^ w ≤ ((a.toNat / 2 ^ lo % 2 ^ w : Nat) : Int) + b.toInt) :
    paddEl fd a.toNat b.toNat = .error { Raw.of .pointerTagOverflow with fa := some a } := by
  rw [paddEl, ptrExtent_ok h ha, ok_bind]
  dsimp only
  rw [natToInt_toNat, natBits, if_neg, ptrFault_word]
  rintro ⟨h0, h1⟩
  rw [Nat.cast_pow] at h1
  rcases hv with hv | hv
  · exact absurd h0 (Int.not_le.mpr hv)
  · exact absurd h1 (Int.not_lt.mpr hv)

theorem psetEl_ok (hb : b.toNat < 2 ^ w) (hspace : fd = .space → b.toNat ∈ [0, 1, 3, 4, 6]) :
    psetEl fd a.toNat b.toNat = .ok ((setField a lo w b.toNat).toNat, 0) := by
  rw [psetEl, ptrExtent_ok h ha, ok_bind]
  dsimp only
  rw [if_neg, if_neg (Nat.not_le.mpr hb), BitVec.ofNat_toNat, BitVec.setWidth_eq]
  rintro ⟨hfd, hunknown⟩
  have hmem := hspace hfd
  simp only [List.mem_cons, List.not_mem_nil, or_false] at hmem
  simp [spaceKnown] at hunknown
  omega

theorem psetEl_error (hfd : fd ≠ .space) (hb : 2 ^ w ≤ b.toNat) :
    psetEl fd a.toNat b.toNat = .error { Raw.of .pointerTagOverflow with fa := some a } := by
  rw [psetEl, ptrExtent_ok h ha, ok_bind]
  dsimp only
  rw [if_neg (fun hs => hfd hs.1), if_pos hb, ptrFault_word]

end Elements

section Run

variable {i : Instr} {f : Nat → Nat → Except Raw (Nat × Flags)} {b : Operands → Token} (hi : ptrForm i = some (f, b)) {s : State} {st : Site}
  {o : Operands} (hf : Fires i s st o) (hs : scalarPair o) (hb : (b o).kind = .scalar) (hnb : (b o).isNull = false)
include hi hf hs hb hnb

theorem exec_ptr_ok {n : Nat} (h : f o.l.word.toNat (b o).word.toNat = .ok (n, 0)) :
    exec i s = .next (st.put s (st.delivers i (Token.scalar n))) := by
  obtain ⟨hl, -, hnl, -, hp, hopen⟩ := hs
  rw [exec_ptrForm hi, fireTok_of_fires hf, ptrOp_scalars f hl hb hnl hnb hp hopen h, complete_okTok]

theorem exec_ptr_error {r : Raw} (h : f o.l.word.toNat (b o).word.toNat = .error r) :
    exec i s = .next (st.put s (st.ex.raise st.f.idx { r with elem := some 0 })) := by
  obtain ⟨hl, -, hnl, -, hp, hopen⟩ := hs
  rw [exec_ptrForm hi, fireTok_of_fires hf, ptrOp_scalars_error f hl hb hnl hnb hp hopen h]
  rfl

end Run

theorem pointerFieldResults : PointerFieldResults := by
  intro fd sp lo w hmem s st o hs hsp
  have hs' := hs
  obtain ⟨-, hr, -, hnr, -, -⟩ := hs'
  refine ⟨fun a ha hf => ?_, fun a ha hne hf => ⟨fun h0 h1 => ?_, fun hv => ?_⟩, fun a ha hf => ⟨fun hlt hspace => ?_, fun hne hge => ?_⟩⟩
  all_goals subst ha
  · exact exec_ptr_ok rfl hf hs rfl (scalar_isNull 0) (pgetEl_ok hmem hsp)
  · exact exec_ptr_ok rfl hf hs hr hnr (paddEl_ok hmem hsp h0 h1)
  · exact exec_ptr_error rfl hf hs hr hnr (paddEl_error hmem hsp hv)
  · exact ⟨_, exec_ptr_ok rfl hf hs hr hnr (psetEl_ok hmem hsp hlt hspace), fun j hj => getLsbD_setField _ hlt hj⟩
  · exact exec_ptr_error rfl hf hs hr hnr (psetEl_error hmem hsp hne hge)

/-! ### Pointers without the field -/

theorem ptrExtent_spaceInvalid {f : PtrField} {a : Word} (hf : f ≠ .space) (ha : a.toNat / 2 ^ 60 ∉ [0, 1, 3, 4, 6]) :
    ptrExtent f a.toNat = .error { Raw.of .spaceInvalid with fa := some a } := by
  simp only [List.mem_cons, List.not_mem_nil, or_false] at ha
  rw [ptrExtent, natBits_space]
  dsimp only
  rw [if_pos ⟨hf, by simp [spaceKnown]; omega⟩, ptrFault_word]

theorem ptrExtent_lacking {a : Word} (ha : a.toNat / 2 ^ 60 ∈ [3, 6]) :
    ptrExtent .place a.toNat = .error { Raw.of .pointerTagOverflow with fa := some a } := by
  rw [ptrExtent, natBits_space]
  simp only [List.mem_cons, List.not_mem_nil, or_false] at ha
  rcases ha with ha | ha <;> rw [ha, ptrFault_word, ptrFault_word] <;> rfl

theorem psetEl_unknownSpace {a b : Word} (hb : b.toNat ∉ [0, 1, 3, 4, 6]) :
    psetEl .space a.toNat b.toNat = .error { Raw.of .spaceInvalid with fa := some a } := by
  simp only [List.mem_cons, List.not_mem_nil, or_false] at hb
  have hext : ptrExtent .space a.toNat = .ok (60, 4) := rfl
  rw [psetEl, hext, ok_bind]
  dsimp only
  rw [if_pos ⟨rfl, by simp [spaceKnown]; omega⟩, ptrFault_word]

/-- A pointer instruction on a pointer without its field raises what the field's extent answers. -/
theorem exec_ptr_noField {i : Instr} {f : Nat → Nat → Except Raw (Nat × Flags)} {b : Operands → Token} (hi : ptrForm i = some (f, b)) {a : PtrArgs}
    (ha : i = .padd a ∨ i = .pset a ∨ i = .pget a) {s : State} {st : Site} {o : Operands} (hf : Fires i s st o) (hs : scalarPair o) {r : Raw}
    (hr : ptrExtent a.field o.l.word.toNat = .error r) : exec i s = .next (st.put s (st.ex.raise st.f.idx { r with elem := some 0 })) := by
  have hs' := hs
  obtain ⟨-, hrk, -, hnr, -, -⟩ := hs'
  rcases ha with rfl | rfl | rfl <;> cases hi
  · exact exec_ptr_error rfl hf hs hrk hnr (by rw [paddEl, hr]; rfl)
  · exact exec_ptr_error rfl hf hs hrk hnr (by rw [psetEl, hr]; rfl)
  · exact exec_ptr_error rfl hf hs rfl (scalar_isNull 0) (by rw [pgetEl, hr]; rfl)

theorem pointerFieldFaults : PointerFieldFaults := by
  intro i f b hi s st o hf hs
  refine ⟨fun a ha hne => ⟨fun hsp => ?_, fun hplace hsp => ?_⟩, fun a ha hspace hb => ?_⟩
  · exact exec_ptr_noField hi ha hf hs (ptrExtent_spaceInvalid hne hsp)
  · exact exec_ptr_noField hi ha hf hs (hplace ▸ ptrExtent_lacking hsp)
  · subst ha
    have hs' := hs
    obtain ⟨-, hrk, -, hnr, -, -⟩ := hs'
    exact exec_ptr_error rfl hf hs hrk hnr (hspace ▸ psetEl_unknownSpace hb)

/-- Settles O3: a pointer form is `ptrOp` on its operands, and its element function works on the extent of one field. -/
theorem pointerInstructionsRun : Obligations.PointerInstructionsRun := ⟨pointerInstructionsComplete, pointerFieldResults, pointerFieldFaults⟩

end Sys2Proof.Machine

end

section

namespace Sys2Proof.Machine

open Sys2Proof.Claims

/-! ### Conversions (R103, R104) -/

theorem scaleEntry_ok {env : Env} {d : Desc} {e : Nat} (h : scaleIndex d e < 256) :
    scaleEntry env d e = .ok (env.scale.getD (scaleIndex d e) 0).toNat := by
  have hget : env.scale.getD (scaleIndex d e) 0 = env.scale[scaleIndex d e] := by simp [Vector.getD, h]
  rw [hget]
  exact dif_pos h

theorem scaleEntry_error {env : Env} {d : Desc} {e : Nat} (h : 256 ≤ scaleIndex d e) :
    scaleEntry env d e = .error (Raw.of .scaleRange (scaleIndex d e)) := dif_neg (Nat.not_lt.mpr h)

/-- What vcvt does with the bits of one element. -/
def cvtStep (env : Env) (n : BitVec 3) (d : Desc) (e : Nat) (xs : List Nat) : Except Raw (Nat × Flags) :=
  if d.scl = 1 then
    scaleEntry env d e >>= fun k =>
      condResult env.fe n.toNat (if (scaledVal (fpRead d.fa d.ftz (xs.getD 0 0)) (s9 k)).isNan then
        ((convert 9 d.fd d.rm d.ftz d.sat (env.draw e) (scaledVal (fpRead d.fa d.ftz (xs.getD 0 0)) (s9 k))).1, flNone)
      else convert 9 d.fd d.rm d.ftz d.sat (env.draw e) (scaledVal (fpRead d.fa d.ftz (xs.getD 0 0)) (s9 k)))
  else condResult env.fe n.toNat (convert d.fa d.fd d.rm d.ftz d.sat (env.draw e) (fpRead d.fa d.ftz (xs.getD 0 0)))

theorem cvtStep_eq {env : Env} {n : BitVec 3} {d : Desc} {e : Nat} (xs : List Nat) (h : d.scl = 1 → scaleIndex d e < 256) :
    cvtStep env n d e xs = condResult env.fe n.toNat (cvtElem env d e (xs.getD 0 0)) := by
  unfold cvtStep cvtElem
  split
  next hs =>
    rw [scaleEntry_ok (h hs), ok_bind]
    rfl
  next => rfl

theorem cvtStep_error {env : Env} {n : BitVec 3} {d : Desc} {e : Nat} (xs : List Nat) (hs : d.scl = 1) (h : 256 ≤ scaleIndex d e) :
    cvtStep env n d e xs = .error (Raw.of .scaleRange (scaleIndex d e)) := by
  rw [cvtStep, if_pos hs, scaleEntry_error h, error_bind]

theorem exec_vcvt_eq {a : FpArgs} {s : State} {st : Site} {o : Operands} (hf : Fires (.vcvt a) s st o)
    (hd : descOk (envOf st) a.d useCvt (cvtOk (envOf st)) = true)
    (hk : (okVec (envOf st).lsew o.l || ((descOf (envOf st) a.d).fa == 14 && okVec 2 o.l)) = true) :
    exec (.vcvt a) s = .next (st.put s (st.complete (.vcvt a) (elementwise (envOf st) o.p
      [(cvtView (descOf (envOf st) a.d) o.l, if (descOf (envOf st) a.d).fa = 14 then 2 else (envOf st).lsew)]
      (.vec (fmtLw (descOf (envOf st) a.d).fd)) (cvtStep (envOf st) a.d (descOf (envOf st) a.d))))) := by
  rw [exec_vcvt, execVcvt, fireTok_of_fires hf]
  simp only [descCheck_ok hd, ok_bind, need_bind, hk, if_true]
  rfl

/-- What vcvtb does with the bits of one element. -/
def cvtbStep (env : Env) (n : BitVec 3) (d : Desc) (e : Nat) (xs : List Nat) : Except Raw (Nat × Flags) :=
  scaleEntry env d e >>= fun k =>
    match s9 k with
    | none => condResult env.fe n.toNat (deliverNan d.fd flNV)
    | some (m, x) =>
      condResult env.fe n.toNat ((convert 9 d.fd d.rm d.ftz d.sat (env.draw e) (fDiv (fpRead d.fa d.ftz (xs.getD 0 0)) (.fin false m x)).1).1,
        (fDiv (fpRead d.fa d.ftz (xs.getD 0 0)) (.fin false m x)).2
          ||| (convert 9 d.fd d.rm d.ftz d.sat (env.draw e) (fDiv (fpRead d.fa d.ftz (xs.getD 0 0)) (.fin false m x)).1).2)

theorem cvtbStep_eq {env : Env} {n : BitVec 3} {d : Desc} {e : Nat} (xs : List Nat) (h : scaleIndex d e < 256) :
    cvtbStep env n d e xs = condResult env.fe n.toNat (cvtbElem env d e (xs.getD 0 0)) := by
  unfold cvtbStep cvtbElem scaleOf
  rw [scaleEntry_ok h, ok_bind]
  cases s9 (env.scale.getD (scaleIndex d e) 0).toNat <;> rfl

theorem exec_vcvtb_eq {a : FpArgs} {s : State} {st : Site} {o : Operands} (hf : Fires (.vcvtb a) s st o)
    (hd : descOk (envOf st) a.d useCvtb (cvtbOk (envOf st)) = true) (hk : okVec (envOf st).lsew o.l = true) :
    exec (.vcvtb a) s = .next (st.put s (st.complete (.vcvtb a) (elementwise (envOf st) o.p [(o.l, (envOf st).lsew)]
      (.vec (fmtLw (descOf (envOf st) a.d).fd)) (cvtbStep (envOf st) a.d (descOf (envOf st) a.d))))) := by
  rw [exec_vcvtb, execVcvtb, fireTok_of_fires hf]
  have hcheck := descCheck_ok hd
  unfold cvtbOk at hcheck
  simp only [hcheck, ok_bind, need_bind, hk, if_true]
  rfl

/-- Settles O7: the element functions are the conversions once the scale entry exists and no trap is enabled; the lowest without it decides. -/
theorem conversionsRun : Obligations.ConversionsRun := by
  refine ⟨⟨fun a s st o hf hp hd hk => ?_, fun a s st o hf hp hd hk => ?_⟩, fun a s st o hf hp hd hk => ?_⟩
  · intro d ops hfit helem
    rw [exec_vcvt_eq hf hd hk, elementwise_ok (g := fun e xs => cvtElem (envOf st) d e (xs.getD 0 0)) hp hfit fun e he hl =>
      (cvtStep_eq _ (helem e he hl).1).trans (condResult_ok (helem e he hl).2)]
    rfl
  · intro d ops hfit helem
    rw [exec_vcvtb_eq hf hd hk, elementwise_ok (g := fun e xs => cvtbElem (envOf st) d e (xs.getD 0 0)) hp hfit fun e he hl =>
      (cvtbStep_eq _ (helem e he hl).1).trans (condResult_ok (helem e he hl).2)]
    rfl
  · intro d ops hfit hscl e he hl hrange hlow
    rw [exec_vcvt_eq hf hd hk, elementwise_error hp hfit he hl (cvtStep_error _ hscl hrange) fun k hk hl =>
      ⟨_, (cvtStep_eq _ (fun _ => (hlow k hk hl).1)).trans (condResult_ok (hlow k hk hl).2)⟩]
    rfl

/-! ### Reductions (R87, R105) -/

/-- The computation ends without a fault. -/
def Succeeds {α : Type} (x : Except Raw α) : Prop := ∃ a, x = .ok a

theorem fpTrap_zero (fl : Flags) : fpTrap 0 fl = none := by
  simp [fpTrap, natBit]

section Total

variable {env : Env} (hfe : env.fe = 0)
include hfe

theorem condResult_succeeds (n : Nat) (r : Nat × Flags) : condResult env.fe n r = .ok r := condResult_ok (by rw [hfe, fpTrap_zero])

theorem initAlone_succeeds (n : BitVec 3) (d : Desc) (init : Nat) (fl : Flags) : Succeeds (initAlone env n d init fl) :=
  ⟨_, condResult_succeeds hfe _ _⟩

theorem addIn_succeeds (n : BitVec 3) (d : Desc) (a b : FVal) (acc : Flags) : Succeeds (addIn env n d a b acc) := by
  unfold addIn
  dsimp only
  rw [condResult_succeeds hfe]
  exact ⟨_, rfl⟩

theorem redMinMax_succeeds (mx : Bool) (n : BitVec 3) (d : Desc) (init : Nat) (xs : List (Option Nat)) : Succeeds (redMinMax mx env n d init xs) := by
  unfold redMinMax
  dsimp only
  split
  · exact ⟨_, rfl⟩
  · exact ⟨_, condResult_succeeds hfe _ _⟩

theorem sumLevel_succeeds (n : BitVec 3) (d : Desc) (l : List (Option FVal)) (fl : Flags) : Succeeds (sumLevel env n d l fl) := by
  fun_induction sumLevel env n d l fl with
  | case1 a b xs fl e h =>
    obtain ⟨v, hv⟩ := addIn_succeeds hfe n d a b fl
    rw [hv] at h
    cases h
  | case2 a b xs fl v g h e hrest ih =>
    obtain ⟨r, hr⟩ := ih
    rw [hr] at hrest
    cases hrest
  | case3 => exact ⟨_, rfl⟩
  | case4 a b xs fl hab e hrest ih =>
    obtain ⟨r, hr⟩ := ih
    rw [hr] at hrest
    cases hrest
  | case5 => exact ⟨_, rfl⟩
  | case6 => exact ⟨_, rfl⟩

theorem sumTree_succeeds (n : BitVec 3) (d : Desc) (fuel : Nat) (l : List (Option FVal)) (fl : Flags) : Succeeds (sumTree env n d fuel l fl) := by
  induction fuel generalizing l fl with
  | zero => exact ⟨_, rfl⟩
  | succ fuel ih =>
    obtain ⟨r, hr⟩ := sumLevel_succeeds hfe n d l fl
    simp only [sumTree, hr]
    exact ih _ _

end Total

theorem sumTerm_succeeds {env : Env} {d : Desc} {e : Nat} (h : d.scl = 1 → scaleIndex d e < 256) (x : Nat) : Succeeds (sumTerm env d e x) := by
  unfold sumTerm
  dsimp only
  split
  next hs =>
    rw [scaleEntry_ok (h hs)]
    exact ⟨_, rfl⟩
  next => exact ⟨_, rfl⟩

theorem sumTerms_succeeds {env : Env} {d : Desc} {xs : List (Option Nat)} {e : Nat} (h : d.scl = 1 → ∀ k, k < e + xs.length → scaleIndex d k < 256) :
    Succeeds (sumTerms env d e xs) := by
  induction xs generalizing e with
  | nil => exact ⟨_, rfl⟩
  | cons x xs ih =>
    obtain ⟨l, hl⟩ := ih (e := e + 1) (fun hs k hk => h hs k (by rw [List.length_cons]; omega))
    cases x with
    | none => exact ⟨_, by rw [sumTerms, hl]; rfl⟩
    | some x =>
      obtain ⟨v, hv⟩ := sumTerm_succeeds (env := env) (fun hs => h hs e (by rw [List.length_cons]; omega)) x
      exact ⟨_, by rw [sumTerms, hv, hl]; rfl⟩

theorem sumOrdered_succeeds {env : Env} (hfe : env.fe = 0) (n : BitVec 3) {d : Desc} {xs : List (Option Nat)} {e : Nat}
    (h : d.scl = 1 → ∀ k, k < e + xs.length → scaleIndex d k < 256) (acc : Nat × Flags) : Succeeds (sumOrdered env n d e xs acc) := by
  induction xs generalizing e acc with
  | nil => exact ⟨_, rfl⟩
  | cons x xs ih =>
    have hrest := ih (e := e + 1) (fun hs k hk => h hs k (by rw [List.length_cons]; omega))
    cases x with
    | none => exact hrest acc
    | some x =>
      obtain ⟨v, hv⟩ := sumTerm_succeeds (env := env) (fun hs => h hs e (by rw [List.length_cons]; omega)) x
      obtain ⟨r, hr⟩ := addIn_succeeds hfe n d (fpRead d.fd d.ftz acc.1) v acc.2
      simp only [sumOrdered, hv, hr]
      exact hrest r

theorem foldl_filterMap_id {g : Nat → Nat → Nat} (xs : List (Option Nat)) (a : Nat) :
    (xs.filterMap id).foldl g a = xs.foldl (fun a x => match x with | some v => g a v | none => a) a := by
  induction xs generalizing a with
  | nil => rfl
  | cons x xs ih =>
    cases x with
    | none => exact ih a
    | some v => exact ih (g a v)

theorem exec_vsumT_eq (a : FpArgs) (s : State) : exec (.vsumT a) s = reduce (.vsumT a) a sumOk (fun env d init xs =>
    if fmtIsInt d.fa then .ok (intSum d init xs, 0)
    else match (sumTerms env d 0 xs).bind (fun l => sumTree env a.d d 8 l 0) with
      | .error e => .error e
      | .ok (none, fl) => initAlone env a.d d init fl
      | .ok (some v, fl) => addIn env a.d d (fpRead d.fd d.ftz init) v fl) s := by
  rw [exec_vsumT, execVsumT]
  congr 1
  funext env d init xs
  split
  · rfl
  · cases sumTerms env d 0 xs with
    | error e => rfl
    | ok l =>
      simp only [ok_bind, Except.bind]
      cases sumTree env a.d d 8 l 0 with
      | error e => rfl
      | ok r =>
        obtain ⟨v, fl⟩ := r
        cases v <;> rfl

theorem exec_vandR_eq (a : FpArgs) (s : State) : exec (.vandR a) s = reduce (.vandR a) a bitsOk
    (fun _ _ init xs => .ok (xs.foldl (fun a x => match x with | some v => a &&& v | none => a) init, 0)) s := by
  simp only [exec_vandR, execVandR, foldl_filterMap_id]

theorem exec_vorR_eq (a : FpArgs) (s : State) : exec (.vorR a) s = reduce (.vorR a) a bitsOk
    (fun _ _ init xs => .ok (xs.foldl (fun a x => match x with | some v => a ||| v | none => a) init, 0)) s := by
  simp only [exec_vorR, execVorR, foldl_filterMap_id]

theorem exec_redForm {i : Instr} {a : FpArgs} {ok : Desc → Bool} {run : Env → Desc → Nat → List (Option Nat) → Except Raw (Nat × Flags)}
    (h : redForm i = some (a, ok, run)) (s : State) : exec i s = reduce i a ok run s := by
  unfold redForm at h
  split at h <;> cases h
  case h_1 => exact exec_vsumO a s
  case h_2 => exact exec_vsumT_eq a s
  case h_3 => exact exec_vminR a s
  case h_4 => exact exec_vmaxR a s
  case h_5 => exact exec_vandR_eq a s
  case h_6 => exact exec_vorR_eq a s

/-- Every reduction ends without a fault where no trap is enabled and every element has its scale entry. -/
theorem redForm_succeeds {i : Instr} {a : FpArgs} {ok : Desc → Bool} {run : Env → Desc → Nat → List (Option Nat) → Except Raw (Nat × Flags)}
    (h : redForm i = some (a, ok, run)) {env : Env} (hfe : env.fe = 0) {d : Desc} {xs : List (Option Nat)}
    (hscl : d.scl = 1 → ∀ k, k < xs.length → scaleIndex d k < 256) (init : Nat) : Succeeds (run env d init xs) := by
  have hscl' : d.scl = 1 → ∀ k, k < 0 + xs.length → scaleIndex d k < 256 := by simpa using hscl
  unfold redForm at h
  split at h <;> cases h
  case h_1 =>
    dsimp only
    split_ifs
    · exact ⟨_, rfl⟩
    · exact initAlone_succeeds hfe _ _ _ _
    · exact sumOrdered_succeeds hfe _ hscl' _
  case h_2 =>
    dsimp only
    split_ifs
    · exact ⟨_, rfl⟩
    · obtain ⟨l, hl⟩ := sumTerms_succeeds (env := env) hscl'
      obtain ⟨⟨v, fl⟩, hr⟩ := sumTree_succeeds hfe a.d d 8 l 0
      simp only [hl, Except.bind, hr]
      cases v with
      | none => exact initAlone_succeeds hfe _ _ _ _
      | some v => exact addIn_succeeds hfe _ _ _ _ _
  case h_3 | h_4 => exact redMinMax_succeeds hfe _ _ _ _ _
  case h_5 | h_6 => exact ⟨_, rfl⟩

/-- Settles O8: past the checks a reduction is its rule, which cannot fault without enabled traps and with its scale entries. -/
theorem reductionsRun : Obligations.ReductionsRun := by
  intro i a ok run hi s st o hf hacc
  simp only [redAccepts, Bool.and_eq_true] at hacc
  obtain ⟨⟨⟨hd, hp⟩, hl⟩, hr⟩ := hacc
  have hneed : (predKindOk o.p && okVec (envOf st).lsew o.l && okScalar o.r) = true := by simp [hp, hl, hr]
  have hcheck := descCheck_ok hd
  rw [exec_redForm hi, reduce, fireTok_of_fires hf]
  simp only [sclOk, hcheck, ok_bind, need_bind, hneed, if_true]
  refine ⟨fun hclosed => ?_, fun hopen hfe hscl => ?_⟩
  · rw [redClosed] at hclosed
    rw [if_pos hclosed, complete_okTok]
  · obtain ⟨r, hrun⟩ := redForm_succeeds hi hfe (xs := participants (envOf st) o.p o.l)
      (fun hs k hk => hscl hs k (by simpa [participants] using hk)) (o.r.val % 2 ^ fmtWidth (descOf (envOf st) a.d).fd)
    rw [redClosed] at hopen
    rw [if_neg (Bool.eq_false_iff.mp hopen)]
    refine ⟨r, hrun, ?_⟩
    rw [hrun]
    rfl

end Sys2Proof.Machine

end

section

namespace Sys2Proof.Machine

open Sys2Proof.Claims

/-! ### Compressed instructions (R54) -/

theorem exec_compForm {i : Instr} {m : Bool} {ops : Operands → List Token} {f : Nat → List Nat → Nat} (h : compForm i = some (m, ops, f))
    (s : State) : exec i s = fireTok i s (fun env v => compOp m f env (ops v)) := by
  unfold compForm at h
  split at h <;> cases h <;> rfl

theorem any_wide_map (ts : List Token) (lw : Nat) : wideOps none (ts.map (fun t => (t, lw))) = ts.any Token.wide := by
  simp [wideOps, predWide, List.any_map, Function.comp_def]

theorem compOp_ok {m : Bool} {f : Nat → List Nat → Nat} {env : Env} {ts : List Token} (hok : compOk env m ts = true)
    (hfit : fits env.vl (ts.any Token.wide) (if ts.any (fun t => t.kind == .mask) then .mask else .vec env.lsew) = true) :
    compOp m f env ts = .ok (compResult env ts f) := by
  simp only [compOp, need_bind, hok, if_true]
  exact elementwise_ok (g := fun _ xs => (f (2 ^ compLw env ts) xs % 2 ^ (2 ^ compLw env ts), 0)) rfl (by rw [any_wide_map]; exact hfit)
    (fun _ _ _ => rfl)

theorem fireTok_okTok {i : Instr} {s : State} {st : Site} {o : Operands} (hf : Fires i s st o) {F : Env → Operands → OpOut} {t : Token}
    (hF : F (envOf st) o = okTok t) : fireTok i s F = .next (st.put s (st.delivers i t)) := by
  rw [fireTok_of_fires hf, hF, complete_okTok]

theorem exec_compConst {i : Instr} {s : State} {st : Site} {o : Operands} (hf : Fires i s st o) {t : Token} (h : compConst st o i = some t) :
    exec i s = .next (st.put s (st.delivers i t)) := by
  unfold compConst at h
  split at h <;> cases h
  next => rw [exec_cMov, execCMov, fireTok_okTok hf rfl]
  next => rw [exec_cFan, execCFan, fireTok_okTok hf rfl]
  next => rw [exec_cVl, execCVl, comp0, fireTok_okTok hf rfl]; rfl
  next => rw [exec_cSb, execCSb, comp0, fireTok_okTok hf rfl]; rfl
  next => rw [exec_cSn, execCSn, fire_of_fires hf, complete_okTok]
  next => rw [exec_cEidx, execCEidx, comp0, fireTok_okTok hf rfl]; rfl
  next => rw [exec_cLi, execCLi, comp0, fireTok_okTok hf rfl]
  next => rw [exec_cNull, execCNull, comp0, fireTok_okTok hf rfl]
  next => rw [exec_cNullv, execCNullv, comp0, fireTok_okTok hf rfl]; rfl
  next => rw [exec_cNullm, execCNullm, comp0, fireTok_okTok hf rfl]; rfl

/-- An extension of a scalar: its word's extension, or null. -/
theorem compScalar_ok {i : Instr} {s : State} {st : Site} {o : Operands} (hf : Fires i s st o) {f : Nat → Nat} {g : Word → Word}
    (hfg : ∀ a : Word, f a.toNat % 2 ^ 64 = (g a).toNat) (hl : o.l.kind = .scalar) :
    compScalar i f s = .next (st.put s (st.delivers i (if o.l.isNull then Token.nullScalar else Token.scalar (g o.l.word).toNat))) := by
  have hwide : [o.l].any Token.wide = false := by simp [Token.wide_scalar hl]
  have hmask : [o.l].any (fun t => t.kind == .mask) = false := by simp [hl]
  have hok : compOk (envOf st) false [o.l] = true := by simp [compOk, okVec_scalar hl]
  rw [compScalar, fireTok_of_fires hf]
  simp only [need_bind, okScalar, hl, beq_self_eq_true, if_true]
  rw [compOp_ok hok (by simp [hwide, hmask, fits]), ← complete_okTok]
  refine congrArg (fun r => Host.Outcome.next (st.put s (st.complete i (.ok r)))) ?_
  simp only [compResult, compLw, hwide, hmask, elemResult, any_wide_map, Bool.false_eq_true, if_false]
  cases hn : o.l.isNull
  case false =>
    have hlive : liveAt none [(o.l, 6)] 0 = true := by simp [liveAt, predOpen, Token.nullAt_scalar hl, hn]
    have hval := hfg o.l.word
    simp only [Nat.reducePow] at hval
    simp [hlive, opBits, Token.elem_scalar hl, ResKind.build, Token.scalarOpt, hval]
  case true =>
    have hlive : liveAt none [(o.l, 6)] 0 = false := by simp [liveAt, predOpen, Token.nullAt_scalar hl, hn]
    simp [hlive, ResKind.build, Token.scalarOpt]

theorem sext32_word (a : Word) : intToNat 64 (natToInt 32 a.toNat) % 2 ^ 64 = ((a.setWidth 32).signExtend 64).toNat := by
  have hlow : natToInt 32 a.toNat = (a.setWidth 32).toInt := by
    rw [BitVec.toInt_eq_toNat_cond, BitVec.toNat_setWidth]
    rfl
  rw [hlow, intToNat_eq, Nat.mod_eq_of_lt (BitVec.isLt _)]
  rfl

theorem zext32_word (a : Word) : a.toNat % 2 ^ 32 % 2 ^ 64 = ((a.setWidth 32).setWidth 64).toNat := by
  rw [BitVec.toNat_setWidth, BitVec.toNat_setWidth]

theorem exec_compExtend {i : Instr} {g : Word → Word} (h : compExtend i = some g) {s : State} {st : Site} {o : Operands} (hf : Fires i s st o)
    (hl : o.l.kind = .scalar) :
    exec i s = .next (st.put s (st.delivers i (if o.l.isNull then Token.nullScalar else Token.scalar (g o.l.word).toNat))) := by
  unfold compExtend at h
  split at h <;> cases h
  · rw [exec_cSext32, execCSext32, compScalar_ok hf sext32_word hl]
  · rw [exec_cZext32, execCZext32, compScalar_ok hf zext32_word hl]

/-- Settles O6: the element forms are `compOp`, the relays and constants deliver their token, and the null forms build their elements. -/
theorem compressedInstructionsRun : Obligations.CompressedInstructionsRun := by
  refine ⟨fun i m ops f hi s st o hf hok hfit => ?_, fun i s st o hf t ht => exec_compConst hf ht,
    fun i f hi s st o hf hl => exec_compExtend hi hf hl, fun a s st o hf hl hr => ?_, fun a s st o hf hl hr => ?_, fun a s st o hf hl => ?_,
    fun a s st o hf hl => ?_⟩
  · rw [exec_compForm hi, fireTok_of_fires hf, compOp_ok hok hfit]
    rfl
  · simp only [exec_cNullif, execCNullif, compMaskIf, fireTok_of_fires hf, need_bind, hl, hr, Bool.and_self, if_true, compElems, complete_okTok,
      beq_true, elemsOf]
  · simp only [exec_cKeepif, execCKeepif, compMaskIf, fireTok_of_fires hf, need_bind, hl, hr, Bool.and_self, if_true, compElems, complete_okTok,
      beq_false, elemsOf]
  · have hfill (lw e : Nat) : (o.l.elem? lw e).getD 0 = if o.l.nullAt e then 0 else o.l.elem lw e := by
      cases hn : o.l.nullAt e <;> simp [Token.elem?, hn]
    simp only [exec_cZfill, execCZfill, fireTok_of_fires hf, need_bind, hl, if_true, compElems, complete_okTok, hfill, elemsOf]
  · simp only [exec_cIsnull, execCIsnull, fireTok_of_fires hf, need_bind, hl, if_true, compElems, complete_okTok]

/-! ### Comparison and selection (R106, R108 to R110) -/

theorem compare_ok {c : Cond} {env : Env} {p : Pred} {a b : Token} (h : (predKindOk p && okVec env.lsew a && okVec env.lsew b) = true) :
    compare c env p a b = .ok (cmpResult c env p a b) := by
  have hp : predKindOk p = true := by
    simp only [Bool.and_eq_true] at h
    exact h.1.1
  simp only [compare, need_bind, h, if_true]
  exact elementwise_ok (g := fun _ xs => (if condHolds c (2 ^ cmpLw env p a b) (xs.getD 0 0) (xs.getD 1 0) then 1 else 0, 0)) hp rfl
    (fun _ _ _ => rfl)

theorem buildElems_ok {wide : Bool} {env : Env} {p : Pred} {k : ResKind} {f g : Nat → Option Nat} (hp : predKindOk p = true)
    (hfg : ∀ e, f e = g e) : buildElems wide env p k f = okTok (chosen env wide p k g) := by
  obtain rfl : f = g := funext hfg
  simp only [buildElems, need_bind, hp, if_true]
  rfl

theorem buildWide_ok {env : Env} {p : Pred} {k : ResKind} {f g : Nat → Option Nat} (hp : predKindOk p = true) (hfg : ∀ e, f e = g e) :
    buildWide env p k f = okTok (chosen env true p k g) := buildElems_ok hp hfg

theorem selKinds_parts {env : Env} {o : Operands} (h : selKinds env o = true) : predKindOk o.p = true ∧ okMask o.l = true
    ∧ (!((o.r.kind == .mask || o.t.kind == .mask) && (o.r.kind == .vec || o.t.kind == .vec))
      && ((o.r.kind == .mask || o.t.kind == .mask) || (okVec env.lsew o.r && okVec env.lsew o.t))) = true := by
  simp only [selKinds, Bool.and_eq_true] at h
  obtain ⟨⟨hp, hl⟩, hk⟩ := h
  refine ⟨hp, hl, ?_⟩
  cases hr : o.r.kind <;> cases ht : o.t.kind <;> simp_all [okMask, okVec]

/-- Element `e` of sel with the predicate applied. -/
theorem selPick_pred (o : Operands) (lw e : Nat) :
    (if (!predOpen o.p e || o.l.nullAt e) = true then none else if maskBit o.l e = 1 then o.r.elem? lw e else o.t.elem? lw e)
      = if predOpen o.p e = true then selPick o lw e else none := by
  cases predOpen o.p e <;> cases hn : o.l.nullAt e <;> simp [selPick, hn]

/-- sel delivers as one token: a vector or mask, or a scalar with the mark of its second operand. -/
theorem exec_sel_eq {a : PlainArgs} {s : State} {st : Site} {o : Operands} (hf : Fires (.sel a) s st o) (h : selKinds (envOf st) o = true)
    {m w : Bool} (hm : (o.r.kind == .mask || o.t.kind == .mask) = m)
    (hw : (m || (o.r.kind == .vec || o.t.kind == .vec) || o.l.wide || predWide o.p) = w) :
    exec (.sel a) s = .next (st.put s (st.delivers (.sel a)
      (if w then (if m then ResKind.mask else .vec (envOf st).lsew).build true ((List.range (envOf st).vl).map (fun e =>
          if predOpen o.p e then selPick o (if m then 0 else if w || !o.r.ref then (envOf st).lsew else 6) e else none))
        else { Token.scalarOpt (if predOpen o.p 0 then selPick o (if m then 0 else if w || !o.r.ref then (envOf st).lsew else 6) 0 else none)
          with ref := o.r.ref }))) := by
  obtain ⟨hp, hl, hk⟩ := selKinds_parts h
  rw [hm] at hk
  simp only [exec_sel, execSel, fireTok_of_fires hf, need_bind, hp, hl, Bool.and_self, if_true, hm, hw, hk, selPick_pred]
  cases w
  · exact congrArg (fun x => Host.Outcome.next (st.put s x)) (complete_okTok ..)
  · exact congrArg (fun x => Host.Outcome.next (st.put s x)) (complete_okTok ..)

/-- vperm delivers the element that its sub-operation names. -/
theorem exec_vperm_eq {a : PermArgs} {s : State} {st : Site} {o : Operands} (hf : Fires (.vperm a) s st o)
    (h : permKinds a.op (envOf st) o = true) : exec (.vperm a) s = .next (st.put s (st.delivers (.vperm a)
      (chosen (envOf st) (permWide a.op o) o.p (.vec (envOf st).lsew) (permPick a.op (envOf st) o)))) := by
  simp only [permKinds, Bool.and_eq_true] at h
  obtain ⟨⟨hp, hl⟩, hk⟩ := h
  rw [exec_vperm, execVperm]
  refine fireTok_okTok hf ?_
  simp only [need_bind, hp, hl, Bool.and_self, if_true]
  cases hop : a.op <;> rw [hop] at hk
  case gather =>
    simp only [hk, if_true]
    refine buildElems_ok hp fun e => ?_
    cases hn : o.r.nullAt e <;> simp [permPick, Token.elem?, hn]
  case rev => exact buildElems_ok hp fun e => rfl
  case up | dn | bc =>
    simp only [hk, if_true]
    exact buildElems_ok hp fun e => rfl

theorem selectionComplete : SelectionComplete := by
  refine ⟨fun a s st o hf h => ?_, fun a s st o hf h => ?_, fun a s st o hf h => ⟨fun hw => ?_, fun hw => ?_⟩, fun a s st o hf h => ?_,
    fun a s st o hf h => ?_, fun a s st o hf h => ?_⟩
  · rw [exec_cmp, execCmp, fireTok_of_fires hf, compare_ok h]
    rfl
  · have hk : (predKindOk o.p && okVec (envOf st).lsew o.l && okVec (envOf st).lsew (Token.scalar (immValue a.imm9 a.pre))) = true := by
      rw [h]; rfl
    rw [exec_cmpi, execCmpi, fireTok_of_fires hf, compare_ok hk]
    rfl
  · rw [exec_sel_eq hf h rfl (w := true) (by simpa only [Bool.or_assoc] using hw)]
    simp only [Bool.true_or, if_true]
    rfl
  · have hm : (o.r.kind == .mask || o.t.kind == .mask) = false := by
      simp only [Bool.or_eq_false_iff] at hw ⊢
      exact hw.1.1.1.1
    rw [exec_sel_eq hf h hm (w := false) (by simpa only [hm, Bool.or_assoc] using hw)]
    simp only [Bool.false_or, Bool.false_eq_true, if_false]
    cases o.r.ref <;> rfl
  · exact exec_vperm_eq hf h
  · rw [exec_vext, execVext]
    refine fireTok_okTok hf ?_
    simp only [need_bind, h, if_true]
    congr 2
    cases predOpen o.p 0 <;> cases o.r.isNull <;> by_cases hlt : o.r.val < (envOf st).vl <;> simp [hlt]
  · simp only [Bool.and_eq_true] at h
    obtain ⟨⟨⟨hp, hl⟩, hr⟩, ht⟩ := h
    rw [exec_vins, execVins]
    refine fireTok_okTok hf ?_
    simp only [need_bind, hl, hr, ht, Bool.and_self, if_true]
    exact buildElems_ok hp fun e => rfl

/-! ### Masks (R111 to R113) -/

theorem predScalar_ok {p : Pred} (hp : predScalarOk p = true) (v : Nat) :
    predScalar p v = okTok (if predOpen p 0 then Token.scalar v else Token.nullScalar) := by
  simp only [predScalar, need_bind, hp, if_true]

theorem maskInstructionsComplete : MaskInstructionsComplete := by
  refine ⟨fun a s st o hf h => ?_, fun a s st o hf hl hop hp => ?_, fun a s st o hf hl hop hp => ?_, fun a s st o hf hl hp => ?_,
    fun a s st o hf hl hp => ?_, fun a s st o hf hl hr hp => ?_, fun a s st o hf hl hr hp => ?_⟩
  · simp only [Bool.and_eq_true] at h
    obtain ⟨⟨hp, hl⟩, hr⟩ := h
    rw [exec_mlog, execMlog, fireTok_of_fires hf]
    simp only [need_bind, hl, hr, Bool.and_self, if_true]
    rw [elementwise_ok (g := fun e _ => (mlogBit a.op.toNat (maskBit o.l e) (maskBit o.r e), 0)) hp rfl (fun _ _ _ => rfl)]
    rfl
  · rw [exec_mfirst, execMfirst]
    refine fireTok_okTok hf ?_
    simp only [need_bind, hl, if_true, hop]
    exact predScalar_ok hp _
  · rw [exec_mfirst, execMfirst]
    refine fireTok_okTok hf ?_
    simp only [need_bind, hl, if_true]
    cases hcase : a.op
    case idx => exact absurd hcase hop
    case sbf | sif | sof => exact buildWide_ok hp fun e => rfl
  · rw [exec_mpop, execMpop]
    refine fireTok_okTok hf ?_
    simp only [need_bind, hl, if_true]
    exact predScalar_ok hp _
  · rw [exec_viota, execViota]
    refine fireTok_okTok hf ?_
    simp only [need_bind, hl, if_true]
    exact buildWide_ok hp fun e => rfl
  · rw [exec_vcomp, execVcomp]
    refine fireTok_okTok hf ?_
    simp only [need_bind, hl, hr, Bool.and_self, if_true]
    exact buildWide_ok hp fun e => rfl
  · rw [exec_mrange, execMrange]
    refine fireTok_okTok hf ?_
    simp only [need_bind, hl, hr, Bool.and_self, if_true]
    refine buildWide_ok hp fun e => ?_
    simp only [Bool.or_eq_true, Bool.and_eq_true, decide_eq_true_eq]

/-- Settles O9: each form's guards are its claim's premises, and what it builds is the element that its rule gives. -/
theorem selectionAndMaskInstructionsRun : Obligations.SelectionAndMaskInstructionsRun := ⟨selectionComplete, maskInstructionsComplete⟩

end Sys2Proof.Machine

end

section

namespace Sys2Proof.Machine

open Sys2Proof.Claims

/-! ### A fired memory access (R122) -/

theorem firing_of_site {s : State} {st : Site} (h : s.site = some st) : s.firing = some st.f := by
  unfold State.site at h
  simp only [Option.bind_eq_bind, Option.bind_eq_some_iff] at h
  obtain ⟨f, hf, x, -, h⟩ := h
  split at h <;> simp only [Option.bind_eq_some_iff, Option.some.injEq] at h <;> obtain ⟨_, -, rfl⟩ := h <;> exact hf

theorem settled_next {s : State} {st : Site} (h : s.site = some st) (t : State) : settled s (.next t) = .next (t.settle st.f.c st.f.spec) := by
  simp only [settled, firing_of_site h]

theorem settled_fire {i : Instr} {s : State} {st : Site} {o : Operands} (hf : Fires i s st o) (run : Site → Operands → State) :
    settled s (fire i s run) = .next ((run st o).settle st.f.c st.f.spec) := by
  rw [fire_of_fires hf, settled_next hf.1]

/-! ### Loads (R124) -/

theorem fireLoad_of_plan {i : Instr} {s : State} {st : Site} {o : Operands} (hf : Fires i s st o) {plan : Site → Operands → Except Raw LoadRec}
    {ld : LoadRec} (h : plan st o = .ok ld) : fireLoad i s plan = .next (afterLoad s st ld) := by
  rw [fireLoad, settled_fire hf]
  simp only [h]
  rfl

theorem mkLoad_eq_loadRec (i : Instr) (st : Site) (kind : LoadKind) (req : LoadReq) (shape : TokKind) (null : BitVec 256) (els : List LdElem) :
    mkLoad i st kind req shape null els = loadRec i st kind req shape null els := rfl

/-- The elements that a vector load accesses: those its predicate and operands leave, of which a broadcast keeps the first as element 0. -/
def vecLoadEls (bcast : Bool) (els : List LdElem) : List LdElem := if bcast then (els.take 1).map (fun el => { el with e := 0 }) else els

/-- A vector load that takes its operands is recorded with its live elements. -/
theorem vecLoad_of_fires {i : Instr} {s : State} {st : Site} {o : Operands} (hf : Fires i s st o) {ws : MemW} {kind : LoadKind} {req : LoadReq}
    {ok : Env → Operands → Bool} {base : Operands → Nat → Word} {delta : Operands → Nat → Int} (live : Nat → Bool)
    (hok : (predKindOk o.p && ok (envOf st) o) = true) (hw : (envOf st).vl * (8 * wsBytes ws) ≤ 2048)
    (hlive : ∀ e, live e = (predOpen o.p e && !o.l.nullAt e && !((slotsOf i).r && o.r.nullAt e))) :
    vecLoad i ws kind req ok base delta s = .next (afterLoad s st (loadRec i st kind { req with w := wsBytes ws } .vec
      (nullMap (envOf st).vl (fun e => !live e))
      (vecLoadEls req.bcast (((List.range (envOf st).vl).filter live).map (fun e => ⟨e, base o e, delta o e, wsBytes ws, none, none⟩))))) := by
  have hnull (e : Nat) : (!predOpen o.p e || o.l.nullAt e || ((slotsOf i).r && o.r.nullAt e)) = !live e := by
    rw [hlive]; simp only [Bool.not_and, Bool.not_or, Bool.not_not]
  refine fireLoad_of_plan hf ?_
  simp only [need_bind, hok, if_true, decide_eq_true hw, hnull, Bool.not_not, mkLoad_eq_loadRec, vecLoadEls]

theorem exec_vecLoadForm {i : Instr} {F : VecLoad} (h : vecLoadForm i = some F) {s : State} {st : Site} {o : Operands} (hf : Fires i s st o)
    (hok : (predKindOk o.p && F.kinds (envOf st) o) = true) (hw : (envOf st).vl * (8 * wsBytes F.ws) ≤ 2048) :
    exec i s = .next (afterLoad s st (loadRec i st F.kind F.req .vec (nullMap (envOf st).vl (fun e => !loadLive F o e))
      (loadEls F (envOf st).vl o))) := by
  have run := fun kind req base delta => vecLoad_of_fires (ws := F.ws) (kind := kind) (req := req) (base := base) (delta := delta) hf (loadLive F o) hok hw
  unfold vecLoadForm at h
  split at h
  case h_6 a =>
    split at h <;> cases h
    next hx =>
      rw [exec_ldk, execLdk, if_neg hx]
      exact run _ _ _ _ (fun _ => rfl)
  all_goals cases h
  · rw [exec_ld, execLd]; exact run _ _ _ _ (fun _ => rfl)
  · rw [exec_ldff, execLdff]; exact run _ _ _ _ (fun _ => rfl)
  · rw [exec_lds, execLds]; exact run _ _ _ _ (fun _ => rfl)
  · rw [exec_ldg, execLdg]; exact run _ _ _ _ (fun _ => rfl)
  · rw [exec_ldgff, execLdgff]; exact run _ _ _ _ (fun _ => rfl)

/-- One element read for all: the first live element of a scalar base, or none. -/
theorem take_one_filter_map (n : Nat) (live : Nat → Bool) (g : Nat → LdElem) (el : LdElem) (h : ∀ e, { g e with e := 0 } = el) :
    (((((List.range n).filter live).map g).take 1).map (fun l => { l with e := 0 })) = if (List.range n).any live then [el] else [] := by
  by_cases hl : (List.range n).any live
  · obtain ⟨e, he, hle⟩ := List.any_eq_true.mp hl
    have hmem : e ∈ (List.range n).filter live := List.mem_filter.mpr ⟨he, hle⟩
    cases hc : (List.range n).filter live with
    | nil => simp [hc] at hmem
    | cons a as => simp [hl, h]
  · have hnil : (List.range n).filter live = [] := List.filter_eq_nil_iff.mpr (fun a ha hla => hl (List.any_eq_true.mpr ⟨a, ha, hla⟩))
    simp [hl, hnil]

theorem exec_ldb_of_fires {a : LoadArgs} {s : State} {st : Site} {o : Operands} (hf : Fires (.ldb a) s st o)
    (hok : (predKindOk o.p && okScalar o.l) = true) (hw : (envOf st).vl * (8 * wsBytes a.ws) ≤ 2048) :
    exec (.ldb a) s = .next (afterLoad s st (loadRec (.ldb a) st .plain { w := wsBytes a.ws, cache := true, bcast := true } .vec
      (nullMap (envOf st).vl (fun e => !(predOpen o.p e && !o.l.isNull)))
      (if (List.range (envOf st).vl).any (fun e => predOpen o.p e && !o.l.isNull) then
        [⟨0, o.l.word, loadOff a.pre, wsBytes a.ws, none, none⟩] else []))) := by
  have hl : o.l.kind = .scalar := of_decide_eq_true (Bool.and_eq_true_iff.mp hok).2
  have hbase (e : Nat) : baseOf o.l e = o.l.word := by rw [baseOf, Token.elem_scalar hl, BitVec.ofNat_toNat, BitVec.setWidth_eq]
  rw [exec_ldb, execLdb, vecLoad_of_fires hf (fun e => predOpen o.p e && !o.l.isNull) hok hw]
  · simp only [vecLoadEls, if_true, hbase]
    rw [take_one_filter_map _ _ (fun e => ⟨e, o.l.word, loadOff a.pre, wsBytes a.ws, none, none⟩)
      ⟨0, o.l.word, loadOff a.pre, wsBytes a.ws, none, none⟩ (fun _ => rfl)]
  · intro e
    rw [Token.nullAt_scalar hl]
    exact (Bool.and_true _).symm

theorem exec_oneLoadForm {i : Instr} {k : LoadKind} {r : LoadReq} {off : Int} (h : oneLoadForm i = some (k, r, off)) {s : State} {st : Site}
    {o : Operands} (hf : Fires i s st o) (hok : (predScalarOk o.p && okScalar o.l) = true) :
    exec i s = .next (afterLoad s st (loadRec i st k r .scalar (nullMap 1 (fun _ => !(predOpen o.p 0 && !o.l.isNull)))
      (if predOpen o.p 0 && !o.l.isNull then [⟨0, o.l.word, off, 8, none, none⟩] else []))) := by
  have run (kind : LoadKind) (req : LoadReq) (off : Int) : oneLoad i kind req off s =
      .next (afterLoad s st (loadRec i st kind { req with w := 8 } .scalar (nullMap 1 (fun _ => !(predOpen o.p 0 && !o.l.isNull)))
        (if predOpen o.p 0 && !o.l.isNull then [⟨0, o.l.word, off, 8, none, none⟩] else []))) := by
    refine fireLoad_of_plan hf ?_
    simp only [need_bind, hok, if_true, mkLoad_eq_loadRec]
    cases predOpen o.p 0 <;> cases o.l.isNull <;> rfl
  unfold oneLoadForm at h
  split at h
  case h_3 a =>
    split at h <;> cases h
    next hx => rw [exec_ldk, execLdk, if_pos hx, run]
  all_goals cases h
  · rw [exec_ldx, execLdx, run]
  · rw [exec_lda, execLda, run]

theorem exec_ldm_of_fires {a : LoadXArgs} {s : State} {st : Site} {o : Operands} (hf : Fires (.ldm a) s st o)
    (hok : (predKindOk o.p && okScalar o.l) = true) :
    exec (.ldm a) s = .next (afterLoad s st (loadRec (.ldm a) st .plain { w := 1, cache := true } .mask
      (nullMap (envOf st).vl (fun e => !(predOpen o.p e && !o.l.isNull)))
      (if (List.range (envOf st).vl).any (fun e => predOpen o.p e && !o.l.isNull) then
        [⟨0, o.l.word, loadOff a.pre, ((envOf st).vl + 7) / 8, none, none⟩] else []))) := by
  have hnull (e : Nat) : (!predOpen o.p e || o.l.isNull) = !(predOpen o.p e && !o.l.isNull) := by rw [Bool.not_and, Bool.not_not]
  rw [exec_ldm, execLdm]
  refine fireLoad_of_plan hf ?_
  have hvl : st.ex.img.vl = (envOf st).vl := rfl
  simp only [need_bind, hok, if_true, mkLoad_eq_loadRec, hnull, List.all_eq_not_any_not, Bool.not_not, hvl]
  cases (List.range (envOf st).vl).any (fun e => predOpen o.p e && !o.l.isNull) <;> rfl

theorem exec_waitv_of_fires {a : LoadXArgs} {s : State} {st : Site} {o : Operands} (hf : Fires (.waitv a) s st o)
    (hok : (predScalarOk o.p && okScalar o.l && okScalar o.r) = true) :
    exec (.waitv a) s = .next (afterLoad s st (loadRec (.waitv a) st (.watch o.r.word (waitvTicks a.pre)) { w := 8, waitv := true } .scalar
      (nullMap 1 (fun _ => !(predOpen o.p 0 && !o.l.isNull && !o.r.isNull)))
      (if predOpen o.p 0 && !o.l.isNull && !o.r.isNull then [⟨0, o.l.word, 0, 8, none, none⟩] else []))) := by
  rw [exec_waitv, execWaitv]
  refine fireLoad_of_plan hf ?_
  simp only [need_bind, hok, if_true, mkLoad_eq_loadRec]
  cases predOpen o.p 0 <;> cases o.l.isNull <;> cases o.r.isNull <;> rfl

/-! ### Loads of references (R139, R140) -/

theorem exec_ldref_of_fires {a : LoadXArgs} {s : State} {st : Site} {o : Operands} (hf : Fires (.ldref a) s st o)
    (hok : (predScalarOk o.p && okScalar o.l) = true) (hp : predOpen o.p 0 = true) (hn : o.l.isNull = false)
    (hsp : o.l.ref = true ∨ spaceOf o.l.word = 0 ∨ spaceOf o.l.word = 1) :
    exec (.ldref a) s = .next (afterLoad { s with free := s.free + 2 } st (loadRec (.ldref a) st
      (if o.l.ref then .refObj true false else .refWord false) { w := 8 } .scalar 0 [⟨0, o.l.word, loadOff a.pre, 8, none, none⟩])) := by
  rw [exec_ldref, execLdref, refLoad, settled_fire hf]
  simp only [hok, hp, hn, Bool.not_true, Bool.false_eq_true, if_false, Bool.or_false, Bool.not_false, if_true, mkLoad_eq_loadRec, Bool.true_and]
  cases hr : o.l.ref with
  | true => rfl
  | false =>
    have hs : spaceOf o.l.word = 0 ∨ spaceOf o.l.word = 1 := by simpa [hr] using hsp
    have hword : refWordSpace o.l.word = true := by rcases hs with h | h <;> simp [refWordSpace, h]
    have hnot6 : decide (spaceOf o.l.word ≠ 6) = true := by rcases hs with h | h <;> simp [h]
    simp only [hword, hnot6, Bool.not_true, Bool.false_eq_true, if_false, if_true]
    rfl

theorem exec_ldrefH_of_fires {a : LoadXArgs} {s : State} {st : Site} {o : Operands} (hf : Fires (.ldrefH a) s st o) (hre : st.f.reform = false)
    (hok : (predScalarOk o.p && okScalar o.l) = true) (hp : predOpen o.p 0 = true) (hn : o.l.isNull = false) (hr : o.l.ref = false)
    (hword : refWordSpace o.l.word = true) {parts : List (Nat × Part)}
    (hprobe : s.probe st { need := { rd := true, wr := true }, w := 8, n := 8, user := st.ex.user } [⟨0, o.l.word, loadOff a.pre, 8⟩] = .ok parts) :
    ∃ ex, ex.loads = st.ex.loads ++ [loadRec (.ldrefH a) st (.refWord true) { w := 8, wr := true } .scalar 0
        [⟨0, o.l.word, loadOff a.pre, 8, none, none⟩]] ∧ ex.fired = (st.ex.markFired st.f.idx).fired
      ∧ exec (.ldrefH a) s = .next ((st.put { s with free := s.free + 2 } ex).settle st.f.c st.f.spec) := by
  rw [exec_ldrefH, execLdrefH, refLoad, settled_fire hf]
  simp only [hok, hp, hn, hr, hre, hword, hprobe, mkLoad_eq_loadRec, Bool.not_true, Bool.false_eq_true, if_false, Bool.or_false, if_true, Bool.false_and]
  exact ⟨{ (st.ex.markFired st.f.idx).buffer st.f.idx _ with loads := _ }, rfl, rfl, rfl⟩

/-- Settles O10: each form of load is one of the shared runs, whose plan is the record that the claim names. -/
theorem loadsLeaveAsRequests : Obligations.LoadsLeaveAsRequests := by
  refine ⟨?_, ?_, ?_, ?_, ?_, ?_, ?_⟩
  · exact fun _ _ h _ _ _ hf hok hw => exec_vecLoadForm h hf hok hw
  · exact fun _ _ _ _ hf hok hw => exec_ldb_of_fires hf hok hw
  · exact fun _ _ _ _ h _ _ _ hf hok => exec_oneLoadForm h hf hok
  · exact fun _ _ _ _ hf hok => exec_ldm_of_fires hf hok
  · exact fun _ _ _ _ hf hok => exec_waitv_of_fires hf hok
  · exact fun _ _ _ _ hf hok hp hn hsp => exec_ldref_of_fires hf hok hp hn hsp
  · exact fun _ _ _ _ hf hre hok hp hn hr hword _ hprobe => exec_ldrefH_of_fires hf hre hok hp hn hr hword hprobe

end Sys2Proof.Machine

end

section

namespace Sys2Proof.Machine

open Sys2Proof.Claims

/-! ### Stores (R128, R129) -/

theorem fireStore_of_plan {i : Instr} {s : State} {st : Site} {o : Operands} (hf : Fires i s st o) {plan : Site → Operands → Except Raw StorePlan}
    {p : StorePlan} (h : plan st o = .ok p) {parts : List (Nat × Part)} (hprobe : s.probe st (storeNeed st p.dev p.w) p.els = .ok parts) :
    fireStore i s plan = .next (afterStore i s st p.rel p.els.length parts p.data) := by
  have hprobe' : s.probe st { need := { wr := true }, dev := p.dev, w := p.w, n := p.w, user := st.ex.user } p.els = .ok parts := hprobe
  rw [fireStore, settled_fire hf]
  simp only [h, hprobe']
  rfl

/-- With no element there is nothing to probe. -/
theorem probe_nil (s : State) (st : Site) (r : AccReq) : s.probe st r [] = .ok [] := rfl

theorem vecStore_of_fires {i : Instr} {s : State} {st : Site} {o : Operands} (hf : Fires i s st o) {ws : MemW} {ok : Env → Operands → Bool}
    {base : Operands → Nat → Word} {delta : Operands → Nat → Int} (live : Nat → Bool)
    (hok : (predKindOk o.p && ok (envOf st) o && okData (wsBytes ws) o.r) = true)
    (hlive : ∀ e, live e = (predOpen o.p e && !o.l.nullAt e && !o.r.nullAt e && !((slotsOf i).t && o.t.nullAt e))) {parts : List (Nat × Part)}
    (hprobe : s.probe st (storeNeed st false (wsBytes ws))
      (((List.range (envOf st).vl).filter live).map (fun e => ⟨e, base o e, delta o e, wsBytes ws⟩)) = .ok parts) :
    vecStore i ws ok base delta s = .next (afterStore i s st none ((List.range (envOf st).vl).filter live).length parts
      (((List.range (envOf st).vl).filter live).map (fun e => (e, dataBytes (wsBytes ws) o.r e)))) := by
  have hnull (e : Nat) : (!(!predOpen o.p e || o.l.nullAt e || o.r.nullAt e || ((slotsOf i).t && o.t.nullAt e))) = live e := by
    rw [hlive]; simp only [Bool.not_or, Bool.not_not]
  rw [vecStore, fireStore_of_plan hf (p := ⟨wsBytes ws, false, none, _, _⟩) (parts := parts)]
  case h => simp only [need_bind, hok, if_true, hnull]; rfl
  case hprobe => exact hprobe
  simp only [List.length_map]

theorem exec_vecStoreForm {i : Instr} {F : VecStore} (h : vecStoreForm i = some F) {s : State} {st : Site} {o : Operands} (hf : Fires i s st o)
    (hok : (predKindOk o.p && F.kinds (envOf st) o && okData (wsBytes F.ws) o.r) = true) {parts : List (Nat × Part)}
    (hprobe : s.probe st (storeNeed st false (wsBytes F.ws))
      (((List.range (envOf st).vl).filter (storeLive F o)).map (fun e => ⟨e, baseOf o.l e, F.delta o e, wsBytes F.ws⟩)) = .ok parts) :
    exec i s = .next (afterStore i s st none ((List.range (envOf st).vl).filter (storeLive F o)).length parts
      (((List.range (envOf st).vl).filter (storeLive F o)).map (fun e => (e, dataBytes (wsBytes F.ws) o.r e)))) := by
  unfold vecStoreForm at h
  split at h <;> cases h
  · rw [exec_st, execSt]; exact vecStore_of_fires hf _ hok (fun _ => rfl) hprobe
  · rw [exec_sts, execSts]; exact vecStore_of_fires hf _ hok (fun _ => rfl) hprobe
  · rw [exec_stg, execStg]; exact vecStore_of_fires hf _ hok (fun _ => rfl) hprobe

section OneStore

variable {i : Instr} {s : State} {st : Site} {o : Operands} (hf : Fires i s st o) (hused : usedTokens i o = [o.l, o.r])
  (hok : wholeScalars i o = true)

include hused hok in
theorem twoScalars_of_wholeScalars : (predScalarOk o.p && okScalar o.l && okScalar o.r) = true := by
  simpa [wholeScalars, hused, and_assoc] using hok

include hused in
theorem wholeOpen_two : wholeOpen i o = !(!predOpen o.p 0 || o.l.isNull || o.r.isNull) := by
  simp [wholeOpen, hused, Bool.and_assoc]

include hf hused hok in
theorem oneStore_of_open {dev : Bool} {rel : Option Scope} {off : Int} (hopen : wholeOpen i o = true) {parts : List (Nat × Part)}
    (hprobe : s.probe st (storeNeed st dev 8) [⟨0, o.l.word, off, 8⟩] = .ok parts) :
    oneStore i dev rel off s = .next (afterStore i s st rel 1 parts [(0, fullBytes 8 o.r.val)]) := by
  have hlive : (!predOpen o.p 0 || o.l.isNull || o.r.isNull) = false := by simpa [wholeOpen_two hused] using hopen
  refine fireStore_of_plan hf (p := ⟨8, dev, rel, [⟨0, o.l.word, off, 8⟩], [(0, fullBytes 8 o.r.val)]⟩) ?_ hprobe
  simp only [need_bind, twoScalars_of_wholeScalars hused hok, if_true, hlive, Bool.false_eq_true, if_false]

include hf hused hok in
theorem oneStore_of_closed {dev : Bool} {rel : Option Scope} {off : Int} (hopen : wholeOpen i o = false) :
    oneStore i dev rel off s = .next (afterStore i s st rel 0 [] []) := by
  have hlive : (!predOpen o.p 0 || o.l.isNull || o.r.isNull) = true := by
    rw [wholeOpen_two hused] at hopen
    simpa only [Bool.not_eq_false'] using hopen
  refine fireStore_of_plan hf (p := ⟨8, dev, rel, [], []⟩) ?_ (probe_nil _ _ _)
  simp only [need_bind, twoScalars_of_wholeScalars hused hok, if_true, hlive]

end OneStore

theorem exec_oneStoreForm {i : Instr} {dev : Bool} {rel : Option Scope} {off : Int} (h : oneStoreForm i = some (dev, rel, off)) (s : State) :
    exec i s = oneStore i dev rel off s ∧ ∀ o, usedTokens i o = [o.l, o.r] := by
  unfold oneStoreForm at h
  split at h <;> cases h <;> exact ⟨rfl, fun _ => rfl⟩

theorem exec_stm_of_fires {a : StoreXArgs} {s : State} {st : Site} {o : Operands} (hf : Fires (.stm a) s st o)
    (hok : (predKindOk o.p && okScalar o.l && okMask o.r) = true) (hn : o.l.isNull = false)
    (hlive : (List.range (envOf st).vl).any (fun e => predOpen o.p e && !o.r.nullAt e) = true) {parts : List (Nat × Part)}
    (hprobe : s.probe st (storeNeed st false 1) [⟨0, o.l.word, storeOff (((envOf st).vl + 7) / 8) a.ofs5 a.imm, ((envOf st).vl + 7) / 8⟩] = .ok parts) :
    exec (.stm a) s = .next (afterStore (.stm a) s st none 1 parts
      [(0, (List.range (((envOf st).vl + 7) / 8)).map (maskByte (envOf st).vl o.p o.r))]) := by
  have hvl : st.ex.img.vl = (envOf st).vl := rfl
  have hnone : (List.range (envOf st).vl).all (fun e => !predOpen o.p e || o.r.nullAt e) = false := by
    simpa [List.all_eq_not_any_not] using hlive
  rw [exec_stm, execStm]
  refine fireStore_of_plan hf (p := ⟨1, false, none, [⟨0, o.l.word, _, _⟩], [(0, _)]⟩) ?_ hprobe
  simp only [need_bind, hok, if_true, hvl, hn, hnone, Bool.or_false, Bool.false_eq_true, if_false]

theorem exec_stref_of_fires {a : StoreXArgs} {s : State} {st : Site} {o : Operands} (hf : Fires (.stref a) s st o)
    (hok : wholeScalars (.stref a) o = true) (hopen : wholeOpen (.stref a) o = true) (hr : o.l.ref = false) (hword : refWordSpace o.l.word = true)
    {parts : List (Nat × Part)} (hprobe : s.probe st (storeNeed st false 8) [⟨0, o.l.word, storeOff 8 a.ofs5 a.imm, 8⟩] = .ok parts) :
    exec (.stref a) s = .next (afterStore (.stref a) s st none 1 parts [(0, fullBytes 8 o.r.val)]) := by
  have hprobe' : s.probe st { need := { wr := true }, w := 8, n := 8, user := st.ex.user } [⟨0, o.l.word, storeOff 8 a.ofs5 a.imm, 8⟩] = .ok parts :=
    hprobe
  have hlive : (!predOpen o.p 0 || o.l.isNull || o.r.isNull) = false := by simpa [wholeOpen_two (i := .stref a) (o := o) rfl] using hopen
  have hsc := twoScalars_of_wholeScalars (i := .stref a) rfl hok
  rw [exec_stref, execStref, settled_fire hf]
  simp only [hsc, hlive, hr, hword, hprobe', Bool.not_true, Bool.false_eq_true, if_false]
  rfl

/-- stk of one reference word, through a reference whose element is in its object. -/
theorem exec_stk_of_fires {a : StoreArgs} {s : State} {st : Site} {o : Operands} (hf : Fires (.stk a) s st o) (hx : a.ws = .x)
    (hok : wholeScalars (.stk a) o = true) (hopen : wholeOpen (.stk a) o = true) {p : Place}
    (hcheck : s.checkRefEls st.ex.pc (storeNeed st false 8) o.l.word (storeOff 8 a.ofs5 a.imm) 8 [(0, storeOff 8 a.ofs5 a.imm, 8)] = .ok [(0, p)]) :
    exec (.stk a) s = .next ((st.put s (st.withEffect (.stk a) (some (.refStore a.lsid.toNat (classOf (.stk a)) 8
      [⟨0, o.l.word, storeOff 8 a.ofs5 a.imm, p.hold, natLe 8 o.r.val⟩])) none)).settle st.f.c st.f.spec) := by
  have hused : usedTokens (.stk a) o = [o.l, o.r] := rfl
  have hsc := twoScalars_of_wholeScalars hused hok
  have hr : o.r.kind = .scalar := of_decide_eq_true (Bool.and_eq_true_iff.mp hsc).2
  have hlive : (predOpen o.p 0 && !o.l.isNull && !o.r.nullAt 0) = true := by
    rw [Token.nullAt_scalar hr]; simpa [wholeOpen_two hused] using hopen
  have hdata : (dataBytes 8 o.r 0).map (·.1) = natLe 8 o.r.val := by
    have helem : o.r.elem (bitLen 10 (8 * 8) - 1) 0 = o.r.val := by simp [Token.elem, hr, Token.val, bitLen]
    rw [dataBytes, fullBytes, helem, List.map_map]
    exact List.map_id _
  rw [exec_stk, execStk, settled_fire hf]
  simp only [hx, hsc, if_true, Bool.not_true, Bool.false_eq_true, if_false, List.range_one, List.filter_cons, hlive, List.filter_nil, List.map_cons,
    List.map_nil, wsBytes, hdata]
  rw [fireRefStore, if_neg (by simp)]
  have hcheck' : s.checkRefEls st.ex.pc { need := { wr := true }, w := 8, n := 8, user := st.ex.user } o.l.word (storeOff 8 a.ofs5 a.imm) 8
      [(0, storeOff 8 a.ofs5 a.imm, 8)] = .ok [(0, p)] := hcheck
  have hzero : storeOff 8 a.ofs5 a.imm + ((0 * 8 : Nat) : Int) = storeOff 8 a.ofs5 a.imm := by simp
  simp only [List.map_cons, List.map_nil, hzero, Nat.one_mul, hcheck', List.find?_cons, decide_true, Option.bind_some]
  rfl

/-! ### Atomics (R136) -/

theorem exec_amoForm {i : Instr} {a : AtomicArgs} {op : AmoOp} {three : Bool} (h : amoForm i = some (a, op, three)) (s : State) :
    exec i s = fireAtomic i a op s ∧ (slotsOf i).t = three := by
  unfold amoForm at h
  split at h <;> cases h <;> exact ⟨rfl, rfl⟩

theorem amoKinds_iff {env : Env} {o : Operands} {three : Bool} : amoKinds env o three = true ↔ ¬ amoLw env o three < 5 ∧
    (predKindOk o.p && okBase o.l && okVec (amoLw env o three) o.r && (!three || okVec (amoLw env o three) o.t)) = true := by
  have h6 : amoWide o three = false → ¬ amoLw env o three < 5 := fun h => by simp [amoLw, h]
  cases hw : amoWide o three with
  | true => simp [amoKinds, hw, and_assoc]
  | false => simp [amoKinds, hw, h6 hw, and_assoc]

theorem fireAtomic_of_fires {i : Instr} {a : AtomicArgs} {op : AmoOp} {three : Bool} (hthree : (slotsOf i).t = three) {s : State} {st : Site}
    {o : Operands} (hf : FiresNew i s st o) (hok : amoKinds (envOf st) o three = true) {parts : List (Nat × Part)} {lw : Nat}
    (hlw : amoLw (envOf st) o three = lw)
    (hprobe : s.probe st (amoNeed st op (2 ^ lw / 8)) ((amoLive (envOf st) o three).map (fun e => ⟨e, baseOf o.l e, 0, 2 ^ lw / 8⟩)) = .ok parts) :
    let ex := (st.ex.markFired st.f.idx).buffer st.f.idx (.atomic a.lsid.toNat op (2 ^ lw / 8) a.scope a.ord (amoVec o three)
      (parts.map (fun p => ⟨p.1, p.2.ptr, p.2.place, o.r.elem lw p.1, o.t.elem lw p.1⟩)))
    let nul := if amoVec o three then Token.vector lw (List.replicate (envOf st).vl none) else Token.nullScalar
    fireAtomic i a op s = .next ((st.put { s with free := s.free + 2 * (amoLive (envOf st) o three).length }
      (if parts = [] then ex.deliverAll st.f.idx nul (outsAt st.f.idx i) else ex.reserve st.f.idx nul (outsAt st.f.idx i))).settle st.f.c st.f.spec) := by
  delta amoNeed amoLive elemsOf amoVec at *
  intro ex nul
  obtain ⟨hf, hre⟩ := hf
  subst hthree
  have henv : st.ex.env st.x st.f.idx = envOf st := rfl
  have hlw' : (if amoWide o (slotsOf i).t = true then (envOf st).lsew else 6) = lw := hlw
  obtain ⟨hwidth, hkinds⟩ := amoKinds_iff.mp hok
  rw [hlw] at hwidth hkinds
  rw [fireAtomic, settled_fire hf]
  simp only [henv, hlw', if_neg hwidth, hkinds, Bool.not_true, Bool.false_eq_true, if_false, hre, hprobe, ex, nul]
  cases parts <;> cases o.l.wide || amoWide o (slotsOf i).t
  all_goals simp only [List.map_nil, List.map_cons, List.isEmpty_nil, List.isEmpty_cons, reduceCtorEq, Bool.false_eq_true, if_true, if_false]

theorem atomicsBuffer : AtomicsBuffer := by
  intro i a op three h s st o hf hok parts lw w hprobe ex nul
  obtain ⟨hexec, hthree⟩ := exec_amoForm h s
  rw [hexec]
  exact fireAtomic_of_fires hthree hf hok rfl hprobe

theorem storesBufferTheirBytes : StoresBufferTheirBytes := by
  refine ⟨?_, ?_, ?_, ?_, ?_⟩
  · exact fun _ _ h _ _ _ hf hok _ hprobe => exec_vecStoreForm h hf hok hprobe
  · intro i dev rel off h s st o hf hok
    obtain ⟨hexec, hused⟩ := exec_oneStoreForm h s
    rw [hexec]
    exact ⟨fun hopen _ hprobe => oneStore_of_open hf (hused o) hok hopen hprobe, fun hopen => oneStore_of_closed hf (hused o) hok hopen⟩
  · exact fun _ _ _ _ hf hok hn hlive _ hprobe => exec_stm_of_fires hf hok hn hlive hprobe
  · exact fun _ _ _ _ hf hok hopen hr hword _ hprobe => exec_stref_of_fires hf hok hopen hr hword hprobe
  · exact fun _ _ _ _ hf hx hok hopen _ hcheck => exec_stk_of_fires hf hx hok hopen hcheck

/-- Settles O11: a store or an atomic whose probe passes buffers its effect, whichever of the shared runs its form takes. -/
theorem storesAndAtomicsWaitForTheBelay : Obligations.StoresAndAtomicsWaitForTheBelay := ⟨storesBufferTheirBytes, atomicsBuffer⟩

end Sys2Proof.Machine

end

section

namespace Sys2Proof.Machine

open Sys2Proof.Claims

/-! ### Exits (R144 to R160) -/

/-- An exit whose plan is found fires, takes when it may, and acquires where it has seen DONE. -/
theorem fireExit_of_plan {i : Instr} {s : State} {st : Site} {o : Operands} (hf : Fires i s st o) (hok : wholeScalars i o = true)
    {f : Site → Operands → Except Raw ExitPlan} {p : ExitPlan} (h : f st o = .ok p) :
    fireExit i s f = .next (if p.acq then (st.put s (afterExit st (exitTaken i st o p.cond) p.fx)).acquireAt st.x.id .engine 0
      else st.put s (afterExit st (exitTaken i st o p.cond) p.fx)) := by
  have hok' : (predScalarOk o.p && (usedTokens i o).all okScalar) = true := hok
  rw [fireExit, fire_of_fires hf]
  simp only [hok', Bool.not_true, Bool.false_eq_true, if_false, h]
  rfl

theorem fireExit_of_error {i : Instr} {s : State} {st : Site} {o : Operands} (hf : Fires i s st o) (hok : wholeScalars i o = true)
    {f : Site → Operands → Except Raw ExitPlan} {r : Raw} (h : f st o = .error r) :
    fireExit i s f = .next (st.put s ((st.ex.raise st.f.idx r).reformed st.f.idx)) := by
  have hok' : (predScalarOk o.p && (usedTokens i o).all okScalar) = true := hok
  rw [fireExit, fire_of_fires hf]
  simp only [hok', Bool.not_true, Bool.false_eq_true, if_false, h]

/-- What a fired exit with the plan `p` leaves: the exit taken or not, or its fault. -/
def exitOut (i : Instr) (s : State) (st : Site) (o : Operands) : Except Raw (ExitFx × Bool) → Out
  | .ok (fx, cond) => .next (st.put s (afterExit st (exitTaken i st o cond) fx))
  | .error r => .next (st.put s ((st.ex.raise st.f.idx r).reformed st.f.idx))

/-- The model's plan of an exit that acquires nothing. -/
def plainPlan : Except Raw (ExitFx × Bool) → Except Raw ExitPlan
  | .ok (fx, cond) => .ok ⟨fx, cond, false⟩
  | .error r => .error r

theorem fireExit_eq_exitOut {i : Instr} {s : State} {st : Site} {o : Operands} (hf : Fires i s st o) (hok : wholeScalars i o = true)
    {f : Site → Operands → Except Raw ExitPlan} {p : Except Raw (ExitFx × Bool)} (h : f st o = plainPlan p) :
    fireExit i s f = exitOut i s st o p := by
  cases p with
  | ok q => exact fireExit_of_plan hf hok h
  | error r => exact fireExit_of_error hf hok h

theorem exec_exitPlan {i : Instr} {s : State} {st : Site} {o : Operands} (hf : Fires i s st o) (hok : wholeScalars i o = true)
    {p : Except Raw (ExitFx × Bool)} (h : exitPlan st o i = some p) : exec i s = exitOut i s st o p := by
  unfold exitPlan at h
  split at h <;> cases h
  next => rw [exec_br, execBr, fireExit_of_plan hf hok rfl]; rfl
  next => rw [exec_brCall, execBrCall, fireExit_of_plan hf hok rfl]; rfl
  next => rw [exec_brInd, execBrInd, fireExit_of_plan hf hok rfl]; rfl
  next => rw [exec_brRet, execBrRet, fireExit_of_plan hf hok rfl]; rfl
  next => rw [exec_brStrip, execBrStrip, fireExit_of_plan hf hok rfl]; rfl
  next a =>
    rw [exec_loop, execLoop, fireExit_eq_exitOut hf hok]
    rw [apply_ite plainPlan]
    cases hact : loopAct st.ex.img.lc[a.lvl.val] <;> by_cases hk : loopKind st.ex.img.lc[a.lvl.val] = 0 <;> simp [hact, hk, plainPlan]
  next a =>
    rw [exec_loopc, execLoopc, loopSetup, fireExit_eq_exitOut hf hok]
    simp only [apply_ite plainPlan, Bool.false_and, Bool.or_false]
    rfl
  next a =>
    rw [exec_loopw, execLoopw, loopSetup, fireExit_eq_exitOut hf hok]
    simp only [apply_ite plainPlan, Bool.true_and]
    rfl
  next => rw [exec_yield, execYield, fireExit_of_plan hf hok rfl]; rfl
  next =>
    rw [exec_rtp, execRtp, fireExit_eq_exitOut hf hok]
    cases st.ex.user <;> rfl
  next => rw [exec_fin, execFin, fireExit_of_plan hf hok rfl]; rfl

theorem exitsFire : ExitsFire := by
  intro i s st o hf hok p h
  have hexec := exec_exitPlan hf hok h
  split
  · exact hexec
  · exact hexec

/-- br.es on a slot: where it leads, and whether it has seen DONE (R153, R154). -/
theorem exec_brEs_of_slot {a : BrArgs} {s : State} {st : Site} {o : Operands} (hf : Fires (.brEs a) s st o) (hok : wholeScalars (.brEs a) o = true)
    (hn : o.l.isNull = false) (h : o.l.val < 8) {fx : ExitFx}
    (hfx : fx = if st.x.es[o.l.val] = (if a.f then EsState.fault else EsState.done) then .goto (st.target a.off.toInt) else .fall) :
    exec (.brEs a) s = .next (if st.x.es[o.l.val] = .done then (st.put s (afterExit st (exitTaken (.brEs a) st o true) fx)).acquireAt st.x.id .engine 0
      else st.put s (afterExit st (exitTaken (.brEs a) st o true) fx)) := by
  have hacq : (!o.l.isNull && st.x.es[o.l.val] == .done) = decide (st.x.es[o.l.val] = .done) := by
    rw [hn]; exact Bool.true_and _
  rw [exec_brEs, execBrEs, fireExit_of_plan hf hok (p := ⟨fx, true, decide (st.x.es[o.l.val] = .done)⟩)]
  · simp only [decide_eq_true_eq]
  · rw [dif_pos h]
    simp only [hacq, hfx]
    cases a.f <;> simp

theorem branchOnEngineSlot : BranchOnEngineSlot := by
  refine fun a s st o hf hok hn => ⟨?_, fun h8 => ?_⟩
  · intro h hit t
    exact exec_brEs_of_slot hf hok hn h rfl
  · rw [exec_brEs, execBrEs, fireExit_of_error hf hok]
    rw [dif_neg (by omega), if_neg (by simp [hn])]

/-- Settles O12: an exit that fires has the plan of its form, and br.es reads its slot. -/
theorem exitsAreTakenOnce : Obligations.ExitsAreTakenOnce := ⟨exitsFire, branchOnEngineSlot⟩

/-! ### Instructions that act as one whole (R427) -/

section Whole

variable {i : Instr} {s : State} {st : Site} {o : Operands} (hf : Fires i s st o)
  {run : Site → Operands → Except Raw (Option Effect × Option Token)} (hp : predScalarOk o.p = true)

include hf hp

theorem fireWhole_of_closed (hclosed : predOpen o.p 0 = false) :
    fireWhole i s run = .next (st.put s (st.withEffect i none (some Token.nullScalar))) := by
  rw [fireWhole, fire_of_fires hf]
  simp only [hp, hclosed, Bool.not_true, Bool.not_false, Bool.false_eq_true, if_false, if_true]

theorem fireWhole_of_ok (hopen : predOpen o.p 0 = true) {e : Option Effect} {t : Option Token} (h : run st o = .ok (e, t)) :
    fireWhole i s run = .next (st.put s (st.withEffect i e t)) := by
  rw [fireWhole, fire_of_fires hf]
  simp only [hp, hopen, Bool.not_true, Bool.false_eq_true, if_false, h]

theorem fireWhole_of_error (hopen : predOpen o.p 0 = true) {r : Raw} (h : run st o = .error r) :
    fireWhole i s run = .next (st.put s ((st.ex.raise st.f.idx r).reformed st.f.idx)) := by
  rw [fireWhole, fire_of_fires hf]
  simp only [hp, hopen, Bool.not_true, Bool.false_eq_true, if_false, h]

end Whole

/-- The model's outcome of an instruction that acts as one whole. -/
def wholePlan : Except Raw (Effect × Option Token) → Except Raw (Option Effect × Option Token)
  | .ok (e, t) => .ok (some e, t)
  | .error r => .error r

/-- What the instructions of `wholeEffect` share: one run, which is closed by the predicate and otherwise makes what the table says. -/
theorem exec_wholeEffect {i : Instr} {st : Site} {o : Operands} {p : Except Raw (Effect × Option Token)} (h : wholeEffect st o i = some p)
    (hok : wholeScalars i o = true) (s : State) : ∃ run, exec i s = fireWhole i s run
      ∧ ((usedTokens i o).all (fun t => !t.isNull) = true → run st o = wholePlan p) := by
  unfold wholeEffect at h
  split at h <;> cases h
  next => exact ⟨_, by rw [exec_waitc, execWaitc], fun _ => rfl⟩
  next => exact ⟨_, by rw [exec_trigger, execTrigger], fun _ => rfl⟩
  next => exact ⟨_, by rw [exec_setrecov, execSetrecov], fun _ => rfl⟩
  next => exact ⟨_, by rw [exec_bar, execBar], fun _ => rfl⟩
  next a =>
    refine ⟨_, by rw [exec_csrw, execCsrw], fun hn => ?_⟩
    have hl : okScalar o.l = true := by simpa [wholeScalars, usedTokens, slotsOf] using (Bool.and_eq_true_iff.mp hok).2
    have hn' : o.l.isNull = false := by simpa [usedTokens, slotsOf] using hn
    simp only [need_bind, hl, hn', if_true, Bool.false_eq_true, if_false]
    rw [apply_ite wholePlan, apply_ite wholePlan]
    have hrange : (!(decide (40 ≤ a.csr.toNat) && decide (a.csr.toNat ≤ 45) && decide (loopKind o.l.word = 3))) = true ↔
        ¬ (40 ≤ a.csr.toNat ∧ a.csr.toNat ≤ 45 ∧ loopKind o.l.word = 3) := by
      simp only [Bool.not_eq_true', ← Bool.not_eq_true, Bool.and_eq_true, decide_eq_true_eq, and_assoc]
    simp only [hrange, ite_not, Bool.not_eq_true', ← Bool.not_eq_true]
    rfl
  next a =>
    refine ⟨_, by rw [exec_esack, execEsack], fun hn => ?_⟩
    have hl : okScalar o.l = true := by simpa [wholeScalars, usedTokens, slotsOf] using (Bool.and_eq_true_iff.mp hok).2
    have hn' : o.l.isNull = false := by simpa [usedTokens, slotsOf] using hn
    simp only [need_bind, hl, hn', if_true, Bool.false_eq_true, if_false]
    rw [apply_ite wholePlan, apply_ite wholePlan]
    simp only [decide_eq_true_eq, ← Nat.not_le, ite_not]
    cases st.x.esAt.toList.getD o.l.val .idle <;> cases st.ex.bufs.any (fun b => b.1 ≠ st.f.idx && b.2 == .esack o.l.val) <;> simp [wholePlan]

theorem wholeEffectsBuffer : WholeEffectsBuffer := by
  refine ⟨?_, ?_⟩
  · intro i s st o hf hok p h
    obtain ⟨run, hexec, hrun⟩ := exec_wholeEffect h hok s
    have hp : predScalarOk o.p = true := (Bool.and_eq_true_iff.mp hok).1
    rw [hexec]
    refine ⟨fun hopen hn => ?_, fireWhole_of_closed hf hp⟩
    specialize hrun hn
    split
    · exact fireWhole_of_ok hf hp hopen hrun
    · exact fireWhole_of_error hf hp hopen hrun
  · intro a s st o hf hp
    rw [exec_fence, execFence]
    cases hopen : predOpen o.p 0 with
    | true => rw [fireWhole_of_ok hf hp hopen rfl, settled_next hf.1]; rfl
    | false => rw [fireWhole_of_closed hf hp hopen, settled_next hf.1]; rfl

/-! ### csrr (R161) -/

theorem csrReads : CsrReads := by
  intro a s st o hf hp
  rw [exec_csrr, execCsrr, fire_of_fires hf]
  simp only [hp, Bool.not_true, Bool.false_eq_true, if_false, complete_okTok]
  refine ⟨fun hclosed => ?_, fun hopen hsup huser => ?_, fun hopen hfree => ?_⟩
  · simp only [hclosed, Bool.not_false, if_true]
  · simp only [hopen, hsup, huser, Bool.not_true, Bool.false_eq_true, if_false, Bool.and_true, if_true]
  · have hmode : (csrSup a.csr.toNat && st.ex.user) = false := by
      rcases hfree with h | h <;> simp [h]
    simp only [hopen, hmode, Bool.not_true, Bool.false_eq_true, if_false]
    have hdone : (decide (a.csr.toNat = 0x40) && st.x.es.toList.any (· == .done)) = true ↔ a.csr = 0x40 ∧ EsState.done ∈ st.x.es.toList := by
      have hnum : a.csr.toNat = 0x40 ↔ a.csr = 0x40 := BitVec.toNat_inj (y := 0x40)
      simp only [Bool.and_eq_true, decide_eq_true_eq, List.any_eq_true, beq_iff_eq, exists_eq_right, hnum]
    simp only [hdone]

/-- Settles O13: an instruction that acts as one whole makes the effect of its table entry, and csrr delivers its register. -/
theorem controlEffectsWaitForTheBelay : Obligations.ControlEffectsWaitForTheBelay := ⟨wholeEffectsBuffer, csrReads⟩

end Sys2Proof.Machine

end

section

namespace Sys2Proof.Machine

open Sys2Proof.Claims

/-! ### Engine commands as they fire (R219, R221) -/

/-- The machine after a command that passes its check: its effect is buffered with the es slot allotted to it, or there is none. -/
def State.allotCmd (s : State) (st : Site) (i : Instr) (kind : CmdKind) (pri len : Nat) (p : Word × Word) : Option Nat → State
  | none => st.put s ((st.ex.raise st.f.idx (Raw.of .esFull)).reformed st.f.idx)
  | some k => st.put s ((slotted st k).withEffect i (some (.cmd ⟨kind, pri, p.1, p.2, len, k, st.ex.user⟩)) (some (Token.scalar k)))

section FireCommand

variable {i : Instr} {kind : CmdKind} {pri len : Nat} {s : State} {st : Site} {o : Operands} {check : Site → Operands → Except Raw (Word × Word)}
  (hf : Fires i s st o) (hok : wholeScalars i o = true)

include hf hok

theorem fireCmd_of_closed (hclosed : wholeOpen i o = false) :
    fireCmd i kind pri len s check = .next (st.put s (st.withEffect i none (some Token.nullScalar))) := by
  have hok' : (predScalarOk o.p && (usedTokens i o).all okScalar) = true := hok
  rw [fireCmd, fire_of_fires hf]
  simp only [hok', skip_eq_not_wholeOpen, hclosed, Bool.not_true, Bool.not_false, Bool.false_eq_true, if_false, if_true]

theorem fireCmd_of_error (hopen : wholeOpen i o = true) {r : Raw} (h : check st o = .error r) :
    fireCmd i kind pri len s check = .next (st.put s ((st.ex.raise st.f.idx r).reformed st.f.idx)) := by
  have hok' : (predScalarOk o.p && (usedTokens i o).all okScalar) = true := hok
  rw [fireCmd, fire_of_fires hf]
  simp only [hok', skip_eq_not_wholeOpen, hopen, Bool.not_true, Bool.false_eq_true, if_false, h]

theorem fireCmd_of_ok (hopen : wholeOpen i o = true) {p : Word × Word} (h : check st o = .ok p) :
    fireCmd i kind pri len s check = .next (s.allotCmd st i kind pri len p (cmdSlot st)) := by
  have hok' : (predScalarOk o.p && (usedTokens i o).all okScalar) = true := hok
  rw [fireCmd, fire_of_fires hf]
  simp only [hok', skip_eq_not_wholeOpen, hopen, Bool.not_true, Bool.false_eq_true, if_false, h]
  rfl

theorem fireCmd_of_full (hopen : wholeOpen i o = true) {p : Word × Word} (h : check st o = .ok p) (hslot : cmdSlot st = none) :
    fireCmd i kind pri len s check = .next (st.put s ((st.ex.raise st.f.idx (Raw.of .esFull)).reformed st.f.idx)) := by
  rw [fireCmd_of_ok hf hok hopen h, hslot, State.allotCmd]

theorem fireCmd_of_slot (hopen : wholeOpen i o = true) {p0 p1 : Word} (h : check st o = .ok (p0, p1)) {k : Nat} (hslot : cmdSlot st = some k) :
    fireCmd i kind pri len s check = .next (st.put s ((slotted st k).withEffect i (some (.cmd ⟨kind, pri, p0, p1, len, k, st.ex.user⟩))
      (some (Token.scalar k)))) := by
  rw [fireCmd_of_ok hf hok hopen h, hslot, State.allotCmd]

end FireCommand

theorem cmdPtr_bind {α : Type} (spaces : List Nat) (al : Nat) (p : Word) (f : Unit → Except Raw α) :
    (cmdPtr spaces al p >>= f) = if !(spaces.contains (spaceOf p) && decide (p.toNat % al = 0)) then .error ⟨.cmdOperand, 0, none, some p⟩ else f () := by
  unfold cmdPtr
  cases spaces.contains (spaceOf p) && decide (p.toNat % al = 0) <;> rfl

/-- Each engine command is the shared firing with the check of its table entry. -/
theorem exec_cmdForm {i : Instr} {s : State} {st : Site} {o : Operands} {kind : CmdKind} {pri len : Nat} {p : Except Raw (Word × Word)}
    (h : cmdForm s st o i = some (kind, pri, len, p)) : ∃ check, exec i s = fireCmd i kind pri len s check ∧ check st o = p := by
  unfold cmdForm at h
  split at h <;> cases h
  next =>
    refine ⟨_, by rw [exec_cpy, execCpy], ?_⟩
    simp only [cmdPtr_bind]
  next => exact ⟨_, by rw [exec_cpyRec, execCpyRec, fireRecord], rfl⟩
  next => exact ⟨_, by rw [exec_cpy2, execCpy2, fireRecord], rfl⟩
  next => exact ⟨_, by rw [exec_cpy3, execCpy3, fireRecord], rfl⟩
  next => exact ⟨_, by rw [exec_cpyg, execCpyg, fireRecord], rfl⟩
  next => exact ⟨_, by rw [exec_cpyr, execCpyr, fireRecord], rfl⟩
  next => exact ⟨_, by rw [exec_cpyx, execCpyx, fireRecord], rfl⟩
  next => exact ⟨_, by rw [exec_meshInit, execMeshInit, fireRecord], rfl⟩
  next => exact ⟨_, by rw [exec_meshAdapt, execMeshAdapt, fireRecord], rfl⟩
  next => exact ⟨_, by rw [exec_nbrStream, execNbrStream, fireRecord], rfl⟩
  next => exact ⟨_, by rw [exec_colBuild, execColBuild, fireRecord], rfl⟩
  next => exact ⟨_, by rw [exec_meshFree, execMeshFree, fireRecord], rfl⟩
  next => exact ⟨_, by rw [exec_mcx, execMcx, fireRecord], rfl⟩
  next => exact ⟨_, by rw [exec_lbCut, execLbCut, fireRecord], rfl⟩
  next => exact ⟨_, by rw [exec_lbMigrate, execLbMigrate, fireRecord], rfl⟩
  next => exact ⟨_, by rw [exec_ghostSync, execGhostSync, fireRecord], rfl⟩
  next => exact ⟨_, by rw [exec_rgLoad, execRgLoad], by cases st.ex.user <;> rfl⟩
  next => exact ⟨_, by rw [exec_hpEpoch, execHpEpoch], by cases st.ex.user <;> rfl⟩
  next =>
    refine ⟨_, by rw [exec_hpRelocate, execHpRelocate], ?_⟩
    simp only [need_bind, bne_iff_ne, ite_not, Bool.or_eq_true, Bool.and_eq_true, decide_eq_true_eq, or_assoc]

theorem commandsBuffer : CommandsBuffer := by
  intro i s st o hf hok kind pri len p h
  obtain ⟨check, hexec, hcheck⟩ := exec_cmdForm h
  rw [hexec]
  refine ⟨fireCmd_of_closed hf hok, fun hopen p0 p1 hp => ⟨fun k hslot => ?_, fun hslot => ?_⟩, fun hopen r hp => ?_⟩
  · exact fireCmd_of_slot hf hok hopen (hcheck.trans hp) hslot
  · exact fireCmd_of_full hf hok hopen (hcheck.trans hp) hslot
  · exact fireCmd_of_error hf hok hopen (hcheck.trans hp)

/-! ### Requests to the router, a mesh's home and the card units as they fire (R243, R297, R318) -/

section FireRequest

variable {i : Instr} {s : State} {st : Site} {o : Operands} (hf : Fires i s st o) (hok : wholeScalars i o = true)

include hf hok

theorem fireOp_of_closed {check : Site → Operands → Except Raw Effect} (hclosed : wholeOpen i o = false) :
    fireOp i s check = .next (st.put s (st.withEffect i none (some Token.nullScalar))) := by
  have hok' : (predScalarOk o.p && (usedTokens i o).all okScalar) = true := hok
  rw [fireOp, fire_of_fires hf]
  simp only [hok', skip_eq_not_wholeOpen, hclosed, Bool.not_true, Bool.not_false, Bool.false_eq_true, if_false, if_true]

theorem fireOp_of_error {check : Site → Operands → Except Raw Effect} (hopen : wholeOpen i o = true) {r : Raw} (h : check st o = .error r) :
    fireOp i s check = .next (st.put s ((st.ex.raise st.f.idx r).reformed st.f.idx)) := by
  have hok' : (predScalarOk o.p && (usedTokens i o).all okScalar) = true := hok
  rw [fireOp, fire_of_fires hf]
  simp only [hok', skip_eq_not_wholeOpen, hopen, Bool.not_true, Bool.false_eq_true, if_false, h]

theorem fireOp_of_ok {check : Site → Operands → Except Raw Effect} (hopen : wholeOpen i o = true) {e : Effect} (h : check st o = .ok e) :
    fireOp i s check = .next (st.put s (asks i st e)) := by
  have hok' : (predScalarOk o.p && (usedTokens i o).all okScalar) = true := hok
  rw [fireOp, fire_of_fires hf]
  simp only [hok', skip_eq_not_wholeOpen, hopen, Bool.not_true, Bool.false_eq_true, if_false, h]
  rfl

theorem fireCard_of_ok {check : Site → Operands → Except Raw (List Word)} {req : Operands → List Part → OpReq} (hopen : wholeOpen i o = true)
    {ps : List Word} (h : check st o = .ok ps) {parts : List (Nat × Part)}
    (hprobe : s.probe st (cardNeeds st) (ps.map (fun p => ⟨0, p, 0, 8⟩)) = .ok parts) :
    fireCard i s check req = .next (st.put { s with free := s.free + 2 * ps.length } (asks i st
      (.op (req o (parts.map (·.2))) (parts.filterMap (fun p => p.2.place.hold))))) := by
  have hok' : (predScalarOk o.p && (usedTokens i o).all okScalar) = true := hok
  have hwords : s.probeWords st ps = .ok (parts.map (·.2)) := by
    simp only [State.probeWords]
    erw [hprobe]
    rfl
  rw [fireCard, fire_of_fires hf]
  simp only [hok', skip_eq_not_wholeOpen, hopen, Bool.not_true, Bool.false_eq_true, if_false, h, hwords, List.filterMap_map]
  rfl

end FireRequest

theorem fireMeshOp_eq_fireOp (i : Instr) (s : State) (req : Operands → OpReq) : fireMeshOp i s req = fireOp i s (fun _ o => .ok (.op (req o) [])) := rfl

theorem rtNeed_bind {α : Type} (sub : Nat) (t : Token) (b : Bool) (f : Unit → Except Raw α) :
    (rtNeed sub t b >>= f) = if b then f () else .error ⟨.routerOperand, sub, none, some t.word⟩ := need_bind _ _ _

/-- Each router command, mesh.open and mesh.close is the shared firing with the check of its table entry. -/
theorem exec_opForm {i : Instr} {st : Site} {o : Operands} {p : Except Raw Effect} (h : opForm st o i = some p) (s : State) :
    ∃ check, exec i s = fireOp i s check ∧ check st o = p := by
  unfold opForm at h
  split at h <;> cases h
  next =>
    refine ⟨_, by rw [exec_rtDecl, execRtDecl], ?_⟩
    simp only [rtNeed_bind, Bool.and_eq_true, Bool.or_eq_true, decide_eq_true_eq]
  next =>
    refine ⟨_, by rw [exec_rtPush, execRtPush], ?_⟩
    simp only [rtNeed_bind]
  next =>
    refine ⟨_, by rw [exec_rtTake, execRtTake], ?_⟩
    simp only [rtNeed_bind, decide_eq_true_eq]
  next =>
    refine ⟨_, by rw [exec_rtDone, execRtDone], ?_⟩
    simp only [rtNeed_bind, Bool.and_eq_true, decide_eq_true_eq, ite_not, ← Nat.not_le]
  next =>
    refine ⟨_, by rw [exec_rtStat, execRtStat], ?_⟩
    simp only [rtNeed_bind, decide_eq_true_eq]
  next => exact ⟨_, by rw [exec_rtDrain, execRtDrain], rfl⟩
  next =>
    refine ⟨_, by rw [exec_rtSeed, execRtSeed], ?_⟩
    simp only [rtNeed_bind, decide_eq_true_eq]
  next => exact ⟨_, by rw [exec_meshOpen, execMeshOpen, fireMeshOp_eq_fireOp], rfl⟩
  next => exact ⟨_, by rw [exec_meshClose, execMeshClose, fireMeshOp_eq_fireOp], rfl⟩

theorem unitRequestsBuffer : UnitRequestsBuffer := by
  intro i s st o hf hok p h
  obtain ⟨check, hexec, hcheck⟩ := exec_opForm h s
  rw [hexec]
  refine ⟨fireOp_of_closed hf hok, fun hopen => ?_⟩
  split
  · exact fireOp_of_ok hf hok hopen hcheck
  · exact fireOp_of_error hf hok hopen hcheck

/-! ### Cards, futures and jobs as they fire (R297) -/

theorem cardNeed_bind {α : Type} (sub : Nat) (t : Token) (b : Bool) (f : Unit → Except Raw α) :
    (cardNeed sub t b >>= f) = if b then f () else .error ⟨.cardOperand, sub, none, some t.word⟩ := need_bind _ _ _

theorem word_toNat (t : Token) : t.word.toNat = t.val := BitVec.toNat_ofNat _ _

theorem cardInstructionsBuffer : CardInstructionsBuffer := by
  refine ⟨?_, ?_, ?_, ?_, ?_⟩
  · intro a s st o hf hok hopen hhigh hown hcard parts hprobe
    rw [exec_cardPost, execCardPost]
    refine fireCard_of_ok hf hok hopen (ps := [o.l.word]) ?_ hprobe
    have hown' : (selOwn o.r.val && decide (natBits o.r.val 0 9 ≠ 0)) = false := by
      rw [Bool.eq_false_iff]; simpa only [Ne, Bool.and_eq_true, decide_eq_true_eq] using hown
    simp only [cardNeed_bind, need_bind, hhigh, hown', word_toNat, decide_true, Bool.not_false, Bool.and_true, if_true]
    cases hpeer : selPeer o.r.val with
    | true =>
      simp only [hpeer, if_true] at hcard
      obtain ⟨hspace, hchip, halign, hgroup⟩ := hcard
      simp [hspace, hchip, halign, hgroup]
    | false =>
      simp only [hpeer, Bool.false_eq_true, if_false] at hcard
      simp [hcard]
  · intro a s st o hf hok hopen hcard parts hprobe
    rw [exec_cardSig, execCardSig]
    refine fireCard_of_ok hf hok hopen (ps := [o.l.word]) ?_ hprobe
    simp only [cardNeed_bind, hcard, if_true]
  · intro a s st o hf hok hopen hfut hcard hlow hkind p q hprobe
    rw [exec_futWait, execFutWait]
    refine fireCard_of_ok hf hok hopen (ps := [o.l.word, o.r.word]) ?_ hprobe
    simp only [cardNeed_bind, hfut, hcard, hlow, hkind, decide_true, Bool.and_true, if_true]
  · intro a s st o hf hok hopen hfut p hprobe
    rw [exec_futSet, execFutSet]
    refine fireCard_of_ok hf hok hopen (ps := [o.l.word]) ?_ hprobe
    simp only [cardNeed_bind, hfut, if_true]
  · intro a s st o hf hok hopen hlow hhigh
    rw [exec_jobq, execJobq, fireCard_of_ok hf hok hopen (ps := []) ?_ (probe_nil _ _ _)]
    · rfl
    · simp only [cardNeed_bind, decide_eq_true hlow, decide_eq_true hhigh, Bool.and_true, if_true]

/-! ### Heap operations as they fire (R344 to R347) -/

theorem fireHeap_of_ok {i : Instr} {s : State} {st : Site} {o : Operands} (hf : Fires i s st o) (hok : wholeScalars i o = true)
    (hopen : wholeOpen i o = true) {check : Site → Operands → Except Raw Unit}
    {probe : Site → Operands → Except (List (Nat × ElemFault)) (Option Place × List Hold)} {req : Operands → Option Place → OpReq}
    (h : check st o = .ok ()) {p : Option Place} {hs : List Hold} (hprobe : probe st o = .ok (p, hs)) :
    fireHeap i s check probe req = .next (st.put { s with free := s.free + 2 } (asks i st (.op (req o p) hs))) := by
  have hok' : (predScalarOk o.p && (usedTokens i o).all okScalar) = true := hok
  rw [fireHeap, fire_of_fires hf]
  simp only [hok', skip_eq_not_wholeOpen, hopen, Bool.not_true, Bool.false_eq_true, if_false, h, hprobe]
  rfl

theorem fireHeap_of_error {i : Instr} {s : State} {st : Site} {o : Operands} (hf : Fires i s st o) (hok : wholeScalars i o = true)
    (hopen : wholeOpen i o = true) {check : Site → Operands → Except Raw Unit}
    {probe : Site → Operands → Except (List (Nat × ElemFault)) (Option Place × List Hold)} {req : Operands → Option Place → OpReq}
    {r : Raw} (h : check st o = .error r) :
    fireHeap i s check probe req = .next (st.put s ((st.ex.raise st.f.idx r).reformed st.f.idx)) := by
  have hok' : (predScalarOk o.p && (usedTokens i o).all okScalar) = true := hok
  rw [fireHeap, fire_of_fires hf]
  simp only [hok', skip_eq_not_wholeOpen, hopen, Bool.not_true, Bool.false_eq_true, if_false, h]

theorem need_of_true {b : Bool} (h : b = true) (r : Raw) : need b r = .ok () := by rw [need, if_pos h]
theorem need_of_false {b : Bool} (h : b = false) (r : Raw) : need b r = .error r := by rw [need, h]; rfl

/-- The probe of refeq leaves a null reference alone. -/
theorem probeUnlessNull_bind {α : Type} {s : State} {user : Bool} {w : Word} {hs : List Hold}
    (h : if w = 0 then hs = [] else s.probeRef user w = .ok hs) (f : List Hold → Except (List (Nat × ElemFault)) α) :
    (if w = 0 then (.ok [] : Except (List (Nat × ElemFault)) (List Hold)) >>= f else s.probeRef user w >>= f) = f hs := by
  split at h
  next hw => rw [if_pos hw, h]; rfl
  next hw => rw [if_neg hw, h]; rfl

theorem heapInstructionsBuffer : HeapInstructionsBuffer := by
  refine ⟨?_, ?_, ?_, ?_⟩
  · intro a s st o hf hok hopen
    rw [exec_pin, execPin]
    refine ⟨fun h0 => fireHeap_of_error hf hok hopen (need_of_false (by simp [h0]) _),
      fun h0 hs hprobe => fireHeap_of_ok hf hok hopen (p := none) (need_of_true (by simpa using h0) _) ?_⟩
    rw [hprobe]; rfl
  · intro a s st o hf hok hopen
    rw [exec_unpin, execUnpin]
    refine ⟨fun h0 => fireHeap_of_error hf hok hopen (need_of_false (by simp [h0]) _),
      fun h0 hs hprobe => fireHeap_of_ok hf hok hopen (p := none) (need_of_true (by simpa using h0) _) ?_⟩
    rw [hprobe]; rfl
  · intro a s st o hf hok hopen ha hb hpa hpb
    rw [exec_refeq, execRefeq]
    exact fireHeap_of_ok hf hok hopen (p := none) rfl ((probeUnlessNull_bind hpa _).trans (probeUnlessNull_bind hpb _))
  · intro a s st o hf hok hopen hsize hspace hword halign hcolour hlow k p q hplace hprobe
    rw [exec_hpMake, execHpMake]
    rw [fireHeap_of_ok hf hok hopen (p := some q.2.place) (hs := p.hold.toList ++ q.2.place.hold.toList)]
    · rfl
    · have hspace' : (decide (spaceOf o.l.word = 0) || decide (spaceOf o.l.word = 1)) = true := by simpa using hword
      simp only [need_bind, hspace, halign, hcolour, hlow, hspace', decide_true, Bool.and_true, if_true, bne_iff_ne, ne_eq, hsize, not_false_eq_true]
      exact need_of_true rfl _
    · simp only [hplace]
      erw [hprobe]
      rfl

end Sys2Proof.Machine

end

section

namespace Sys2Proof.Machine

/-! ### What the register writes and the exit of a pitch may change in a strand (R18, R146) -/

/-- A strand with the register files of another. -/
def Ctx.withRegs (x y : Ctx) : Ctx := { x with x := y.x, v := y.v, m := y.m, d := y.d, k := y.k }

/-- A strand with what the csrw writes and the exit of a pitch may change taken from another: control registers, loops and where it goes. -/
def Ctx.withFlow (x y : Ctx) : Ctx :=
  { x with
    sb := y.sb, sn := y.sn, vl := y.vl, sc := y.sc, lp := y.lp, lm := y.lm, ls := y.ls, lc := y.lc, ff := y.ff, fr := y.fr, fx := y.fx, fe := y.fe
    sl := y.sl, sq := y.sq, sk := y.sk, next := y.next, retStack := y.retStack, offered := y.offered, retiring := y.retiring }

theorem Ctx.withRegs_self (x : Ctx) : x.withRegs x = x := rfl
theorem Ctx.withFlow_self (x : Ctx) : x.withFlow x = x := rfl
theorem Ctx.withFlow_withFlow (x y z : Ctx) : (x.withFlow y).withFlow z = x.withFlow z := rfl

theorem Ctx.writeReg_withRegs (x y : Ctx) (vl lsew reg : Nat) (t : Token) :
    (x.withRegs y).writeReg vl lsew reg t = x.withRegs (y.writeReg vl lsew reg t) := by
  simp only [Ctx.writeReg, apply_ite (Ctx.withRegs x), apply_dite (Ctx.withRegs x)]
  rfl

theorem Ctx.applyWrite_withRegs (x y : Ctx) (w : RegWrite) : (x.withRegs y).applyWrite w = x.withRegs (y.applyWrite w) := by
  cases w with
  | slot reg t vl lsew => exact x.writeReg_withRegs y vl lsew reg t
  | addX reg v =>
    simp only [Ctx.applyWrite, apply_ite (Ctx.withRegs x), apply_dite (Ctx.withRegs x)]
    rfl

theorem Ctx.applyWrites_withRegs (x y : Ctx) (ws : List RegWrite) : (x.withRegs y).applyWrites ws = x.withRegs (y.applyWrites ws) := by
  induction ws generalizing y with
  | nil => rfl
  | cons w ws ih =>
    rw [Ctx.applyWrites, List.foldl_cons, Ctx.applyWrite_withRegs]
    exact ih (y.applyWrite w)

/-- Register writes change the register files only. -/
theorem Ctx.applyWrites_eq (x : Ctx) (ws : List RegWrite) : x.applyWrites ws = x.withRegs (x.applyWrites ws) := x.applyWrites_withRegs x ws

theorem Ctx.csrPut_eq (x : Ctx) (n : Nat) (v : Word) : x.csrPut n v = x.withFlow (x.csrPut n v) := by
  conv_rhs => simp only [Ctx.csrPut, apply_ite (Ctx.withFlow x), apply_dite (Ctx.withFlow x)]
  rfl

theorem Ctx.takeExit_eq (y : Ctx) (ex : Exec) (fx : ExitFx) : (y.takeExit ex fx).1 = y.withFlow (y.takeExit ex fx).1 := by
  cases fx
  case strip d =>
    conv_rhs => simp only [Ctx.takeExit, apply_ite Prod.fst, apply_ite (Ctx.withFlow y)]
    simp only [Ctx.takeExit, apply_ite Prod.fst]
    rfl
  case loopClose l leave d =>
    conv_rhs => simp only [Ctx.takeExit, apply_dite Prod.fst, apply_ite Prod.fst, apply_dite (Ctx.withFlow y), apply_ite (Ctx.withFlow y)]
    simp only [Ctx.takeExit, apply_dite Prod.fst, apply_ite Prod.fst]
    rfl
  case loopSet l isWhile xreg trip stride d =>
    conv_rhs => simp only [Ctx.takeExit, apply_dite Prod.fst, apply_dite (Ctx.withFlow y)]
    simp only [Ctx.takeExit, apply_dite Prod.fst]
    rfl
  all_goals rfl

theorem Ctx.foldl_withFlow {α : Type} {f : Ctx → α → Ctx} (hf : ∀ y a, f y a = y.withFlow (f y a)) (l : List α) (x : Ctx) :
    l.foldl f x = x.withFlow (l.foldl f x) := by
  induction l generalizing x with
  | nil => rfl
  | cons a l ih =>
    rw [List.foldl_cons, ih (f x a), hf x a]
    rfl

theorem Ctx.csrWrites_eq (x : Ctx) (ex : Exec) : x.csrWrites ex = x.withFlow (x.csrWrites ex) := by
  refine Ctx.foldl_withFlow (fun y b => ?_) ex.inOrder x
  split
  · exact y.csrPut_eq _ _
  · rfl

/-- What the end of a pitch makes of its strand differs from it in control registers, loops and where it goes. -/
theorem Ctx.afterPitch_eq (x : Ctx) (ex : Exec) (fx : ExitFx) : (x.afterPitch ex fx).1 = x.withFlow (x.afterPitch ex fx).1 := by
  have h : ((x.csrWrites ex).takeExit ex fx).1 = x.withFlow ((x.csrWrites ex).takeExit ex fx).1 := by
    rw [Ctx.takeExit_eq, x.csrWrites_eq ex]
    rfl
  unfold Ctx.afterPitch
  dsimp only
  rw [h]
  rfl

end Sys2Proof.Machine

end

section

namespace Sys2Proof.Machine

open Sys2Proof.Claims

/-! ### The two invariants of a step, each as a statement about memory and the strands -/

/-- The invariants that every step keeps: the canonical form of memory, or SUP equal to INTRAP in every strand (R13, R31). -/
inductive Inv
  | canonical | mode

/-- Memory is as the invariant asks. -/
def MemOk (k : Inv) (m : List Host.Cell) : Prop := k = .canonical → Memory.wf m = true

/-- A strand is as the invariant asks. -/
def CtxOk (k : Inv) (x : Ctx) : Prop := k = .mode → x.sup = x.intrap

/-- The strands are as the invariant asks. -/
def CtxsOk (k : Inv) (l : List Ctx) : Prop := ∀ x ∈ l, CtxOk k x

/-- The invariant holds of a state. -/
def Sound (k : Inv) (s : State) : Prop := MemOk k s.mem ∧ CtxsOk k s.ctxs

/-- It holds of the state that an outcome leads to. -/
def OutSound (k : Inv) (o : Out) : Prop := ∀ t, o = .next t → Sound k t

/-- It holds of the state, if there is one. -/
def SomeSound (k : Inv) (o : Option State) : Prop := ∀ t, o = some t → Sound k t

theorem sound_canonical {s : State} : Sound .canonical s ↔ s.Canonical :=
  ⟨fun h => h.1 rfl, fun h => ⟨fun _ => h, fun _ _ hk => nomatch hk⟩⟩

theorem sound_mode {s : State} : Sound .mode s ↔ ModeInv s :=
  ⟨fun h x hx => h.2 x hx rfl, fun h => ⟨fun hk => (nomatch hk), fun x hx _ => h x hx⟩⟩

variable {k : Inv}

/-! ### Strands -/

section Strand

variable {x y : Ctx}

/-- Only a strand's mode and trap bits count. -/
theorem CtxOk.of_eq (h : CtxOk k x) (hs : y.sup = x.sup) (hi : y.intrap = x.intrap) : CtxOk k y := fun hk => hs.trans ((h hk).trans hi.symm)

theorem ctxOk_congr (hs : y.sup = x.sup) (hi : y.intrap = x.intrap) : CtxOk k y ↔ CtxOk k x :=
  ⟨fun h => h.of_eq hs.symm hi.symm, fun h => h.of_eq hs hi⟩

@[simp] theorem ctxOk_mk {id core slot place job ctxno pri tiles frame te spill wins xs vs ms ds ks scale sb sn vl sc lp lm ls lc fc fa fb ff fr es esAt fx fe
    sl sup intrap pc sq sk acqEpoch next waits retiring cur spec pend stts charged retStack triggered offered activeSince wantSpill fillTo blockSeen fresh
    refill saved image mismatch} :
    CtxOk k ⟨id, core, slot, place, job, ctxno, pri, tiles, frame, te, spill, wins, xs, vs, ms, ds, ks, scale, sb, sn, vl, sc, lp, lm, ls, lc, fc, fa, fb, ff,
      fr, es, esAt, fx, fe, sl, sup, intrap, pc, sq, sk, acqEpoch, next, waits, retiring, cur, spec, pend, stts, charged, retStack, triggered, offered,
      activeSince, wantSpill, fillTo, blockSeen, fresh, refill, saved, image, mismatch⟩ ↔ (k = .mode → sup = intrap) := Iff.rfl

@[simp] theorem ctxOk_bits (x : Ctx) : (k = .mode → x.sup = x.intrap) ↔ CtxOk k x := Iff.rfl

@[simp] theorem ctxOk_withRegs : CtxOk k (x.withRegs y) ↔ CtxOk k x := ctxOk_congr rfl rfl
@[simp] theorem ctxOk_withFlow : CtxOk k (x.withFlow y) ↔ CtxOk k x := ctxOk_congr rfl rfl

@[simp] theorem ctxOk_putExec (spec : Bool) (ex : Exec) : CtxOk k (x.putExec spec ex) ↔ CtxOk k x := by cases spec <;> exact ctxOk_congr rfl rfl

@[simp] theorem ctxOk_setEs (n : Nat) (e : EsState) : CtxOk k (x.setEs n e) ↔ CtxOk k x := by
  unfold Ctx.setEs
  split <;> exact ctxOk_congr rfl rfl

@[simp] theorem Ctx.retireError_sup (x : Ctx) : x.retireError.sup = x.sup := rfl
@[simp] theorem Ctx.retireError_intrap (x : Ctx) : x.retireError.intrap = x.intrap := rfl

@[simp] theorem ctxOk_retireError : CtxOk k x.retireError ↔ CtxOk k x := ctxOk_congr x.retireError_sup x.retireError_intrap

@[simp] theorem Ctx.discard_sup (x : Ctx) (f : FaultRec) : (x.discard f).sup = x.sup := by
  unfold Ctx.discard
  by_cases h : x.intrap = true ∨ x.fr = 0
  · rw [if_pos h, Ctx.retireError_sup]
  · rw [if_neg h]

@[simp] theorem Ctx.discard_intrap (x : Ctx) (f : FaultRec) : (x.discard f).intrap = x.intrap := by
  unfold Ctx.discard
  by_cases h : x.intrap = true ∨ x.fr = 0
  · rw [if_pos h, Ctx.retireError_intrap]
  · rw [if_neg h]

@[simp] theorem ctxOk_discard (f : FaultRec) : CtxOk k (x.discard f) ↔ CtxOk k x := ctxOk_congr (x.discard_sup f) (x.discard_intrap f)

@[simp] theorem ctxOk_spillError (c : Cause) (fa : Word) (detail : Nat) : CtxOk k (x.spillError c fa detail) ↔ CtxOk k x := ctxOk_congr rfl rfl

@[simp] theorem ctxOk_restore (fr : List Byte) : CtxOk k (x.restore fr) := fun _ => rfl

@[simp] theorem ctxOk_initial {id core slot : Nat} {place : Where} {job : Job} {ctxno pri : Nat} {tiles : List Nat} {ws : List Word} {xr : List (Nat × Word)}
    {seed : Word} {now : Nat} : CtxOk k (Ctx.initial id core slot place job ctxno pri tiles ws xr seed now) := fun _ => rfl

@[simp] theorem ctxOk_applyWrites (ws : List RegWrite) : CtxOk k (x.applyWrites ws) ↔ CtxOk k x := by
  rw [Ctx.applyWrites_eq, ctxOk_withRegs]

@[simp] theorem ctxOk_afterPitch (ex : Exec) (fx : ExitFx) : CtxOk k (x.afterPitch ex fx).1 ↔ CtxOk k x := by
  rw [Ctx.afterPitch_eq, ctxOk_withFlow]

@[simp] theorem ctxOk_flushAfter (waiting ps : List PendPitch) : CtxOk k (x.flushAfter waiting ps) ↔ CtxOk k x := by
  induction ps generalizing x waiting with
  | nil => exact ctxOk_congr rfl rfl
  | cons p ps ih =>
    unfold Ctx.flushAfter
    split
    · rw [ih, ctxOk_applyWrites]
    · exact ih _

@[simp] theorem ctxOk_flushPend (ps : List PendPitch) : CtxOk k (x.flushPend ps) ↔ CtxOk k x := ctxOk_flushAfter _ _

@[simp] theorem ctxOk_resolve (id : Nat) (tok : Nat → Option Token) : CtxOk k (x.resolve id tok) ↔ CtxOk k x := ctxOk_flushPend _

@[simp] theorem ctxOk_lateFault (m : Nat) (f : FaultRec) : CtxOk k (x.lateFault m f) ↔ CtxOk k x := by
  have hflush : CtxOk k (x.flushPend (x.pend.filter (fun p => !p.awaits.any (fun a => a.1 = m)))) ↔ CtxOk k x := ctxOk_flushPend _
  unfold Ctx.lateFault
  dsimp only
  generalize x.flushPend _ = y at hflush
  split
  · exact ctxOk_mk.trans hflush
  · rw [ctxOk_discard]; exact ctxOk_mk.trans hflush
  · exact ctxOk_mk.trans hflush
  · exact ctxOk_mk.trans hflush

@[simp] theorem ctxOk_feedSpec : CtxOk k x.feedSpec ↔ CtxOk k x := by
  unfold Ctx.feedSpec
  split <;> exact ctxOk_congr rfl rfl

theorem ctxOk_foldl {α : Type} {f : Ctx → α → Ctx} (hf : ∀ z a, CtxOk k (f z a) ↔ CtxOk k z) (l : List α) : CtxOk k (l.foldl f x) ↔ CtxOk k x := by
  induction l generalizing x with
  | nil => exact ctxOk_congr rfl rfl
  | cons a l ih => rw [List.foldl_cons, ih, hf]

@[simp] theorem ctxOk_esAfter (ex : Exec) : CtxOk k (x.esAfter ex) ↔ CtxOk k x := by
  refine ctxOk_foldl (fun z b => ?_) ex.inOrder
  split <;> simp

@[simp] theorem ctxOk_commit (ex : Exec) (fx : ExitFx) (b : Belay) (waitcs : List Wait) : CtxOk k (x.commit ex fx b waitcs) ↔ CtxOk k x := by
  unfold Ctx.commit
  rw [ctxOk_flushPend, ctxOk_esAfter]
  exact ctxOk_afterPitch ex fx

@[simp] theorem ctxOk_putCtx (st : Site) (ex : Exec) : CtxOk k (st.putCtx ex) ↔ CtxOk k st.x := by
  unfold Site.putCtx
  split <;> exact ctxOk_congr rfl rfl

end Strand

/-! ### States -/

section States

variable {s t : State} {x : Ctx}

/-- The invariant speaks of memory and of the strands only. -/
theorem Sound.of_eq (h : Sound k s) (hm : t.mem = s.mem) (hc : t.ctxs = s.ctxs) : Sound k t := by
  unfold Sound; rw [hm, hc]; exact h

@[simp] theorem sound_mk {chip now nextId free agenda firing ctxs gone cores net early cmds mem poison tlbs dies msix heaps heapE launches running sched rounds
    jcairns clusters meshes pairs xdie fab} :
    Sound k ⟨chip, now, nextId, free, agenda, firing, ctxs, gone, cores, net, early, cmds, mem, poison, tlbs, dies, msix, heaps, heapE, launches, running,
      sched, rounds, jcairns, clusters, meshes, pairs, xdie, fab⟩ ↔ MemOk k mem ∧ CtxsOk k ctxs := Iff.rfl

@[simp] theorem Sound.mem (h : Sound k s) : MemOk k s.mem := h.1
@[simp] theorem Sound.ctxs (h : Sound k s) : CtxsOk k s.ctxs := h.2

theorem Sound.ctx? (h : Sound k s) {c : Nat} (hx : s.ctx? c = some x) : CtxOk k x := h.2 x (List.mem_of_find?_eq_some hx)
theorem Sound.find (h : Sound k s) {p : Ctx → Bool} (hx : s.ctxs.find? p = some x) : CtxOk k x := h.2 x (List.mem_of_find?_eq_some hx)

@[simp] theorem ctxsOk_filter {l : List Ctx} (h : CtxsOk k l) (p : Ctx → Bool) : CtxsOk k (l.filter p) := fun x hx => h x (List.mem_of_mem_filter hx)
@[simp] theorem ctxsOk_append {l m : List Ctx} : CtxsOk k (l ++ m) ↔ CtxsOk k l ∧ CtxsOk k m := List.forall_mem_append
@[simp] theorem ctxsOk_cons {l : List Ctx} : CtxsOk k (x :: l) ↔ CtxOk k x ∧ CtxsOk k l := List.forall_mem_cons
@[simp] theorem ctxsOk_nil : CtxsOk k [] := List.forall_mem_nil _

theorem ctxsOk_map {l : List Ctx} (h : CtxsOk k l) {f : Ctx → Ctx} (hf : ∀ x, CtxOk k x → CtxOk k (f x)) : CtxsOk k (l.map f) := by
  intro y hy
  obtain ⟨x, hx, rfl⟩ := List.mem_map.mp hy
  exact hf x (h x hx)

/-- Many steps, each of which keeps the invariant, keep it. -/
theorem Sound.foldl {α : Type} {f : State → α → State} (h : Sound k s) (hf : ∀ t a, Sound k t → Sound k (f t a)) (l : List α) :
    Sound k (l.foldl f s) := by
  induction l generalizing s with
  | nil => exact h
  | cons a l ih => exact ih (hf s a h)

@[simp] theorem outSound_next : OutSound k (.next t) ↔ Sound k t := ⟨fun h => h t rfl, fun h _ ht => by cases ht; exact h⟩
@[simp] theorem outSound_fault (f : Fault) : OutSound k (.fault f) := fun _ ht => by cases ht
@[simp] theorem outSound_refused (r : Refusal) : OutSound k (.refused r) := fun _ ht => by cases ht
@[simp] theorem someSound_some : SomeSound k (some t) ↔ Sound k t := ⟨fun h => h t rfl, fun h _ ht => by cases ht; exact h⟩
@[simp] theorem someSound_none : SomeSound k none := fun _ ht => by cases ht

/-- Memory keeps its canonical form under writes. -/
@[simp] theorem Sound.store (h : Sound k s) (a : Nat) (bs : List (Byte × Byte)) : Sound k (s.store a bs) :=
  ⟨fun hk => store_canonical (h.mem hk) a bs, h.ctxs⟩

@[simp] theorem Sound.setCtx (h : Sound k s) (hx : CtxOk k x) : Sound k (s.setCtx x) := by
  refine ⟨h.mem, ctxsOk_map h.ctxs (fun y hy => ?_)⟩
  split
  · exact hx
  · exact hy

end States

end Sys2Proof.Machine

end

section

namespace Sys2Proof.Machine

open Sys2Proof.Claims

variable {k : Inv}

section States

variable {s : State}

/-- A strand that is put back with its mode and trap bits keeps the invariant. -/
theorem Sound.setFound (h : Sound k s) {c : Nat} {x y : Ctx} (hx : s.ctx? c = some x) (hs : y.sup = x.sup) (hi : y.intrap = x.intrap) :
    Sound k (s.setCtx y) :=
  h.setCtx ((h.ctx? hx).of_eq hs hi)

/-- The invariant does not speak of the free values of a run. -/
theorem Sound.withFree (h : Sound k s) (n : Nat) : Sound k { s with free := n } := h

/-- Nor of the requests in flight. -/
theorem Sound.withNet (h : Sound k s) (l : List Msg) (n : Nat) : Sound k { s with net := l, nextId := n } := h

/-- Either branch keeps the invariant. -/
theorem Sound.either {p : Prop} [Decidable p] {a b : State} (ha : Sound k a) (hb : Sound k b) : Sound k (if p then a else b) := by
  split
  · exact ha
  · exact hb


@[simp] theorem Sound.poke (h : Sound k s) (a n v : Nat) : Sound k (s.poke a n v) := by
  simp [State.poke, h]

@[simp] theorem Sound.setTlb (h : Sound k s) (j : Nat) (v : Tlb) : Sound k (s.setTlb j v) := h

@[simp] theorem Sound.setCore (h : Sound k s) (n : Nat) (c : CoreSt) : Sound k (s.setCore n c) := h

@[simp] theorem Sound.setDie (h : Sound k s) (d : Nat) (r : DieRegs) : Sound k (s.setDie d r) := h

@[simp] theorem Sound.sendIn (h : Sound k s) (grp : Nat) (src : Src) (cls : Nat) (b : Body) : Sound k (s.sendIn grp src cls b) := h

@[simp] theorem Sound.send (h : Sound k s) (src : Src) (cls : Nat) (b : Body) : Sound k (s.send src cls b) := h

@[simp] theorem Sound.sendAll (h : Sound k s) (src : Src) (cls : Nat) (bs : List Body) : Sound k (s.sendAll src cls bs) :=
  h.foldl (fun t b ht => by simp [ht]) bs

@[simp] theorem Sound.notePassed (h : Sound k s) (m : Msg) : Sound k (s.notePassed m) := by
  unfold State.notePassed
  repeat' split
  all_goals simp [h]

@[simp] theorem Sound.setMsg (h : Sound k s) (m : Msg) : Sound k (s.setMsg m) := h

@[simp] theorem Sound.dropMsg (h : Sound k s) (id : Nat) : Sound k (s.dropMsg id) := h

@[simp] theorem Sound.answer (h : Sound k s) (m : Msg) (r : Resp) : Sound k (s.answer m r) := h

@[simp] theorem Sound.put {st : Site} (h : Sound k s) (hst : CtxOk k st.x) (ex : Exec) : Sound k (st.put s ex) := by
  simp [Site.put, h, hst]

@[simp] theorem Sound.sendFrame (h : Sound k s) (c : Nat) (ps : List (Nat × Word × Hold)) (bs : List Byte) : Sound k (s.sendFrame c ps bs) := by
  induction ps generalizing s bs with
  | nil => exact h
  | cons p ps ih => exact ih (h.send ..) _

@[simp] theorem Sound.takeTrap {x : Ctx} (h : Sound k s) (hx : CtxOk k x) (ex : Exec) (f : FaultRec) : Sound k (s.takeTrap x ex f) := by
  unfold State.takeTrap
  generalize fcWord f true true x.sup = fc
  split
  · refine h.setCtx ?_
    rw [ctxOk_retireError]
    exact hx.of_eq rfl rfl
  split
  · simp [h, hx]
  · dsimp only
    generalize fcWord f true false x.sup = fc'
    split
    · simp [h, hx]
    · exact (h.setCtx (fun _ => rfl)).sendFrame _ _ _

/-- A strand whose return from a trap fails keeps its mode, and so keeps the invariant. -/
theorem ctxOk_failedReturn {x : Ctx} (hx : CtxOk k x) (fc fa : Word) : CtxOk k ({ x with fc := fc, fa := fa } : Ctx).retireError := by
  rw [ctxOk_retireError]
  exact hx.of_eq rfl rfl

@[simp] theorem Sound.returnFromTrap {x : Ctx} (h : Sound k s) (hx : CtxOk k x) : Sound k (s.returnFromTrap x) := by
  unfold State.returnFromTrap
  dsimp only
  repeat' split
  iterate 3 exact h.setCtx (ctxOk_failedReturn hx _ _)
  iterate 3 exact Sound.setCtx h (fun _ => rfl)

@[simp] theorem Sound.setHeap (h : Sound k s) (j : Nat) (a : HeapHome) : Sound k (s.setHeap j a) := h

@[simp] theorem Sound.raiseEpoch (h : Sound k s) (core : Nat) : Sound k (s.raiseEpoch core) := by
  unfold State.raiseEpoch
  dsimp only
  split
  · refine ⟨h.mem, ctxsOk_map h.ctxs (fun y hy => ?_)⟩
    split <;> exact hy
  · simp [h]

@[simp] theorem Sound.acquire (h : Sound k s) (c : Nat) : Sound k (s.acquire c) := by
  unfold State.acquire
  split
  · exact h
  · rename_i x _
    have h1 : Sound k (s.raiseEpoch x.core) := h.raiseEpoch x.core
    dsimp only
    split
    next y hy => exact h1.setFound hy rfl rfl
    · exact h1

@[simp] theorem Sound.acquireCrew (h : Sound k s) (c ep : Nat) : Sound k (s.acquireCrew c ep) := by
  unfold State.acquireCrew
  split
  · exact h
  next x hx => exact h.setFound hx rfl rfl

@[simp] theorem Sound.acquireAt (h : Sound k s) (c : Nat) (sc : Scope) (ep : Nat) : Sound k (s.acquireAt c sc ep) := by
  unfold State.acquireAt
  repeat' split
  all_goals simp [h]

@[simp] theorem Sound.acquireBy (h : Sound k s) (m : Msg) : Sound k (s.acquireBy m) := by
  unfold State.acquireBy
  dsimp only
  split <;> simp [h]

@[simp] theorem Sound.noteWrite (h : Sound k s) (m : Msg) (key n : Nat) : Sound k (s.noteWrite m key n) := by
  unfold State.noteWrite
  dsimp only
  repeat' split
  all_goals simp [h]

@[simp] theorem Sound.noteSent (h : Sound k s) (c : Nat) (m : Msg) : Sound k (s.noteSent c m) := by
  unfold State.noteSent
  dsimp only
  repeat' split
  all_goals simp [h]

@[simp] theorem Sound.sendRead (h : Sound k s) (grp c cls : Nat) (b : Body) : Sound k (s.sendRead grp c cls b) := by
  unfold State.sendRead
  dsimp only
  refine Sound.noteSent ?_ _ _
  split
  · exact (h.withNet _ _).acquireBy _
  · exact h

@[simp] theorem Sound.sendReads (h : Sound k s) (c cls : Nat) (bs : List Body) : Sound k (s.sendReads c cls bs) :=
  h.foldl (fun _ b ht => ht.sendRead s.nextId c cls b) bs

@[simp] theorem Sound.sendLoad {x : Ctx} (h : Sound k s) (hx : CtxOk k x) (spec : Bool) (ex : Exec) (ld : LoadRec) :
    Sound k (s.sendLoad x spec ex ld) := by
  have hput (e : Exec) : CtxOk k (x.putExec spec e) := (ctxOk_putExec spec e).mpr hx
  have hfree (n : Nat) (e : Exec) : Sound k ({ s with free := n }.setCtx (x.putExec spec e)) := (h.withFree n).setCtx (hput e)
  unfold State.sendLoad
  split
  · split
    · exact h.setCtx (hput _)
    · dsimp only
      split
      · exact h.setCtx (hput _)
      · exact (h.setCtx (hput _)).sendAll _ _ _
  · dsimp only
    generalize elemFaults _ = l
    cases l with
    | nil => exact (hfree _ _).sendReads _ _ _
    | cons f l => exact hfree _ _

@[simp] theorem Sound.settle (h : Sound k s) (c : Nat) (spec : Bool) : Sound k (s.settle c spec) := by
  refine h.foldl (fun t l ht => ?_) _
  repeat' split
  any_goals exact ht
  exact ht.sendLoad (ht.ctx? ‹_›) _ _ _

/-! ### Instructions that fire -/

/-- The strand that an instruction fires in is one of the state's. -/
theorem Sound.site (h : Sound k s) {st : Site} (hs : s.site = some st) : CtxOk k st.x := by
  unfold State.site at hs
  obtain ⟨f, -, hs⟩ := Option.bind_eq_some_iff.mp hs
  obtain ⟨x, hx, hs⟩ := Option.bind_eq_some_iff.mp hs
  cases hf : f.spec <;> simp only [hf, Bool.false_eq_true, if_true, if_false] at hs <;> obtain ⟨ex, -, hs⟩ := Option.bind_eq_some_iff.mp hs <;>
    cases hs
  · exact h.ctx? hx
  · exact ctxOk_feedSpec.mpr (h.ctx? hx)

/-- An instruction that fires keeps the invariant when what it does with its operands does. -/
theorem OutSound.fire (h : Sound k s) (i : Instr) {run : Site → Operands → State} (hrun : ∀ st o, CtxOk k st.x → Sound k (run st o)) :
    OutSound k (fire i s run) := by
  unfold Machine.fire
  cases hs : s.site with
  | none => simp
  | some st =>
    have hst : CtxOk k st.x := h.site hs
    dsimp only
    repeat' split
    all_goals simp [h, hst, hrun]

@[simp] theorem OutSound.fireTok (h : Sound k s) (i : Instr) (f : Env → Operands → OpOut) : OutSound k (fireTok i s f) :=
  OutSound.fire h i (fun _ _ hst => h.put hst _)

@[simp] theorem OutSound.settled {o : Out} (ho : OutSound k o) : OutSound k (settled s o) := by
  cases o with
  | next t =>
    have ht : Sound k t := outSound_next.mp ho
    unfold Machine.settled
    dsimp only
    split <;> simp [ht]
  | fault f => exact outSound_fault f
  | refused r => exact outSound_refused r

@[simp] theorem OutSound.fireLoad (h : Sound k s) (i : Instr) (plan : Site → Operands → Except Raw LoadRec) : OutSound k (fireLoad i s plan) := by
  refine OutSound.settled (OutSound.fire h i (fun st o hst => ?_))
  split
  · exact h.put hst _
  · exact Sound.either (h.put hst _) (h.put hst _)

@[simp] theorem OutSound.fireStore (h : Sound k s) (i : Instr) (plan : Site → Operands → Except Raw StorePlan) : OutSound k (fireStore i s plan) := by
  refine OutSound.settled (OutSound.fire h i (fun st o hst => ?_))
  split
  · exact h.put hst _
  · dsimp only
    split
    · exact h.put hst _
    · exact (h.withFree _).put hst _

@[simp] theorem OutSound.fireExit (h : Sound k s) (i : Instr) (f : Site → Operands → Except Raw ExitPlan) : OutSound k (fireExit i s f) := by
  refine OutSound.fire h i (fun st o hst => ?_)
  refine Sound.either (h.put hst _) ?_
  split
  · exact h.put hst _
  · exact Sound.either ((h.put hst _).acquireAt _ _ _) (h.put hst _)

@[simp] theorem OutSound.fireWhole (h : Sound k s) (i : Instr) (run : Site → Operands → Except Raw (Option Effect × Option Token)) :
    OutSound k (fireWhole i s run) := by
  refine OutSound.fire h i (fun st o hst => Sound.either (h.put hst _) (Sound.either (h.put hst _) ?_))
  split <;> exact h.put hst _

@[simp] theorem OutSound.fireCmd (h : Sound k s) (i : Instr) (kind : CmdKind) (pri len : Nat) (check : Site → Operands → Except Raw (Word × Word)) :
    OutSound k (fireCmd i kind pri len s check) := by
  refine OutSound.fire h i (fun st o hst => Sound.either (h.put hst _) (Sound.either (h.put hst _) ?_))
  split
  · exact h.put hst _
  · dsimp only
    repeat' split
    all_goals exact h.put hst _

@[simp] theorem OutSound.fireOp (h : Sound k s) (i : Instr) (check : Site → Operands → Except Raw Effect) : OutSound k (fireOp i s check) := by
  refine OutSound.fire h i (fun st o hst => Sound.either (h.put hst _) (Sound.either (h.put hst _) ?_))
  split <;> exact h.put hst _

@[simp] theorem OutSound.fireCard (h : Sound k s) (i : Instr) (check : Site → Operands → Except Raw (List Word)) (req : Operands → List Part → OpReq) :
    OutSound k (fireCard i s check req) := by
  refine OutSound.fire h i (fun st o hst => Sound.either (h.put hst _) (Sound.either (h.put hst _) ?_))
  split
  · exact h.put hst _
  split
  · exact h.put hst _
  · exact (h.withFree _).put hst _

@[simp] theorem OutSound.fireHeap (h : Sound k s) (i : Instr) (check : Site → Operands → Except Raw Unit)
    (probe : Site → Operands → Except (List (Nat × ElemFault)) (Option Place × List Hold)) (req : Operands → Option Place → OpReq) :
    OutSound k (fireHeap i s check probe req) := by
  refine OutSound.fire h i (fun st o hst => Sound.either (h.put hst _) (Sound.either (h.put hst _) ?_))
  split
  · exact h.put hst _
  split
  · exact h.put hst _
  · exact (h.withFree _).put hst _

@[simp] theorem Sound.fpTwo (h : Sound k s) (i : Instr) (o : FpArgs) (f : Desc → FVal → FVal → FVal × Flags) :
    OutSound k (Machine.fpTwo i o f s) := OutSound.fireTok h _ _

@[simp] theorem Sound.fpOne (h : Sound k s) (i : Instr) (o : FpArgs) (f : Desc → FVal → FVal × Flags) : OutSound k (Machine.fpOne i o f s) :=
  OutSound.fireTok h _ _

@[simp] theorem Sound.fpThree (h : Sound k s) (i : Instr) (o : FpArgs) (negProd negC : Bool) : OutSound k (Machine.fpThree i o negProd negC s) :=
  OutSound.fireTok h _ _

@[simp] theorem Sound.fpCompare (h : Sound k s) (i : Instr) (o : FpArgs) (quiet : Bool) (f : FVal → FVal → Bool) :
    OutSound k (Machine.fpCompare i o quiet f s) := OutSound.fireTok h _ _

@[simp] theorem Sound.vecLoad (h : Sound k s) (i : Instr) (ws : MemW) (kind : LoadKind) (req : LoadReq) (ok : Env → Operands → Bool)
    (base : Operands → Nat → Word) (delta : Operands → Nat → Int) : OutSound k (Machine.vecLoad i ws kind req ok base delta s) := OutSound.fireLoad h _ _

@[simp] theorem Sound.oneLoad (h : Sound k s) (i : Instr) (kind : LoadKind) (req : LoadReq) (off : Int) :
    OutSound k (Machine.oneLoad i kind req off s) := OutSound.fireLoad h _ _

@[simp] theorem Sound.refLoad (h : Sound k s) (i : Instr) (o : LoadXArgs) (heal : Bool) : OutSound k (Machine.refLoad i o heal s) := by
  refine OutSound.settled (OutSound.fire h i (fun st v hst => Sound.either (h.put hst _) (Sound.either (h.put hst _) ?_)))
  have hgo (n : Nat) (ex : Exec) : Sound k (st.put { s with free := n } ex) := (h.withFree n).put hst ex
  refine Sound.either (Sound.either (hgo _ _) ?_) (Sound.either (h.put hst _) (Sound.either (hgo _ _) ?_))
  all_goals
    split
    · exact h.put hst _
    · exact hgo _ _

@[simp] theorem Sound.vecStore (h : Sound k s) (i : Instr) (ws : MemW) (ok : Env → Operands → Bool) (base : Operands → Nat → Word)
    (delta : Operands → Nat → Int) : OutSound k (Machine.vecStore i ws ok base delta s) := OutSound.fireStore h _ _

@[simp] theorem Sound.oneStore (h : Sound k s) (i : Instr) (dev : Bool) (rel : Option Scope) (off : Int) :
    OutSound k (Machine.oneStore i dev rel off s) := OutSound.fireStore h _ _

@[simp] theorem Sound.fireRefStore {st : Site} (h : Sound k s) (hst : CtxOk k st.x) (i : Instr) (ref : Word) (off : Int) (span w : Nat)
    (els : List (Nat × Int × List Byte)) : Sound k (Machine.fireRefStore i s st ref off span w els) := by
  unfold Machine.fireRefStore
  dsimp only
  repeat' split
  all_goals exact h.put hst _

@[simp] theorem Sound.fireAtomic (h : Sound k s) (i : Instr) (a : AtomicArgs) (op : AmoOp) : OutSound k (Machine.fireAtomic i a op s) := by
  refine OutSound.settled (OutSound.fire h i (fun st o hst => Sound.either (h.put hst _) (Sound.either (h.put hst _) ?_)))
  dsimp only
  split
  · exact h.put hst _
  · exact (h.withFree _).put hst _

@[simp] theorem Sound.loopSetup (h : Sound k s) (i : Instr) (o : LoopSetArgs) (isWhile : Bool) : OutSound k (Machine.loopSetup i o isWhile s) :=
  OutSound.fireExit h _ _

@[simp] theorem Sound.storePlace (h : Sound k s) (p : Place) (d : List (Byte × Byte)) : Sound k (s.storePlace p d) := by
  unfold State.storePlace
  split <;> simp [h]

@[simp] theorem Sound.postRecord (h : Sound k s) (d : Nat) (rec : List Byte) : Sound k (s.postRecord d rec) := by
  unfold State.postRecord
  dsimp only
  repeat' split
  all_goals simp [h]

@[simp] theorem Sound.setSched (h : Sound k s) (d : Nat) (x : DieSched) : Sound k (s.setSched d x) := h

@[simp] theorem Sound.jobUpd (h : Sound k s) (d j : Nat) (f : JobCount → JobCount) : Sound k (s.jobUpd d j f) := by
  unfold State.jobUpd
  split <;> simp [h]

@[simp] theorem Sound.jobRise (h : Sound k s) (d j : Nat) (f : JobCount → JobCount) : Sound k (s.jobRise d j f) := by
  simp [State.jobRise, h]

@[simp] theorem Sound.tcInc (h : Sound k s) (d j : Nat) : Sound k (s.tcInc d j) := by
  simp [State.tcInc, h]

@[simp] theorem Sound.tcDec (h : Sound k s) (d j : Nat) : Sound k (s.tcDec d j) := by
  simp [State.tcDec, h]

@[simp] theorem Sound.qcInc (h : Sound k s) (d j : Nat) : Sound k (s.qcInc d j) := by
  simp [State.qcInc, h]

@[simp] theorem Sound.qcDec (h : Sound k s) (d j : Nat) : Sound k (s.qcDec d j) := by
  simp [State.qcDec, h]

@[simp] theorem Sound.sendSignal (h : Sound k s) (d : Nat) (src : Option SigSrc) (card : Word) (err : Bool) :
    Sound k (s.sendSignal d src card err) := by
  simp [State.sendSignal, h]

@[simp] theorem Sound.postCard (h : Sound k s) (d : Nat) (c : Cause) (src : Option SigSrc) (addr : Word) (detail : Nat) :
    Sound k (s.postCard d c src addr detail) := by
  simp [State.postCard, h]

@[simp] theorem Sound.signalList (h : Sound k s) (d : Nat) (src : Option SigSrc) (err : Bool) (fuel head : Nat) :
    Sound k (s.signalList d src err fuel head) := by
  induction fuel generalizing s head with
  | zero => exact h
  | succ fuel ih =>
    refine Sound.either h ?_
    dsimp only
    split
    · exact h.sendSignal _ _ _ _
    · exact ih ((h.poke _ _ _).sendSignal _ _ _ _) _

@[simp] theorem Sound.endCard (h : Sound k s) (id : Nat) (err : Bool) : Sound k (s.endCard id err) := h

@[simp] theorem Sound.endWork (h : Sound k s) (d : Nat) (w : DoneWork) : Sound k (s.endWork d w) := by
  unfold State.endWork
  split <;> simp [h]

@[simp] theorem Sound.doneFail (h : Sound k s) (d : Nat) (p : Word) (w : DoneWork) (c : Cause) (detail : Nat) :
    Sound k (s.doneFail d p w c detail) := by
  simp [State.doneFail, h]

@[simp] theorem Sound.sendDone (h : Sound k s) (d : Nat) (p : Word) (at_ : Place) (fut : Bool) (cseq : Word) (err : Bool) (w : DoneWork) :
    Sound k (s.sendDone d p at_ fut cseq err w) := h

@[simp] theorem Sound.done (h : Sound k s) (wins : List ScrWindow) (user fut : Bool) (d : Nat) (p cseq : Word) (err : Bool) (w : DoneWork) :
    Sound k (s.done wins user fut d p cseq err w) := by
  unfold State.done
  split <;> simp [h]

@[simp] theorem Sound.cairn (h : Sound k s) (d : Nat) (p cseq : Word) (err : Bool) (w : DoneWork) : Sound k (s.cairn d p cseq err w) := by
  unfold State.cairn
  split <;> simp [h]

@[simp] theorem Sound.cairnIfValid (h : Sound k s) (d : Nat) (p cseq launch : Word) : Sound k (s.cairnIfValid d p cseq launch) := by
  unfold State.cairnIfValid
  repeat' split
  all_goals simp [h]

@[simp] theorem Sound.setLink (h : Sound k s) (l : Nat) (c : LinkSt) : Sound k (s.setLink l c) := h

@[simp] theorem Sound.fabPut (h : Sound k s) (l vc : Nat) (f : FlitIn) : Sound k (s.fabPut l vc f) := by
  unfold State.fabPut
  split <;> simp [h]

@[simp] theorem Sound.fabSend (h : Sound k s) (chip vc : Nat) (type : FlitType) (pay : Pay) : Sound k (s.fabSend chip vc type pay) := by
  unfold State.fabSend
  split <;> simp [h]

@[simp] theorem Sound.fabRecord (h : Sound k s) (c : Option LinkSt) (slot : Nat) (c1 : Cause) (detail : Nat) :
    Sound k (s.fabRecord c slot c1 detail) := by
  simp [State.fabRecord, h]

theorem Sound.askPeer (h : Sound k s) (m : Msg) (chip : Nat) (pay : Pay) {lost : State → State} (hlost : ∀ t, Sound k t → Sound k (lost t)) :
    SomeSound k (s.askPeer m chip pay lost) := by
  unfold State.askPeer
  split
  · exact someSound_some.mpr (hlost _ (h.fabRecord _ _ _ _))
  · split
    · exact someSound_none
    · exact someSound_some.mpr (h.fabSend _ _ _ _)

@[simp] theorem Sound.reply (h : Sound k s) (m : Msg) (r : Resp) : Sound k (s.reply m r) := by
  unfold State.reply
  split <;> simp [h]

@[simp] theorem Sound.answerPeer (h : Sound k s) (v : Served) (code : Nat) (d : List Byte) : Sound k (s.answerPeer v code d) := by
  unfold State.answerPeer
  dsimp only
  split <;> simp [h]

@[simp] theorem Sound.answerFor (h : Sound k s) (m : Msg) (r : Resp) : Sound k (s.answerFor m r) := by
  unfold State.answerFor
  split <;> simp [h]

@[simp] theorem Sound.sendInvals (h : Sound k s) (m : Nat) (cs : List PeerCopy) : Sound k (s.sendInvals m cs) := by
  refine h.foldl (fun t c ht => Sound.fabSend ?_ _ _ _ _) cs
  exact ht

@[simp] theorem Sound.unitWrite {t : State} (h : Sound k s) (ht : Sound k t) (a : Agent) (event : String) : OutSound k (s.unitWrite t a event) := by
  unfold State.unitWrite
  dsimp only
  repeat' split
  all_goals simp [h, ht]

@[simp] theorem Sound.fireRecord (h : Sound k s) (i : Instr) (a : CmdArgs) (kind : CmdKind) : OutSound k (Machine.fireRecord i a kind s) :=
  OutSound.fireCmd h _ _ _ _ _

@[simp] theorem Sound.setCmd (h : Sound k s) (c : Cmd) : Sound k (s.setCmd c) := h

@[simp] theorem Sound.cmdFault (h : Sound k s) (c : Cmd) (f : FaultRec) : Sound k (s.cmdFault c f) := h

@[simp] theorem Sound.cmdBegin (h : Sound k s) (c0 : Cmd) : Sound k (s.cmdBegin c0) := by
  have hgrans {s : State} (ht : Sound k s) (id : Nat) (l : List ((Word × Int) × (Word × Int))) :
      Sound k (l.foldl (fun t g => t.send (.cmd id) 15 (.gran id g.1.1 g.1.2 g.2.1 g.2.2 none)) s) :=
    ht.foldl (fun _ _ hu => hu.send _ _ _) l
  refine Sound.either (hgrans ?_ c0.id _) (Sound.either h ?_)
  · exact h
  split
  · refine Sound.cmdFault ?_ _ _
    exact h
  · refine Sound.either (Sound.cmdFault ?_ _ _) (hgrans ?_ c0.id _) <;> exact h

@[simp] theorem Sound.doneAct (h : Sound k s) (c : Cmd) (err : Bool) : Sound k (s.doneAct c err) := by
  unfold State.doneAct
  split <;> simp [h]

theorem Sound.strandOf (h : Sound k s) {c : Cmd} {x : Ctx} (hx : c.ctx.bind s.ctx? = some x) : CtxOk k x := by
  obtain ⟨id, -, hx⟩ := Option.bind_eq_some_iff.mp hx
  exact h.ctx? hx

@[simp] theorem Sound.cmdDone (h : Sound k s) (c : Cmd) (err : Bool) : Sound k (s.cmdDone c err) := by
  have h1 : Sound k { s with cmds := s.cmds.filter (fun d => d.id ≠ c.id), net := s.net.filterMap (Msg.outlives c err) } := h
  refine Sound.doneAct (Sound.either h1 ?_) _ _
  split
  · next x hx => exact h1.setCtx ((ctxOk_setEs _ _).mpr (h1.strandOf hx))
  · exact h1

@[simp] theorem Sound.slotFaults (h : Sound k s) (c : Cmd) : Sound k (s.slotFaults c) := by
  refine Sound.either h ?_
  split
  · next x hx => exact h.setCtx ((ctxOk_setEs _ _).mpr (h.strandOf hx))
  · exact h

@[simp] theorem Sound.dropTransfer (h : Sound k s) (cmd : Nat) : Sound k (s.dropTransfer cmd) := h

@[simp] theorem Sound.granStep (h : Sound k s) (m : Msg) (c : Cmd) (src : Word) (sd : Int) (dst : Word) (dd : Int) (data : Option (List Byte)) :
    Sound k (s.granStep m c src sd dst dd data) := by
  unfold State.granStep
  repeat' split
  all_goals simp [h]

@[simp] theorem Sound.setMesh (h : Sound k s) (m : MeshHome) : Sound k (s.setMesh m) := h

@[simp] theorem Sound.dropMesh (h : Sound k s) (p : Word) : Sound k (s.dropMesh p) := h

/-! ### What the engines do to memory -/

/-- An engine's work keeps the invariant where it leaves a state. -/
def EngOk (k : Inv) {α : Type} (e : Eng α) : Prop := ∀ s a t, Sound k s → s.runEng e = .ok (a, t) → Sound k t

section Engine

variable {α β : Type}

@[simp] theorem engOk_pure (a : α) : EngOk k (pure a : Eng α) := by
  intro s b t h heq
  cases heq
  exact h

@[simp] theorem engOk_throw (f : FaultRec) : EngOk k (throw f : Eng α) := by
  intro s b t _ heq
  cases heq

theorem engOk_bind {e : Eng α} {f : α → Eng β} (he : EngOk k e) (hf : ∀ a, EngOk k (f a)) : EngOk k (e >>= f) := by
  intro s b t h heq
  change (e s >>= fun p => f p.1 p.2) = .ok (b, t) at heq
  cases hs : e s with
  | error x => rw [hs] at heq; cases heq
  | ok p =>
    rw [hs] at heq
    exact hf p.1 p.2 b t (he s p.1 p.2 h hs) heq

@[simp] theorem engOk_map {e : Eng α} (he : EngOk k e) (f : α → β) : EngOk k (f <$> e) := engOk_bind he (fun a => engOk_pure (f a))

theorem engOk_ite {p : Prop} [Decidable p] {a b : Eng α} (ha : EngOk k a) (hb : EngOk k b) : EngOk k (if p then a else b) := by
  split
  · exact ha
  · exact hb

/-- A change of the free values alone. -/
theorem engOk_free (g : State → Nat) {f : State → Eng α} (hf : ∀ s, EngOk k (f s)) :
    EngOk k (do let s ← get; set { s with free := g s }; f s) := by
  intro s a t h heq
  exact hf s { s with free := g s } a t h heq

theorem engOk_forM {l : List α} {f : α → Eng PUnit} (hf : ∀ a, EngOk k (f a)) : EngOk k (l.forM f) := by
  induction l with
  | nil => exact engOk_pure _
  | cons a l ih => exact engOk_bind (hf a) (fun _ => ih)

theorem engOk_foldlM {l : List α} {f : β → α → Eng β} (hf : ∀ b a, EngOk k (f b a)) (b : β) : EngOk k (l.foldlM f b) := by
  induction l generalizing b with
  | nil => exact engOk_pure _
  | cons a l ih => exact engOk_bind (hf b a) ih

theorem engOk_mapM {l : List α} {f : α → Eng β} (hf : ∀ a, EngOk k (f a)) : EngOk k (l.mapM f) := by
  induction l with
  | nil => exact engOk_pure _
  | cons a l ih =>
    rw [List.mapM_cons]
    exact engOk_bind (hf a) (fun _ => engOk_bind ih (fun _ => engOk_pure _))

/-- A work that reads the state and leaves it. -/
theorem engOk_of_reads {e : Eng α} (he : ∀ s a t, e s = .ok (a, t) → t = s) : EngOk k e := fun s a t h heq => he s a t heq ▸ h

@[simp] theorem engOk_engRead (c : Cmd) (w n : Nat) (base : Word) (d : Int) : EngOk k (engRead c w n base d) := by
  refine engOk_of_reads (fun s a t heq => ?_)
  unfold engRead at heq
  split at heq <;> cases heq
  rfl

@[simp] theorem engOk_engNum (c : Cmd) (w : Nat) (base : Word) (d : Int) : EngOk k (engNum c w base d) :=
  engOk_bind (engOk_engRead _ _ _ _ _) (fun _ => engOk_pure _)

@[simp] theorem engOk_engPut (c : Cmd) (w : Nat) (base : Word) (d : Int) (v : Nat) : EngOk k (engPut c w base d v) := by
  intro s a t h heq
  change (match s.cmdPlace c { wr := true } w w base d with | .error f => _ | .ok a => _) = _ at heq
  split at heq
  · cases heq
  · cases heq
    exact Sound.either (h.send _ _ _) (h.storePlace _ _)

@[simp] theorem engOk_engPuts (c : Cmd) (w : Nat) (base : Word) (d : Int) (vs : List Nat) : EngOk k (engPuts c w base d vs) :=
  engOk_forM (fun _ => engOk_engPut _ _ _ _ _)

@[simp] theorem engOk_engRefRead (c : Cmd) (ref : Word) (off : Nat) : EngOk k (engRefRead c ref off) := by
  refine engOk_of_reads (fun s a t heq => ?_)
  unfold engRefRead at heq
  repeat' split at heq
  all_goals cases heq
  rfl

@[simp] theorem engOk_engRefWrite (c : Cmd) (ref : Word) (off v : Nat) : EngOk k (engRefWrite c ref off v) := by
  intro s a t h heq
  change engRefWrite c ref off v s = _ at heq
  unfold engRefWrite at heq
  repeat' split at heq
  all_goals cases heq
  exact h.poke _ _ _

@[simp] theorem engOk_engPresent (c : Cmd) (ref : Word) : EngOk k (engPresent c ref) := by
  refine engOk_of_reads (fun s a t heq => ?_)
  unfold engPresent at heq
  repeat' split at heq
  all_goals cases heq
  all_goals rfl

@[simp] theorem engOk_engKey (c : Cmd) (nd : Need) (w : Nat) (base : Word) (d : Nat) : EngOk k (engKey c nd w base d) := by
  refine engOk_of_reads (fun s a t heq => ?_)
  unfold engKey at heq
  split at heq <;> cases heq
  rfl

@[simp] theorem engOk_engFields (c : Cmd) (m : MeshHome) (ws : List Nat) : EngOk k (engFields c m ws) :=
  engOk_bind (engOk_engPresent _ _) (fun _ => engOk_engPuts _ _ _ _ _)

@[simp] theorem engOk_engState (c : Cmd) (p : Word) (st : Nat) : EngOk k (engState c p st) := engOk_engPut _ _ _ _ _

@[simp] theorem engOk_engInit (c : Cmd) : EngOk k (engInit c) := by
  refine engOk_bind (engOk_engRead _ _ _ _ _) (fun bs => ?_)
  dsimp only
  split
  · exact engOk_pure _
  refine engOk_bind (engOk_engRead _ _ _ _ _) (fun raw => ?_)
  split
  iterate 3 exact engOk_pure _
  have hend (m : MeshHome) : EngOk k (do engFields c m m.eWords; pure (.ok m) : Eng (Except (Cause × Nat) MeshHome)) :=
    engOk_bind (engOk_engFields _ _ _) (fun _ => engOk_pure _)
  refine engOk_ite (engOk_bind (engOk_forM (fun n => ?_)) (fun _ => hend _)) (hend _)
  exact engOk_bind (engOk_engPut _ _ _ _ _) (fun _ => engOk_engPut _ _ _ _ _)

@[simp] theorem engOk_engOutcome (c : Cmd) (p : Word) (held : Bool) (st : Nat) {e : Eng (Except (Cause × Nat) MeshHome)} (he : EngOk k e) :
    EngOk k (engOutcome c p held st e) := by
  refine engOk_bind he (fun r => ?_)
  cases r with
  | error x => exact engOk_ite (engOk_bind (engOk_engState _ _ _) (fun _ => engOk_pure _)) (engOk_pure _)
  | ok m => exact engOk_pure _

@[simp] theorem engOk_engNodeRef (c : Cmd) (m : MeshHome) (key : MKey) : EngOk k (engNodeRef c m key) :=
  engOk_bind (engOk_engNum _ _ _ _) (fun _ => engOk_bind (engOk_engPresent _ _) (fun _ =>
    engOk_foldlM (fun _ _ => engOk_bind (engOk_engRefRead _ _ _) (fun _ => engOk_engPresent _ _)) _))

@[simp] theorem engOk_engSetLink (c : Cmd) (m : MeshHome) (key : MKey) (ref : Word) : EngOk k (engSetLink c m key ref) := by
  unfold engSetLink
  split
  · exact engOk_engPut _ _ _ _ _
  · exact engOk_bind (engOk_engNodeRef _ _ _) (fun _ => engOk_bind (engOk_engRefRead _ _ _) (fun _ =>
      engOk_bind (engOk_engRefWrite _ _ _ _) (fun _ => engOk_engRefWrite _ _ _ _)))

@[simp] theorem engOk_engFreeNode (c : Cmd) (m : MeshHome) (node : Word) : EngOk k (engFreeNode c m node) :=
  engOk_bind (engOk_engPresent _ _) (fun _ => engOk_bind (engOk_engRefWrite _ _ _ _) (fun _ => engOk_pure _))

@[simp] theorem engOk_engTakeNode (c : Cmd) (m : MeshHome) (key : MKey) : EngOk k (engTakeNode c m key) :=
  engOk_bind (engOk_engPresent _ _) (fun _ => engOk_bind (engOk_engRefRead _ _ _) (fun _ => engOk_bind (engOk_engPresent _ _) (fun _ =>
    engOk_bind (engOk_engRefWrite _ _ _ _) (fun _ => engOk_bind (engOk_engRefWrite _ _ _ _) (fun _ =>
      engOk_bind (engOk_forM (fun _ => engOk_engRefWrite _ _ _ _)) (fun _ => engOk_bind (engOk_engSetLink _ _ _ _) (fun _ => engOk_pure _)))))))

@[simp] theorem engOk_engFail (c : Cmd) (cause : Cause) (detail : Nat) : EngOk k (engFail c cause detail) :=
  engOk_bind (engOk_engPuts _ _ _ _ _) (fun _ => engOk_pure _)

@[simp] theorem engOk_engAdapt (c : Cmd) (m : MeshHome) : EngOk k (engAdapt c m) := by
  refine engOk_bind (engOk_engRead _ _ _ _ _) (fun fb => ?_)
  dsimp only
  split
  · exact engOk_engFail _ _ _
  refine engOk_ite (engOk_engFail _ _ _) ?_
  refine engOk_bind (engOk_engPuts _ _ _ _ _) (fun _ => engOk_bind (engOk_engPuts _ _ _ _ _) (fun _ => engOk_bind (engOk_foldlM (fun m g => ?_) _) (fun _ => ?_)))
  · exact engOk_bind (engOk_engNodeRef _ _ _) (fun _ => engOk_bind (engOk_engSetLink _ _ _ _) (fun _ => engOk_engFreeNode _ _ _))
  · exact engOk_bind (engOk_foldlM (fun _ _ => engOk_engTakeNode _ _ _) _) (fun _ => engOk_bind (engOk_engFields _ _ _) (fun _ => engOk_pure _))

@[simp] theorem engOk_engFree (c : Cmd) (m : MeshHome) : EngOk k (engFree c m) :=
  engOk_bind (engOk_mapM (fun _ => engOk_engNodeRef _ _ _)) (fun _ => engOk_bind (engOk_foldlM (fun _ _ => engOk_engFreeNode _ _ _) _) (fun _ =>
    engOk_bind (engOk_engPuts _ _ _ _ _) (fun _ => engOk_engFields _ _ _)))

@[simp] theorem engOk_engRemap (c : Cmd) (i : Nat) : EngOk k (engRemap c i) :=
  engOk_bind (engOk_engNum _ _ _ _) (fun _ => engOk_bind (engOk_engNum _ _ _ _) (fun _ => engOk_pure _))

@[simp] theorem engOk_engElem (c : Cmd) (arr n es : Nat) : EngOk k (engElem c arr n es) := engOk_mapM (fun _ => engOk_engNum _ _ _ _)

@[simp] theorem engOk_engRun (c : Cmd) (i : Nat) : EngOk k (engRun c i) := by
  refine engOk_bind (engOk_engRemap _ _) (fun r => ?_)
  dsimp only
  split
  · exact engOk_bind (engOk_engElem _ _ _ _) (fun _ => engOk_bind (engOk_engPuts _ _ _ _ _) (fun _ => engOk_pure _))
  · exact engOk_bind (engOk_engElem _ _ _ _) (fun _ => engOk_bind (engOk_engPuts _ _ _ _ _) (fun _ => engOk_pure _))
  · refine engOk_ite (engOk_throw _) (engOk_bind (engOk_mapM (fun q => ?_)) (fun _ => engOk_bind (engOk_engPuts _ _ _ _ _) (fun _ => engOk_pure _)))
    exact engOk_ite (engOk_throw _) (engOk_bind (engOk_engRemap _ _) (fun _ => engOk_ite (engOk_throw _) (engOk_engElem _ _ _ _)))
  · exact engOk_pure _

@[simp] theorem engOk_engCut (c : Cmd) : EngOk k (engCut c) := engOk_bind (engOk_engRead _ _ _ _ _) (fun _ => engOk_engPuts _ _ _ _ _)

@[simp] theorem engOk_engCutArray (c : Cmd) (p : Word) (parts : Nat) : EngOk k (engCutArray c p parts) := engOk_mapM (fun _ => engOk_engNum _ _ _ _)

@[simp] theorem engOk_engParts (c : Cmd) (parts : Nat) : EngOk k (engParts c parts) :=
  engOk_mapM (fun _ => engOk_bind (engOk_engNum _ _ _ _) (fun _ => engOk_bind (engOk_engNum _ _ _ _) (fun _ =>
    engOk_bind (engOk_engNum _ _ _ _) (fun _ => engOk_bind (engOk_engNum _ _ _ _) (fun _ => engOk_pure _)))))

@[simp] theorem engOk_engMoves (c : Cmd) (es : Nat) (moves : List LbMove) (lists : List (Word × List Nat)) : EngOk k (engMoves c es moves lists) := by
  refine engOk_bind (engOk_mapM (fun m => ?_)) (fun vals => engOk_bind (engOk_mapM (fun m => ?_)) (fun reads => engOk_bind (engOk_mapM (fun m => engOk_engKey _ _ _ _ _))
    (fun writes => engOk_bind (engOk_mapM (fun l => engOk_mapM (fun _ => engOk_engKey _ _ _ _ _))) (fun heads => engOk_free _ (fun s => ?_)))))
  · split
    · exact engOk_bind (engOk_engNum _ _ _ _) (fun _ => engOk_pure _)
    · exact engOk_pure _
  · split
    · exact engOk_engKey _ _ _ _ _
    · exact engOk_pure _
  · refine engOk_bind (engOk_forM (fun _ => engOk_engPuts _ _ _ _ _)) (fun _ => engOk_forM (fun i => ?_))
    split
    · exact engOk_engPut _ _ _ _ _
    · exact engOk_pure _

@[simp] theorem engOk_engMigrate (c : Cmd) (g : Shape2) (leaves : List MKey) : EngOk k (engMigrate c g leaves) := by
  refine engOk_bind (engOk_engCutArray _ _ _) (fun old => engOk_bind (engOk_engCutArray _ _ _) (fun cut => engOk_bind (engOk_engParts _ _) (fun parts =>
    engOk_ite (engOk_pure _) ?_)))
  dsimp only
  split
  · exact engOk_pure _
  · exact engOk_bind (engOk_engMoves _ _ _ _) (fun _ => engOk_pure _)

@[simp] theorem engOk_engSync (c : Cmd) (g : Shape2) (leaves : List MKey) : EngOk k (engSync c g leaves) :=
  engOk_bind (engOk_engCutArray _ _ _) (fun _ => engOk_bind (engOk_engParts _ _) (fun _ => engOk_ite (engOk_pure _)
    (engOk_bind (engOk_mapM (fun _ => engOk_mapM (fun _ => engOk_bind (engOk_engNum _ _ _ _) (fun _ => engOk_pure _)))) (fun _ =>
      engOk_bind (engOk_engMoves _ _ _ _) (fun _ => engOk_pure _)))))

@[simp] theorem engOk_engColour (c : Cmd) : EngOk k (engColour c) := by
  refine engOk_bind (engOk_engRead _ _ _ _ _) (fun raw => ?_)
  dsimp only
  refine engOk_bind (engOk_engPuts _ _ _ _ _) (fun _ => ?_)
  split
  · exact engOk_pure _
  · exact engOk_bind (engOk_engPuts _ _ _ _ _) (fun _ => engOk_bind (engOk_engPuts _ _ _ _ _) (fun _ => engOk_pure _))

theorem ranTo_sound {s : State} {e : Eng α} {bad : FaultRec → State} {ok : α → State → State} (he : EngOk k e) (h : Sound k s)
    (hbad : ∀ f, Sound k (bad f)) (hok : ∀ a t, Sound k t → Sound k (ok a t)) : SomeSound k (ranTo (s.runEng e) bad ok) := by
  unfold ranTo
  split
  · next a t heq => exact someSound_some.mpr (hok a t (he s a t h heq))
  · split
    · exact someSound_none
    · exact someSound_some.mpr (hbad _)

end Engine

@[simp] theorem Sound.writeFields (h : Sound k s) (m : MeshHome) (die sid : Nat) : Sound k (s.writeFields m die sid) := by
  unfold State.writeFields
  dsimp only
  split
  · next a t heq => exact engOk_engPuts _ _ _ _ _ s a t h heq
  · exact h.postRecord _ _

@[simp] theorem Sound.closeOpens (h : Sound k s) (key : Nat) : Sound k (s.closeOpens key) :=
  h.foldl (fun _ _ ht => Sound.either ((ht.setMesh _).writeFields _ _ _) ht) _

@[simp] theorem Sound.cmdReject (h : Sound k s) (c : Cmd) (cause : Cause) (detail : Nat) : Sound k (s.cmdReject c cause detail) := by
  simp [State.cmdReject, h]

@[simp] theorem Sound.meshRefuse (h : Sound k s) (c : Cmd) : Sound k (s.meshRefuse c) := by
  simp [State.meshRefuse, h]

@[simp] theorem Sound.meshFault (h : Sound k s) (c : Cmd) (m : MeshHome) (ph : MeshPhase) (f : FaultRec) : Sound k (s.meshFault c m ph f) := by
  refine Sound.cmdFault ?_ _ _
  split
  · next a t heq => exact engOk_engState _ _ _ _ a t (h.setMesh _) heq
  · exact h.setMesh _

@[simp] theorem Sound.fireMeshOp (h : Sound k s) (i : Instr) (req : Operands → OpReq) : OutSound k (Machine.fireMeshOp i s req) :=
  OutSound.fire h i (fun _ _ hst => Sound.either (h.put hst _) (Sound.either (h.put hst _) (h.put hst _)))

@[simp] theorem Sound.fireNbr (h : Sound k s) (i : Instr) (face : Nat) (two : Bool) (q : Nat) : OutSound k (Machine.fireNbr i face two q s) :=
  OutSound.fire h i (fun _ _ hst => Sound.either (h.put hst _) (Sound.either (h.put hst _) (Sound.either (h.put hst _) ((h.put hst _).send _ _ _))))

@[simp] theorem Sound.meshAbort (h : Sound k s) (c : Cmd) : Sound k (s.meshAbort c) := by
  unfold State.meshAbort
  split
  · exact h
  · next m _ =>
    have h1 : Sound k (if m.phase = .building then s.dropMesh m.ptr else s.setMesh { m with phase := .ready, busyBy := none }) :=
      Sound.either (h.dropMesh _) (h.setMesh _)
    dsimp only
    split
    · next a t heq => exact engOk_engState _ _ _ _ a t h1 heq
    · exact h1

@[simp] theorem Sound.abortCmd (h : Sound k s) (c : Cmd) : Sound k (s.abortCmd c) := by
  have h1 : Sound k (if c.posted then s else (s.slotFaults c).postRecord c.die (s.cmdRecord c (engFault .cpyAborted 0))) :=
    Sound.either h ((h.slotFaults c).postRecord _ _)
  unfold State.abortCmd
  dsimp only
  generalize (if c.posted then s else _) = t at h1
  refine Sound.cmdDone ?_ _ _
  exact (h1.meshAbort c).dropTransfer c.id

@[simp] theorem Sound.lbReject (h : Sound k s) (c : Cmd) : Sound k (s.lbReject c) := by
  simp [State.lbReject, h]

@[simp] theorem Sound.lbEnd (h : Sound k s) (c : Cmd) : Sound k (s.lbEnd c) := by
  unfold State.lbEnd
  split <;> simp [h]

@[simp] theorem Sound.reduce (h : Sound k s) (i : Instr) (o : FpArgs) (ok : Desc → Bool)
    (run : Env → Desc → Nat → List (Option Nat) → Except Raw (Nat × Flags)) : OutSound k (Machine.reduce i o ok run s) := OutSound.fireTok h _ _

@[simp] theorem Sound.fireMx (h : Sound k s) (i : Instr) (check : Site → Operands → Except Raw Unit) : OutSound k (Machine.fireMx i s check) := by
  refine OutSound.fire h i (fun st o hst => Sound.either ((h.withFree _).put hst _) ?_)
  split <;> exact h.put hst _

@[simp] theorem Sound.setPair (h : Sound k s) (p : PairCh) : Sound k (s.setPair p) := h

@[simp] theorem Sound.freePair (h : Sound k s) (id : Nat) : Sound k (s.freePair id) := h

@[simp] theorem Sound.pairRaise (h : Sound k s) (c : Nat) (cause : Cause) (detail : Nat) : Sound k (s.pairRaise c cause detail) := by
  unfold State.pairRaise
  dsimp only
  split
  · exact h
  next x hx =>
  have hok : CtxOk k x := h.ctx? hx
  split
  · exact h
  split
  · exact h
  · exact h.setCtx hok

@[simp] theorem Sound.pairDrop (h : Sound k s) (c code : Nat) : Sound k (s.pairDrop c code) := by
  unfold State.pairDrop
  split
  · exact h
  · exact Sound.either ((h.freePair _).foldl (fun _ _ ht => ht.pairRaise _ _ _) _) (h.freePair _)

@[simp] theorem Sound.pairBelay (h : Sound k s) (c : Nat) : Sound k (s.pairBelay c) := h

@[simp] theorem Sound.pairRetire (h : Sound k s) (x : Ctx) : Sound k (s.pairRetire x) := by
  unfold State.pairRetire
  repeat' split
  all_goals simp [h]

@[simp] theorem Sound.pairGrant (h : Sound k s) (c : Nat) : Sound k (s.pairGrant c) := by
  unfold State.pairGrant
  repeat' split
  all_goals simp [h]

@[simp] theorem Sound.pairPost (h : Sound k s) (x : Ctx) (req : PairSide) : SomeSound k (s.pairPost x req) := by
  unfold State.pairPost
  dsimp only
  repeat' split
  any_goals exact someSound_none
  all_goals refine someSound_some.mpr ?_
  · exact h.setPair _
  · exact (h.pairRaise _ _ _).freePair _
  · exact h.setPair _
  · exact ((h.setPair _).pairGrant _).pairGrant _
  · exact ((h.pairRaise _ _ _).pairRaise _ _ _).freePair _

@[simp] theorem Sound.mxBegin {x : Ctx} (h : Sound k s) (hx : CtxOk k x) (ex : Exec) (q : MxSeq) : Sound k (s.mxBegin x ex q) :=
  Sound.either (h.setCtx hx) (h.setCtx hx)

/-- A choice between two steps, each of which keeps the invariant. -/
theorem SomeSound.ite {p : Prop} [Decidable p] {a b : Option State} (ha : SomeSound k a) (hb : SomeSound k b) : SomeSound k (if p then a else b) := by
  split
  · exact ha
  · exact hb

theorem SomeSound.map {α : Type} {o : Option α} {f : α → State} (hf : ∀ a, Sound k (f a)) : SomeSound k (o.map f) := by
  cases o with
  | none => exact someSound_none
  | some a => exact someSound_some.mpr (hf a)

theorem SomeSound.bind {α : Type} {o : Option α} {f : α → Option State} (hf : ∀ a, SomeSound k (f a)) : SomeSound k (o >>= f) := by
  cases o with
  | none => exact someSound_none
  | some a => exact hf a

@[simp] theorem Sound.mxApply {x : Ctx} (h : Sound k s) (hx : CtxOk k x) (ex : Exec) (n : Nat) (i : Instr) (v : Operands) :
    SomeSound k (s.mxApply x ex n i v) := by
  have hput (e : Exec) : Sound k (s.setCtx { x with cur := some e }) := h.setCtx hx
  have hok (e : Exec) : SomeSound k (some (s.setCtx { x with cur := some e })) := someSound_some.mpr (hput e)
  have hbegin (q : MxSeq) : SomeSound k (some (s.mxBegin x ex q)) := someSound_some.mpr (h.mxBegin hx ex q)
  cases i
  case tz => exact SomeSound.ite (hok _) (hok _)
  case mvvt => exact hok _
  case mvtv => exact hok _
  case ldt =>
    refine SomeSound.ite (hok _) ?_
    dsimp only
    split
    · exact SomeSound.map hput
    · exact hok _
  case stt =>
    refine SomeSound.ite (hok _) ?_
    dsimp only
    split
    · exact hok _
    · exact SomeSound.ite someSound_none (hok _)
  case scld =>
    refine SomeSound.ite (hok _) ?_
    dsimp only
    split
    · exact SomeSound.map hput
    · exact hok _
  case opa => exact SomeSound.ite (hok _) (hbegin _)
  case gemmT =>
    refine SomeSound.ite (hok _) ?_
    split
    · exact hok _
    · exact hbegin _
  case gemmTPair =>
    refine SomeSound.ite (hok _) ?_
    split
    · exact hok _
    · exact (hput _).pairPost _ _
  case cholT => exact SomeSound.ite (hok _) (hbegin _)
  case trsmT | qrT | syrkT =>
    refine SomeSound.ite (hok _) ?_
    split
    · exact hok _
    · exact hbegin _
  all_goals exact someSound_none

@[simp] theorem Sound.stepPut {x : Ctx} (h : Sound k s) (hx : CtxOk k x) (r : StepRes) : SomeSound k (s.stepPut x r) := by
  cases r with
  | wait => exact someSound_none
  | bad e => exact someSound_some.mpr (h.setCtx hx)
  | ok e last => exact someSound_some.mpr (h.setCtx hx)

@[simp] theorem Sound.pairStep {x : Ctx} (h : Sound k s) (hx : CtxOk k x) (ex : Exec) (q : MxSeq) (o : GemmArgs) (v : Operands) :
    SomeSound k (s.pairStep x ex q o v) := by
  have hput (e : Exec) : Sound k (s.setCtx { x with cur := some e }) := h.setCtx hx
  unfold State.pairStep
  split
  · exact someSound_none
  refine SomeSound.ite someSound_none ?_
  refine SomeSound.ite someSound_none ?_
  refine SomeSound.ite someSound_none ?_
  split
  split
  · exact someSound_none
  · exact someSound_some.mpr ((hput _).pairDrop _ _)
  · exact someSound_some.mpr (Sound.either ((hput _).freePair _) ((hput _).setPair _))

@[simp] theorem Sound.mxStepTry {x : Ctx} (h : Sound k s) (hx : CtxOk k x) : SomeSound k (s.mxStepTry x) := by
  refine SomeSound.bind fun ex => SomeSound.bind fun q => SomeSound.bind fun i => SomeSound.bind fun v => ?_
  refine SomeSound.ite someSound_none ?_
  split
  · exact h.stepPut hx _
  · exact h.stepPut hx _
  · exact h.pairStep hx _ _ _ _
  iterate 4 exact h.stepPut hx _
  · exact someSound_none

@[simp] theorem Sound.pairReissue (h : Sound k s) (c : Nat) : Sound k (s.pairReissue c) := by
  unfold State.pairReissue
  split
  · exact h
  · refine Sound.setPair (h.foldl (fun t d ht => ?_) _) _
    split
    · next y hy => exact ht.setFound hy rfl rfl
    · exact ht

@[simp] theorem Sound.setCluster (h : Sound k s) (n : Nat) (c : ClusterSt) : Sound k (s.setCluster n c) := h

@[simp] theorem Sound.setBarEntries (h : Sound k s) (core : Nat) (bs : BarScope) (l : List (Nat × BarEntry)) : Sound k (s.setBarEntries core bs l) := by
  unfold State.setBarEntries
  split <;> simp [h]

@[simp] theorem Sound.setBar (h : Sound k s) (core : Nat) (bs : BarScope) (bid : Nat) (e : Option BarEntry) : Sound k (s.setBar core bs bid e) := by
  simp [State.setBar, h]

@[simp] theorem Sound.barRelease (h : Sound k s) (bs : BarScope) (bid : Nat) (broken : Bool) (after : List Nat) (ep c : Nat) :
    Sound k (s.barRelease bs bid broken after ep c) := by
  unfold State.barRelease
  dsimp only
  split
  · exact h
  · next x hx =>
    refine h.setCtx ?_
    split <;> exact (h.ctx? hx).of_eq rfl rfl

@[simp] theorem Sound.barArrive (h : Sound k s) (c : Nat) (bs : BarScope) (bid count : Nat) : Sound k (s.barArrive c bs bid count) := by
  unfold State.barArrive
  split
  · exact h
  next x hx =>
    have hok : CtxOk k x := h.ctx? hx
    refine Sound.either ?_ (Sound.either ?_ ?_)
    · exact h.setCtx hok
    · exact (h.setBar _ _ _ _).foldl (fun _ _ ht => ht.barRelease _ _ _ _ _ _) _
    · exact (h.setBar _ _ _ _).setCtx hok

@[simp] theorem Sound.barRetire (h : Sound k s) (x : Ctx) : Sound k (s.barRetire x) :=
  h.foldl (fun _ _ ht => ht.foldl (fun _ _ hu => (hu.setBar _ _ _ _).foldl (fun _ _ hv => hv.barRelease _ _ _ _ _ _) _) _) _

@[simp] theorem Sound.writeHeader (h : Sound k s) (r : RtRec) (fin pois : Bool) : Sound k (s.writeHeader r fin pois) := by
  simp [State.writeHeader, h]

@[simp] theorem Sound.postRouter (h : Sound k s) (cl : Nat) (c : Cause) (set stage sid : Nat) (ptr : Word) (seq detail : Nat) :
    Sound k (s.postRouter cl c set stage sid ptr seq detail) := by
  simp [State.postRouter, h]

@[simp] theorem Sound.rtIdle (h : Sound k s) (cl set left : Nat) (drains : List Nat) : Sound k (s.rtIdle cl set left drains) := by
  have hsay (v : Nat) (t : State) (id : Nat) (ht : Sound k t) :
      Sound k (match t.msg? id with | some m => t.answer m (.val (some (BitVec.ofNat 64 v))) | none => t) := by
    split
    · exact ht.answer _ _
    · exact ht
  exact ((h.setCluster _ _).foldl (hsay left) _).foldl (hsay 0) _

@[simp] theorem Sound.rtLeave (h : Sound k s) (cl : Nat) (r : RtRec) (pois : Bool) : Sound k (s.rtLeave cl r pois) :=
  Sound.either (((h.writeHeader _ _ _).setCluster _ _).rtIdle _ _ _ _) ((h.writeHeader _ _ _).setCluster _ _)

@[simp] theorem Sound.rtRoute (h : Sound k s) (cl : Nat) (r : RtRec) : Sound k (s.rtRoute cl r) := by
  unfold State.rtRoute
  dsimp only
  repeat' split
  all_goals simp [h]

@[simp] theorem Sound.rtFault (h : Sound k s) (cl : Nat) (r : RtRec) (stage holder : Nat) : Sound k (s.rtFault cl r stage holder) :=
  Sound.either (h.rtRoute _ _) (((h.rtLeave _ _ _).setCluster _ _).postRouter _ _ _ _ _ _ _ _)

@[simp] theorem Sound.routerRetire (h : Sound k s) (x : Ctx) : Sound k (s.routerRetire x) := by
  refine h.foldl (fun t r ht => ?_) _
  split
  · exact ht.rtFault _ _ _ _
  · exact ht

@[simp] theorem Sound.rtAccept (h : Sound k s) (cl set : Nat) (p : Word) (tag sid : Nat) : Sound k (s.rtAccept cl set p tag sid) :=
  ((h.setCluster _ _).writeHeader _ _ _).rtRoute _ _

@[simp] theorem Sound.rtServe (h : Sound k s) (x : Ctx) (msg : Msg) (cl set mask : Nat) : SomeSound k (s.rtServe msg cl set mask x) := by
  unfold State.rtServe
  dsimp only
  repeat' split
  all_goals simp [h]

@[simp] theorem Sound.rtSeed (h : Sound k s) (cl v : Nat) : Sound k (s.rtSeed cl v) := h

@[simp] theorem Sound.placeStrand (h : Sound k s) (core key pri tiles : Nat) (job : Job) (ws : List Word) (xr : List (Nat × Word)) (seed : Word) :
    SomeSound k (s.placeStrand core key pri tiles job ws xr seed) := by
  unfold State.placeStrand
  dsimp only
  repeat' split
  all_goals simp [h]

@[simp] theorem Sound.setLaunch (h : Sound k s) (l : Launch) : Sound k (s.setLaunch l) := h

@[simp] theorem Sound.nestSignal (h : Sound k s) (l : Launch) : Sound k (s.nestSignal l) := h.foldl (fun _ _ ht => ht.sendSignal _ _ _ _) _

@[simp] theorem Sound.nestProgress (h : Sound k s) (id : Nat) : Sound k (s.nestProgress id) := by
  unfold State.nestProgress
  split
  · exact h
  refine Sound.either h ?_
  next l _ =>
  have h1 (p : Prop) [Decidable p] : Sound k (if p then (s.nestSignal l).setLaunch { l with signalled := true } else s) :=
    Sound.either ((h.nestSignal _).setLaunch _) h
  refine Sound.either (h1 _) (Sound.closeOpens (Sound.cairn ?_ _ _ _ _ _) _)
  exact h1 _

@[simp] theorem Sound.nestCount (h : Sound k s) (id ord : Nat) : Sound k (s.nestCount id ord) := by
  unfold State.nestCount
  split <;> simp [h]

@[simp] theorem Sound.nestRetire (h : Sound k s) (id ord : Nat) (err : Bool) : Sound k (s.nestRetire id ord err) := by
  unfold State.nestRetire
  split <;> simp [h]

@[simp] theorem Sound.jobError (h : Sound k s) (a1 : Job) : Sound k (s.jobError a1) := by
  unfold State.jobError
  repeat' split
  all_goals simp [h]

@[simp] theorem Sound.enqueueCard (h : Sound k s) (core : Nat) (e : QEntry) : Sound k (s.enqueueCard core e) := by
  unfold State.enqueueCard
  dsimp only
  split <;> simp [h]

@[simp] theorem Sound.refillQueue (h : Sound k s) (core : Nat) : Sound k (s.refillQueue core) := by
  unfold State.refillQueue
  dsimp only
  split <;> simp [h]

@[simp] theorem Sound.refillQueues (h : Sound k s) : Sound k s.refillQueues := h.foldl (fun _ _ ht => ht.foldl (fun _ _ hu => hu.refillQueue _) _) _

@[simp] theorem Sound.makeReady (h : Sound k s) (key : Nat) (card : Word) (w core : Nat) (src : Option SigSrc) :
    Sound k (s.makeReady key card w core src) := by
  simp [State.makeReady, h]

@[simp] theorem Sound.signalCard (h : Sound k s) (card : Word) (err : Bool) (src : Option SigSrc) (die : Nat) :
    Sound k (s.signalCard card err src die) := by
  unfold State.signalCard
  dsimp only
  repeat' split
  all_goals simp [h]

@[simp] theorem Sound.ackSignal (h : Sound k s) (m job die : Nat) : Sound k (s.ackSignal m job die) := by
  unfold State.ackSignal
  split <;> simp [h]

@[simp] theorem Sound.postAtHome (h : Sound k s) (card : Word) (core : Nat) (src : Option SigSrc) (die : Nat) :
    Sound k (s.postAtHome card core src die) := by
  unfold State.postAtHome
  dsimp only
  repeat' split
  all_goals simp [h]

@[simp] theorem Sound.dispatch (h : Sound k s) (core : Nat) (e : QEntry) : SomeSound k (s.dispatch core e) := by
  unfold State.dispatch
  dsimp only
  split
  · refine someSound_some.mpr (Sound.endCard ?_ _ _)
    exact h
  · have h1 (k' : CoreSt) (run : RunCard) (key w : Nat) :
        Sound k (({ s.setCore core k' with nextId := s.nextId + 1, running := s.running ++ [run] } : State).poke key 8 w) := by
      refine Sound.poke ?_ _ _ _
      exact h
    split
    · split
      · exact someSound_some.mpr (((h1 _ _ _ _).postRecord _ _).endCard _ _)
      · exact (h1 _ _ _ _).placeStrand _ _ _ _ _ _ _ _
    · refine someSound_some.mpr (Sound.send ?_ _ _ _)
      exact h1 _ _ _ _
    · exact someSound_some.mpr (h1 _ _ _ _)

@[simp] theorem Sound.chargeDouble (h : Sound k s) (c : Src) (fut : Word) (w : Nat) : Sound k (s.chargeDouble c fut w) := by
  cases c with
  | ctx id =>
    unfold State.chargeDouble
    dsimp only
    split
    · next x hx => exact h.setFound hx rfl rfl
    · exact h
  | unit d => exact h
  | cmd c => exact h
  | host => exact h

@[simp] theorem Sound.postBatch (h : Sound k s) (die chip : Nat) (ps : List ProxyPost) : Sound k (s.postBatch die chip ps) := by
  unfold State.postBatch
  dsimp only
  split
  · exact (h.fabRecord _ _ _ _).foldl (fun _ _ ht => ht.tcDec _ _) _
  · exact Sound.fabSend (h.foldl (fun _ _ ht => ht.send _ _ _) _) _ _ _ _

@[simp] theorem Sound.proxySend (h : Sound k s) (die chip n : Nat) : Sound k (s.proxySend die chip n) :=
  Sound.either ((h.setSched _ _).foldl (fun _ _ ht => ht.send _ _ _) _) ((h.setSched _ _).foldl (fun _ _ ht => ht.postBatch _ _ _) _)

@[simp] theorem Sound.jobDone (h : Sound k s) (job : Nat) (cairn seq : Word) : Sound k (s.jobDone job cairn seq) := by
  unfold State.jobDone
  split <;> simp [h]

@[simp] theorem Sound.setLq (h : Sound k s) (q : Nat) (x : LaunchQ) : Sound k (s.setLq q x) := h

@[simp] theorem Sound.setIsland (h : Sound k s) (i : Nat) (v : Island) : Sound k (s.setIsland i v) := h

@[simp] theorem Sound.loseContexts (h : Sound k s) (d : Nat) : Sound k (s.loseContexts d) := by
  have hlost (t : State) (m : Msg) (ht : Sound k t) :
      Sound k (match m.body with | .signal _ _ _ job die | .post _ _ _ job die => t.tcDec die job | _ => t) := by
    split <;> simp [ht]
  exact ⟨(h.foldl hlost _).mem, ctxsOk_filter h.ctxs _⟩

@[simp] theorem Sound.dieReset (h : Sound k s) (d cause : Nat) : Sound k (s.dieReset d cause) := by
  unfold State.dieReset
  split <;> simp [h]

@[simp] theorem Sound.packageRecord (h : Sound k s) (queue die unit : Nat) (c : Cause) (addr : Word) (detail : Option Nat) :
    Sound k (s.packageRecord queue die unit c addr detail) := by
  simp [State.packageRecord, h]

@[simp] theorem Sound.switchTable (h : Sound k s) (core : Nat) : Sound k (s.switchTable core) :=
  Sound.either h ((h.setCore _ _).foldl (fun _ _ ht => (ht.pairRaise _ _ _).pairDrop _ _) _)

@[simp] theorem Sound.pendTable (h : Sound k s) (n : Nat) (f : CoreSt → CoreSt) : Sound k (s.pendTable n f) := by
  simp [State.pendTable, h]

@[simp] theorem Sound.tlbPut (h : Sound k s) (j : Nat) (f : Tlb → Tlb) : Sound k (s.tlbPut j f) := by
  unfold State.tlbPut
  split <;> simp [h]

@[simp] theorem Sound.doorbell (h : Sound k s) (q v : Nat) : Sound k (s.doorbell q v) := by
  unfold State.doorbell
  dsimp only
  repeat' split
  all_goals simp [h]

@[simp] theorem Sound.setJob (h : Sound k s) (j : Nat) (f : Word × Word → Word × Word) : Sound k (s.setJob j f) := h

@[simp] theorem Sound.devPut (h : Sound k s) (off : Nat) (w : Word) : Sound k (s.devPut off w) := by
  unfold State.devPut
  dsimp only
  repeat' split
  all_goals simp [h]

@[simp] theorem Sound.replyErr (h : Sound k s) (m : Msg) (f : ElemFault) : Sound k (s.replyErr m f) := by
  simp [State.replyErr, h]

@[simp] theorem Sound.cacheWrite (h : Sound k s) (m : Msg) (p : Place) (d : List (Byte × Byte)) : Sound k (s.cacheWrite m p d) := by
  unfold State.cacheWrite
  dsimp only
  repeat' split
  all_goals simp [h]

@[simp] theorem Sound.placeWrite (h : Sound k s) (p : Place) (d : List (Byte × Byte)) : Sound k (s.placeWrite p d) := by
  unfold State.placeWrite
  split <;> simp [h]

@[simp] theorem Sound.answerMerged (h : Sound k s) (m : Msg) (r : Resp) : Sound k (s.answerMerged m r) := by
  refine h.foldl (fun t a ht => ?_) _
  split
  · exact Sound.either ((ht.setMsg _).acquireBy _) (ht.setMsg _)
  · exact ht.setMsg _

@[simp] theorem Sound.answerLoad (h : Sound k s) (m : Msg) (r : Resp) : Sound k (s.answerLoad m r) := ((h.answer _ _).acquireBy _).answerMerged _ _

@[simp] theorem Sound.homeLoad (h : Sound k s) (m : Msg) (ptr : Word) (p : Place) (n : Nat) (cache : Bool) : Sound k (s.homeLoad m ptr p n cache) := by
  unfold State.homeLoad
  split
  · split
    · exact h.dropMsg _
    · dsimp only
      split
      · exact h
      · split
        · refine Sound.answerLoad ?_ _ _
          exact Sound.either h h
        · refine Sound.either (Sound.setCore (Sound.answerLoad (Sound.withFree ?_ _) _ _) _ _) (Sound.answerLoad (Sound.withFree ?_ _) _ _) <;>
            exact Sound.either h h
  · exact h.dropMsg _

@[simp] theorem Sound.homeStore (h : Sound k s) (m : Msg) (p : Place) (d : List (Byte × Byte)) : Sound k (s.homeStore m p d) := by
  unfold State.homeStore
  split
  · exact h.reply _ _
  · exact ((h.placeWrite _ _).cacheWrite _ _ _).dropMsg _

@[simp] theorem Sound.homeAtomic (h : Sound k s) (m : Msg) (p : Place) (op : AmoOp) (w y z : Nat) : Sound k (s.homeAtomic m p op w y z) := by
  unfold State.homeAtomic
  split
  · exact h.reply _ _
  · refine Sound.reply ?_ _ _
    exact Sound.withFree (s := @ite State _ _ _ _) (Sound.either (h.acquireBy _) (((h.acquireBy _).placeWrite _ _).cacheWrite _ _ _)) _

@[simp] theorem Sound.homeWatch (h : Sound k s) (m : Msg) (serial idx : Nat) (p : Place) (x : Word) (v : Nat) :
    Sound k (s.homeWatch m serial idx p x v) := by
  unfold State.homeWatch
  dsimp only
  repeat' split
  all_goals simp [h]

@[simp] theorem Sound.noticeWatch (h : Sound k s) (m : Msg) : Sound k (s.noticeWatch m) := by
  unfold State.noticeWatch
  dsimp only
  repeat' split
  all_goals simp [h]

@[simp] theorem Sound.noticeWatches (h : Sound k s) : Sound k s.noticeWatches := h.foldl (fun _ _ ht => ht.noticeWatch _) _

@[simp] theorem Sound.homeRefLoad (h : Sound k s) (m : Msg) (ref : Word) (off : Int) (n : Nat) (user : Bool) :
    Sound k (s.homeRefLoad m ref off n user) := by
  unfold State.homeRefLoad
  repeat' split
  all_goals simp [h]

@[simp] theorem Sound.homeRefStore (h : Sound k s) (m : Msg) (ref : Word) (off : Int) (d : List Byte) (user : Bool) :
    Sound k (s.homeRefStore m ref off d user) := by
  unfold State.homeRefStore
  split <;> simp [h]

@[simp] theorem Sound.homeHeal (h : Sound k s) (m : Msg) (ptr : Word) (viaRef : Bool) (off : Int) (place : Place) (old new : Word) (user : Bool) :
    Sound k (s.homeHeal m ptr viaRef off place old new user) := by
  unfold State.homeHeal
  dsimp only
  repeat' split
  all_goals simp [h]

@[simp] theorem Sound.homePin (h : Sound k s) (m : Msg) (ref : Word) (src : SigSrc) (up : Bool) : Sound k (s.homePin m ref src up) := by
  unfold State.homePin
  repeat' split
  all_goals simp [h]

@[simp] theorem Sound.homeRefeq (h : Sound k s) (m : Msg) (a b : Word) (src : SigSrc) : Sound k (s.homeRefeq m a b src) := by
  unfold State.homeRefeq
  dsimp only
  split <;> simp [h]

@[simp] theorem Sound.homeMake (h : Sound k s) (m : Msg) (w a : Word) (wp : Place) (size : Nat) (src : SigSrc) :
    Sound k (s.homeMake m w a wp size src) := by
  unfold State.homeMake
  repeat' split
  all_goals simp [h]

theorem Sound.futSetAt (h : Sound k s) (d : Nat) (src : Option SigSrc) (key : Nat) (v : Word) (fail : Bool) : Sound k (s.futSetAt d src key v fail).1 := by
  unfold State.futSetAt
  dsimp only
  split
  · exact h
  · exact ((h.poke _ _ _).poke _ _ _).signalList _ _ _ _ _

@[simp] theorem Sound.homeDone (h : Sound k s) (m : Msg) (p : Place) (ptr : Word) (fut : Bool) (val : Word) (fail : Bool) (work : DoneWork) :
    Sound k (s.homeDone m p ptr fut val fail work) := by
  unfold State.homeDone
  dsimp only
  generalize (match m.src with | .unit d => d | _ => 12) = d
  split
  · exact (h.dropMsg _).doneFail _ _ _ _ _
  · refine Sound.endWork (Sound.dropMsg (Sound.either ?_ ((h.placeWrite _ _).noteWrite _ _ _)) _) _ _
    exact Sound.either ((h.futSetAt _ _ _ _ _).postCard _ _ _ _ _) (h.futSetAt _ _ _ _ _)

@[simp] theorem Sound.waitAt (h : Sound k s) (j : Nat) (f : FwdEntry) (m : Nat) : Sound k (s.waitAt j f m) := h

@[simp] theorem Sound.peerFails (h : Sound k s) (m : Msg) (code : Nat) : Sound k (s.peerFails m code) := by
  unfold State.peerFails
  repeat' split
  all_goals simp [h]

@[simp] theorem Sound.rxFinish (h : Sound k s) (org cmd : Nat) : Sound k (s.rxFinish org cmd) := by
  unfold State.rxFinish
  repeat' split
  all_goals simp [h]

@[simp] theorem Sound.servedDone (h : Sound k s) (old : State) (m : Msg) : Sound k (s.servedDone old m) := by
  unfold State.servedDone
  dsimp only
  repeat' split
  all_goals simp [h]

@[simp] theorem Sound.perform (h : Sound k s) (m : Msg) : SomeSound k (s.perform m) := by
  unfold State.perform
  repeat' split
  all_goals simp [h]

@[simp] theorem Sound.spanWrite (h : Sound k s) (l : List (Nat × Nat)) (bs : List Byte) : Sound k (s.spanWrite l bs) := by
  induction l generalizing s bs with
  | nil => exact h
  | cons p ps ih => exact ih (h.store _ _) _

@[simp] theorem Sound.serveWaiting (h : Sound k s) (ids : List Nat) : Sound k (s.serveWaiting ids) := by
  refine h.foldl (fun t id ht => ?_) ids
  split
  · next m _ =>
    have hp := ht.perform m
    split
    · next u hu => exact hp u hu
    · exact ht
  · exact ht

@[simp] theorem Sound.redirect (h : Sound k s) (home old nhome new : Nat) : Sound k (s.redirect home old nhome new) := h

@[simp] theorem Sound.epochStep (h : Sound k s) (n : Nat) : Sound k (s.epochStep n) := by
  unfold State.epochStep
  repeat' split
  all_goals simp [h]

theorem mem_of_lowestOrdinal {l : List Ctx} {x : Ctx} (hx : lowestOrdinal l = some x) : x ∈ l := by
  induction l generalizing x with
  | nil => cases hx
  | cons y l ih =>
    unfold lowestOrdinal at hx
    split at hx
    · cases hx
      exact List.mem_cons_self
    · next z hz =>
      split at hx <;> cases hx
      · exact List.mem_cons_self
      · exact List.mem_cons_of_mem _ (ih hz)

theorem Sound.selects (h : Sound k s) {x e : Ctx} (he : s.selects x = some e) : CtxOk k e := by
  unfold State.selects at he
  split at he
  · cases he
  split at he
  · cases he
  · exact h.ctxs e (List.mem_of_mem_filter (mem_of_lowestOrdinal he))

@[simp] theorem Sound.noteBlock {x : Ctx} (h : Sound k s) (hx : CtxOk k x) : Sound k (s.noteBlock x) := by
  unfold State.noteBlock
  refine Sound.either h (Sound.setCtx ?_ hx)
  split
  · next e he => exact (have hok := h.selects (Option.ite_none_right_eq_some.mp he).2; h.setCtx hok)
  · exact h

@[simp] theorem Sound.noteBlocks (h : Sound k s) : Sound k s.noteBlocks := by
  refine h.foldl (fun t x ht => ?_) _
  split
  · next y hy => exact ht.noteBlock (ht.ctx? hy)
  · exact ht

@[simp] theorem Sound.enter {x : Ctx} (h : Sound k s) (hx : CtxOk k x) (pc : Word) : Sound k (s.enter x pc) := by
  refine Sound.foldl (s := s.setCtx { x with waits := [], offered := false, pc := pc }) (h.setCtx hx) (fun t w ht => ?_) _
  split
  · exact ht.acquireAt _ _ _
  · exact ht

@[simp] theorem Sound.loadFault {x : Ctx} (h : Sound k s) (hx : CtxOk k x) (spec : Bool) (ex : Exec) (ld : LoadRec) (f : FaultRec) (access : Option Nat) :
    Sound k (s.loadFault x spec ex ld f access) := by
  refine Sound.setCtx ?_ ((ctxOk_putExec _ _).mpr hx)
  exact h

@[simp] theorem Sound.refWordDone {x : Ctx} (h : Sound k s) (hx : CtxOk k x) (spec : Bool) (ex : Exec) (ld : LoadRec) (viaRef heal : Bool) :
    Sound k (s.refWordDone x spec ex ld viaRef heal) := by
  have hput (e : Exec) : Sound k (s.setCtx (x.putExec spec e)) := h.setCtx ((ctxOk_putExec _ _).mpr hx)
  refine Sound.either (hput _) (Sound.either (h.loadFault hx _ _ _ _ _) ?_)
  dsimp only
  split
  · exact h.loadFault hx _ _ _ _ _
  · exact hput _

@[simp] theorem Sound.loadDone {x : Ctx} (h : Sound k s) (hx : CtxOk k x) (spec : Bool) (ex : Exec) (ld : LoadRec) : Sound k (s.loadDone x spec ex ld) := by
  have hput (e : Exec) : Sound k (s.setCtx (x.putExec spec e)) := h.setCtx ((ctxOk_putExec _ _).mpr hx)
  unfold State.loadDone
  dsimp only
  split
  · exact (hput _).acquire _
  · exact h.refWordDone hx _ _ _ _ _
  · exact h.refWordDone hx _ _ _ _ _
  all_goals exact hput _

@[simp] theorem Sound.loadReturn (h : Sound k s) (m : Msg) (r : Resp) : Sound k (s.loadReturn m r) := by
  have h1 : Sound k (s.dropMsg m.id) := h.dropMsg m.id
  unfold State.loadReturn
  dsimp only
  split
  · split
    · exact h1
    next x hx =>
      have hok : CtxOk k x := h1.ctx? hx
      split
      · exact h1
      split
      · exact (h1.loadFault hok _ _ _ _ _).settle _ _
      · exact Sound.either ((h1.loadDone hok _ _ _).settle _ _) (h1.setCtx ((ctxOk_putExec _ _).mpr hok))
      · exact h1
  · exact h1

@[simp] theorem Sound.detach (h : Sound k s) (x : Ctx) (ex : Exec) : Sound k (s.detach x ex) := h

@[simp] theorem Sound.arrivals (h : Sound k s) (x : Ctx) (ex : Exec) : Sound k (s.arrivals x ex) := by
  refine h.foldl (fun t b ht => ?_) _
  split
  · exact ht.barArrive _ _ _ _
  · exact ht

@[simp] theorem Sound.succeed (h : Sound k s) (c : Nat) : Sound k (s.succeed c) := by
  unfold State.succeed
  split
  · exact h
  next y hy =>
    have hok : CtxOk k y := h.ctx? hy
    split
    · exact h
    · refine Sound.either (Sound.settle ?_ _ _) ?_ <;> exact h.setCtx hok

@[simp] theorem Sound.lateError (h : Sound k s) (x : Ctx) (kind : Nat) (addr : Word) (c : Cause) (detail : Nat) :
    Sound k (s.lateError x kind addr c detail) := by
  simp [State.lateError, h]

@[simp] theorem Sound.retire (h : Sound k s) (x : Ctx) (err : Bool) : Sound k (s.retire x err) := by
  have h1 : Sound k ((((s.pairDrop x.id (natBits x.fc.toNat 0 8)).pairRetire x).routerRetire x).barRetire x) :=
    (((h.pairDrop _ _).pairRetire x).routerRetire x).barRetire x
  unfold State.retire
  generalize (((s.pairDrop x.id (natBits x.fc.toNat 0 8)).pairRetire x).routerRetire x).barRetire x = s1 at h1
  dsimp only
  split
  · refine Sound.nestRetire ⟨?_, ctxsOk_filter h1.ctxs _⟩ _ _ _
    exact (Sound.either h1 (h1.setCluster _ _)).mem
  · refine Sound.endCard ⟨?_, ctxsOk_filter h1.ctxs _⟩ _ _
    exact (Sound.either h1 (h1.setCluster _ _)).mem
  · exact ⟨(Sound.either h1 (h1.setCluster _ _)).mem, ctxsOk_filter h1.ctxs _⟩

@[simp] theorem Sound.comp1 (h : Sound k s) (i : Instr) (masks : Bool) (f : Nat → Nat → Nat) : OutSound k (Machine.comp1 i masks f s) :=
  OutSound.fireTok h _ _

@[simp] theorem Sound.comp2 (h : Sound k s) (i : Instr) (masks : Bool) (f : Nat → Nat → Nat → Nat) : OutSound k (Machine.comp2 i masks f s) :=
  OutSound.fireTok h _ _

@[simp] theorem Sound.comp0 (h : Sound k s) (i : Instr) (f : Env → Token) : OutSound k (Machine.comp0 i f s) := OutSound.fireTok h _ _

@[simp] theorem Sound.compScalar (h : Sound k s) (i : Instr) (f : Nat → Nat) : OutSound k (Machine.compScalar i f s) := OutSound.fireTok h _ _

@[simp] theorem Sound.compMaskIf (h : Sound k s) (i : Instr) (drop : Bool) : OutSound k (Machine.compMaskIf i drop s) := OutSound.fireTok h _ _

@[simp] theorem Sound.beginHeat (h : Sound k s) (ht : Nat) : Sound k (s.beginHeat ht) := by
  unfold State.beginHeat
  split
  · exact h
  · dsimp only
    refine Sound.foldl ?_ (fun t m ht => Sound.fabRecord ?_ _ _ _ _) _
    · exact h.of_eq rfl rfl
    · exact ht

@[simp] theorem Sound.linkDown (h : Sound k s) (l : Nat) (before : LinkSt) (detail : Nat) : Sound k (s.linkDown l before detail) := by
  unfold State.linkDown
  repeat' split
  all_goals simp [h]

@[simp] theorem Sound.resend (h : Sound k s) (l : Nat) (c : LinkSt) : Sound k (s.resend l c) := by
  unfold State.resend
  repeat' split
  all_goals simp [h]

@[simp] theorem Sound.feedReads (h : Sound k s) (l : Nat) : Sound k (s.feedReads l) := by
  unfold State.feedReads
  dsimp only
  repeat' split
  all_goals simp [h]

@[simp] theorem Sound.formFlit (h : Sound k s) (l : Nat) (f : FlitIn) : Sound k (s.formFlit l f) := by
  unfold State.formFlit
  dsimp only
  repeat' split
  all_goals simp [h]

@[simp] theorem Sound.sendAck (h : Sound k s) (l : Nat) (nak : Bool) : Sound k (s.sendAck l nak) := by
  unfold State.sendAck
  split <;> simp [h]

@[simp] theorem Sound.rxCheck (h : Sound k s) (l : Nat) (c : LinkSt) (f : FlitIn) (control : Bool) : SomeSound k (s.rxCheck l c f control) := by
  have hnak (t : State) (ht : Sound k t) : Sound k (if control || c.nakSent then t else t.sendAck l true) := Sound.either ht (ht.sendAck _ _)
  have hl (d : LinkSt) : Sound k (s.setLink l d) := h.setLink _ _
  refine SomeSound.ite (someSound_some.mpr (hnak _ (hl _))) (SomeSound.ite (someSound_some.mpr (hl _)) (SomeSound.ite (someSound_some.mpr ?_) someSound_none))
  exact Sound.either ((hnak _ (hl _)).fabRecord _ _ _ _) (hnak _ (hl _))

@[simp] theorem Sound.rxAccept (h : Sound k s) (l : Nat) (c : LinkSt) : Sound k (s.rxAccept l c) := by
  unfold State.rxAccept
  dsimp only
  split <;> simp [h]

@[simp] theorem Sound.relay (h : Sound k s) (f : FlitIn) : Sound k (s.relay f) := by
  unfold State.relay
  repeat' split
  all_goals simp [h]

@[simp] theorem Sound.serveAt (h : Sound k s) (f : FlitIn) (id : Nat) (body : Body) : Sound k (s.serveAt f id body) := h

@[simp] theorem Sound.serve (h : Sound k s) (f : FlitIn) : Sound k (s.serve f) := by
  unfold State.serve
  dsimp only
  split
  iterate 5
    split
    · exact h.fabSend _ _ _ _
    · exact h.serveAt _ _ _
  · exact Sound.either (h.fabSend _ _ _ _) (h.foldl (fun _ _ ht => ht.serveAt _ _ _) _)
  · exact h

@[simp] theorem Sound.rewatch (h : Sound k s) (chip sector : Nat) : Sound k (s.rewatch chip sector) := by
  refine h.foldl (fun t m ht => ?_) _
  split
  · refine Sound.either ?_ ht
    exact ht.fabSend _ _ _ _
  · exact ht

@[simp] theorem Sound.peerAnswer1 (h : Sound k s) (chip code : Nat) (d : List Byte) (m : Msg) : Sound k (s.peerAnswer1 chip code d m) := by
  have hbad : Sound k (s.peerFails m code) := h.peerFails _ _
  have hkeep (l : List Held) : Sound k { s with fab := { s.fab with held := l } } := h
  unfold State.peerAnswer1
  dsimp only
  split
  · exact Sound.either hbad ((hkeep _).answerLoad _ _)
  · exact Sound.either hbad (Sound.either ((hkeep _).reply _ _) (Sound.either (hkeep _) ((hkeep _).setMsg _)))
  · exact Sound.either hbad (h.dropMsg _)
  · exact Sound.either hbad (h.dropMsg _)
  · exact Sound.either hbad ((h.acquireBy _).reply _ _)
  · refine Sound.either hbad (Sound.answer ?_ _ _)
    exact Sound.either ((h.postCard _ _ _ _ _).chargeDouble _ _ _) h
  · exact Sound.either hbad (h.answer _ _)
  · exact h.ackSignal _ _ _
  · exact Sound.either hbad (Sound.either (((h.dropMsg _).postCard _ _ _ _ _).endWork _ _) ((h.dropMsg _).endWork _ _))
  · exact h.dropMsg _

@[simp] theorem Sound.peerAnswer (h : Sound k s) (chip rid code : Nat) (d : List Byte) : Sound k (s.peerAnswer chip rid code d) := by
  refine Sound.foldl ?_ (fun t o ht => ?_) _
  · exact h
  · split
    · exact ht.peerAnswer1 _ _ _ _
    · exact ht

/-- Many steps that carry another value along. -/
theorem Sound.foldl_fst (h : Sound k s) {α β : Type} {f : State × β → α → State × β} (hf : ∀ a q, Sound k a.1 → Sound k (f a q).1) (b : β) (l : List α) :
    Sound k (l.foldl f (s, b)).1 := by
  induction l generalizing s b with
  | nil => exact h
  | cons a l ih =>
    rw [List.foldl_cons]
    exact ih (hf _ a h) _

@[simp] theorem Sound.rxWrite (h : Sound k s) (org cmd : Nat) (bs : List Byte) : Sound k (s.rxWrite org cmd bs) := by
  unfold State.rxWrite
  split
  · exact h
  dsimp only
  refine Sound.rxFinish ?_ _ _
  generalize hp : List.foldl _ (s, _) _ = p
  have h1 : Sound k p.1 := by
    rw [← hp]
    refine h.foldl_fst (fun a q ha => ?_) _ _
    split
    · exact ha
    split
    · exact ha
    · exact ha.of_eq rfl rfl
  exact h1.of_eq rfl rfl

@[simp] theorem Sound.rxOpen (h : Sound k s) (org cmd : Nat) (p : Word) (len : Nat) (user : Bool) : Sound k (s.rxOpen org cmd p len user) := by
  simp [State.rxOpen, h]

@[simp] theorem Sound.setMcast (h : Sound k s) (d : McDesc) : Sound k (s.setMcast d) := h

@[simp] theorem Sound.freeChan (h : Sound k s) (ls : List Nat) : Sound k (s.freeChan ls) := by
  refine h.foldl (fun t l ht => ?_) _
  split
  · exact ht.setLink _ _
  · exact ht

@[simp] theorem Sound.mcData (h : Sound k s) (d : McDesc) (bs : List Byte) : Sound k (s.mcData d bs) := by
  have h1 : Sound k ((d.links.getD []).foldl (fun (t : State) l => match t.link? l with
      | some c => t.fabPut l 2 (t.newFlit c.peer .engine (.data d.org d.cmd bs))
      | none => t) s) := by
    refine h.foldl (fun t l ht => ?_) _
    split
    · exact ht.fabPut _ _ _
    · exact ht
  refine Sound.either ?_ (Sound.setMcast ?_ _)
  · exact Sound.either (h1.freeChan _) h1
  · exact Sound.either (h1.freeChan _) h1

@[simp] theorem Sound.noteDone (h : Sound k s) (cmd : Nat) (e : Ending) : Sound k (s.noteDone cmd e) := h

@[simp] theorem Sound.doneArrives (h : Sound k s) (chip cmd : Nat) (e : Ending) : Sound k (s.doneArrives chip cmd e) := by
  unfold State.doneArrives
  repeat' split
  all_goals simp [h]

@[simp] theorem Sound.deliver (h : Sound k s) (link : Nat) (f : FlitIn) : Sound k (s.deliver link f) := by
  unfold State.deliver
  split
  · refine (Sound.fabSend ?_ _ _ _ _).rewatch _ _
    exact h
  · exact h
  · exact h.peerAnswer _ _ _ _
  · exact h.rxOpen _ _ _ _ _
  · split
    · exact h.setLink _ _
    · exact h
  · refine Sound.rxWrite ?_ _ _ _
    split
    · exact Sound.either h (h.mcData _ _)
    · exact h
  · exact h.doneArrives _ _ _
  · refine Sound.either (Sound.rxOpen ?_ _ _ _ _ _) ?_ <;> exact Sound.either h h
  · exact h.serve _

@[simp] theorem Sound.rollOn (h : Sound k s) (l : Nat) : Sound k (s.rollOn l) := by
  unfold State.rollOn
  repeat' split
  all_goals simp [h]

@[simp] theorem Sound.failReqs (h : Sound k s) (code : Nat) (p : PeerReq → Bool) : Sound k (s.failReqs code p) := by
  refine Sound.foldl ?_ (fun t o ht => ?_) _
  · exact h
  · split
    · exact ht.peerAnswer1 _ _ _ _
    · exact ht

@[simp] theorem Sound.failCmds (h : Sound k s) (code : Nat) (q : Cmd → Bool) : Sound k (s.failCmds code q) :=
  h.foldl (fun _ _ ht => (ht.dropTransfer _).cmdFault _ _) _

@[simp] theorem Sound.failPeer (h : Sound k s) (l code : Nat) (p : PeerReq → Bool) : Sound k (s.failPeer l code p) := by
  simp [State.failPeer, h]

@[simp] theorem Sound.cpyxData (h : Sound k s) (c : Cmd) (l : Nat) (d : LinkSt) (sent : Nat) (buf : List Byte) : SomeSound k (s.cpyxData c l d sent buf) := by
  refine SomeSound.ite someSound_none (someSound_some.mpr ?_)
  split
  · exact h.cmdFault _ _
  · exact ((h.setCmd _).setLink _ _).fabPut _ _ _

@[simp] theorem Sound.activate {x : Ctx} (h : Sound k s) (hx : CtxOk k x) : Sound k (s.activate x) := by
  refine Sound.either (h.setCtx hx) ?_
  split
  · exact h.setCtx hx
  · exact h.setCtx hx

@[simp] theorem Sound.swap (h : Sound k s) (core slot : Nat) : Sound k (s.swap core slot) := by
  have h1 : Sound k (match s.inSlot core slot with
      | some a => s.setCtx { a with place := .bank, offered := false, spec := none, retStack := [] }
      | none => s) := by
    split
    · next a ha =>
      have hok : CtxOk k a := h.find ha
      exact h.setCtx hok
    · exact h
  unfold State.swap
  dsimp only
  split
  · next b hb => exact Sound.activate h1 (h.find hb)
  · exact h1

@[simp] theorem Sound.askSpill {x : Ctx} (h : Sound k s) (hx : CtxOk k x) (kept : Option (Nat × Word)) : Sound k (s.askSpill x kept) := by
  refine (Sound.setCore ?_ _ _).pairReissue _
  exact h.setCtx hx

@[simp] theorem Sound.askFills (h : Sound k s) : Sound k s.askFills := h.foldl (fun _ _ ht => Sound.either (ht.setCore _ _) ht) _

@[simp] theorem Sound.putPages (h : Sound k s) (ks : List Nat) (bs : List Byte) : Sound k (s.putPages ks bs) := by
  induction ks generalizing s bs with
  | nil => exact h
  | cons p ps ih => exact ih (h.store _ _) _

@[simp] theorem Sound.spillDone (h : Sound k s) (core : Nat) : Sound k (s.spillDone core) := h

@[simp] theorem Sound.nestsFail (h : Sound k s) (d : Nat) (l : Launch) : Sound k (s.nestsFail d l) :=
  (h.setLaunch _).foldl (fun _ _ ht => ht.nestRetire _ _ _) _

@[simp] theorem Sound.fence (h : Sound k s) (d : Nat) : Sound k (s.fence d) := ((h.loseContexts _).setDie _ _).foldl (fun _ _ ht => ht.nestsFail _ _) _

@[simp] theorem Sound.cmdAbortAs (h : Sound k s) (c : Cmd) (cause : Cause) : Sound k (s.cmdAbortAs c cause) := by
  refine Sound.abortCmd (Sound.postRecord (Sound.slotFaults ?_ _) _ _) _
  exact h

@[simp] theorem Sound.residue {x : Ctx} (h : Sound k s) (hx : CtxOk k x) (ex : Exec) : Sound k (s.residue x ex) := by
  refine Sound.either ((h.dieReset _ _).packageRecord _ _ _ _ _ _) ?_
  exact (h.pairDrop _ _).setCtx hx

@[simp] theorem Sound.countSram (h : Sound k s) (core : Nat) (dbl : Bool) : Sound k (s.countSram core dbl) := h

@[simp] theorem Sound.lqAdvance (h : Sound k s) (q : Nat) : Sound k (s.lqAdvance q) := by
  unfold State.lqAdvance
  dsimp only
  split <;> simp [h]

@[simp] theorem Sound.packetCairn (h : Sound k s) (ws : List Word) : Sound k (s.packetCairn ws) := by
  simp [State.packetCairn, h]

@[simp] theorem Sound.cardAbort (h : Sound k s) (core : Nat) (e : QEntry) : Sound k (s.cardAbort core e) := by
  simp [State.cardAbort, h]

@[simp] theorem Sound.recordAbort (h : Sound k s) (cl : Nat) (r : RtRec) : Sound k (s.recordAbort cl r) := by
  simp [State.recordAbort, h]

@[simp] theorem Sound.hostFault (h : Sound k s) (off : Nat) (f : ElemFault) : Sound k (s.hostFault off f) := by
  simp [State.hostFault, h]

@[simp] theorem Sound.moduleReset (h : Sound k s) : Sound k s.moduleReset := ⟨h.mem, ctxsOk_nil⟩

@[simp] theorem Sound.keepPeaks (h : Sound k s) : Sound k s.keepPeaks := h.foldl (fun _ _ ht => Sound.either (ht.setCore _ _) ht) _

end States

end Sys2Proof.Machine

end

section

namespace Sys2Proof.Machine

open Sys2Proof.Claims

variable {k : Inv}

section States

variable {s : State}


/-! ### What an outcome keeps -/

theorem OutSound.either {p : Prop} [Decidable p] {a b : Out} (ha : OutSound k a) (hb : OutSound k b) : OutSound k (if p then a else b) := by
  split
  · exact ha
  · exact hb

theorem OutSound.choice {p : Prop} [Decidable p] {a : State} {b : Out} (ha : Sound k a) (hb : OutSound k b) : OutSound k (if p then .next a else b) :=
  OutSound.either (outSound_next.mpr ha) hb

/-- A command's run that reads its record. -/
theorem OutSound.withRecord (h : Sound k s) (c : Cmd) (event : String) {f : State → Cmd → Option State}
    (hf : ∀ t d, Sound k t → SomeSound k (f t d)) : OutSound k (s.withRecord c event f) := by
  unfold State.withRecord
  split
  · exact outSound_next.mpr (h.cmdFault _ _)
  · dsimp only
    split
    · next t ht => exact h.unitWrite (hf _ _ ((h.setCmd _).withFree _) t ht) _ _
    · exact outSound_fault _

theorem OutSound.lbNext (h : Sound k s) (cmd : Nat) (j : CmdKind) (event : String) {run : Cmd → Out} (hrun : ∀ c, OutSound k (run c)) :
    OutSound k (s.lbNext cmd j event run) := by
  unfold State.lbNext
  split
  · exact outSound_fault _
  · exact OutSound.either (hrun _) (OutSound.either (outSound_fault _) (outSound_next.mpr (h.cmdDone _ _)))

theorem OutSound.lbRun (h : Sound k s) (c : Cmd) (event : String) {run : Cmd → Shape2 → List MKey → Eng LbEnd} (hrun : ∀ c g l, EngOk k (run c g l)) :
    OutSound k (s.lbRun c event run) := by
  refine OutSound.withRecord h c event (fun t d ht => ?_)
  dsimp only
  split
  · refine ranTo_sound (hrun _ _ _) ht (fun f => ht.cmdFault _ _) (fun r u hu => ?_)
    cases r with
    | done => exact hu.lbEnd _
    | format => exact ht.lbReject _
    | capacity p => exact ht.cmdReject _ _ _
  · exact someSound_some.mpr (ht.lbReject _)

theorem Sound.cpyrGo (h : Sound k s) (c : Cmd) (fuel i : Nat) : Sound k (s.cpyrGo c fuel i).1 := by
  induction fuel generalizing s i with
  | zero => exact h
  | succ fuel ih =>
    unfold State.cpyrGo
    split
    · exact h
    split
    · exact h
    · next j t heq => exact ih (engOk_engRun _ _ s j t h heq) _

theorem Sound.futWaitAt (h : Sound k s) (src : SigSrc) (fut cq : Word) (key : Nat) : Sound k (s.futWaitAt src fut cq key).1 := by
  unfold State.futWaitAt
  dsimp only
  split
  · exact h.sendSignal _ _ _ _
  split
  · exact h.postCard _ _ _ _ _
  split
  · exact h.postCard _ _ _ _ _
  split
  · exact h.postCard _ _ _ _ _
  · exact (h.poke _ _ _).poke _ _ _

theorem OutSound.futAt (h : Sound k s) (name : String) (msg : Msg) (p : Place) (pay : Word → Pay) {act : State → State × Nat}
    (hact : ∀ t, Sound k t → Sound k (act t).1) : OutSound k (s.futAt name msg p pay act) := by
  refine OutSound.either (outSound_fault _) ?_
  split
  · exact h.unitWrite (Sound.either (h.answerFor _ _) (Sound.either (h.answerFor _ _) ((hact s h).answerFor _ _))) _ _
  · next chip _ =>
    have hask := h.askPeer msg chip (pay (peerPtr p)) (lost := fun t => t.answer msg (.err .remoteFailed 0xB3)) (fun t ht => ht.answer _ _)
    split
    · next t ht => exact outSound_next.mpr (hask t ht)
    · exact outSound_fault _

theorem OutSound.regEvent (h : Sound k s) (name : String) (p : DevReg → Bool) (off : Nat) (v : Word) : OutSound k (regEvent name p off v s) :=
  OutSound.choice (h.devPut _ _) (outSound_fault _)

/-! ### The belay -/

theorem Sound.belay_sendIn {b : Belay} (h : Sound k b.s) (grp : Nat) (x : Ctx) (cls : Nat) (body : Body) : Sound k (b.sendIn grp x cls body).s := by
  have h1 : Sound k (b.s.sendIn grp (.ctx x.id) cls body) := h.sendIn _ _ _ _
  unfold Belay.sendIn
  dsimp only
  split
  · exact Sound.either (h1.noteSent _ _) h1
  · exact h1

/-- Many requests of a belay, each of which keeps the invariant. -/
theorem Sound.belay_foldl {α : Type} {b : Belay} (h : Sound k b.s) {f : Belay → α → Belay} (hf : ∀ a y, Sound k a.s → Sound k (f a y).s) (l : List α) :
    Sound k (l.foldl f b).s := by
  induction l generalizing b with
  | nil => exact h
  | cons y l ih => exact ih (hf b y h)

theorem Sound.belay_sendAll {b : Belay} (h : Sound k b.s) (x : Ctx) (cls : Nat) (bs : List Body) : Sound k (b.sendAll x cls bs).s :=
  Sound.belay_foldl h (fun _ _ ha => ha.belay_sendIn _ _ _ _) bs

theorem Sound.belay_askIn {b : Belay} (h : Sound k b.s) (grp : Nat) (x : Ctx) (cls : Nat) (body : Body) (kind : Nat) (regs : List Nat) (must : Bool) :
    Sound k (b.askIn grp x cls body kind regs must).s := h.belay_sendIn grp x cls body

theorem Sound.belay_access {b : Belay} (h : Sound k b.s) (x : Ctx) (ex : Exec) (n : Nat) (e : Effect) : Sound k (b.access x ex n e).s := by
  cases e
  case store => exact h.belay_sendAll _ _ _
  case refStore => exact h.belay_sendAll _ _ _
  case atomic => exact Sound.belay_foldl h (fun _ _ ha => ha.belay_askIn _ _ _ _ _ _ _) _
  case heal l cls p via off place old new =>
    change Sound k (if old = new then b else _).s
    split
    · exact h
    · exact h.belay_sendIn _ _ _ _
  case fence => exact h.belay_askIn _ _ _ _ _ _ _
  all_goals exact h

theorem Sound.belay_issueOp {b : Belay} (h : Sound k b.s) (x : Ctx) (ex : Exec) (n : Nat) (r : OpReq) (l : List Hold) :
    Sound k (b.issue x ex n (.op r l)).s := by
  cases r
  case cardPost card sel =>
    unfold Belay.issue
    dsimp only
    split
    · exact Sound.setSched (Sound.tcInc (h.withFree _) _ _) _ _
    · exact Sound.belay_askIn (b := { b with s := _ }) (h.tcInc _ _) _ _ _ _ _ _ _
  case cardSig card => exact Sound.belay_sendIn (b := { b with s := b.s.tcInc _ _ }) (h.tcInc _ _) _ _ _ _
  all_goals exact h.belay_askIn _ _ _ _ _ _ _

theorem Sound.belay_issue {b : Belay} (h : Sound k b.s) (x : Ctx) (ex : Exec) (n : Nat) (e : Effect) : Sound k (b.issue x ex n e).s := by
  cases e
  case cmd r =>
    refine Sound.belay_sendIn ?_ _ _ _ _
    exact h
  case router => exact h.belay_askIn _ _ _ _ _ _ _
  case op r l => exact h.belay_issueOp x ex n r l
  case vsadd => exact h.belay_sendAll _ _ _
  case trigger =>
    unfold Belay.issue
    dsimp only
    split
    · split
      · exact h
      · exact h.belay_sendIn _ _ _ _
    · exact h
  all_goals exact h

theorem Sound.belay_stt {b : Belay} (h : Sound k b.s) (x : Ctx) (els : List StElem) : Sound k (b.stt x els).s := h.belay_sendAll _ _ _

theorem Sound.releasePitch (h : Sound k s) (x : Ctx) (ex : Exec) : Sound k (s.releasePitch x ex).s := by
  refine Sound.belay_foldl (Sound.belay_foldl h (fun b l hb => Sound.belay_foldl hb (fun a e ha => ?_) _) _) (fun b n hb => ?_) _
  · split
    · exact ha.belay_access _ _ _ _
    · exact ha
  · exact Sound.belay_foldl (Sound.belay_foldl hb (fun a t ha => ha.belay_stt _ _) _) (fun a e ha => ha.belay_issue _ _ _ _) _

theorem Sound.mxCommit (h : Sound k s) (x : Ctx) (ex : Exec) : Sound k (s.mxCommit x ex).1 := Sound.either h (h.setCore _ _)

theorem ctxOk_mxCommit {x : Ctx} (ex : Exec) : CtxOk k (s.mxCommit x ex).2 ↔ CtxOk k x := ctxOk_congr rfl rfl

/-! ### Instructions and events -/

@[simp] theorem OutSound.execInt (h : Sound k s) (i : Instr) (o : IntArgs) (f : IntOp) : OutSound k (execInt i o f s) := OutSound.fireTok h _ _
@[simp] theorem OutSound.execImm (h : Sound k s) (i : Instr) (o : ImmArgs) (f : IntOp) : OutSound k (execImm i o f s) := OutSound.fireTok h _ _
@[simp] theorem OutSound.execShift (h : Sound k s) (i : Instr) (o : ShiftArgs) (f : IntOp) : OutSound k (execShift i o f s) := OutSound.fireTok h _ _

@[simp] theorem OutSound.execLdk (h : Sound k s) (o : LoadArgs) : OutSound k (Machine.execLdk o s) := OutSound.either (h.oneLoad _ _ _ _) (h.vecLoad _ _ _ _ _ _ _)

@[simp] theorem OutSound.execStk (h : Sound k s) (o : StoreArgs) : OutSound k (Machine.execStk o s) :=
  OutSound.settled (OutSound.fire h _ (fun _ _ hst => Sound.either (h.put hst _) (h.fireRefStore hst _ _ _ _ _ _)))

@[simp] theorem OutSound.execStref (h : Sound k s) (o : StoreXArgs) : OutSound k (Machine.execStref o s) := by
  refine OutSound.settled (OutSound.fire h _ (fun st v hst => Sound.either (h.put hst _) (Sound.either (h.fireRefStore hst _ _ _ _ _ _)
    (Sound.either (h.put hst _) (Sound.either (h.put hst _) ?_)))))
  split
  · exact h.put hst _
  · exact (h.withFree _).put hst _

@[simp] theorem OutSound.execFence (h : Sound k s) (o : FenceArgs) : OutSound k (Machine.execFence o s) := OutSound.settled (OutSound.fireWhole h _ _)

@[simp] theorem OutSound.execCsrr (h : Sound k s) (o : CsrrArgs) : OutSound k (Machine.execCsrr o s) :=
  OutSound.fire h _ (fun _ _ hst => Sound.either (h.put hst _) (Sound.either (h.put hst _) (Sound.either (h.put hst _)
    (Sound.either ((h.put hst _).acquireAt _ _ _) (h.put hst _)))))

@[simp] theorem OutSound.execCopyCommandStart (h : Sound k s) (m : Nat) : OutSound k (Machine.execCopyCommandStart m s) := by
  unfold Machine.execCopyCommandStart
  repeat' split
  any_goals exact outSound_fault _
  all_goals simp [h]

@[simp] theorem OutSound.execCopyComplete (h : Sound k s) (cmd : Nat) : OutSound k (Machine.execCopyComplete cmd s) := by
  unfold Machine.execCopyComplete
  repeat' split
  any_goals exact outSound_fault _
  all_goals simp [h]

@[simp] theorem OutSound.execEngineFault (h : Sound k s) (cmd : Nat) : OutSound k (Machine.execEngineFault cmd s) := by
  unfold Machine.execEngineFault
  split
  · split
    · exact OutSound.choice (Sound.postRecord (Sound.withFree ((h.setCmd _).slotFaults _) _) _ _) (outSound_fault _)
    · exact outSound_fault _
  · exact outSound_fault _

@[simp] theorem OutSound.execCommandResume (h : Sound k s) (cmd : Nat) : OutSound k (Machine.execCommandResume cmd s) := by
  unfold Machine.execCommandResume
  repeat' split
  any_goals exact outSound_fault _
  all_goals simp [h]

@[simp] theorem OutSound.execMeshInitRun (h : Sound k s) (cmd : Nat) : OutSound k (Machine.execMeshInitRun cmd s) := by
  unfold Machine.execMeshInitRun
  split
  · exact outSound_fault _
  · refine OutSound.withRecord h _ _ (fun t d ht => ?_)
    dsimp only
    split
    · exact someSound_some.mpr (ht.cmdReject _ _ _)
    · refine SomeSound.ite (someSound_some.mpr (ht.meshRefuse _)) (ranTo_sound (engOk_engOutcome _ _ _ _ (engOk_engInit _)) ht (fun _ => ht.meshFault _ _ _ _) (fun r u hu => ?_))
      cases r with
      | error e => exact (hu.dropMesh _).cmdReject _ _ _
      | ok m => exact (hu.setMesh _).cmdDone _ _

@[simp] theorem OutSound.execMeshAdaptRun (h : Sound k s) (cmd : Nat) : OutSound k (Machine.execMeshAdaptRun cmd s) := by
  unfold Machine.execMeshAdaptRun
  split
  · exact outSound_fault _
  · refine OutSound.either (outSound_fault _) (OutSound.withRecord h _ _ (fun t d ht => ?_))
    split
    · exact someSound_some.mpr (ht.cmdReject _ _ _)
    · exact someSound_some.mpr (ht.meshRefuse _)
    · refine ranTo_sound (engOk_engOutcome _ _ _ _ (engOk_engAdapt _ _)) ht (fun _ => ht.meshFault _ _ _ _) (fun r u hu => ?_)
      cases r with
      | error e => exact (hu.setMesh _).cmdReject _ _ _
      | ok m => exact (hu.setMesh _).cmdDone _ _

@[simp] theorem OutSound.execMeshFreeRun (h : Sound k s) (cmd : Nat) : OutSound k (Machine.execMeshFreeRun cmd s) := by
  unfold Machine.execMeshFreeRun
  split
  · exact outSound_fault _
  · refine OutSound.withRecord h _ _ (fun t d ht => ?_)
    split
    · exact someSound_some.mpr (ht.cmdReject _ _ _)
    · exact someSound_some.mpr (ht.meshRefuse _)
    · exact SomeSound.ite (someSound_some.mpr (ht.meshRefuse _)) (ranTo_sound (engOk_engFree _ _) ht (fun _ => ht.cmdFault _ _)
        (fun _ u hu => (hu.dropMesh _).cmdDone _ _))

@[simp] theorem OutSound.execNbrStreamRun (h : Sound k s) (cmd : Nat) : OutSound k (Machine.execNbrStreamRun cmd s) := by
  unfold Machine.execNbrStreamRun
  split
  · exact outSound_fault _
  · refine OutSound.withRecord h _ _ (fun t d ht => ?_)
    dsimp only
    split
    · exact someSound_some.mpr (ht.cmdReject _ _ _)
    · exact someSound_some.mpr (ht.cmdReject _ _ _)
    split
    · exact someSound_some.mpr (ht.cmdReject _ _ _)
    · exact SomeSound.ite (someSound_some.mpr (ht.cmdReject _ _ _)) (ranTo_sound (engOk_forM (fun _ => engOk_engPuts _ _ _ _ _)) ht
        (fun _ => ht.cmdFault _ _) (fun _ u hu => hu.cmdDone _ _))

@[simp] theorem OutSound.execMeshOpenAtHome (h : Sound k s) (m : Nat) : OutSound k (Machine.execMeshOpenAtHome m s) := by
  unfold Machine.execMeshOpenAtHome
  split
  · refine OutSound.either (outSound_fault _) (h.unitWrite ?_ _ _)
    split
    · exact h.answer _ _
    · exact ((h.setMesh _).writeFields _ _ _).answer _ _
  · exact outSound_fault _

@[simp] theorem OutSound.execMeshCloseAtHome (h : Sound k s) (m : Nat) : OutSound k (Machine.execMeshCloseAtHome m s) := by
  unfold Machine.execMeshCloseAtHome
  split
  · refine OutSound.either (outSound_fault _) (h.unitWrite ?_ _ _)
    split
    · exact (h.dropMsg _).postRecord _ _
    · exact ((h.dropMsg _).setMesh _).writeFields _ _ _
  · exact outSound_fault _

@[simp] theorem OutSound.execNbrQueryAtHome (h : Sound k s) (m : Nat) : OutSound k (Machine.execNbrQueryAtHome m s) := by
  unfold Machine.execNbrQueryAtHome
  repeat' split
  any_goals exact outSound_fault _
  all_goals simp [h]

@[simp] theorem OutSound.execCpyrRun (h : Sound k s) (cmd : Nat) : OutSound k (Machine.execCpyrRun cmd s) := by
  unfold Machine.execCpyrRun
  split
  · exact outSound_fault _
  next c _ =>
  refine OutSound.either (outSound_fault _) (h.unitWrite (Sound.either (h.cmdFault _ _) ?_) _ _)
  have ht : Sound k (s.cpyrGo c (c.w 3) (c.aux.headD 0)).1 := h.cpyrGo _ _ _
  dsimp only
  split
  · exact (ht.setCmd _).cmdFault _ _
  · exact Sound.either (ht.setCmd _) (ht.cmdDone _ _)

@[simp] theorem OutSound.execCommandAbort (h : Sound k s) (cmd : Nat) : OutSound k (Machine.execCommandAbort cmd s) := by
  unfold Machine.execCommandAbort
  repeat' split
  any_goals exact outSound_fault _
  all_goals simp [h]

@[simp] theorem OutSound.execLbCutRun (h : Sound k s) (cmd : Nat) : OutSound k (Machine.execLbCutRun cmd s) :=
  OutSound.lbNext h _ _ _ (fun _ => OutSound.withRecord h _ _ (fun _ _ ht => SomeSound.ite (someSound_some.mpr (ht.lbReject _))
    (ranTo_sound (engOk_engCut _) ht (fun _ => ht.cmdFault _ _) (fun _ _ hu => hu.lbEnd _))))

@[simp] theorem OutSound.execLbMigrateRun (h : Sound k s) (cmd : Nat) : OutSound k (Machine.execLbMigrateRun cmd s) :=
  OutSound.lbNext h _ _ _ (fun _ => OutSound.lbRun h _ _ engOk_engMigrate)

@[simp] theorem OutSound.execGhostSyncRun (h : Sound k s) (cmd : Nat) : OutSound k (Machine.execGhostSyncRun cmd s) :=
  OutSound.lbNext h _ _ _ (fun _ => OutSound.lbRun h _ _ engOk_engSync)

@[simp] theorem OutSound.execColBuildRun (h : Sound k s) (cmd : Nat) : OutSound k (Machine.execColBuildRun cmd s) := by
  unfold Machine.execColBuildRun
  split
  · exact outSound_fault _
  · refine OutSound.withRecord h _ _ (fun t d ht => ?_)
    split
    · exact someSound_some.mpr (ht.cmdReject _ _ _)
    · refine ranTo_sound (engOk_engColour _) ht (fun _ => ht.cmdFault _ _) (fun r u hu => ?_)
      cases r with
      | some e => exact hu.cmdReject _ _ _
      | none => exact hu.cmdDone _ _

@[simp] theorem OutSound.execVsaddCol (h : Sound k s) (o : VsaddArgs) : OutSound k (Machine.execVsaddCol o s) := by
  refine OutSound.fire h _ (fun st v hst => Sound.either (h.put hst _) ?_)
  dsimp only
  split
  · exact h.put hst _
  refine Sound.either (h.put hst _) ?_
  split
  · exact h.put hst _
  split
  · exact h.put hst _
  · exact Sound.either (h.put hst _) (((h.withFree _).put hst _).sendReads _ _ _)

@[simp] theorem OutSound.execMatrixApply (h : Sound k s) (c j : Nat) : OutSound k (Machine.execMatrixApply c j s) := by
  unfold Machine.execMatrixApply
  split
  · next x hx =>
    split
    · refine OutSound.either ?_ (outSound_fault _)
      split
      · split
        · next t ht =>
          obtain ⟨v, -, ht⟩ := Option.bind_eq_some_iff.mp ht
          exact outSound_next.mpr (h.mxApply (h.ctx? hx) _ _ _ v t ht)
        · exact outSound_fault _
      · exact outSound_fault _
    · exact outSound_fault _
  · exact outSound_fault _

@[simp] theorem OutSound.execMatrixPassOver (h : Sound k s) (c j : Nat) : OutSound k (Machine.execMatrixPassOver c j s) := by
  unfold Machine.execMatrixPassOver
  dsimp only
  repeat' split
  any_goals exact outSound_fault _
  all_goals simp [h, h.ctx? ‹_›]

@[simp] theorem OutSound.execMatrixStep (h : Sound k s) (c : Nat) : OutSound k (Machine.execMatrixStep c s) := by
  unfold Machine.execMatrixStep
  split
  · next x hx =>
    refine OutSound.either ?_ (outSound_fault _)
    split
    · next t ht => exact outSound_next.mpr (h.mxStepTry (h.ctx? hx) t ht)
    · exact outSound_fault _
  · exact outSound_fault _

@[simp] theorem OutSound.execPairTimerExpire (h : Sound k s) (ch : Nat) : OutSound k (Machine.execPairTimerExpire ch s) := by
  unfold Machine.execPairTimerExpire
  split
  · exact OutSound.choice ((h.foldl (fun _ _ ht => ht.pairRaise _ _ _) _).setPair _) (outSound_fault _)
  · exact outSound_fault _

@[simp] theorem OutSound.execRouterCmdDecl (h : Sound k s) (m : Nat) : OutSound k (Machine.execRouterCmdDecl m s) := by
  unfold Machine.execRouterCmdDecl
  dsimp only
  repeat' split
  any_goals exact outSound_fault _
  all_goals simp [h]

@[simp] theorem OutSound.execRouterCmdPush (h : Sound k s) (m : Nat) : OutSound k (Machine.execRouterCmdPush m s) := by
  unfold Machine.execRouterCmdPush
  split
  · exact OutSound.either (outSound_fault _) (OutSound.choice ((h.dropMsg _).postRouter _ _ _ _ _ _ _ _)
      (OutSound.either (h.unitWrite ((h.dropMsg _).rtAccept _ _ _ _ _) _ _) (outSound_next.mpr (h.setCluster _ _))))
  · exact outSound_fault _

@[simp] theorem OutSound.execRouterPushAdmit (h : Sound k s) (m : Nat) : OutSound k (Machine.execRouterPushAdmit m s) := by
  unfold Machine.execRouterPushAdmit
  split
  · exact OutSound.either (outSound_fault _) (OutSound.choice (((h.setCluster _ _).dropMsg _).postRouter _ _ _ _ _ _ _ _)
      (h.unitWrite (((h.setCluster _ _).dropMsg _).rtAccept _ _ _ _ _) _ _))
  · exact outSound_fault _

@[simp] theorem OutSound.execRouterCmdTake (h : Sound k s) (m : Nat) : OutSound k (Machine.execRouterCmdTake m s) := by
  unfold Machine.execRouterCmdTake
  split
  · next msg set poison mask cl u x _ =>
    refine OutSound.either (outSound_fault _) (OutSound.either ?_ (outSound_next.mpr ?_))
    · split
      · exact outSound_next.mpr ((h.setCluster _ _).answer _ _)
      · exact outSound_next.mpr (h.answer _ _)
    · cases ht : (s.rtServe msg cl set mask x).filter (fun _ => (s.rtServable cl).isNone) with
      | none => exact h.setCluster _ _
      | some t => exact h.rtServe _ _ _ _ _ t (Option.filter_eq_some_iff.mp ht).1
  · exact outSound_fault _

@[simp] theorem OutSound.execRouterTakeServe (h : Sound k s) (m : Nat) : OutSound k (Machine.execRouterTakeServe m s) := by
  unfold Machine.execRouterTakeServe
  split
  · refine OutSound.either ?_ (outSound_fault _)
    split
    · next t ht => exact outSound_next.mpr (Sound.setCluster (h.rtServe _ _ _ _ _ t ht) _ _)
    · exact outSound_fault _
  · exact outSound_fault _

@[simp] theorem OutSound.execRouterCmdDone (h : Sound k s) (m : Nat) : OutSound k (Machine.execRouterCmdDone m s) := by
  unfold Machine.execRouterCmdDone
  split
  · refine h.unitWrite ?_ _ _
    split
    · exact (h.dropMsg _).postRouter _ _ _ _ _ _ _ _
    · exact Sound.either ((h.dropMsg _).rtFault _ _ _ _) (Sound.either (((h.dropMsg _).setCluster _ _).rtRoute _ _) (((h.dropMsg _).setCluster _ _).rtLeave _ _ _))
  · exact outSound_fault _

@[simp] theorem OutSound.execRouterWindowTimer (h : Sound k s) (cl set : Nat) : OutSound k (Machine.execRouterWindowTimer cl set s) := by
  unfold Machine.execRouterWindowTimer
  dsimp only
  repeat' split
  any_goals exact outSound_fault _
  all_goals simp [h]

@[simp] theorem OutSound.execRouterCmdStat (h : Sound k s) (m : Nat) : OutSound k (Machine.execRouterCmdStat m s) := by
  unfold Machine.execRouterCmdStat
  repeat' split
  any_goals exact outSound_fault _
  all_goals simp [h]

@[simp] theorem OutSound.execRouterCmdDrain (h : Sound k s) (m : Nat) : OutSound k (Machine.execRouterCmdDrain m s) := by
  unfold Machine.execRouterCmdDrain
  dsimp only
  repeat' split
  any_goals exact outSound_fault _
  all_goals simp [h]

@[simp] theorem OutSound.execRouterCmdSeed (h : Sound k s) (m : Nat) : OutSound k (Machine.execRouterCmdSeed m s) := by
  unfold Machine.execRouterCmdSeed
  repeat' split
  any_goals exact outSound_fault _
  all_goals simp [h]

@[simp] theorem OutSound.execNestLaunch (h : Sound k s) (launch : Nat) : OutSound k (Machine.execNestLaunch launch s) := by
  unfold Machine.execNestLaunch
  split
  · exact outSound_fault _
  · refine OutSound.either (outSound_fault _) (h.unitWrite ?_ _ _)
    split
    · dsimp only
      have h1 (l : List Launch) (d : Nat) (r : List Byte) (e : Nat) (p q u : Word) :
          Sound k ((({ s with launches := l } : State).postRecord d r).cairnIfValid e p q u) := by
        refine Sound.cairnIfValid (Sound.postRecord ?_ _ _) _ _ _ _
        exact h
      split
      · exact (h1 _ _ _ _ _ _ _).endCard _ _
      · exact h1 _ _ _ _ _ _ _
    · exact (h.setLaunch _).nestProgress _

@[simp] theorem OutSound.execCardSignalAtHome (h : Sound k s) (m : Nat) : OutSound k (Machine.execCardSignalAtHome m s) := by
  unfold Machine.execCardSignalAtHome
  split
  · split
    · exact OutSound.either (h.unitWrite ((h.signalCard _ _ _ _).ackSignal _ _ _) _ _) (outSound_fault _)
    · exact outSound_fault _
  · exact outSound_fault _

@[simp] theorem OutSound.execCardPostAtHome (h : Sound k s) (m : Nat) : OutSound k (Machine.execCardPostAtHome m s) := by
  unfold Machine.execCardPostAtHome
  split
  · split
    · exact OutSound.either (h.unitWrite ((h.postAtHome _ _ _ _).ackSignal _ _ _) _ _) (outSound_fault _)
    · exact outSound_fault _
  · exact outSound_fault _

theorem Sound.placeNow (h : Sound k s) {die : Nat} {l : Launch} {r : Nat × Nat × State} (hr : s.placeNow die l = some r) : Sound k r.2.2 := by
  unfold State.placeNow at hr
  split at hr
  · cases hr
  dsimp only at hr
  split at hr
  · cases hr
  split at hr
  · cases hr
  · obtain ⟨t, ht, rfl⟩ := Option.map_eq_some_iff.mp hr
    exact Sound.setLaunch (h.placeStrand _ _ _ _ _ _ _ _ t ht) _

@[simp] theorem OutSound.execCoxPlace (h : Sound k s) (die launch : Nat) : OutSound k (Machine.execCoxPlace die launch s) := by
  unfold Machine.execCoxPlace
  dsimp only
  split
  · exact outSound_fault _
  · next since core t ht =>
    obtain ⟨l, -, ht⟩ := Option.bind_eq_some_iff.mp ht
    exact OutSound.either (outSound_fault _) (outSound_next.mpr (h.placeNow ht))

theorem Sound.dispatchNow (h : Sound k s) {core : Nat} {r : Nat × QEntry × State} (hr : s.dispatchNow core = some r) : Sound k r.2.2 := by
  unfold State.dispatchNow at hr
  split at hr
  · split at hr
    · cases hr
    · obtain ⟨t, ht, rfl⟩ := Option.map_eq_some_iff.mp hr
      exact h.dispatch _ _ t ht
  · cases hr

@[simp] theorem OutSound.execCardDispatch (h : Sound k s) (core : Nat) : OutSound k (Machine.execCardDispatch core s) := by
  unfold Machine.execCardDispatch
  dsimp only
  split
  · exact outSound_fault _
  · next since e t ht => exact OutSound.either (outSound_fault _) (h.unitWrite ((h.dispatchNow ht).setCore _ _) _ _)

@[simp] theorem OutSound.execCardComplete (h : Sound k s) (card : Nat) : OutSound k (Machine.execCardComplete card s) := by
  unfold Machine.execCardComplete
  split
  · exact outSound_fault _
  · refine OutSound.either (outSound_fault _) (h.unitWrite ?_ _ _)
    have h1 (l : List RunCard) : Sound k (({ s with running := l } : State).closeOpens card) := by
      refine Sound.closeOpens ?_ _
      exact h
    split
    · exact (h1 _).qcDec _ _
    · exact (Sound.either ((h1 _).poke _ _ _) (((h1 _).poke _ _ _).sendSignal _ _ _ _)).cairn _ _ _ _ _

@[simp] theorem OutSound.execFutWaitAtHome (h : Sound k s) (m : Nat) : OutSound k (Machine.execFutWaitAtHome m s) := by
  unfold Machine.execFutWaitAtHome
  split
  · split
    · exact OutSound.futAt h _ _ _ _ (fun t ht => ht.futWaitAt _ _ _ _)
    · exact outSound_fault _
  · exact outSound_fault _

@[simp] theorem OutSound.execFutSetAtHome (h : Sound k s) (m : Nat) : OutSound k (Machine.execFutSetAtHome m s) := by
  unfold Machine.execFutSetAtHome
  split
  · split
    · exact OutSound.futAt h _ _ _ _ (fun t ht => Sound.either (((ht.futSetAt _ _ _ _ _).postCard _ _ _ _ _).chargeDouble _ _ _) (ht.futSetAt _ _ _ _ _))
    · exact outSound_fault _
  · exact outSound_fault _

@[simp] theorem OutSound.execProxyBatchSend (h : Sound k s) (die chip : Nat) : OutSound k (Machine.execProxyBatchSend die chip s) := by
  unfold Machine.execProxyBatchSend
  dsimp only
  repeat' split
  any_goals exact outSound_fault _
  all_goals simp [h]

@[simp] theorem OutSound.execJobFlushRound (h : Sound k s) (job : Nat) : OutSound k (Machine.execJobFlushRound job s) := by
  unfold Machine.execJobFlushRound
  split
  · exact outSound_fault _
  · refine OutSound.either (outSound_fault _) (outSound_next.mpr ?_)
    generalize hs1 : List.foldl _ s (List.range 8) = s1
    have h1 : Sound k s1 := by
      rw [← hs1]
      exact h.foldl (fun t d ht => ht.foldl (fun u c hu => hu.proxySend _ _ _) _) _
    refine Sound.either (Sound.jobDone ?_ _ _ _) ?_ <;> exact h1

@[simp] theorem OutSound.execRtlfsrWrite (h : Sound k s) (off : Nat) (val : Word) : OutSound k (Machine.execRtlfsrWrite off val s) := OutSound.regEvent h _ _ _ _

@[simp] theorem OutSound.execScinvWrite (h : Sound k s) (off : Nat) (val : Word) : OutSound k (Machine.execScinvWrite off val s) := OutSound.regEvent h _ _ _ _

@[simp] theorem OutSound.execMeusePeakClear (h : Sound k s) (off : Nat) (val : Word) : OutSound k (Machine.execMeusePeakClear off val s) := OutSound.regEvent h _ _ _ _

@[simp] theorem OutSound.execMxslotWrite (h : Sound k s) (off : Nat) (val : Word) : OutSound k (Machine.execMxslotWrite off val s) := OutSound.regEvent h _ _ _ _

@[simp] theorem OutSound.execDrstWrite (h : Sound k s) (off : Nat) (val : Word) : OutSound k (Machine.execDrstWrite off val s) := OutSound.regEvent h _ _ _ _

@[simp] theorem OutSound.execLaunchDoorbell (h : Sound k s) (off : Nat) (val : Word) : OutSound k (Machine.execLaunchDoorbell off val s) := OutSound.regEvent h _ _ _ _

@[simp] theorem OutSound.execMsitrigWrite (h : Sound k s) (off : Nat) (val : Word) : OutSound k (Machine.execMsitrigWrite off val s) := OutSound.regEvent h _ _ _ _

@[simp] theorem OutSound.execFeatureCommit (h : Sound k s) (off : Nat) (val : Word) : OutSound k (Machine.execFeatureCommit off val s) := OutSound.regEvent h _ _ _ _

@[simp] theorem OutSound.execTlbWrite (h : Sound k s) (off : Nat) (val : Word) : OutSound k (Machine.execTlbWrite off val s) := OutSound.regEvent h _ _ _ _

@[simp] theorem OutSound.execTlbRead (h : Sound k s) (off : Nat) (val : Word) : OutSound k (Machine.execTlbRead off val s) := OutSound.regEvent h _ _ _ _

@[simp] theorem OutSound.execTlbInval (h : Sound k s) (off : Nat) (val : Word) : OutSound k (Machine.execTlbInval off val s) := OutSound.regEvent h _ _ _ _

@[simp] theorem OutSound.execBar2mapWrite (h : Sound k s) (off : Nat) (val : Word) : OutSound k (Machine.execBar2mapWrite off val s) := OutSound.regEvent h _ _ _ _

@[simp] theorem OutSound.execIslandMaxWrite (h : Sound k s) (off : Nat) (val : Word) : OutSound k (Machine.execIslandMaxWrite off val s) := OutSound.regEvent h _ _ _ _

@[simp] theorem OutSound.execRegisterWrite (h : Sound k s) (off : Nat) (val : Word) : OutSound k (Machine.execRegisterWrite off val s) := OutSound.regEvent h _ _ _ _

@[simp] theorem OutSound.execSlotTableSwitch (h : Sound k s) (core : Nat) : OutSound k (Machine.execSlotTableSwitch core s) := by
  unfold Machine.execSlotTableSwitch
  repeat' split
  any_goals exact outSound_fault _
  all_goals simp [h]

@[simp] theorem OutSound.execTlbCmdDrain (h : Sound k s) (mdie : Nat) : OutSound k (Machine.execTlbCmdDrain mdie s) := by
  unfold Machine.execTlbCmdDrain
  dsimp only
  repeat' split
  any_goals exact outSound_fault _
  all_goals simp [h]

/-- A request that leaves for a peer chip. -/
theorem Sound.peerStep (h : Sound k s) (m : Msg) {t : State} (ht : s.peerStep m = some (some t)) : Sound k t := by
  have hask (u : State) (hu : Sound k u) (c : Nat) (pay : Pay) : SomeSound k (u.askPeer m c pay (fun v => v.peerFails m 0xB3)) :=
    hu.askPeer m c pay (fun v hv => hv.peerFails _ _)
  have hfab (l : List Held) : Sound k { s with fab := { s.fab with held := l } } := h
  have hchip {p : Place} {f : Nat → Option State} (hf : ∀ c, SomeSound k (f c)) (heq : p.peer.map (fun c => if s.isOut m.id then none else f c) = some (some t)) :
      Sound k t := by
    obtain ⟨c, -, hc⟩ := Option.map_eq_some_iff.mp heq
    exact SomeSound.ite someSound_none (hf c) t hc
  unfold State.peerStep at ht
  dsimp only at ht
  split at ht
  · refine hchip (fun c => ?_) ht
    split
    · exact someSound_some.mpr (h.answerLoad _ _)
    · exact hask s h _ _
  · exact hchip (fun c => hask s h _ _) ht
  · exact hchip (fun c => hask _ (hfab _) _ _) ht
  · exact hchip (fun c => hask _ (hfab _) _ _) ht
  · exact hchip (fun c => hask _ (hfab _) _ _) ht
  · exact hchip (fun c => hask _ (hfab _) _ _) ht
  · cases ht

@[simp] theorem OutSound.execHomeRequest (h : Sound k s) (m : Nat) : OutSound k (Machine.execHomeRequest m s) := by
  unfold Machine.execHomeRequest
  dsimp only
  split
  · exact outSound_fault _
  next msg _ =>
  refine OutSound.either (outSound_fault _) ?_
  have h1 : Sound k (s.notePassed msg) := h.notePassed msg
  split
  · exact outSound_fault _
  · next t ht => exact outSound_next.mpr (h1.peerStep msg ht)
  · exact outSound_next.mpr (h1.waitAt _ _ _)
  · refine OutSound.choice (h.sendInvals _ _) ?_
    split
    · exact outSound_fault _
    · next t ht =>
      have hu : Sound k t := h1.perform msg t ht
      exact OutSound.choice (hu.servedDone _ _) (outSound_next.mpr (h.sendInvals _ _))

@[simp] theorem OutSound.execSharerAckTimeout (h : Sound k s) (m : Nat) : OutSound k (Machine.execSharerAckTimeout m s) := by
  unfold Machine.execSharerAckTimeout
  repeat' split
  any_goals exact outSound_fault _
  all_goals simp [h]

@[simp] theorem OutSound.execHpRelocateRun (h : Sound k s) (cmd : Nat) : OutSound k (Machine.execHpRelocateRun cmd s) := by
  unfold Machine.execHpRelocateRun
  dsimp only
  repeat' split
  any_goals exact outSound_fault _
  all_goals simp [h]

@[simp] theorem OutSound.execRelocationCopyDone (h : Sound k s) (cmd : Nat) : OutSound k (Machine.execRelocationCopyDone cmd s) := by
  unfold Machine.execRelocationCopyDone
  split
  · exact outSound_fault _
  split
  · exact outSound_fault _
  · exact h.unitWrite ((((((h.spanWrite _ _).spanWrite _ _).redirect _ _ _ _).setHeap _ _).serveWaiting _).cmdDone _ _) _ _

@[simp] theorem OutSound.execRelocationCopyFault (h : Sound k s) (cmd : Nat) : OutSound k (Machine.execRelocationCopyFault cmd s) := by
  unfold Machine.execRelocationCopyFault
  split
  · exact outSound_fault _
  split
  · exact outSound_fault _
  · exact h.unitWrite (((h.setHeap _ _).serveWaiting _).cmdFault _ _) _ _

@[simp] theorem OutSound.execHpEpochRun (h : Sound k s) (cmd : Nat) : OutSound k (Machine.execHpEpochRun cmd s) := by
  unfold Machine.execHpEpochRun
  dsimp only
  repeat' split
  any_goals exact outSound_fault _
  all_goals simp [h]

@[simp] theorem OutSound.execPitchEntry (h : Sound k s) (c : Nat) : OutSound k (Machine.execPitchEntry c s) := by
  unfold Machine.execPitchEntry
  dsimp only
  split
  · exact outSound_fault _
  next x0 hx0 =>
  split
  · exact outSound_fault _
  next pc _ =>
  refine OutSound.either (outSound_fault _) ?_
  have h1 : Sound k (s.enter x0 pc) := h.enter (h.ctx? hx0) pc
  generalize s.enter x0 pc = s1 at h1
  split
  · exact outSound_fault _
  next x hx =>
  have hok : CtxOk k x := h1.ctx? hx
  have h2 : Sound k { s1 with free := s1.free + 8 } := h1
  generalize ({ s1 with free := s1.free + 8 } : State) = s2 at h2
  have hy : CtxOk k { x with charged := [] } := hok
  have hstop (f : FaultRec) : OutSound k (.next (if f.recov then s2.takeTrap { x with charged := [] } (Exec.untouched s.nextId x pc f) f
      else s2.setCtx ({ x with charged := [] }.discard f))) :=
    outSound_next.mpr (Sound.either (h2.takeTrap hy _ _) (h2.setCtx ((ctxOk_discard f).mpr hy)))
  split
  · exact hstop _
  split
  · exact hstop _
  · exact outSound_next.mpr (h2.setCtx hok)
  split
  · exact hstop _
  split
  · exact hstop _
  · refine OutSound.either (outSound_fault _) (outSound_next.mpr (Sound.setCtx ?_ ?_))
    · exact h1
    · exact hok

@[simp] theorem OutSound.execPitchQuiescence (h : Sound k s) (c : Nat) : OutSound k (Machine.execPitchQuiescence c s) := by
  unfold Machine.execPitchQuiescence
  repeat' split
  any_goals exact outSound_fault _
  all_goals simp [h, h.ctx? ‹_›]

@[simp] theorem OutSound.execSpeculativeStart (h : Sound k s) (c : Nat) : OutSound k (Machine.execSpeculativeStart c s) := by
  unfold Machine.execSpeculativeStart
  dsimp only
  repeat' split
  any_goals exact outSound_fault _
  all_goals simp [h, h.ctx? ‹_›]

@[simp] theorem OutSound.execLoadResponse (h : Sound k s) (m : Nat) : OutSound k (Machine.execLoadResponse m s) := by
  unfold Machine.execLoadResponse
  dsimp only
  repeat' split
  any_goals exact outSound_fault _
  all_goals simp [h]

@[simp] theorem OutSound.execWaitvValueChange (h : Sound k s) (m : Nat) : OutSound k (Machine.execWaitvValueChange m s) := by
  unfold Machine.execWaitvValueChange
  repeat' split
  any_goals exact outSound_fault _
  all_goals simp [h]

@[simp] theorem OutSound.execWaitvTimeout (h : Sound k s) (m : Nat) : OutSound k (Machine.execWaitvTimeout m s) := by
  unfold Machine.execWaitvTimeout
  repeat' split
  any_goals exact outSound_fault _
  all_goals simp [h]

@[simp] theorem OutSound.execWaitcComplete (h : Sound k s) (c : Nat) : OutSound k (Machine.execWaitcComplete c s) := by
  unfold Machine.execWaitcComplete
  dsimp only
  repeat' split
  any_goals exact outSound_fault _
  all_goals simp [h, h.ctx? ‹_›]

@[simp] theorem OutSound.execBelay (h : Sound k s) (c : Nat) : OutSound k (Machine.execBelay c s) := by
  unfold Machine.execBelay
  dsimp only
  split
  · exact outSound_fault _
  next x hx =>
  have hok : CtxOk k x := h.ctx? hx
  split
  · exact outSound_fault _
  next ex _ =>
  split
  · next fx _ =>
    refine OutSound.either (outSound_fault _) (outSound_next.mpr ?_)
    have h1 : Sound k (((s.releasePitch x ex).s.detach x ex).mxCommit (x.commit ex fx (s.releasePitch x ex) []) ex).1 :=
      ((h.releasePitch x ex).detach x ex).mxCommit _ _
    have hz : CtxOk k (((s.releasePitch x ex).s.detach x ex).mxCommit (x.commit ex fx (s.releasePitch x ex) []) ex).2 :=
      (ctxOk_mxCommit ex).mpr ((ctxOk_commit _ _ _ _).mpr hok)
    generalize ((s.releasePitch x ex).s.detach x ex).mxCommit (x.commit ex fx (s.releasePitch x ex) []) ex = p at h1 hz
    have h3 (w : List Wait) : Sound k (((p.1.setCtx { p.2 with waits := w }).arrivals x ex).pairBelay c) :=
      ((Sound.setCtx (x := { p.2 with waits := w }) h1 hz).arrivals x ex).pairBelay c
    split
    · next w hw _ =>
      have hw' : CtxOk k w := (h3 _).ctx? hw
      refine (h3 _).returnFromTrap ?_
      exact hw'
    · exact (h3 _).succeed c
  · exact outSound_fault _

@[simp] theorem OutSound.execAtomicResponse (h : Sound k s) (m : Nat) : OutSound k (Machine.execAtomicResponse m s) := by
  have h1 : Sound k (s.dropMsg m) := h.dropMsg m
  unfold Machine.execAtomicResponse
  dsimp only
  split
  · exact outSound_fault _
  split
  · split
    · exact outSound_next.mpr h1
    next x hx =>
    have hres (tok : Nat → Option Token) : Sound k ((s.dropMsg m).setCtx (x.resolve m tok)) := h1.setCtx ((ctxOk_resolve m tok).mpr (h1.ctx? hx))
    split
    · exact outSound_next.mpr (hres _)
    · exact outSound_next.mpr ((hres _).lateError _ _ _ _ _)
    · exact outSound_next.mpr (hres _)
  · exact outSound_fault _

/-- An answer that acts on its strand, when that is still there. -/
theorem Sound.onCtx (h : Sound k s) {c : Nat} {f : Ctx → State} (hf : ∀ x, CtxOk k x → Sound k (f x)) {t : State}
    (ht : t = match s.ctx? c with | none => s | some x => f x) : Sound k t := by
  rw [ht]
  split
  · exact h
  · next x hx => exact hf x (h.ctx? hx)

@[simp] theorem OutSound.execCommandResultReturn (h : Sound k s) (m : Nat) : OutSound k (Machine.execCommandResultReturn m s) := by
  have h1 : Sound k (s.dropMsg m) := h.dropMsg m
  have hres (x : Ctx) (hx : CtxOk k x) (tok : Nat → Option Token) : Sound k ((s.dropMsg m).setCtx (x.resolve m tok)) :=
    h1.setCtx ((ctxOk_resolve m tok).mpr hx)
  have hvalue (c : Nat) (v : Word) (take : Bool) : OutSound k (.next (match (s.dropMsg m).ctx? c with
      | none => s.dropMsg m
      | some x =>
        let t := (s.dropMsg m).setCtx (x.resolve m (fun _ => some (Token.scalar v.toNat)))
        if take then t.acquireAt c .cluster 0 else t)) := by
    refine outSound_next.mpr ?_
    split
    · exact h1
    · next x hx => exact Sound.either ((hres x (h1.ctx? hx) _).acquireAt _ _ _) (hres x (h1.ctx? hx) _)
  unfold Machine.execCommandResultReturn
  dsimp only
  split
  · exact outSound_fault _
  split
  · split
    · exact OutSound.either (hvalue _ _ _) (outSound_fault _)
    · exact hvalue _ _ _
    · exact hvalue _ _ _
    iterate 2
      refine outSound_next.mpr ?_
      split
      · exact h1
      · next x hx => exact (hres x (h1.ctx? hx) _).lateError _ _ _ _ _
    · refine outSound_next.mpr ?_
      split
      · exact h1
      · next x hx => exact h1.setCtx ((ctxOk_lateFault _ _).mpr (h1.ctx? hx))
    · exact outSound_fault _
  · exact outSound_fault _

@[simp] theorem OutSound.execStoreResponseError (h : Sound k s) (m : Nat) : OutSound k (Machine.execStoreResponseError m s) := by
  unfold Machine.execStoreResponseError
  dsimp only
  repeat' split
  any_goals exact outSound_fault _
  all_goals simp [h]

@[simp] theorem OutSound.execStrandRetire (h : Sound k s) (c : Nat) : OutSound k (Machine.execStrandRetire c s) := by
  unfold Machine.execStrandRetire
  repeat' split
  any_goals exact outSound_fault _
  all_goals simp [h]

@[simp] theorem OutSound.execCSn (h : Sound k s) (o : CArgs) : OutSound k (Machine.execCSn o s) := OutSound.fire h _ (fun _ _ hst => h.put hst _)

@[simp] theorem OutSound.execRgLoadRun (h : Sound k s) (cmd : Nat) : OutSound k (Machine.execRgLoadRun cmd s) := by
  unfold Machine.execRgLoadRun
  split
  · exact outSound_fault _
  · refine OutSound.either (outSound_fault _) (OutSound.withRecord h _ _ (fun t d ht => SomeSound.ite (someSound_some.mpr (ht.cmdFault _ _)) ?_))
    refine ranTo_sound (engOk_engRead _ _ _ _ _) ht (fun _ => ht.cmdFault _ _) (fun bs u hu => ?_)
    dsimp only
    split
    · exact (hu.fabRecord _ _ _ _).cmdDone _ _
    · exact hu

@[simp] theorem OutSound.execRegattaSwitch (h : Sound k s) : OutSound k (Machine.execRegattaSwitch s) := by
  unfold Machine.execRegattaSwitch
  split
  · exact outSound_fault _
  · dsimp only
    generalize hs1 : State.beginHeat _ 0 = s1
    have h1 : Sound k s1 := by
      rw [← hs1]
      refine Sound.beginHeat ?_ _
      exact h.of_eq rfl rfl
    refine outSound_next.mpr ?_
    split
    · exact h1.cmdDone _ _
    · exact h1

@[simp] theorem OutSound.execHeatStart (h : Sound k s) : OutSound k (Machine.execHeatStart s) := by
  unfold Machine.execHeatStart
  repeat' split
  any_goals exact outSound_fault _
  all_goals simp [h]

@[simp] theorem OutSound.execHeatDurEnd (h : Sound k s) : OutSound k (Machine.execHeatDurEnd s) := by
  unfold Machine.execHeatDurEnd
  split
  · exact outSound_fault _
  · refine OutSound.either (outSound_fault _) (outSound_next.mpr (Sound.foldl ?_ (fun t l ht => ht.foldl (fun u vc hu => ?_) _) _))
    · exact h.of_eq rfl rfl
    · exact Sound.either hu (hu.fabRecord _ _ _ _)

@[simp] theorem OutSound.execFlitSend (h : Sound k s) (link : Nat) : OutSound k (Machine.execFlitSend link s) := by
  have h0 : Sound k (s.feedReads link) := h.feedReads link
  unfold Machine.execFlitSend
  dsimp only
  generalize s.feedReads link = s0 at h0
  have hform (l n : Nat) (d : LinkSt) (f : FlitIn) : OutSound k (.next ((s0.setLink l d).formFlit n f)) :=
    outSound_next.mpr ((h0.setLink _ _).formFlit _ _)
  split
  · split
    · exact outSound_fault _
    refine OutSound.either (outSound_fault _) (OutSound.either ?_ ?_)
    · split
      · exact hform _ _ _ _
      · exact outSound_fault _
    · split
      · exact OutSound.either (outSound_fault _) (hform _ _ _ _)
      · exact OutSound.choice (h0.setLink _ _) (outSound_fault _)
      · split
        · exact OutSound.either (outSound_fault _) (hform _ _ _ _)
        · exact outSound_fault _
  · exact outSound_fault _

@[simp] theorem OutSound.execFlitReceive (h : Sound k s) (link : Nat) (f : FlitIn) : OutSound k (Machine.execFlitReceive link f s) := by
  unfold Machine.execFlitReceive
  dsimp only
  split
  · exact outSound_fault _
  next c _ =>
  refine OutSound.either (outSound_fault _) (OutSound.choice (Sound.either h ?_) (OutSound.choice h ?_))
  · split
    · next t ht => exact h.rxCheck _ _ _ _ t ht
    · exact (h.setLink _ _).fabRecord _ _ _ _
  · split
    · next t ht => exact outSound_next.mpr (h.rxCheck _ _ _ _ t ht)
    · exact OutSound.choice (h.setLink _ _) (outSound_next.mpr (Sound.either ((h.rxAccept _ _).relay _) ((h.rxAccept _ _).deliver _ _)))

@[simp] theorem OutSound.execKeyRetireReceive (h : Sound k s) (link : Nat) (f : FlitIn) : OutSound k (Machine.execKeyRetireReceive link f s) := by
  unfold Machine.execKeyRetireReceive
  dsimp only
  split
  · exact outSound_fault _
  refine OutSound.either (outSound_fault _) (OutSound.choice h ?_)
  split
  · next t ht => exact outSound_next.mpr (h.rxCheck _ _ _ _ t ht)
  · exact OutSound.choice (h.setLink _ _) (outSound_next.mpr (h.rxAccept _ _))

@[simp] theorem OutSound.execAckTimer (h : Sound k s) (link : Nat) : OutSound k (Machine.execAckTimer link s) := by
  unfold Machine.execAckTimer
  repeat' split
  any_goals exact outSound_fault _
  all_goals simp [h]

@[simp] theorem OutSound.execKeyRollover (h : Sound k s) (link : Nat) (dir : Bool) : OutSound k (Machine.execKeyRollover link dir s) := by
  unfold Machine.execKeyRollover
  repeat' split
  any_goals exact outSound_fault _
  all_goals simp [h]

@[simp] theorem OutSound.execAckReceive (h : Sound k s) (link : Nat) (f : FlitIn) : OutSound k (Machine.execAckReceive link f s) := by
  unfold Machine.execAckReceive
  dsimp only
  split
  · refine OutSound.either (outSound_fault _) (OutSound.choice h ?_)
    split
    · next t ht => exact outSound_next.mpr (h.rxCheck _ _ _ _ t ht)
    · exact OutSound.choice h (outSound_next.mpr ((Sound.either (h.resend _ _) (h.setLink _ _)).rollOn _))
  · exact outSound_fault _

@[simp] theorem OutSound.execResendTimeout (h : Sound k s) (link : Nat) : OutSound k (Machine.execResendTimeout link s) := by
  unfold Machine.execResendTimeout
  repeat' split
  any_goals exact outSound_fault _
  all_goals simp [h]

@[simp] theorem OutSound.execLossOfLightDetect (h : Sound k s) (link : Nat) (lost : BitVec 16) : OutSound k (Machine.execLossOfLightDetect link lost s) := by
  unfold Machine.execLossOfLightDetect
  dsimp only
  split
  · exact outSound_fault _
  · exact OutSound.either (outSound_fault _) (outSound_next.mpr (Sound.either ((((h.fabRecord _ _ _ _).setLink _ _).fabPut _ _ _).linkDown _ _ _)
      (((h.fabRecord _ _ _ _).setLink _ _).fabPut _ _ _)))

@[simp] theorem OutSound.execLaneReceive (h : Sound k s) (link : Nat) (f : FlitIn) : OutSound k (Machine.execLaneReceive link f s) := by
  unfold Machine.execLaneReceive
  dsimp only
  split
  · refine OutSound.either (outSound_fault _) ?_
    split
    · next t ht => exact outSound_next.mpr (h.rxCheck _ _ _ _ t ht)
    · refine OutSound.choice ((h.setLink _ _).linkDown _ _ _) (outSound_next.mpr ?_)
      have h2 (l n : Nat) (c d : LinkSt) (g : FlitIn) (j : Nat) : Sound k (((s.setLink l c).fabPut l 3 g).fabRecord (some d) 0 .linkDegraded n) :=
        ((h.setLink _ _).fabPut _ _ _).fabRecord _ _ _ _
      split
      · exact (h2 _ _ _ _ _ 0).resend _ _
      · exact h2 _ _ _ _ _ 0
  · exact outSound_fault _

@[simp] theorem OutSound.execWavelengthRejoin (h : Sound k s) (link w : Nat) : OutSound k (Machine.execWavelengthRejoin link w s) := by
  unfold Machine.execWavelengthRejoin
  dsimp only
  repeat' split
  any_goals exact outSound_fault _
  all_goals simp [h]

@[simp] theorem OutSound.execLaserFault (h : Sound k s) (port : Nat) : OutSound k (Machine.execLaserFault port s) := by
  unfold Machine.execLaserFault
  repeat' split
  any_goals exact outSound_fault _
  all_goals simp [h]

@[simp] theorem OutSound.execLinkDownTimeout (h : Sound k s) (link : Nat) : OutSound k (Machine.execLinkDownTimeout link s) := by
  unfold Machine.execLinkDownTimeout
  dsimp only
  repeat' split
  any_goals exact outSound_fault _
  all_goals simp [h]

@[simp] theorem OutSound.execPeerIncarnationChange (h : Sound k s) (chip inc : Nat) : OutSound k (Machine.execPeerIncarnationChange chip inc s) := by
  unfold Machine.execPeerIncarnationChange
  dsimp only
  split
  · exact outSound_fault _
  refine OutSound.either (outSound_fault _) ?_
  split
  · exact outSound_next.mpr (h.setLink _ _)
  · have h1 : Sound k ((s.failReqs 0xB0 (fun o => o.chip = chip)).failCmds 0xB0 ((s.failReqs 0xB0 (fun o => o.chip = chip)).cmdNames chip)) :=
      (h.failReqs _ _).failCmds _ _
    generalize (s.failReqs 0xB0 (fun o => o.chip = chip)).failCmds 0xB0 ((s.failReqs 0xB0 (fun o => o.chip = chip)).cmdNames chip) = s1 at h1
    generalize hs2 : List.foldl _ s1 (List.range 8) = s2
    have h2 : Sound k s2 := by
      rw [← hs2]
      exact h1.foldl (fun t d ht => (Sound.either ht (ht.setSched _ _)).foldl (fun _ _ hu => hu.tcDec _ _) _) _
    refine outSound_next.mpr (Sound.setLink (Sound.fabRecord ?_ _ _ _ _) _ _)
    exact h2.of_eq rfl rfl

@[simp] theorem OutSound.execCpyxRun (h : Sound k s) (cmd : Nat) : OutSound k (Machine.execCpyxRun cmd s) := by
  unfold Machine.execCpyxRun
  dsimp only
  split
  · exact outSound_fault _
  split
  · refine OutSound.choice (h.cmdFault _ _) (OutSound.choice ((h.setCmd _).foldl (fun _ _ ht => ht.send _ _ _) _) ?_)
    split
    · exact outSound_next.mpr ((h.fabRecord _ _ _ _).cmdFault _ _)
    · refine OutSound.either (outSound_fault _) (OutSound.choice ?_ (outSound_next.mpr ?_))
      · exact ((h.setLink _ _).setCmd _).fabPut _ _ _
      · exact ((h.setCmd _).fabPut _ _ _).rxOpen _ _ _ _ _
  · split
    · exact outSound_fault _
    · split
      · next t ht => exact outSound_next.mpr (h.cpyxData _ _ _ _ _ t ht)
      · exact outSound_fault _
  · exact outSound_fault _

@[simp] theorem OutSound.execCpyxCompletion (h : Sound k s) (cmd : Nat) : OutSound k (Machine.execCpyxCompletion cmd s) := by
  unfold Machine.execCpyxCompletion
  dsimp only
  repeat' split
  any_goals exact outSound_fault _
  all_goals simp [h]

@[simp] theorem OutSound.execMcxRun (h : Sound k s) (cmd : Nat) : OutSound k (Machine.execMcxRun cmd s) := by
  unfold Machine.execMcxRun
  dsimp only
  split
  · exact outSound_fault _
  split
  · refine outSound_next.mpr ?_
    split
    · exact h.cmdFault _ _
    · next bs t heq =>
      have ht : Sound k t := engOk_engRead _ _ _ _ _ s bs t h heq
      refine Sound.setCmd ?_ _
      exact ht
  · split
    · exact outSound_fault _
    · refine OutSound.either (outSound_fault _) (outSound_next.mpr ?_)
      split
      · exact h.cmdFault _ _
      · exact (h.setCmd _).mcData _ _
  · exact outSound_fault _

@[simp] theorem OutSound.execMcastSplit (h : Sound k s) (m : Nat) : OutSound k (Machine.execMcastSplit m s) := by
  unfold Machine.execMcastSplit
  dsimp only
  split
  · next d _ _ _ =>
    refine OutSound.either (outSound_fault _) (outSound_next.mpr ?_)
    have hparts (l : List (Nat × Nat × List Nat)) (e : McDesc) : Sound k (l.foldl (fun (t : State) p =>
        t.fabPut p.1 2 (t.newFlit p.2.1 .mcast (.mcast d.org d.cmd d.dst d.len p.2.2 d.user))) (s.setMcast e)) :=
      (h.setMcast _).foldl (fun _ _ ht => ht.fabPut _ _ _) _
    generalize hs2 : @ite State (d.left = 0) _ _ _ = s2
    have h2 : Sound k s2 := by
      rw [← hs2]
      refine Sound.either (hparts _ _) ((hparts _ _).foldl (fun t l ht => ?_) _)
      split
      · exact ht.setLink _ _
      · exact ht
    have h3 (l : List Nat) (f : Nat → Nat) : Sound k (l.foldl (fun (t : State) i => t.fabRecord none 0 .fabNoroute (f i)) s2) :=
      h2.foldl (fun _ _ ht => ht.fabRecord _ _ _ _) _
    exact Sound.either (h3 _ _) (Sound.either ((h3 _ _).fabSend _ _ _ _) ((h3 _ _).noteDone _ _))
  · exact outSound_fault _

@[simp] theorem OutSound.execContextSwap (h : Sound k s) (core slot : Nat) : OutSound k (Machine.execContextSwap core slot s) := by
  unfold Machine.execContextSwap
  repeat' split
  any_goals exact outSound_fault _
  all_goals simp [h]

@[simp] theorem OutSound.execQuantumBoundary (h : Sound k s) (core : Nat) : OutSound k (Machine.execQuantumBoundary core s) := by
  refine OutSound.either (outSound_fault _) (outSound_next.mpr ((h.setCore _ _).foldl (fun t a ht => ?_) _))
  split
  · exact Sound.either (ht.swap _ _) ht
  · exact ht

@[simp] theorem OutSound.execSpillRequest (h : Sound k s) (c : Nat) : OutSound k (Machine.execSpillRequest c s) := by
  unfold Machine.execSpillRequest
  repeat' split
  any_goals exact outSound_fault _
  all_goals simp [h, h.ctx? ‹_›]

@[simp] theorem OutSound.execSpillStart (h : Sound k s) (c : Nat) : OutSound k (Machine.execSpillStart c s) := by
  unfold Machine.execSpillStart
  repeat' split
  any_goals exact outSound_fault _
  all_goals simp [h, h.ctx? ‹_›]

@[simp] theorem OutSound.execSpillComplete (h : Sound k s) (c : Nat) : OutSound k (Machine.execSpillComplete c s) := by
  unfold Machine.execSpillComplete
  dsimp only
  split
  · exact outSound_fault _
  next x hx =>
  have hok : CtxOk k x := h.ctx? hx
  refine OutSound.either (outSound_fault _) ?_
  split
  · exact outSound_fault _
  · refine outSound_next.mpr (Sound.spillDone ?_ _)
    exact ((h.putPages _ _).withFree _).setCtx hok

@[simp] theorem OutSound.execSpillAccessFault (h : Sound k s) (c : Nat) : OutSound k (Machine.execSpillAccessFault c s) := by
  unfold Machine.execSpillAccessFault
  repeat' split
  any_goals exact outSound_fault _
  all_goals simp [h, h.ctx? ‹_›]

@[simp] theorem OutSound.execFillStart (h : Sound k s) (c : Nat) : OutSound k (Machine.execFillStart c s) := by
  unfold Machine.execFillStart
  repeat' split
  any_goals exact outSound_fault _
  all_goals simp [h, h.ctx? ‹_›]

@[simp] theorem OutSound.execFillComplete (h : Sound k s) (c : Nat) : OutSound k (Machine.execFillComplete c s) := by
  unfold Machine.execFillComplete
  dsimp only
  split
  · exact outSound_fault _
  next x hx =>
  have hok : CtxOk k x := h.ctx? hx
  refine OutSound.either (outSound_fault _) ?_
  split
  · exact outSound_fault _
  · refine OutSound.either (outSound_next.mpr (Sound.spillDone ?_ _)) (outSound_next.mpr (Sound.spillDone (Sound.setCore ?_ _ _) _))
    · exact h.setCtx ((ctxOk_spillError _ _ _).mpr hok)
    · exact h.setCtx hok

@[simp] theorem OutSound.execCdieResetRecover (h : Sound k s) (die : Nat) : OutSound k (Machine.execCdieResetRecover die s) := by
  refine OutSound.either (outSound_fault _) (outSound_next.mpr (Sound.packageRecord (Sound.foldl ?_ (fun t r ht => ht.endCard _ _) _) _ _ _ _ _ _))
  exact (h.setDie _ _).foldl (fun t l ht => Sound.either (ht.setLaunch _) (ht.nestsFail _ _)) _

@[simp] theorem OutSound.execDieLinkFailure (h : Sound k s) (link : Nat) : OutSound k (Machine.execDieLinkFailure link s) := by
  refine OutSound.either (outSound_fault _) (outSound_next.mpr (Sound.either h (Sound.packageRecord (Sound.foldl ?_ (fun t d ht => ht.fence d) _) _ _ _ _ _ _)))
  exact h

@[simp] theorem OutSound.execWatchdogExpire (h : Sound k s) (die unit : Nat) : OutSound k (Machine.execWatchdogExpire die unit s) := by
  refine OutSound.either ?_ (OutSound.either (outSound_fault _) (OutSound.choice ((h.dieReset _ _).packageRecord _ _ _ _ _ _) ?_))
  · split
    · exact OutSound.choice (h.cmdAbortAs _ _) (outSound_fault _)
    · exact outSound_fault _
  · split
    · exact outSound_fault _
    next x hx =>
    split
    · exact OutSound.choice (h.residue (h.ctx? hx) _) (outSound_fault _)
    · exact outSound_fault _

@[simp] theorem OutSound.execScrubPass (h : Sound k s) (a : Nat) (dbl : Bool) : OutSound k (Machine.execScrubPass a dbl s) := by
  refine OutSound.either ?_ (OutSound.either ?_ (OutSound.either (outSound_fault _) ?_))
  · dsimp only
    split
    · exact outSound_fault _
    next x hx =>
    have hx' : CtxOk k x.retireError := ctxOk_retireError.mpr (h.ctx? hx)
    exact OutSound.choice ((Sound.setCtx (Sound.withFree (h.countSram _ _) _) hx').packageRecord _ _ _ _ _ _) (outSound_next.mpr (h.countSram _ _))
  · dsimp only
    split
    · exact outSound_fault _
    · exact outSound_next.mpr (h.setCore _ _)
  · refine OutSound.choice (Sound.either (h.countSram _ _) h) (outSound_next.mpr (Sound.packageRecord ?_ _ _ _ _ _ _))
    exact Sound.of_eq (Sound.either (h.countSram _ _) h) rfl rfl

@[simp] theorem OutSound.execLaunchPacketTake (h : Sound k s) (q : Nat) : OutSound k (Machine.execLaunchPacketTake q s) := by
  have h0 (n : Nat) : Sound k { s with xdie := { s.xdie with lqNext := n } } := h
  refine OutSound.either (outSound_fault _) ?_
  dsimp only
  split
  · exact outSound_next.mpr ((((h0 _).packageRecord _ _ _ _ _ _).packetCairn _).lqAdvance _)
  · refine OutSound.choice ((((h0 _).packageRecord _ _ _ _ _ _).packetCairn _).lqAdvance _) (outSound_next.mpr (Sound.lqAdvance (Sound.setLq ?_ _ _) _))
    exact h

@[simp] theorem OutSound.execQueueParityError (h : Sound k s) (m : Nat) : OutSound k (Machine.execQueueParityError m s) := by
  unfold Machine.execQueueParityError
  dsimp only
  split
  · split
    · exact OutSound.choice (h.cmdAbortAs _ _) (outSound_fault _)
    · exact outSound_fault _
  · split
    · exact OutSound.either (outSound_fault _) (outSound_next.mpr (h.recordAbort _ _))
    · exact outSound_fault _
  · split
    · exact outSound_next.mpr (h.cardAbort _ _)
    · exact outSound_fault _
  · exact OutSound.choice (((h.packageRecord _ _ _ _ _ _).packetCairn _).lqAdvance _) (outSound_fault _)

@[simp] theorem OutSound.execHostBar2Access (h : Sound k s) (a : HostAccess) : OutSound k (Machine.execHostBar2Access a s) := by
  refine OutSound.either (outSound_fault _) (outSound_next.mpr ?_)
  split
  · exact h.hostFault _ _
  split
  · exact h
  · exact h.foldl (fun _ _ ht => ht.send _ _ _) _

@[simp] theorem OutSound.execHostAtomicop (h : Sound k s) (a : HostAtomic) : OutSound k (Machine.execHostAtomicop a s) := by
  refine OutSound.either (outSound_fault _) (outSound_next.mpr ?_)
  split
  · exact h.hostFault _ _
  · exact h.foldl (fun _ _ ht => ht.send _ _ _) _

@[simp] theorem OutSound.execHostLinkDown (h : Sound k s) : OutSound k (Machine.execHostLinkDown s) := by
  have h1 (n : Nat) (x : XDie) : Sound k { s with free := n, xdie := x } := h
  exact outSound_next.mpr (Sound.either (h1 _ _).moduleReset (h1 _ _))

@[simp] theorem OutSound.execBar2Resize (h : Sound k s) (size : Nat) : OutSound k (Machine.execBar2Resize size s) := by
  unfold Machine.execBar2Resize
  repeat' split
  any_goals exact outSound_fault _
  all_goals simp [h]

@[simp] theorem OutSound.execPowerManagerTick (h : Sound k s) : OutSound k (Machine.execPowerManagerTick s) := by
  unfold Machine.execPowerManagerTick
  repeat' split
  any_goals exact outSound_fault _
  all_goals simp [h]

@[simp] theorem OutSound.execHitalBoot (h : Sound k s) (ok : Bool) : OutSound k (Machine.execHitalBoot ok s) := by
  have h1 (x : XDie) : Sound k { s with xdie := x } := h
  exact outSound_next.mpr (Sound.either (h1 _) ((h1 _).packageRecord _ _ _ _ _ _))

/-! ### Every step -/

/-- What any instruction or event leads to. -/
theorem OutSound.exec (h : Sound k s) (i : Instr) : OutSound k (exec i s) := by
  cases i <;> dsimp only [Machine.exec]
  case add | sub | and | or | xor | andn | sll | srl | sra | min | max | minu | maxu | mul | mulh | mulhu | div | divu | rem | remu | clz |
      ctz | popc | bfx => exact OutSound.execInt h _ _ _
  case addi | andi => exact OutSound.execImm h _ _ _
  case slli | srli | srai => exact OutSound.execShift h _ _ _
  case padd | pset | pget | vfclass | vfscale | vcvt | vcvtb | cmp | cmpi | sel | vperm | vext | vins | mlog | mfirst | mpop | viota | vcomp
      | mrange | cMov | cFan | cZfill | cIsnull => exact OutSound.fireTok h _ _
  case vfadd | vfsub | vfmul | vfdiv | vfmin | vfmax | vfsgn => exact h.fpTwo _ _ _
  case vfsqrt | vfabs | vfneg | vfrcp | vfrsq | vflogb | vfrnd => exact h.fpOne _ _ _
  case vfma | vfms | vfnma | vfnms => exact h.fpThree _ _ _ _
  case vsumO | vsumT | vminR | vmaxR | vandR | vorR => exact h.reduce _ _ _ _
  case vfeq | vflt | vfle | vfun => exact h.fpCompare _ _ _ _
  case ld | lds | ldg | ldff | ldgff | ldb => exact h.vecLoad _ _ _ _ _ _ _
  case ldx | lda => exact h.oneLoad _ _ _ _
  case ldm | waitv => exact OutSound.fireLoad h _ _
  case ldref | ldrefH => exact h.refLoad _ _ _
  case st | sts | stg => exact h.vecStore _ _ _ _ _
  case stx | stl => exact h.oneStore _ _ _ _
  case stm => exact OutSound.fireStore h _ _
  case waitc | trigger | setrecov | csrw | esack | bar => exact OutSound.fireWhole h _ _
  case amoAdd | amoAnd | amoOr | amoXor | amoMin | amoMax | amoSwap | amoCas => exact h.fireAtomic _ _ _
  case br | brCall | brInd | brRet | brStrip | brEs | loop | yield | rtp | fin => exact OutSound.fireExit h _ _
  case loopc | loopw => exact h.loopSetup _ _ _
  case cVl | cSb | cEidx | cLi | cNull | cNullv | cNullm => exact h.comp0 _ _
  case cNeg | cNot | cInc | cDec | cShl1 | cShr1 | cSar1 | cIsz | cNez => exact h.comp1 _ _ _
  case cSext32 | cZext32 => exact h.compScalar _ _
  case cAdd | cSub | cAnd | cOr | cXor => exact h.comp2 _ _ _
  case cNullif | cKeepif => exact h.compMaskIf _ _
  case tz | opa | mvvt | mvtv | ldt | stt | scld | gemmT | gemmTPair | cholT | trsmT | syrkT | qrT => exact h.fireMx _ _
  case cpy | hpRelocate | hpEpoch | rgLoad => exact OutSound.fireCmd h _ _ _ _ _
  case cpyRec | cpy2 | cpy3 | cpyg | cpyr | cpyx | meshInit | meshAdapt | nbrStream | colBuild | meshFree | mcx | lbCut | lbMigrate |
      ghostSync => exact h.fireRecord _ _ _
  case rtDecl | rtPush | rtTake | rtDone | rtStat | rtDrain | rtSeed => exact OutSound.fireOp h _ _
  case cardPost | cardSig | futWait | futSet | jobq => exact OutSound.fireCard h _ _ _
  case meshOpen | meshClose => exact h.fireMeshOp _ _
  case nbrLd | nbrLd2 => exact h.fireNbr _ _ _ _
  case pin | unpin | refeq | hpMake => exact OutSound.fireHeap h _ _ _ _
  case ldk => exact OutSound.execLdk h _
  case stref => exact OutSound.execStref h _
  case stk => exact OutSound.execStk h _
  case fence => exact OutSound.execFence h _
  case csrr => exact OutSound.execCsrr h _
  case cSn => exact OutSound.execCSn h _
  case vsaddCol => exact OutSound.execVsaddCol h _
  case pitchEntry => exact OutSound.execPitchEntry h _
  case speculativeStart => exact OutSound.execSpeculativeStart h _
  case loadResponse => exact OutSound.execLoadResponse h _
  case atomicResponse => exact OutSound.execAtomicResponse h _
  case commandResultReturn => exact OutSound.execCommandResultReturn h _
  case pitchQuiescence => exact OutSound.execPitchQuiescence h _
  case belay => exact OutSound.execBelay h _
  case strandRetire => exact OutSound.execStrandRetire h _
  case matrixApply => exact OutSound.execMatrixApply h _ _
  case matrixStep => exact OutSound.execMatrixStep h _
  case matrixPassOver => exact OutSound.execMatrixPassOver h _ _
  case pairTimerExpire => exact OutSound.execPairTimerExpire h _
  case waitcComplete => exact OutSound.execWaitcComplete h _
  case waitvValueChange => exact OutSound.execWaitvValueChange h _
  case waitvTimeout => exact OutSound.execWaitvTimeout h _
  case contextSwap => exact OutSound.execContextSwap h _ _
  case spillRequest => exact OutSound.execSpillRequest h _
  case spillStart => exact OutSound.execSpillStart h _
  case spillComplete => exact OutSound.execSpillComplete h _
  case spillAccessFault => exact OutSound.execSpillAccessFault h _
  case fillStart => exact OutSound.execFillStart h _
  case fillComplete => exact OutSound.execFillComplete h _
  case quantumBoundary => exact OutSound.execQuantumBoundary h _
  case coxPlace => exact OutSound.execCoxPlace h _ _
  case cardDispatch => exact OutSound.execCardDispatch h _
  case nestLaunch => exact OutSound.execNestLaunch h _
  case cardSignalAtHome => exact OutSound.execCardSignalAtHome h _
  case cardPostAtHome => exact OutSound.execCardPostAtHome h _
  case cardComplete => exact OutSound.execCardComplete h _
  case futWaitAtHome => exact OutSound.execFutWaitAtHome h _
  case futSetAtHome => exact OutSound.execFutSetAtHome h _
  case proxyBatchSend => exact OutSound.execProxyBatchSend h _ _
  case jobFlushRound => exact OutSound.execJobFlushRound h _
  case copyCommandStart => exact OutSound.execCopyCommandStart h _
  case copyComplete => exact OutSound.execCopyComplete h _
  case engineFault => exact OutSound.execEngineFault h _
  case commandResume => exact OutSound.execCommandResume h _
  case commandAbort => exact OutSound.execCommandAbort h _
  case storeResponseError => exact OutSound.execStoreResponseError h _
  case cpyrRun => exact OutSound.execCpyrRun h _
  case meshInitRun => exact OutSound.execMeshInitRun h _
  case meshAdaptRun => exact OutSound.execMeshAdaptRun h _
  case meshFreeRun => exact OutSound.execMeshFreeRun h _
  case nbrStreamRun => exact OutSound.execNbrStreamRun h _
  case colBuildRun => exact OutSound.execColBuildRun h _
  case meshOpenAtHome => exact OutSound.execMeshOpenAtHome h _
  case meshCloseAtHome => exact OutSound.execMeshCloseAtHome h _
  case nbrQueryAtHome => exact OutSound.execNbrQueryAtHome h _
  case homeRequest => exact OutSound.execHomeRequest h _
  case sharerAckTimeout => exact OutSound.execSharerAckTimeout h _
  case hpRelocateRun => exact OutSound.execHpRelocateRun h _
  case relocationCopyDone => exact OutSound.execRelocationCopyDone h _
  case relocationCopyFault => exact OutSound.execRelocationCopyFault h _
  case hpEpochRun => exact OutSound.execHpEpochRun h _
  case lbCutRun => exact OutSound.execLbCutRun h _
  case lbMigrateRun => exact OutSound.execLbMigrateRun h _
  case ghostSyncRun => exact OutSound.execGhostSyncRun h _
  case cpyxRun => exact OutSound.execCpyxRun h _
  case cpyxCompletion => exact OutSound.execCpyxCompletion h _
  case mcxRun => exact OutSound.execMcxRun h _
  case mcastSplit => exact OutSound.execMcastSplit h _
  case rgLoadRun => exact OutSound.execRgLoadRun h _
  case regattaSwitch => exact OutSound.execRegattaSwitch h
  case routerCmdDecl => exact OutSound.execRouterCmdDecl h _
  case routerCmdPush => exact OutSound.execRouterCmdPush h _
  case routerPushAdmit => exact OutSound.execRouterPushAdmit h _
  case routerCmdTake => exact OutSound.execRouterCmdTake h _
  case routerTakeServe => exact OutSound.execRouterTakeServe h _
  case routerCmdDone => exact OutSound.execRouterCmdDone h _
  case routerWindowTimer => exact OutSound.execRouterWindowTimer h _ _
  case routerCmdStat => exact OutSound.execRouterCmdStat h _
  case routerCmdDrain => exact OutSound.execRouterCmdDrain h _
  case routerCmdSeed => exact OutSound.execRouterCmdSeed h _
  case rtlfsrWrite => exact OutSound.execRtlfsrWrite h _ _
  case scinvWrite => exact OutSound.execScinvWrite h _ _
  case meusePeakClear => exact OutSound.execMeusePeakClear h _ _
  case mxslotWrite => exact OutSound.execMxslotWrite h _ _
  case slotTableSwitch => exact OutSound.execSlotTableSwitch h _
  case registerWrite => exact OutSound.execRegisterWrite h _ _
  case drstWrite => exact OutSound.execDrstWrite h _ _
  case cdieResetRecover => exact OutSound.execCdieResetRecover h _
  case watchdogExpire => exact OutSound.execWatchdogExpire h _ _
  case scrubPass => exact OutSound.execScrubPass h _ _
  case queueParityError => exact OutSound.execQueueParityError h _
  case dieLinkFailure => exact OutSound.execDieLinkFailure h _
  case launchDoorbell => exact OutSound.execLaunchDoorbell h _ _
  case launchPacketTake => exact OutSound.execLaunchPacketTake h _
  case msitrigWrite => exact OutSound.execMsitrigWrite h _ _
  case featureCommit => exact OutSound.execFeatureCommit h _ _
  case tlbWrite => exact OutSound.execTlbWrite h _ _
  case tlbRead => exact OutSound.execTlbRead h _ _
  case tlbInval => exact OutSound.execTlbInval h _ _
  case tlbCmdDrain => exact OutSound.execTlbCmdDrain h _
  case bar2mapWrite => exact OutSound.execBar2mapWrite h _ _
  case hostBar2Access => exact OutSound.execHostBar2Access h _
  case hostAtomicop => exact OutSound.execHostAtomicop h _
  case islandMaxWrite => exact OutSound.execIslandMaxWrite h _ _
  case powerManagerTick => exact OutSound.execPowerManagerTick h
  case hitalBoot => exact OutSound.execHitalBoot h _
  case keyRollover => exact OutSound.execKeyRollover h _ _
  case heatStart => exact OutSound.execHeatStart h
  case heatDurEnd => exact OutSound.execHeatDurEnd h
  case flitReceive => exact OutSound.execFlitReceive h _ _
  case ackTimer => exact OutSound.execAckTimer h _
  case ackReceive => exact OutSound.execAckReceive h _ _
  case resendTimeout => exact OutSound.execResendTimeout h _
  case lossOfLightDetect => exact OutSound.execLossOfLightDetect h _ _
  case laneReceive => exact OutSound.execLaneReceive h _ _
  case wavelengthRejoin => exact OutSound.execWavelengthRejoin h _ _
  case linkDownTimeout => exact OutSound.execLinkDownTimeout h _
  case keyRetireReceive => exact OutSound.execKeyRetireReceive h _ _
  case peerIncarnationChange => exact OutSound.execPeerIncarnationChange h _ _
  case flitSend => exact OutSound.execFlitSend h _
  case laserFault => exact OutSound.execLaserFault h _
  case hostLinkDown => exact OutSound.execHostLinkDown h
  case bar2Resize => exact OutSound.execBar2Resize h _

@[simp] theorem Sound.after (h : Sound k s) : Sound k s.after := by
  unfold State.after
  exact ((((h.noticeWatches).noteBlocks).refillQueues).askFills).keepPeaks

theorem OutSound.tick {o : Out} (ho : OutSound k o) : OutSound k (tick o) := by
  cases o with
  | next t => exact outSound_next.mpr (outSound_next.mp ho).after
  | fault f => exact outSound_fault f
  | refused r => exact outSound_refused r

theorem OutSound.endFiring {o : Out} (ho : OutSound k o) : OutSound k (endFiring o) := by
  cases o with
  | next t =>
    have ht : Sound k t := outSound_next.mp ho
    exact outSound_next.mpr ht
  | fault f => exact outSound_fault f
  | refused r => exact outSound_refused r

theorem OutSound.fireAt (h : Sound k s) (c : Nat) (spec : Bool) (idx : Nat) : OutSound k (s.fireAt c spec idx) := by
  unfold State.fireAt
  split
  · exact outSound_fault _
  split
  · exact outSound_fault _
  · refine OutSound.endFiring (OutSound.exec ?_ _)
    exact h

/-- An event keeps the invariant. -/
abbrev EventOk (k : Inv) (e : State → Out) : Prop := ∀ s, Sound k s → OutSound k (e s)

theorem eventOk_msgEvents (m : Msg) : ∀ e ∈ msgEvents m, EventOk k e := by
  unfold msgEvents
  split <;> simp +contextual [EventOk]

theorem eventOk_ctxEvents (x : Ctx) : ∀ e ∈ ctxEvents x, EventOk k e := by
  unfold ctxEvents
  simp +contextual [or_imp, forall_and, EventOk]

theorem eventOk_cmdEvents (c : Cmd) : ∀ e ∈ cmdEvents c, EventOk k e := by
  unfold cmdEvents
  refine List.forall_mem_cons.mpr ⟨fun _ h => OutSound.execEngineFault h _, ?_⟩
  split <;> simp +contextual [EventOk]

theorem eventOk_unitEvents (s : State) : ∀ e ∈ s.unitEvents, EventOk k e := by
  intro e he t ht
  simp only [State.unitEvents, List.mem_append, List.mem_map, List.mem_flatMap, List.mem_cons, List.not_mem_nil, or_false, or_assoc] at he
  obtain ⟨q, -, rfl⟩ | ⟨l, -, rfl | ⟨w, -, rfl⟩⟩ | ⟨c, -, rfl⟩ | ⟨r, -, rfl⟩ | ⟨d, -, p, -, rfl⟩ | ⟨j, -, rfl⟩ | ⟨c, -, r, -, rfl⟩ | ⟨p, -, rfl⟩ | ⟨c, -, rfl⟩ |
    ⟨b, -, rfl⟩ | ⟨d, -, rfl⟩ | ⟨m, -, rfl⟩ | ⟨l, -, rfl | rfl | rfl | rfl⟩ | ⟨i, -, rfl⟩ | rfl | rfl | rfl | rfl := he
  all_goals simp [ht]

theorem mem_of_mem_rotateLeft {α : Type} {l : List α} {n : Nat} {a : α} (ha : a ∈ l.rotateLeft n) : a ∈ l := by
  unfold List.rotateLeft at ha
  dsimp only at ha
  split at ha
  · exact ha
  · exact (List.mem_append.mp ha).elim List.mem_of_mem_drop List.mem_of_mem_take

theorem eventOk_ownEvents (s : State) : ∀ e ∈ s.ownEvents, EventOk k e := by
  intro e he
  have he' : e ∈ s.mayHappen := mem_of_mem_rotateLeft he
  simp only [State.mayHappen, List.mem_append, List.mem_flatMap] at he'
  obtain ((⟨m, -, he⟩ | ⟨x, -, he⟩) | ⟨c, -, he⟩) | he := he'
  · exact eventOk_msgEvents m e he
  · exact eventOk_ctxEvents x e he
  · exact eventOk_cmdEvents c e he
  · exact eventOk_unitEvents s e he

theorem Sound.tryAll (h : Sound k s) : SomeSound k (s.tryAll s.ownEvents) := by
  intro t ht
  obtain ⟨e, he, hs⟩ := List.exists_of_findSome?_eq_some ht
  unfold State.try? at hs
  split at hs
  · next u hu =>
    cases hs
    exact eventOk_ownEvents s e he s h _ hu
  · cases hs

/-- Every step keeps the invariant. -/
theorem OutSound.step (h : Sound k s) : OutSound k (step s) := by
  unfold Machine.step
  split
  · refine OutSound.tick (OutSound.exec ?_ _)
    exact h
  · refine OutSound.tick (OutSound.fireAt ?_ _ _ _)
    exact h
  split
  · exact OutSound.tick (OutSound.fireAt h _ _ _)
  split
  · next t ht => exact outSound_next.mpr (h.tryAll t ht).after
  · exact outSound_next.mpr h.after

end States

/-- Settles O53: memory is written by stores only, and a store keeps its canonical form. -/
theorem everyStepKeepsMemoryForm : Obligations.EveryStepKeepsMemoryForm :=
  fun s _ h ht => sound_canonical.mp (OutSound.step (s := s) (sound_canonical.mpr h) _ ht)

/-- Settles O54: SUP and INTRAP are set together by a trap and cleared together by its return, and nothing else writes them. -/
theorem everyStepKeepsModeAndTrap : Obligations.EveryStepKeepsModeAndTrap :=
  fun s _ h ht => sound_mode.mp (OutSound.step (s := s) (sound_mode.mpr h) _ ht)

end Sys2Proof.Machine

end

section

namespace Sys2Proof.Machine

open Sys2Proof.Claims

/-! ### What the belay leaves of a strand (R27) -/

section Strand

theorem Ctx.setEs_eq (x : Ctx) (n : Nat) (e : EsState) : x.setEs n e = { x with es := (x.setEs n e).es } := by
  unfold Ctx.setEs
  split <;> rfl

/-- The es slots and their view alone change as the commands of a pitch are issued. -/
theorem Ctx.esAfter_eq (x : Ctx) (ex : Exec) : x.esAfter ex = { x with es := (x.esAfter ex).es, esAt := (x.esAfter ex).es } := by
  have hfold (l : List (Nat × Effect)) (f : Ctx → Nat × Effect → Ctx) (hf : ∀ z b, f z b = { z with es := (f z b).es }) (z : Ctx) :
      l.foldl f z = { z with es := (l.foldl f z).es } := by
    induction l generalizing z with
    | nil => rfl
    | cons b l ih =>
      rw [List.foldl_cons, ih (f z b), hf z b]
  unfold Ctx.esAfter
  dsimp only
  rw [hfold ex.inOrder _ (fun z b => ?_) x]
  split
  · exact z.setEs_eq _ _
  · exact z.setEs_eq _ _
  · rfl

/-- Pitches that become complete write the register files alone. -/
theorem Ctx.flushAfter_eq (x : Ctx) (waiting ps : List PendPitch) :
    x.flushAfter waiting ps = { x.withRegs (x.flushAfter waiting ps) with pend := (x.flushAfter waiting ps).pend } := by
  induction ps generalizing x waiting with
  | nil => rfl
  | cons p ps ih =>
    unfold Ctx.flushAfter
    split
    · rw [ih, x.applyWrites_eq]
      rfl
    · exact ih x _

/-- What the belay leaves of its strand: the exit and the csrw writes, the es slots, and the register files. -/
theorem Ctx.commit_eq (x : Ctx) (ex : Exec) (fx : ExitFx) (b : Belay) (w : List Wait) :
    x.commit ex fx b w = { (x.withFlow (x.commit ex fx b w)).withRegs (x.commit ex fx b w) with
      cur := none, stts := (x.commit ex fx b w).stts, waits := (x.commit ex fx b w).waits, mismatch := false
      triggered := (x.commit ex fx b w).triggered, es := (x.commit ex fx b w).es, esAt := (x.commit ex fx b w).esAt
      pend := (x.commit ex fx b w).pend } := by
  unfold Ctx.commit
  dsimp only
  rw [Ctx.flushPend, Ctx.flushAfter_eq, Ctx.esAfter_eq, x.afterPitch_eq ex fx]
  rfl

variable {x : Ctx} {ex : Exec} {fx : ExitFx} {b : Belay} {w : List Wait}

@[simp] theorem Ctx.commit_id : (x.commit ex fx b w).id = x.id := by rw [Ctx.commit_eq]; rfl
@[simp] theorem Ctx.commit_spec : (x.commit ex fx b w).spec = x.spec := by rw [Ctx.commit_eq]; rfl
@[simp] theorem Ctx.commit_cur : (x.commit ex fx b w).cur = none := by rw [Ctx.commit_eq]

end Strand

/-! ### What the requests of a belay leave of the machine -/

section Requests

variable {s : State} {b : Belay}

/-- Noting a request changes its core alone (R183). -/
theorem State.noteSent_eq (s : State) (c : Nat) (m : Msg) : s.noteSent c m = { s with cores := (s.noteSent c m).cores } := by
  unfold State.noteSent
  dsimp only
  repeat' split
  all_goals rfl

/-- A request of a belay goes to the end of those in flight; its core notes it. -/
theorem Belay.sendIn_eq (b : Belay) (grp : Nat) (x : Ctx) (cls : Nat) (body : Body) :
    (b.sendIn grp x cls body).s = { b.s with
      net := b.s.net ++ [⟨b.s.nextId, .ctx x.id, cls, body, none, grp, b.s.srcEpoch (.ctx x.id), none⟩], nextId := b.s.nextId + 1
      cores := (b.sendIn grp x cls body).s.cores } := by
  unfold Belay.sendIn
  dsimp only
  split
  · split
    · rw [State.noteSent_eq]
      rfl
    · rfl
  · rfl

/-- Counting for a job touches the job's counts and rounds alone. -/
theorem State.tcInc_eq (s : State) (d j : Nat) : s.tcInc d j = { s with sched := (s.tcInc d j).sched, rounds := (s.tcInc d j).rounds } := by
  unfold State.tcInc State.jobRise State.jobUpd
  dsimp only
  split <;> rfl

theorem State.srcEpoch_tcInc (s : State) (d j : Nat) (a : Src) : (s.tcInc d j).srcEpoch a = s.srcEpoch a := by
  rw [State.tcInc_eq]
  cases a <;> rfl

end Requests

/-! ### Folds in which one index acts -/

theorem foldl_eq_self {α β : Type} {f : β → α → β} {l : List α} (hf : ∀ b, ∀ a ∈ l, f b a = b) (b : β) : l.foldl f b = b := by
  induction l with
  | nil => rfl
  | cons a l ih =>
    rw [List.foldl_cons, hf b a List.mem_cons_self]
    exact ih (fun b c hc => hf b c (List.mem_cons_of_mem _ hc))

/-- Where every other index leaves its argument as it is, a fold over the indices below `n` is the one step at `k`. -/
theorem foldl_range_of_one {β : Type} {f : β → Nat → β} {n k : Nat} (hk : k < n) (hf : ∀ b i, i ≠ k → f b i = b) (b : β) :
    (List.range n).foldl f b = f b k := by
  induction n with
  | zero => omega
  | succ n ih =>
    rw [List.range_succ, List.foldl_append, List.foldl_cons, List.foldl_nil]
    by_cases hn : k = n
    · subst hn
      rw [foldl_eq_self (fun b i hi => hf b i (by have := List.mem_range.mp hi; omega))]
    · rw [ih (by omega), hf _ n (fun e => hn e.symm)]

theorem flatMap_range_of_one {α : Type} {f : Nat → List α} {n k : Nat} (hk : k < n) (hf : ∀ i, i ≠ k → f i = []) : (List.range n).flatMap f = f k := by
  induction n with
  | zero => omega
  | succ n ih =>
    rw [List.range_succ, List.flatMap_append, List.flatMap_singleton]
    by_cases hn : k = n
    · subst hn
      rw [List.flatMap_eq_nil_iff.mpr (fun i hi => hf i (by have := List.mem_range.mp hi; omega)), List.nil_append]
    · rw [ih (by omega), hf n (fun e => hn e.symm), List.append_nil]

/-! ### The belay of a pitch -/

section Belay

variable {s : State} {c n k : Nat} {x : Ctx} {ex : Exec} {fx : ExitFx} {e : Effect}

theorem inOrder_of_one (hb : ex.bufs = [(k, e)]) (hk : k < 64) : ex.inOrder = [(k, e)] := by
  unfold Exec.inOrder
  rw [flatMap_range_of_one hk (fun i hi => ?_), hb]
  · simp
  · rw [hb]
    simp [Ne.symm hi]

theorem inOrder_of_none (hb : ex.bufs = []) : ex.inOrder = [] := by
  unfold Exec.inOrder
  simp [hb]

theorem releasePitch_of_none (hb : ex.bufs = []) (hs : ex.mx.stt = []) : s.releasePitch x ex = ⟨s, [], [], []⟩ := by
  unfold State.releasePitch
  simp only [hb, hs, List.filter_nil, List.foldl_nil]
  rw [foldl_eq_self (fun _ _ _ => rfl), foldl_eq_self (fun _ _ _ => rfl)]

/-- The issue of a pitch's one effect, which is no access. -/
theorem releasePitch_of_issue (hb : ex.bufs = [(k, e)]) (hs : ex.mx.stt = []) (hk : k < 64) (he : e.lsid? = none) :
    s.releasePitch x ex = Belay.issue ⟨s, [], [], []⟩ x ex k e := by
  unfold State.releasePitch
  simp only [hb, hs, he, List.filter_nil, List.foldl_nil, List.foldl_cons, reduceCtorEq, if_false]
  rw [foldl_eq_self (fun _ _ _ => rfl), foldl_range_of_one hk (fun b i hi => ?_)]
  · simp
  · simp [Ne.symm hi]

/-- The release of a pitch's one access, of which the later steps make nothing. -/
theorem releasePitch_of_access {l : Nat} (hb : ex.bufs = [(k, e)]) (hs : ex.mx.stt = []) (hl : l < 32) (he : e.lsid? = some l)
    (hi : ∀ b : Belay, b.issue x ex k e = b) : s.releasePitch x ex = Belay.access ⟨s, [], [], []⟩ x ex k e := by
  unfold State.releasePitch
  simp only [hb, hs, he, List.filter_nil, List.foldl_nil, List.foldl_cons]
  rw [foldl_eq_self (fun b i _ => ?_), foldl_range_of_one hl (fun b i hi => ?_)]
  · simp
  · simp [Ne.symm hi]
  · by_cases h : k = i
    · subst h
      simp [hi]
    · simp [h]

/-- Effects that no waiting and no barrier follows. -/
def calm : Effect → Bool
  | .bar .. | .waitc .. => false
  | _ => true

theorem arrivals_of_calm (t : State) (hc : ∀ b ∈ ex.inOrder, calm b.2 = true) : t.arrivals x ex = t := by
  refine foldl_eq_self (fun u b hb => ?_) t
  have h := hc b hb
  split
  · next he => rw [he] at h; cases h
  · rfl

theorem waitcs_of_calm (t : State) (y : Ctx) (hc : ∀ b ∈ ex.inOrder, calm b.2 = true) : t.waitcs y ex = [] := by
  refine List.filterMap_eq_nil_iff.mpr (fun b hb => ?_)
  have h := hc b hb
  split
  · next he => rw [he] at h; cases h
  · rfl

/-- Without tiles or scales to commit, the matrix unit leaves all as it is (R203). -/
theorem mxCommit_of_none (t : State) (y : Ctx) (ht : ex.mx.tiles = []) (hs : ex.mx.scale = []) : t.mxCommit y ex = (t, y) := by
  unfold State.mxCommit
  simp [ht, hs]

/-- The belay of a pitch with one exit, other than a return from a trap, and nothing that makes its strand wait. -/
theorem exec_belay_of_calm (hrun : Running s c x ex) (hdec : ex.decided = true) (htk : ex.taken = [(n, fx)]) (hfx : fx ≠ .rtp)
    (hw : s.belayWaits x ex = false) (ht : ex.mx.tiles = []) (hsc : ex.mx.scale = []) (hsp : x.spec = none)
    (hc : ∀ b ∈ ex.inOrder, calm b.2 = true) (hctx : (s.releasePitch x ex).s.ctxs = s.ctxs) :
    exec (.belay c) s = .next (((((s.releasePitch x ex).s.detach x ex).setCtx (x.commit ex fx (s.releasePitch x ex) []))).pairBelay c) := by
  obtain ⟨hx, hpl, hcur⟩ := hrun
  have hid : x.id = c := ctx?_id hx
  rw [exec_belay]
  unfold execBelay
  simp only [hx, hcur, htk, hpl, hdec, hw, ne_eq, not_true_eq_false, Bool.not_true, Bool.false_eq_true, or_self, if_false]
  rw [mxCommit_of_none _ _ ht hsc]
  dsimp only
  rw [waitcs_of_calm _ _ hc, List.append_nil, arrivals_of_calm _ hc]
  have hyid : (x.commit ex fx (s.releasePitch x ex) []).id = c := Ctx.commit_id.trans hid
  have hysp : (x.commit ex fx (s.releasePitch x ex) []).spec = none := Ctx.commit_spec.trans hsp
  generalize x.commit ex fx (s.releasePitch x ex) [] = y at hyid hysp
  have hb : ((s.releasePitch x ex).s.detach x ex).ctx? c = some x := by
    change (s.releasePitch x ex).s.ctxs.find? _ = some x
    rw [hctx]
    exact hx
  have hy : ((((s.releasePitch x ex).s.detach x ex).setCtx y).pairBelay c).ctx? c = some y := ctx?_setCtx hb hyid
  generalize (((s.releasePitch x ex).s.detach x ex).setCtx y).pairBelay c = t at hy
  have hsucc : t.succeed c = t := by
    unfold State.succeed
    rw [hy]
    dsimp only
    rw [hysp]
  cases fx
  case rtp => exact absurd rfl hfx
  all_goals exact congrArg _ hsucc

end Belay

end Sys2Proof.Machine

end

section

namespace Sys2Proof.Machine

open Sys2Proof.Claims

variable {s : State} {c n k : Nat} {x : Ctx} {ex : Exec} {fx : ExitFx} {e : Effect}

/-! ### Pitches that have buffered no effect -/

theorem pendingRegs_of_none (hp : x.pend = []) : x.pendingRegs = [] := by simp [Ctx.pendingRegs, hp]

/-- Nothing makes a belay wait that issues nothing and overtakes nothing (R27). -/
theorem belayWaits_of_none (hb : ex.bufs = []) (hp : x.pend = []) : s.belayWaits x ex = false := by
  simp [State.belayWaits, hb, pendingRegs_of_none hp]

/-- The registers of the strand at the belay of a pitch that awaits nothing (R18). -/
theorem commit_of_quiet (hp : x.pend = []) (b : Belay) (hb : b.awaits = []) (w : List Wait) :
    (x.commit ex fx b w).withRegs (belayed x ex fx) = x.commit ex fx b w ∧ (x.commit ex fx b w).withFlow (belayed x ex fx) = x.commit ex fx b w := by
  have happly (z y : Ctx) (ws : List RegWrite) (hz : z = z.withRegs y) : z.applyWrites ws = z.withRegs (y.applyWrites ws) := by
    conv_lhs => rw [hz]
    exact z.applyWrites_withRegs y ws
  unfold Ctx.commit belayed
  dsimp only
  rw [Ctx.esAfter_eq]
  simp only [hp, hb, List.nil_append, Ctx.flushPend, Ctx.flushAfter, List.isEmpty_nil, if_true, List.append_nil]
  generalize (x.afterPitch ex fx).1 = y
  generalize ex.writes (x.afterPitch ex fx).2 = ws
  rw [happly _ y ws rfl, y.applyWrites_eq]
  exact ⟨rfl, rfl⟩

theorem belayCommitsRegisters : BelayCommitsRegisters := by
  rintro s c x ex n fx ⟨hrun, hdec, htk, hb, hres, ht, hs, hsc, hp, hsp⟩ hfx
  have hrel : s.releasePitch x ex = ⟨s, [], [], []⟩ := releasePitch_of_none hb hs
  have hin : ex.inOrder = [] := inOrder_of_none hb
  have hex := exec_belay_of_calm hrun hdec htk hfx (belayWaits_of_none hb hp) ht hsc hsp (by simp [hin]) (by rw [hrel])
  obtain ⟨hx, hpl, hcur⟩ := hrun
  have hid : x.id = c := ctx?_id hx
  obtain ⟨hregs, hflow⟩ := commit_of_quiet (ex := ex) (fx := fx) hp (s.releasePitch x ex) (by rw [hrel]) []
  have hy : (((s.releasePitch x ex).s.detach x ex).setCtx (x.commit ex fx (s.releasePitch x ex) [])).ctx? c = some (x.commit ex fx (s.releasePitch x ex) []) := by
    rw [hrel]
    exact ctx?_setCtx (s := (⟨s, [], [], []⟩ : Belay).s.detach x ex) hx (Ctx.commit_id.trans hid)
  have hcu : (x.commit ex fx (s.releasePitch x ex) []).cur = none := Ctx.commit_cur
  have hne (d : Nat) (hd : d ≠ c) : (((s.releasePitch x ex).s.detach x ex).setCtx (x.commit ex fx (s.releasePitch x ex) [])).ctx? d = s.ctx? d := by
    rw [ctx?_setCtx_ne _ _ (by rw [Ctx.commit_id, hid]; exact hd), hrel]
    rfl
  generalize x.commit ex fx (s.releasePitch x ex) [] = y at *
  refine ⟨_, y, hex, hy, hcu, ?_⟩
  exact ⟨(congrArg Ctx.next hflow).symm, (congrArg Ctx.x hregs).symm, (congrArg Ctx.v hregs).symm, (congrArg Ctx.m hregs).symm, (congrArg Ctx.d hregs).symm,
    (congrArg Ctx.k hregs).symm, (congrArg Ctx.sb hflow).symm, (congrArg Ctx.sn hflow).symm, (congrArg Ctx.vl hflow).symm, (congrArg Ctx.fx hflow).symm,
    (congrArg Ctx.lp hflow).symm, (congrArg Ctx.lc hflow).symm, (congrArg Ctx.retiring hflow).symm, by rw [hrel]; rfl, by rw [hrel]; rfl, by rw [hrel]; rfl,
    hne⟩

/-! ### Pitches that have buffered one store -/

theorem belayReleasesStore : BelayReleasesStore := by
  intro s c x ex n k a lsid cls el hrun hdec htk hb hl hres ht hs hsc hp hsp
  have hw : s.belayWaits x ex = false := by simp [State.belayWaits, hb, pendingRegs_of_none hp, State.postSlot]
  have hin : ∀ b ∈ ex.inOrder, calm b.2 = true := by
    intro b hmem
    obtain ⟨i, -, hi⟩ := List.mem_flatMap.mp hmem
    have hbk := List.mem_of_mem_filter hi
    rw [hb] at hbk
    rw [List.mem_singleton.mp hbk]
    rfl
  have hrel : s.releasePitch x ex = Belay.sendIn ⟨s, [], [], []⟩ s.nextId x cls (.store el.place el.data none el.ptr) :=
    releasePitch_of_access hb hs hl rfl (fun _ => rfl)
  have heq := Belay.sendIn_eq ⟨s, [], [], []⟩ s.nextId x cls (.store el.place el.data none el.ptr)
  rw [← hrel] at heq
  have hmem : (s.releasePitch x ex).s.mem = s.mem := by rw [heq]
  have hnet : (s.releasePitch x ex).s.net = s.net ++ [⟨s.nextId, .ctx x.id, cls, .store el.place el.data none el.ptr, none, s.nextId, s.srcEpoch (.ctx x.id), none⟩] := by
    rw [heq]
  have hctx : (s.releasePitch x ex).s.ctxs = s.ctxs := by rw [heq]
  have hex := exec_belay_of_calm hrun hdec htk (by nofun) hw ht hsc hsp hin hctx
  clear heq hrel
  generalize s.releasePitch x ex = b at hex hmem hnet
  generalize x.commit ex (.goto a) b [] = y at hex
  exact ⟨_, hex, hmem, hnet⟩

/-- Settles O24: without effects the belay commits the registers alone; a buffered store becomes one request at the end of those in flight. -/
theorem belayCommits : Obligations.BelayCommits := ⟨belayCommitsRegisters, belayReleasesStore⟩

/-! ### Pitches that have buffered one command or request -/

/-- The belay of a pitch whose one effect is issued: its strand commits, what it issues leaves, and the other strands stay. -/
theorem exec_belay_of_lone (h : LoneEffect s c x ex k e) (hc : calm e = true) (he : e.lsid? = none)
    (hctx : (Belay.issue ⟨s, [], [], []⟩ x ex k e).s.ctxs = s.ctxs) :
    ∃ t a, exec (.belay c) s = .next t ∧ t.mem = (Belay.issue ⟨s, [], [], []⟩ x ex k e).s.mem ∧ t.net = (Belay.issue ⟨s, [], [], []⟩ x ex k e).s.net
      ∧ t.cmds = ((Belay.issue ⟨s, [], [], []⟩ x ex k e).s.detach x ex).cmds ∧ t.ctx? c = some (x.commit ex (.goto a) (Belay.issue ⟨s, [], [], []⟩ x ex k e) [])
      ∧ ∀ d, d ≠ c → t.ctx? d = s.ctx? d := by
  obtain ⟨hrun, hdec, ⟨n, a, htk⟩, hb, hk, ht, hs, hsc, hp, hsp, hw⟩ := h
  have hin : ∀ b ∈ ex.inOrder, calm b.2 = true := by
    rw [inOrder_of_one hb hk]
    simpa using hc
  have hrel : s.releasePitch x ex = Belay.issue ⟨s, [], [], []⟩ x ex k e := releasePitch_of_issue hb hs hk he
  have hex := exec_belay_of_calm hrun hdec htk (by nofun) hw ht hsc hsp hin (by rw [hrel, hctx])
  rw [hrel] at hex
  generalize Belay.issue ⟨s, [], [], []⟩ x ex k e = b at hex hctx
  have hid : x.id = c := ctx?_id hrun.1
  have hfind (d : Nat) : (b.s.detach x ex).ctx? d = s.ctx? d := by
    change b.s.ctxs.find? _ = _
    rw [hctx]
    rfl
  refine ⟨_, a, hex, rfl, rfl, rfl, ?_, fun d hd => ?_⟩
  · exact ctx?_setCtx ((hfind c).trans hrun.1) (Ctx.commit_id.trans hid)
  · exact (ctx?_setCtx_ne _ _ (by rw [Ctx.commit_id, hid]; exact hd)).trans (hfind d)

/-- The es slot of a strand after one of its slots has been set. -/
theorem getD_setEs {m : Nat} (hm : m < 8) (v d : EsState) : ((x.setEs m v).es).toList.getD m d = v := by
  unfold Ctx.setEs
  rw [dif_pos hm]
  simp [List.getD, hm]

/-- The es slots after the belay are those that the pitch's commands leave (R219). -/
theorem commit_es (b : Belay) (w : List Wait) : ∃ z : Ctx, (x.commit ex fx b w).es = (z.esAfter ex).es := by
  unfold Ctx.commit
  dsimp only
  rw [Ctx.flushPend, Ctx.flushAfter_eq]
  exact ⟨_, rfl⟩

end Sys2Proof.Machine

end

section

namespace Sys2Proof.Machine

open Sys2Proof.Claims

variable {s : State} {c n k : Nat} {x : Ctx} {ex : Exec} {e : Effect}

/-- No command is detached from its slot by a pitch without an esack (R224). -/
theorem detach_cmds_of_none (t : State) (hb : ex.bufs = [(k, e)]) (he : ∀ m, e ≠ .esack m) : (t.detach x ex).cmds = t.cmds := by
  unfold State.detach
  dsimp only
  simp [hb, he]

/-- The command that a strand issues with a request (R221). -/
def State.issuedCmd (s : State) (x : Ctx) (r : CmdReq) : Cmd :=
  ⟨s.nextId, r, some x.id, none, sidOf x, x.core, s.cmdDie x r, x.wins, .queued, [], none, false, false, true, []⟩

/-- The machine with a command queued (R221). -/
def State.queueCmd (s : State) (d : Cmd) : State := { s with cmds := s.cmds ++ [d], nextId := s.nextId + 1 }

theorem belayIssuesCommands : BelayIssuesCommands := by
  intro s c x ex k r h hr
  have heq := Belay.sendIn_eq ⟨s.queueCmd (s.issuedCmd x r), [], [], []⟩ (s.nextId + 1) x 15 (.cmd s.nextId)
  have hb := h.2.2.2.1
  have hk := h.2.2.2.2.1
  change (Belay.issue ⟨s, [], [], []⟩ x ex k (.cmd r)).s = _ at heq
  obtain ⟨t, a, hex, hmem, hnet, hcmds, hctx, hother⟩ := exec_belay_of_lone h rfl rfl (by rw [heq]; rfl)
  rw [detach_cmds_of_none _ hb (by nofun)] at hcmds
  obtain ⟨z, hz⟩ := commit_es (x := x) (ex := ex) (fx := .goto a) (Belay.issue ⟨s, [], [], []⟩ x ex k (.cmd r)) []
  refine ⟨t, _, _, hex, hctx, ?_, hcmds.trans (by rw [heq]; rfl), rfl, hnet.trans (by rw [heq]; rfl), hmem.trans (by rw [heq]; rfl), hother⟩
  rw [hz]
  unfold Ctx.esAfter
  rw [inOrder_of_one hb hk]
  exact getD_setEs hr .busy .idle

/-- Settles O14: as an engine command fires it takes the lowest free slot and is buffered; the belay queues it and its slot shows BUSY. -/
theorem engineCommandsWaitForTheBelay : Obligations.EngineCommandsWaitForTheBelay := ⟨commandsBuffer, belayIssuesCommands⟩

/-- The belay of a pitch whose one effect is issued as one request. -/
theorem belay_sends_of_issue {b : Belay} {g : Nat} {body : Body} (h : LoneEffect s c x ex k e) (hc : calm e = true) (he : e.lsid? = none)
    (hi : (Belay.issue ⟨s, [], [], []⟩ x ex k e).s = (b.sendIn g x 15 body).s) (hg : g = s.nextId) (hid : b.s.nextId = s.nextId)
    (hmem : b.s.mem = s.mem) (hnet : b.s.net = s.net) (hctx : b.s.ctxs = s.ctxs) (hep : b.s.srcEpoch (.ctx x.id) = s.srcEpoch (.ctx x.id)) :
    ∃ t, exec (.belay c) s = .next t ∧ t.mem = s.mem ∧ t.net = s.net ++ [request s x s.nextId body] := by
  have heq := hi.trans (Belay.sendIn_eq b g x 15 body)
  obtain ⟨t, a, hex, htm, htn, -, -, -⟩ := exec_belay_of_lone h hc he (by rw [heq]; exact hctx)
  refine ⟨t, hex, htm.trans (by rw [heq]; exact hmem), htn.trans ?_⟩
  rw [heq, hg]
  dsimp only
  rw [hid, hep, hnet]
  rfl

theorem belaySendsRequests : BelaySendsRequests := by
  refine ⟨fun s c x ex k r h => ?_, fun s c x ex k r hs h hr => ?_, fun s c x ex k card hs h => ?_, fun s c x ex k card sel hs h hsel => ?_,
    fun s c x ex k e h he => ?_, fun s c x ex k h l n hj htr => ?_⟩
  · exact belay_sends_of_issue (b := ⟨s, [], [], []⟩) h rfl rfl rfl rfl rfl rfl rfl rfl rfl
  · have hi : (Belay.issue ⟨s, [], [], []⟩ x ex k (.op r hs)).s = ((⟨s, [], [], []⟩ : Belay).sendIn s.nextId x 15 (.op r { s.sigSrc x with idx := k })).s := by
      cases r
      case cardPost => cases hr
      case cardSig => cases hr
      all_goals rfl
    exact belay_sends_of_issue (b := ⟨s, [], [], []⟩) h rfl rfl hi rfl rfl rfl rfl rfl rfl
  · have hi : (Belay.issue ⟨s, [], [], []⟩ x ex k (.op (.cardSig card) hs)).s = ((⟨s.tcInc (dieOf x.core) (s.cardJob card), [], [], []⟩ : Belay).sendIn
        (s.tcInc (dieOf x.core) (s.cardJob card)).nextId x 15 (.signal card false (some (s.sigSrc x)) (s.cardJob card) (dieOf x.core))).s := rfl
    refine belay_sends_of_issue h rfl rfl hi ?_ ?_ ?_ ?_ ?_ (s.srcEpoch_tcInc _ _ _)
    all_goals rw [State.tcInc_eq]
  · have hi : (Belay.issue ⟨s, [], [], []⟩ x ex k (.op (.cardPost card sel) hs)).s = ((⟨s.tcInc (dieOf x.core) (s.cardJob card), [], [], []⟩ : Belay).sendIn
        (s.tcInc (dieOf x.core) (s.cardJob card)).nextId x 15 (.post card (if selOwn sel then x.core else natBits sel 0 9) (some (s.sigSrc x)) (s.cardJob card)
          (dieOf x.core))).s := by
      unfold Belay.issue
      dsimp only
      rw [if_neg (by simp [hsel])]
      rfl
    refine belay_sends_of_issue h rfl rfl hi ?_ ?_ ?_ ?_ ?_ (s.srcEpoch_tcInc _ _ _)
    all_goals rw [State.tcInc_eq]
  · obtain ⟨t, a, hex, hmem, hnet, -, hctx, -⟩ := exec_belay_of_lone h rfl rfl rfl
    obtain ⟨z, hz⟩ := commit_es (x := x) (ex := ex) (fx := .goto a) (Belay.issue ⟨s, [], [], []⟩ x ex k (.esack e)) []
    refine ⟨t, _, hex, hctx, ?_, hmem, hnet⟩
    rw [hz]
    unfold Ctx.esAfter
    rw [inOrder_of_one h.2.2.2.1 h.2.2.2.2.1]
    exact getD_setEs he .idle .busy
  · have hi : (Belay.issue ⟨s, [], [], []⟩ x ex k .trigger).s = ((⟨s, [], [], []⟩ : Belay).sendIn s.nextId x 15 (.trigger l n)).s := by
      unfold Belay.issue
      dsimp only
      rw [hj]
      dsimp only
      rw [htr]
      rfl
    exact belay_sends_of_issue (b := ⟨s, [], [], []⟩) h rfl rfl hi rfl rfl rfl rfl rfl rfl

/-- Settles O15: the requests of units are buffered as they fire, and each becomes one request at the belay. -/
theorem unitRequestsWaitForTheBelay : Obligations.UnitRequestsWaitForTheBelay :=
  ⟨unitRequestsBuffer, cardInstructionsBuffer, heapInstructionsBuffer, belaySendsRequests⟩

end Sys2Proof.Machine

end

section

namespace Sys2Proof.Machine

open Sys2Proof.Claims

/-! ### Responses of loads (R124, R131, R135) -/

section Loads

variable {s : State} {m c : Nat} {x : Ctx} {ex : Exec} {msg : Msg} {ld : LoadRec} {r : Resp}

theorem bySerial_of_cur (hcur : x.cur = some ex) : x.bySerial ex.serial = some (false, ex) := by
  simp [Ctx.bySerial, hcur]

/-- An answer that is to be given to its strand now is given to it (R124). -/
theorem loadResponse_of_due (hm : s.msg? m = some msg) (hr : msg.resp = some r) (hkey : msg.body.loadKey.isNone = false)
    (hseen : msg.body.isSeenWatch = false) (hlate : ∀ cause detail, r = .err cause detail → s.lowerOut msg = false) :
    exec (.loadResponse m) s = .next (s.loadReturn msg r) := by
  rw [exec_loadResponse]
  unfold execLoadResponse
  simp only [hm, hr, hkey, hseen, Bool.false_and, Bool.false_or, Bool.or_false]
  refine if_neg ?_
  cases r with
  | err cause detail => simp [hlate cause detail rfl]
  | _ => nofun

theorem loadResponseDelivers : LoadResponseDelivers := by
  rintro s m msg c x ex ld bs e ⟨hm, hid, hsrc, hx, hcur, ⟨els, ptr, place, n, cache, acq, hbody⟩, hld, hkind⟩ hresp hkey
  have hexec : exec (.loadResponse m) s = .next (s.loadReturn msg (.data bs)) :=
    loadResponse_of_due hm hresp (by rw [hkey]; rfl) (by rw [hbody]; rfl) nofun
  have hx1 : (s.dropMsg m).ctx? c = some x := hx
  have hret : s.loadReturn msg (.data bs) = (let ld1 := ld.fill msg.body e ((s.dropMsg m).respBytes ex ld msg.body bs)
      if ld1.complete then ((s.dropMsg m).loadDone x false ex ld1).settle c false else (s.dropMsg m).setCtx (x.putExec false (ex.setLoad ld1))) := by
    unfold State.loadReturn
    simp only [hid, hsrc, hkey, hx1, bySerial_of_cur hcur, hld]
  have hkind1 : (ld.fill msg.body e ((s.dropMsg m).respBytes ex ld msg.body bs)).kind = .plain := by
    rw [hbody]
    exact hkind
  rw [hexec, hret]
  dsimp only
  generalize ld.fill msg.body e ((s.dropMsg m).respBytes ex ld msg.body bs) = ld1 at hkind1
  refine ⟨fun hc => ?_, fun hc => ?_⟩
  · rw [if_pos hc]
    unfold State.loadDone
    rw [hkind1]
    rfl
  · rw [if_neg (by simp [hc])]
    rfl

/-- A load that has failed delivers nothing and is no longer outstanding (R131). -/
theorem failLoad_keeps (ex : Exec) (ld : LoadRec) (recov : Bool) : (ex.failLoad ld recov).faults = ex.faults
    ∧ (ex.failLoad ld recov).loads = ex.loads.filter (fun k => k.idx ≠ ld.idx) ∧ (ex.failLoad ld recov).toks = ex.toks := by
  unfold Exec.failLoad
  dsimp only
  split <;> exact ⟨rfl, rfl, rfl⟩

/-- A strand that is put back into a machine of the same strands is found there. -/
theorem ctx?_setCtx_of_ctxs {t : State} {y : Ctx} (ht : t.ctxs = s.ctxs) (hx : s.ctx? c = some x) (hy : y.id = c) : (t.setCtx y).ctx? c = some y := by
  have htx : t.ctx? c = some x := by
    unfold State.ctx?
    rw [ht]
    exact hx
  exact ctx?_setCtx htx hy

/-- The strand after the fault of a load of its pitch (R131). -/
theorem loadFault_ctx? (hx : s.ctx? c = some x) (ex : Exec) (ld : LoadRec) (f : FaultRec) (a : Option Nat) :
    ∃ y e, (s.loadFault x false ex ld f a).ctx? x.id = some y ∧ y.cur = some e
      ∧ e.faults = ex.faults ++ [{ f with idx := some ld.idx, recov := Cause.recov f.cause }]
      ∧ e.loads = ex.loads.filter (fun k => k.idx ≠ ld.idx) ∧ e.toks = ex.toks := by
  have hid : x.id = c := ctx?_id hx
  obtain ⟨hfaults, hloads, htoks⟩ := failLoad_keeps ex ld (Cause.recov f.cause)
  unfold State.loadFault
  rw [← hid] at hx
  refine ⟨_, _, ctx?_setCtx_of_ctxs (s := s) rfl hx rfl, rfl, ?_, ?_, ?_⟩
  · exact congrArg (· ++ _) hfaults
  · exact hloads
  · exact htoks

theorem loadResponseFaults : LoadResponseFaults := by
  rintro s m msg c x ex ld cause detail ⟨hm, hid, hsrc, hx, hcur, ⟨els, ptr, place, n, cache, acq, hbody⟩, hld, hkind⟩ hresp hlow
  obtain ⟨e, hkey⟩ : ∃ e, msg.body.loadKey = some (ex.serial, ld.idx, e) := ⟨_, by rw [hbody]; rfl⟩
  have hexec : exec (.loadResponse m) s = .next (s.loadReturn msg (.err cause detail)) :=
    loadResponse_of_due hm hresp (by rw [hkey]; rfl) (by rw [hbody]; rfl) (fun _ _ _ => hlow)
  have hx1 : (s.dropMsg m).ctx? c = some x := hx
  have hcid : x.id = c := ctx?_id hx
  let access := if cause = .transNotPresent then some 0 else if cause = .protection then some 2 else none
  have hret : s.loadReturn msg (.err cause detail) = ((s.dropMsg m).loadFault x false ex ld (respFault ld msg.body e cause detail) access).settle c false := by
    unfold State.loadReturn
    simp only [hid, hsrc, hkey, hx1, bySerial_of_cur hcur, hld]
    rfl
  have hf : (respFault ld msg.body e cause detail).cause = cause ∧ (respFault ld msg.body e cause detail).detail = detail := by
    rw [hbody]
    exact ⟨rfl, rfl⟩
  rw [hexec, hret]
  generalize access = a
  generalize respFault ld msg.body e cause detail = f at hf
  obtain ⟨y, e, hy, hye, hef, hel, het⟩ := loadFault_ctx? hx1 ex ld f a
  refine ⟨_, y, e, rfl, hcid ▸ hy, hye, ⟨_, hef, hf.1, hf.2, rfl⟩, hel, het, ?_⟩
  rintro b hb ⟨hsame, hload⟩
  have := (List.mem_filter.mp hb).2
  simp [hsame, hload] at this

theorem watchedWordReturns : WatchedWordReturns := by
  refine ⟨fun s m msg bs hm hready => ?_, fun s m msg serial idx place x deadline hm hbody hresp hready hdue => ?_⟩
  · simp only [exec_waitvValueChange, execWaitvValueChange, hm, hready]
  · simp only [exec_waitvTimeout, execWaitvTimeout, hm, hbody, hresp, hready, Option.isNone_none, true_and]
    exact if_pos hdue

theorem waitcEnds : WaitcEnds := by
  intro s c x cls l t p q acq rest hx hw h1 h2 h3 h4
  rw [exec_waitcComplete]
  unfold execWaitcComplete
  simp only [hx, hw, List.find?_cons, decide_eq_true h1, decide_eq_true h2, decide_eq_true h3, decide_eq_true h4, Bool.and_self]
  rw [List.takeWhile_cons_of_neg (by simp), List.dropWhile_cons_of_neg (by simp)]
  cases acq <;> rfl

/-- Settles O20: answers reach the instruction that waits for them, or fault it, and waits end as their condition holds. -/
theorem loadsReturnAndWaitsEnd : Obligations.LoadsReturnAndWaitsEnd := ⟨loadResponseDelivers, loadResponseFaults, watchedWordReturns, waitcEnds⟩

end Loads

/-! ### Answers after the belay (R27, R252, R291) -/

section Answers

theorem atomicResponseFillsSlots : AtomicResponseFillsSlots := by
  intro s m msg c x e op w place y z sc ord ptr v hm hsrc hbody hresp hx reg vl lsew wmap p hp hpd
  subst hpd
  have hx1 : (s.dropMsg m).ctx? c = some x := hx
  rw [exec_atomicResponse]
  unfold execAtomicResponse
  simp only [hm, hsrc, hbody, hresp, hx1]
  simp [Ctx.resolve, hp, PendPitch.resolve, Ctx.flushPend, Ctx.flushAfter, Ctx.applyWrites, Ctx.applyWrite]

theorem commandResultFillsSlots : CommandResultFillsSlots := by
  refine ⟨fun s m msg c x r src v hm hsrc hbody hj hresp hx => ?_, fun s m msg c x j src hm hsrc hbody hresp hel hx => ?_,
    fun s m msg c x r cl user v hm hsrc hbody hresp hx => ?_, fun s m msg c x r src cause detail hm hsrc hbody hresp hx => ?_⟩
  all_goals
    have hx1 : (s.dropMsg m).ctx? c = some x := hx
    rw [exec_commandResultReturn]
    unfold execCommandResultReturn
    simp only [hm, hsrc, hbody, hresp, hx1]
  · rfl
  · rw [if_pos hel]
    rfl
  · cases r <;> rfl
  · cases r <;> rfl

theorem storeErrorReported : StoreErrorReported := by
  intro s m msg c x place data rel p cause detail hm hsrc hbody hresp hx
  have hx1 : (s.dropMsg m).ctx? c = some x := hx
  rw [exec_storeResponseError]
  unfold execStoreResponseError
  simp only [hm, hsrc, hbody, hresp, hx1, hx]

end Answers

/-! ### What a retiring strand's leaving keeps of the strands that have gone (R174) -/

section Gone

variable {s : State}

/-- A fold whose every step keeps the list of strands that have gone keeps it. -/
theorem foldl_gone {α : Type} {f : State → α → State} (hf : ∀ t a, (f t a).gone = t.gone) (l : List α) (s : State) : (l.foldl f s).gone = s.gone := by
  induction l generalizing s with
  | nil => rfl
  | cons a l ih => exact (ih (f s a)).trans (hf s a)

theorem ite_gone {p : Prop} [Decidable p] {a b : State} {l : List Gone} (ha : a.gone = l) (hb : b.gone = l) : (if p then a else b).gone = l := by
  split
  · exact ha
  · exact hb

theorem pairRaise_gone (c : Nat) (cause : Cause) (detail : Nat) : (s.pairRaise c cause detail).gone = s.gone := by
  unfold State.pairRaise
  dsimp only
  repeat' split
  all_goals rfl

theorem pairDrop_gone (c code : Nat) : (s.pairDrop c code).gone = s.gone := by
  unfold State.pairDrop
  split
  · rfl
  · dsimp only
    split
    · exact foldl_gone (fun _ _ => pairRaise_gone _ _ _) _ _
    · rfl

theorem pairRetire_gone (x : Ctx) : (s.pairRetire x).gone = s.gone := by
  unfold State.pairRetire
  repeat' split
  all_goals rfl

theorem setBar_gone (core : Nat) (bs : BarScope) (bid : Nat) (e : Option BarEntry) : (s.setBar core bs bid e).gone = s.gone := by
  cases bs <;> rfl

theorem barRelease_gone (bs : BarScope) (bid : Nat) (broken : Bool) (after : List Nat) (ep c : Nat) : (s.barRelease bs bid broken after ep c).gone = s.gone := by
  unfold State.barRelease
  split <;> rfl

theorem barRetire_gone (x : Ctx) : (s.barRetire x).gone = s.gone :=
  foldl_gone (fun _ _ => foldl_gone (fun _ _ => (foldl_gone (fun _ _ => barRelease_gone _ _ _ _ _ _) _ _).trans (setBar_gone _ _ _ _)) _ _) _ _

theorem postRecord_gone (d : Nat) (rec : List Byte) : (s.postRecord d rec).gone = s.gone := by
  unfold State.postRecord
  dsimp only
  split
  · rfl
  · split
    · rfl
    · split
      · rfl
      · simp only [State.storePlace]
        split <;> rfl

theorem rtIdle_gone (cl set left : Nat) (drains : List Nat) : (s.rtIdle cl set left drains).gone = s.gone := by
  have hsay (v : Nat) (t : State) (id : Nat) :
      (match t.msg? id with | some m => t.answer m (.val (some (BitVec.ofNat 64 v))) | none => t).gone = t.gone := by
    split <;> rfl
  exact (foldl_gone (hsay 0) _ _).trans (foldl_gone (hsay left) _ _)

theorem rtLeave_gone (cl : Nat) (r : RtRec) (pois : Bool) : (s.rtLeave cl r pois).gone = s.gone := by
  unfold State.rtLeave
  have hhead : (s.writeHeader r true pois).gone = s.gone := rfl
  generalize s.writeHeader r true pois = s0 at hhead
  exact (ite_gone (rtIdle_gone _ _ _ _) rfl).trans hhead

theorem rtRoute_gone (cl : Nat) (r : RtRec) : (s.rtRoute cl r).gone = s.gone := by
  unfold State.rtRoute
  dsimp only
  split
  · rfl
  · rfl
  · split
    · rfl
    · exact rtLeave_gone _ _ _

theorem rtFault_gone (cl : Nat) (r : RtRec) (stage holder : Nat) : (s.rtFault cl r stage holder).gone = s.gone := by
  unfold State.rtFault
  dsimp only
  generalize (if stage = r.fstg then _ else _ : RtRec) = r1
  split
  · exact rtRoute_gone _ _
  · exact (postRecord_gone _ _).trans (rtLeave_gone _ _ _)

theorem routerRetire_gone (x : Ctx) : (s.routerRetire x).gone = s.gone := by
  refine foldl_gone (fun t r => ?_) _ _
  split
  · exact rtFault_gone _ _ _ _
  · rfl

/-- What a strand without a job leaves as it retires (R160, R174). -/
theorem retire_of_noJob (s : State) {x : Ctx} (hj : x.job = .none) (err : Bool) : (s.retire x err).ctx? x.id = none
    ∧ (∀ m ∈ (s.retire x err).net, m.src ≠ .ctx x.id) ∧ (s.retire x err).gone = s.gone ++ [⟨sidOf x, x.core, s.launchWord x, err, x.fc, x.fa, x.fb, x.ff⟩] := by
  unfold State.retire
  have hgone : ((((s.pairDrop x.id (natBits x.fc.toNat 0 8)).pairRetire x).routerRetire x).barRetire x).gone = s.gone := by
    rw [barRetire_gone, routerRetire_gone, pairRetire_gone, pairDrop_gone]
  generalize (((s.pairDrop x.id (natBits x.fc.toNat 0 8)).pairRetire x).routerRetire x).barRetire x = s1 at hgone
  simp only [hj]
  refine ⟨?_, ?_, by rw [hgone]⟩
  · exact List.find?_eq_none.mpr (by simp)
  · intro m hm
    simpa using (List.mem_filter.mp hm).2

theorem strandRetires : StrandRetires := by
  intro s c x err hx hret hes hout hsp hfi
  have hbusy : ¬ (x.es.toList.any (· == .busy) = true ∨ s.net.any (s.stillOut x) = true ∨ x.place = .spilling ∨ x.place = .filling) := by
    simp only [List.any_eq_true, beq_iff_eq, not_or, not_exists, not_and]
    refine ⟨fun e he hb => hes (hb ▸ he), fun m hm hb => ?_, hsp, hfi⟩
    rw [hout m hm] at hb
    cases hb
  have hexec : exec (.strandRetire c) s = s.unitWrite (s.retire x err) (.unit (dieOf x.core)) "STRAND_RETIRE" := by
    rw [exec_strandRetire]
    unfold execStrandRetire
    simp only [hx, hret]
    exact if_neg hbusy
  refine ⟨hexec ▸ unitStep_unitWrite _ _ _ _, fun hj => ?_⟩
  have hid : x.id = c := ctx?_id hx
  exact hid ▸ retire_of_noJob s hj err

/-- Settles O26: answers fill the slots that wait, failures are reported or charged, and a strand retires when nothing is outstanding. -/
theorem answersAfterTheBelayFillSlots : Obligations.AnswersAfterTheBelayFillSlots :=
  ⟨atomicResponseFillsSlots, commandResultFillsSlots, storeErrorReported, strandRetires⟩

end Gone

end Sys2Proof.Machine

end

section

namespace Sys2Proof.Machine

open Sys2Proof.Claims

variable {s t u : State} {m : Nat} {msg : Msg}

/-! ### A request whose turn has come (R121, R263) -/

/-- What may perform in its turn passes no earlier request. -/
theorem notePassed_of_eligible (h : s.eligible msg = true) : s.notePassed msg = s := by
  unfold State.notePassed
  split
  · next c p ps hsrc hp =>
    simp only [State.eligible, hsrc, blockedBy, Bool.and_eq_true, Bool.not_eq_true', Bool.or_eq_false_iff, Bool.not_eq_false', List.isEmpty_iff] at h
    simp [h.2.1.2, h.2.2] at hp
  · rfl

theorem servedDone_of_unserved (old : State) (h : ∀ v ∈ t.fab.served, v.msg ≠ msg.id) : t.servedDone old msg = t := by
  unfold State.servedDone
  rw [List.find?_eq_none.mpr (by simpa using h)]

/-- A request that performs, and writes nothing of which another chip holds a copy, is done. -/
theorem homeRequest_of_performs (h : Performs s m msg) (ht : s.perform msg = some t) (hc : s.copiesChanged t = []) :
    exec (.homeRequest m) s = .next (t.servedDone s msg) := by
  obtain ⟨⟨hm, hel⟩, hready, hpeer, hwait, hcopies, -⟩ := h
  rw [exec_homeRequest]
  unfold execHomeRequest
  simp [hm, hready, notePassed_of_eligible hel, hpeer, hwait, hcopies, ht, hc]

/-- And where its home is for this chip's own agents, its performing is the whole step. -/
theorem homeRequest_of_own (h : Performs s m msg) (ht : s.perform msg = some t) (hc : s.copiesChanged t = []) (hfab : t.fab = s.fab) :
    exec (.homeRequest m) s = .next t := by
  rw [homeRequest_of_performs h ht hc, servedDone_of_unserved s (by rw [hfab]; exact h.2.2.2.2.2)]

theorem copiesChanged_of_mem (h : t.mem = s.mem) : s.copiesChanged t = [] := by
  simp [State.copiesChanged, h]

/-- No other chip's copy changes where none is of the sectors that a request writes. -/
theorem copiesChanged_of_outside {k n : Nat} (h : Performs s m msg) (hw : s.writesTo msg = some (k, n)) (hn : 0 < n) (hout : SameOutside s t k n) :
    s.copiesChanged t = [] := by
  obtain ⟨-, -, -, -, hcopies, hserved⟩ := h
  have hnone : s.servedChip msg.id = none := by
    unfold State.servedChip
    rw [List.find?_eq_none.mpr (by simpa using hserved)]
    rfl
  simp only [State.copiesFor, hw, hnone, State.copiesAt, List.filter_eq_nil_iff] at hcopies
  refine List.filter_eq_nil_iff.mpr (fun c hc => ?_)
  have hfar := hcopies c hc
  simp only [Bool.and_eq_true, decide_eq_true_eq, ne_eq, reduceCtorEq, not_false_eq_true, decide_true, and_true] at hfar
  rw [decide_eq_true_eq, not_not, memReadN_eq_map, memReadN_eq_map]
  refine List.map_congr_left (fun i hi => (hout _ ?_).symm)
  have := List.mem_range.mp hi
  omega

/-! ### Acquires and answers touch strands, cores and requests alone -/

/-- `t` differs from `s` in its requests, strands and cores alone. -/
def Answered (s t : State) : Prop := t = { s with ctxs := t.ctxs, cores := t.cores, net := t.net }

theorem Answered.refl (s : State) : Answered s s := rfl

theorem Answered.trans (h : Answered s t) (k : Answered t u) : Answered s u := by
  unfold Answered at *
  rw [k, h]

theorem Answered.setCtx (h : Answered s t) (x : Ctx) : Answered s (t.setCtx x) := h.trans rfl

theorem Answered.setMsg (h : Answered s t) (a : Msg) : Answered s (t.setMsg a) := h.trans rfl

theorem Answered.acquire (h : Answered s t) (c : Nat) : Answered s (t.acquire c) := by
  have hraise (k : Nat) : Answered s (t.raiseEpoch k) := by
    unfold State.raiseEpoch
    dsimp only
    split
    · exact h.trans rfl
    · exact h.trans rfl
  unfold State.acquire
  split
  · exact h
  · dsimp only
    split
    · exact (hraise _).setCtx _
    · exact hraise _

theorem Answered.acquireCrew (h : Answered s t) (c ep : Nat) : Answered s (t.acquireCrew c ep) := by
  unfold State.acquireCrew
  split
  · exact h
  · exact h.setCtx _

theorem Answered.acquireAt (h : Answered s t) (c : Nat) (sc : Scope) (ep : Nat) : Answered s (t.acquireAt c sc ep) := by
  unfold State.acquireAt
  split
  · exact h.acquire c
  · split
    · exact h.acquireCrew c ep
    · exact h

theorem Answered.acquireBy (h : Answered s t) (a : Msg) : Answered s (t.acquireBy a) := by
  unfold State.acquireBy
  dsimp only
  split
  case h_5 => exact h
  all_goals exact h.acquireAt _ _ _

theorem Answered.foldl {α : Type} {f : State → α → State} (hf : ∀ t a, Answered s t → Answered s (f t a)) (h : Answered s t) (l : List α) :
    Answered s (l.foldl f t) := by
  induction l generalizing t with
  | nil => exact h
  | cons a l ih => exact ih (hf t a h)

theorem Answered.answerMerged (h : Answered s t) (a : Msg) (r : Resp) : Answered s (t.answerMerged a r) := by
  refine Answered.foldl (fun u b hu => ?_) h _
  split
  · split
    · exact (hu.setMsg _).acquireBy _
    · exact hu.setMsg _
  · exact hu.setMsg _

theorem Answered.answerLoad (h : Answered s t) (a : Msg) (r : Resp) : Answered s (t.answerLoad a r) := ((h.setMsg _).acquireBy _).answerMerged _ _

theorem Answered.mem (h : Answered s t) : t.mem = s.mem := by rw [h]

theorem Answered.fab (h : Answered s t) : t.fab = s.fab := by rw [h]

theorem Answered.free (h : Answered s t) : t.free = s.free := by rw [h]

/-! ### Loads (R120, R180, R181, R183) -/

section Loads

variable {p : Place} {n : Nat}

theorem placeErr_of_plain (h : Plain s p n) (read : Bool) : s.placeErr p n read = none := by
  obtain ⟨-, -, hf, hp, -⟩ := h
  simp [State.placeErr, hf, hp]

theorem placeRead_of_plain (h : Plain s p n) : s.placeRead p n = memReadN s.mem p.key n := by
  obtain ⟨-, hk, -, -, hn⟩ := h
  exact if_neg (by omega)

variable {c : Nat} {x : Ctx} {ptr : Word}

/-- A load that no line of its core's cache serves reads its place. -/
theorem homeLoad_of_miss (h : Plain s p n) (hsrc : msg.src = .ctx c) (hx : s.ctx? c = some x) (cache : Bool)
    (hmiss : cache = false ∨ (s.core x.core).hit ptr x.acqEpoch = none) :
    s.homeLoad msg ptr p n cache = (let u := { s with free := s.free + 32 }.answerLoad msg (.data (memReadN s.mem p.key n))
      if cache then u.setCore x.core ((u.core x.core).fill ptr (p.key / 32) (memReadN s.mem p.key n)) else u) := by
  have hline : (if cache then (s.core x.core).hit ptr x.acqEpoch else none) = none := by
    rcases hmiss with rfl | hm
    · rfl
    · simp [hm]
  unfold State.homeLoad
  simp only [hsrc, hx, hline, Option.isSome_none, Bool.false_eq_true, if_false, placeErr_of_plain h, placeRead_of_plain h]

/-- One whose line is served is answered from it, or reads its place where the line is dropped. -/
theorem homeLoad_of_hit (h : Plain s p n) (hsrc : msg.src = .ctx c) (hx : s.ctx? c = some x) {l : CacheLine}
    (hhit : (s.core x.core).hit ptr x.acqEpoch = some l) :
    (Config.freeNat s.free % 2 = 0 → s.homeLoad msg ptr p n true = { s with free := s.free + 1 }.setMsg { msg with resp := some (.data l.data), merge := some msg.id })
    ∧ (Config.freeNat s.free % 2 ≠ 0 → s.homeLoad msg ptr p n true
        = (let u := { s with free := s.free + 33 }.answerLoad msg (.data (memReadN s.mem p.key n))
          u.setCore x.core ((u.core x.core).fill ptr (p.key / 32) (memReadN s.mem p.key n)))) := by
  have h1 : Plain { s with free := s.free + 1 } p n := h
  refine ⟨fun hf => ?_, fun hf => ?_⟩
  · unfold State.homeLoad
    simp only [hsrc, hx, hhit, if_true, hf]
  · obtain ⟨q, hq⟩ : ∃ q, Config.freeNat s.free % 2 = q + 1 := ⟨_, (Nat.succ_pred hf).symm⟩
    unfold State.homeLoad
    simp only [hsrc, hx, hhit, if_true, hq, Option.isSome_some, placeErr_of_plain h1, placeRead_of_plain h1]

theorem answerLoad_of_plain {serial idx : Nat} {els : List LdPart} {cache : Bool} (hbody : msg.body = .load serial idx els ptr p n cache none)
    (hmem : msg ∈ s.net) (hmerge : ∀ a ∈ s.net, a.merge ≠ some msg.id) (r : Resp) : s.answerLoad msg r = s.answer msg r := by
  have hacq : (s.answer msg r).acquireBy msg = s.answer msg r := by
    unfold State.acquireBy
    rw [hbody]
    cases msg.src <;> rfl
  unfold State.answerLoad
  rw [hacq]
  unfold State.answerMerged
  rw [List.filter_eq_nil_iff.mpr (fun a ha => ?_)]
  · rfl
  · obtain ⟨b, hb, rfl⟩ := List.mem_map.mp ha
    have h1 := hmerge b hb
    have h2 := hmerge msg hmem
    split <;> simp_all

theorem mem_of_msg? (h : s.msg? m = some msg) : msg ∈ s.net := List.mem_of_find?_eq_some h

theorem loadsPerform : LoadsPerform := by
  refine ⟨fun s m msg c x serial idx els ptr p n acq h hsrc hx hbody hp => ?_, fun s m msg c x serial idx els ptr p n acq l h hsrc hx hbody hhit hp => ?_,
    fun s m msg c x serial idx els ptr p n acq h hsrc hx hbody hp hmiss => ?_⟩
  · have ht : s.perform msg = some ({ s with free := s.free + 32 }.answerLoad msg (.data (memReadN s.mem p.key n))) := by
      simp [State.perform, hbody, homeLoad_of_miss hp hsrc hx false (.inl rfl)]
    have hans := (Answered.refl { s with free := s.free + 32 }).answerLoad msg (.data (memReadN s.mem p.key n))
    have hexec := homeRequest_of_own h ht (copiesChanged_of_mem hans.mem) hans.fab
    refine ⟨hexec, fun hacq hmerge => ?_⟩
    subst hacq
    exact hexec.trans (congrArg _ (answerLoad_of_plain (s := { s with free := s.free + 32 }) hbody (mem_of_msg? (s := s) h.1.1) hmerge _))
  · obtain ⟨heven, hodd⟩ := homeLoad_of_hit hp hsrc hx hhit
    have ht : s.perform msg = some (s.homeLoad msg ptr p n true) := by simp [State.perform, hbody]
    by_cases hf : Config.freeNat s.free % 2 = 0
    · rw [heven hf] at ht
      exact ⟨_, homeRequest_of_own h ht (copiesChanged_of_mem rfl) rfl, fun _ => rfl⟩
    · rw [hodd hf] at ht
      have hans := (Answered.refl { s with free := s.free + 33 }).answerLoad msg (.data (memReadN s.mem p.key n))
      exact ⟨_, homeRequest_of_own h ht (copiesChanged_of_mem hans.mem) hans.fab, fun he => absurd he hf⟩
  · have ht : ∃ f, s.perform msg = some (let u := { s with free := f }.answerLoad msg (.data (memReadN s.mem p.key n))
        u.setCore x.core ((u.core x.core).fill ptr (p.key / 32) (memReadN s.mem p.key n))) := by
      cases hhit : (s.core x.core).hit ptr x.acqEpoch with
      | none => exact ⟨s.free + 32, by simp [State.perform, hbody, homeLoad_of_miss hp hsrc hx true (.inr hhit)]⟩
      | some l =>
        have hodd := (homeLoad_of_hit hp hsrc hx hhit).2 (hmiss.resolve_left (by simp [hhit]))
        exact ⟨s.free + 33, by simp [State.perform, hbody, hodd]⟩
    obtain ⟨f, ht⟩ := ht
    have hans := (Answered.refl { s with free := f }).answerLoad msg (.data (memReadN s.mem p.key n))
    refine ⟨_, homeRequest_of_own h ht (copiesChanged_of_mem hans.mem) hans.fab, hans.mem, ?_⟩
    rw [hans.free]

end Loads

/-! ### Stores and atomics (R136, R137, R263) -/

section Writes

variable {p : Place} {n : Nat}

theorem and_full_or (b c : Byte) : (b &&& 255) ||| (c &&& ~~~255) = b := by
  rw [show (255 : Byte) = BitVec.allOnes 8 from rfl, BitVec.not_allOnes, BitVec.and_allOnes, BitVec.and_zero, BitVec.or_zero]

/-- Whole bytes that are stored are read back. -/
theorem memReadN_store (h : s.Canonical) (a : Nat) (bs : List Byte) : memReadN (s.store a (bs.map (fun b => (b, 255)))).mem a bs.length = bs := by
  refine List.ext_getElem? fun i => ?_
  rw [memReadN_eq_map, List.getElem?_map]
  by_cases hi : i < bs.length
  · have hb : (bs.map (fun b => (b, (255 : Byte))))[i]? = some (bs[i], 255) := by simp [hi]
    rw [List.getElem?_range hi, Option.map_some, memRead_store_at h hb, and_full_or, List.getElem?_eq_getElem hi]
  · simp [Nat.not_lt.mp hi]

/-- A strand's write notes its releases and updates its core's cache: cores alone change. -/
theorem cacheWrite_eq (s : State) (a : Msg) (q : Place) (d : List (Byte × Byte)) : s.cacheWrite a q d = { s with cores := (s.cacheWrite a q d).cores } := by
  have hnote (k : Nat) : s.noteWrite a q.key k = { s with cores := (s.noteWrite a q.key k).cores } := by
    unfold State.noteWrite
    extract_lets isAmo s1
    have hs1 : s1 = { s with cores := s1.cores } := by
      simp only [s1]
      split <;> rfl
    clear_value s1
    split
    · split
      · rw [hs1]
        rfl
      · exact hs1
    · exact hs1
  unfold State.cacheWrite
  dsimp only
  by_cases hq : q.peer.isNone = true
  · rw [if_pos hq, hnote]
    split
    · rw [if_pos hq]
      rfl
    · rfl
  · rw [if_neg hq]
    split
    · rw [if_neg hq]
    · rfl

theorem placeWrite_of_plain (h : Plain s p n) (t : State) (d : List (Byte × Byte)) : t.placeWrite p d = t.store p.key d := by
  obtain ⟨hpeer, hk, -, -, hn⟩ := h
  unfold State.placeWrite State.storePlace
  rw [if_neg (by omega), if_pos (by simp [hpeer])]

theorem homeStore_of_plain {d : List (Byte × Byte)} (h : Plain s p d.length) :
    s.homeStore msg p d = ((s.store p.key d).cacheWrite msg p d).dropMsg msg.id := by
  unfold State.homeStore
  rw [placeErr_of_plain h, placeWrite_of_plain h]

theorem storesPerform : StoresPerform := by
  intro s m msg p bs rel ptr hcan h hbody hp
  have hlen : (bs.map (fun b => (b, (255 : Byte)))).length = bs.length := List.length_map ..
  have ht : s.perform msg = some (((s.store p.key (bs.map (fun b => (b, 255)))).cacheWrite msg p (bs.map (fun b => (b, 255)))).dropMsg msg.id) := by
    simp only [State.perform, hbody]
    rw [homeStore_of_plain (by rw [hlen]; exact hp)]
  have hw : s.writesTo msg = some (p.key, bs.length) := by simp [State.writesTo, hbody, hp.1]
  have hout := sameOutside_store hcan p.key (bs.map (fun b => (b, 255)))
  rw [hlen] at hout
  have hread := memReadN_store hcan p.key bs
  rw [cacheWrite_eq] at ht
  refine ⟨_, homeRequest_of_own h ht (copiesChanged_of_outside h hw hp.2.2.2.2 hout) rfl, hread, hout, ?_, rfl⟩
  intro a ha
  simpa using (List.mem_filter.mp ha).2

theorem leNat_lt (bs : List Byte) : leNat bs < 256 ^ bs.length := by
  induction bs with
  | nil => exact Nat.one_pos
  | cons b bs ih =>
    have := b.isLt
    rw [leNat, List.length_cons, pow_succ]
    omega

theorem length_memReadN (l : List Host.Cell) (n a : Nat) : (memReadN l a n).length = n := by simp [memReadN_eq_map]

theorem natLe_mod : ∀ (n v : Nat), natLe n (v % 256 ^ n) = natLe n v
  | 0, _ => rfl
  | n + 1, v => by
    rw [natLe, natLe, pow_succ', Nat.mod_mul_right_div_self, natLe_mod n]
    congr 1
    refine BitVec.eq_of_toNat_eq ?_
    rw [BitVec.toNat_ofNat, BitVec.toNat_ofNat]
    exact Nat.mod_mod_of_dvd _ (Dvd.intro _ rfl)

theorem peek_lt (s : State) (k w : Nat) : s.peek k w < 256 ^ w := by
  have h := leNat_lt (memReadN s.mem k w)
  rwa [length_memReadN] at h

/-- A value that is poked is read back in the bits that its bytes hold. -/
theorem peek_poke_mod (h : s.Canonical) (a n v : Nat) : (s.poke a n v).peek a n = v % 256 ^ n := by
  have hpos : 0 < 256 ^ n := Nat.pow_pos (by decide)
  rw [State.peek, memReadN_poke h, ← natLe_mod, leNat_natLe n _ (Nat.mod_lt _ hpos)]

theorem pow_two_eight (w : Nat) : 2 ^ (8 * w) = 256 ^ w := by
  rw [pow_mul]
  rfl

/-- The state in which an atomic has made its acquire and its write, if it makes one. -/
def State.atomicWritten (s : State) (msg : Msg) (op : AmoOp) (w : Nat) (p : Place) (y z : Nat) : State :=
  if op = .cas ∧ s.peek p.key w ≠ y % 2 ^ (8 * w) then s.acquireBy msg
  else (((s.acquireBy msg).poke p.key w (amoNew op w (s.peek p.key w) (y % 2 ^ (8 * w)) (z % 2 ^ (8 * w)))).cacheWrite msg p
    (fullBytes w (amoNew op w (s.peek p.key w) (y % 2 ^ (8 * w)) (z % 2 ^ (8 * w)))))

theorem homeAtomic_of_plain {c : Nat} {op : AmoOp} {w y z : Nat} (h : Plain s p w) (hsrc : msg.src = .ctx c) : s.homeAtomic msg p op w y z
    = ({ s.atomicWritten msg op w p y z with free := (s.atomicWritten msg op w p y z).free + 32 }).answer msg (.val (some (BitVec.ofNat 64 (s.peek p.key w)))) := by
  unfold State.homeAtomic
  simp only [placeErr_of_plain h, placeRead_of_plain h, placeWrite_of_plain h, State.reply, hsrc]
  rfl

/-- An acquire leaves the requests in flight as they are. -/
theorem acquireBy_net (s : State) (a : Msg) : (s.acquireBy a).net = s.net := by
  have hraise (k : Nat) : (s.raiseEpoch k).net = s.net := by
    unfold State.raiseEpoch
    dsimp only
    split <;> rfl
  have hall (c : Nat) : (s.acquire c).net = s.net := by
    unfold State.acquire
    split
    · rfl
    · dsimp only
      split
      · exact hraise _
      · exact hraise _
  have hcrew (c ep : Nat) : (s.acquireCrew c ep).net = s.net := by
    unfold State.acquireCrew
    split <;> rfl
  have hat (c : Nat) (sc : Scope) (ep : Nat) : (s.acquireAt c sc ep).net = s.net := by
    unfold State.acquireAt
    split
    · exact hall c
    · split
      · exact hcrew c ep
      · rfl
  unfold State.acquireBy
  dsimp only
  split
  case h_5 => rfl
  all_goals exact hat _ _ _

/-- What an atomic that performs has written: the new value in its place, and nothing where a compare-and-swap fails. -/
theorem atomicWritten_keeps {op : AmoOp} {w y z e : Nat} {sc : Scope} {ord : AmoOrd} {ptr : Word} (hcan : s.Canonical)
    (hbody : msg.body = .atomic e op w p y z sc ord ptr) : let t := s.atomicWritten msg op w p y z
    SameOutside s t p.key w ∧ (ordAcquires ord = false → t.ctxs = s.ctxs) ∧ t.net = s.net ∧ t.fab = s.fab
      ∧ t.peek p.key w = amoNew op w (s.peek p.key w) (y % 2 ^ (8 * w)) (z % 2 ^ (8 * w)) % 2 ^ (8 * w) := by
  have hacq : Answered s (s.acquireBy msg) := (Answered.refl s).acquireBy msg
  have hnet : (s.acquireBy msg).net = s.net := acquireBy_net s msg
  have hctxs (ho : ordAcquires ord = false) : s.acquireBy msg = s := by
    unfold State.acquireBy
    rw [hbody]
    cases ord
    case acq => cases ho
    case ar => cases ho
    case sc => cases ho
    all_goals cases msg.src <;> rfl
  have hpow := pow_two_eight w
  dsimp only
  unfold State.atomicWritten
  split
  · next hc =>
    obtain ⟨rfl, hne⟩ := hc
    have hpeek : (s.acquireBy msg).peek p.key w = s.peek p.key w := by rw [State.peek, hacq.mem, State.peek]
    refine ⟨fun k _ => by rw [hacq.mem], fun ho => by rw [hctxs ho], hnet, hacq.fab, ?_⟩
    rw [hpeek, amoNew, if_neg hne, hpow, Nat.mod_eq_of_lt (peek_lt s p.key w)]
  · rw [cacheWrite_eq]
    have hcan1 : (s.acquireBy msg).Canonical := by
      unfold State.Canonical
      rw [hacq.mem]
      exact hcan
    generalize amoNew op w (s.peek p.key w) (y % 2 ^ (8 * w)) (z % 2 ^ (8 * w)) = v
    refine ⟨?_, fun ho => ?_, hnet, hacq.fab, ?_⟩
    · have hout := sameOutside_store hcan1 p.key (fullBytes w v)
      rw [show (fullBytes w v).length = w by simp [fullBytes]] at hout
      exact fun k hk => (hout k hk).trans (by rw [hacq.mem])
    · change (s.acquireBy msg).ctxs = s.ctxs
      rw [hctxs ho]
    · rw [hpow]
      exact peek_poke_mod hcan1 p.key w v

theorem atomicsPerform : AtomicsPerform := by
  intro s m msg c e op w p y z sc ord ptr hcan h hsrc hbody hp
  obtain ⟨hout, hctxs, hnet, hfab, hpeek⟩ := atomicWritten_keeps hcan hbody
  have ht : s.perform msg = some (s.homeAtomic msg p op w y z) := by simp [State.perform, hbody]
  rw [homeAtomic_of_plain hp hsrc] at ht
  have hw : s.writesTo msg = some (p.key, w) := by simp [State.writesTo, hbody, hp.1]
  generalize s.atomicWritten msg op w p y z = u at *
  refine ⟨_, homeRequest_of_own h ht (copiesChanged_of_outside h hw hp.2.2.2.2 hout) hfab, hout, hctxs, ?_, hpeek⟩
  exact congrArg (List.map _) hnet

theorem fencesAndTriggersPerform : FencesAndTriggersPerform := by
  refine ⟨fun s m msg sc mask h hbody => ?_, fun s m msg l n h hbody hc => ?_⟩
  · exact homeRequest_of_own h (by simp [State.perform, hbody]) (copiesChanged_of_mem rfl) rfl
  · exact homeRequest_of_performs h (by simp [State.perform, hbody]) hc

/-- Settles O33: a request whose turn has come performs on its own bytes; no copy of another chip changes by it. -/
theorem homesPerformAccesses : Obligations.HomesPerformAccesses := ⟨loadsPerform, storesPerform, atomicsPerform, fencesAndTriggersPerform⟩

end Writes

end Sys2Proof.Machine

end

section

namespace Sys2Proof.Machine

open Sys2Proof.Claims

/-! ### A home over a memory that is not in its canonical form -/

/-- hp.make of an object of 256 bytes at heap address 0x8000, for the word at 0x1000. -/
def makeReq : Msg := ⟨3, .ctx 0, 15, .op (.hpMake 0x1000 0x2000000000008000 ⟨0x1000, none, none⟩ 256) ⟨0, 0, 0, 0, true, [], 0⟩, none, 3, 0, none⟩

/-- A machine whose list of bytes does not rise: the entry of 0x8000 hides that of 0x7FE0, the sector of which chip 1 holds a copy. -/
def hidingState : State :=
  { State.reset with
    ctxs := [Ctx.initial 0 0 0 .active .none 0 0 [] [] [] 1 0], net := [makeReq], mem := [(0x8000, 5), (0x7FE0, 9)]
    tlbs := [(8, { Tlb.reset with entries := [(0, 0x84, 0xFC), (1, 0xC4, 0xFC)] })]
    fab := { State.reset.fab with copies := [⟨0x3FF, 1, 0x3FF, 0⟩] } }

/-- The bytes listed in the memory that an outcome leads to. -/
def memAfter : Out → List Host.Cell
  | .next t => t.mem
  | _ => []

set_option maxRecDepth 20000 in
/-- The header's zero at 0x8000 removes the entry that hides 0x7FE0: a byte that hp.make does not write changes, and so the copy of its sector is
invalidated first. -/
theorem hidingState_keeps_memory : memAfter (exec (.homeRequest 3) hidingState) = [(0x8000, 5), (0x7FE0, 9)] := by decide

set_option maxRecDepth 20000 in
theorem hidingState_performs : Performs hidingState 3 makeReq :=
  ⟨⟨by decide, by decide⟩, by decide, by decide, by decide, by decide, by decide⟩

set_option maxRecDepth 20000 in
/-- The statement's hp.make would write the header at once. -/
theorem not_heapOperationsPerform : ¬ HeapOperationsPerform := by
  intro h
  obtain ⟨-, -, -, hmake⟩ := h hidingState 3 makeReq ⟨0, 0, 0, 0, true, [], 0⟩ hidingState_performs
  have hplace : hidingState.heapPlace (refReq true true 16) (refHint 0x2000000000008000) (refHa 0x2000000000008000) = .ok (8, ⟨0x8000, none, some ⟨8, 1, 0⟩⟩) := by decide
  have hexec := congrArg memAfter (hmake _ _ _ _ _ _ rfl hplace (by decide))
  rw [hidingState_keeps_memory] at hexec
  exact absurd hexec (by decide)

/-- Refutes O34: `HeapOperationsPerform` does not ask for a memory in its canonical form; where an entry that the header replaces with its
zero hides the byte of a sector that another chip holds a copy of, hp.make sends an invalidation first and the header is not yet written. -/
theorem not_granulesAndHeapOperationsPerform : ¬ Obligations.GranulesAndHeapOperationsPerform :=
  fun h => not_heapOperationsPerform h.2

end Sys2Proof.Machine

end

section

namespace Sys2Proof.Machine

open Sys2Proof.Claims

variable {s t : State}

/-! ### Requests that wait, leave or send invalidations first (R276, R280, R408, R409) -/

theorem requestsWaitForCopy : RequestsWaitForCopy := by
  intro s m msg j f hat hready hpeer hwait
  rw [exec_homeRequest]
  unfold execHomeRequest
  simp [hat.1, hready, notePassed_of_eligible hat.2, hpeer, hwait]

/-- Sending a flit leaves memory and the invalidations that are out. -/
theorem fabSend_keeps (s : State) (chip vc : Nat) (type : FlitType) (pay : Pay) :
    (s.fabSend chip vc type pay).mem = s.mem ∧ (s.fabSend chip vc type pay).fab.invals = s.fab.invals := by
  unfold State.fabSend
  split
  · exact ⟨rfl, rfl⟩
  · unfold State.fabPut
    split <;> exact ⟨rfl, rfl⟩

theorem sendInvals_keeps (m : Nat) (cs : List PeerCopy) (s : State) : (s.sendInvals m cs).mem = s.mem
    ∧ (s.sendInvals m cs).fab.invals.length = s.fab.invals.length + cs.length := by
  induction cs generalizing s with
  | nil => exact ⟨rfl, rfl⟩
  | cons c cs ih =>
    obtain ⟨hsmem, hsinv⟩ := fabSend_keeps { s with fab := { s.fab with invals := s.fab.invals ++ [⟨m, c.sector, c.chip, c.va, s.now⟩] } } c.chip 0 .req
      (.inval c.va)
    obtain ⟨hmem, hlen⟩ := ih (State.fabSend _ _ _ _ _)
    refine ⟨hmem.trans hsmem, hlen.trans ?_⟩
    rw [hsinv]
    simp only [List.length_append, List.length_cons, List.length_nil]
    omega

theorem copiesInvalidatedFirst : CopiesInvalidatedFirst := by
  intro s m msg hat hready hpeer hwait hcopies
  refine ⟨?_, sendInvals_keeps m (s.copiesFor msg) s⟩
  rw [exec_homeRequest]
  unfold execHomeRequest
  simp [hat.1, hready, notePassed_of_eligible hat.2, hpeer, hwait, hcopies]

theorem peerRequestsLeave : PeerRequestsLeave := by
  intro s m msg t hat hready hpeer
  rw [exec_homeRequest]
  unfold execHomeRequest
  simp [hat.1, hready, notePassed_of_eligible hat.2, hpeer]

/-- A record of a die's fault queue leaves the fabric side as it is. -/
theorem postRecord_fab (s : State) (d : Nat) (rec : List Byte) : (s.postRecord d rec).fab = s.fab := by
  unfold State.postRecord
  dsimp only
  split
  · rfl
  · split
    · rfl
    · split
      · rfl
      · simp only [State.storePlace]
        split <;> rfl

theorem fabRecord_fab (s : State) (k : Option LinkSt) (slot : Nat) (c : Cause) (detail : Nat) : (s.fabRecord k slot c detail).fab = s.fab := by
  unfold State.fabRecord
  exact postRecord_fab _ _ _

theorem silentSharerDropped : SilentSharerDropped := by
  intro s m i hi
  refine ⟨_, by rw [exec_sharerAckTimeout, execSharerAckTimeout, hi], ?_, ?_, s.incOf i.chip, ?_⟩
  all_goals rw [fabRecord_fab]
  · intro j hj
    simpa using (List.mem_filter.mp hj).2
  · intro c hc
    simpa using (List.mem_filter.mp hc).2
  · exact List.mem_cons_self

/-! ### Writes of units (R263, R276, R277) -/

theorem unitWritesTakeTurns : UnitWritesTakeTurns := by
  refine fun s t a event => ⟨unitStep_unitWrite s t a event, fun h => ?_⟩
  have hbusy : ((s.copiesChanged t).any (fun c => s.sectorBusy s.nextId (32 * c.sector) 32) || s.earlyChanged t a) = true := by
    rcases h with h | ⟨c, hc, hb⟩
    · rw [h, Bool.or_true]
    · rw [List.any_eq_true.mpr ⟨c, hc, hb⟩, Bool.true_or]
  exact if_pos hbusy

/-! ### Scopes (R266, R267) -/

/-- The strands of one core are of one cluster, those of a cluster of one rope, those of a rope of one die, and those of a die of one home group. -/
theorem instances_nest (k core : Nat) : (k = core → clusterOf k = clusterOf core) ∧ (clusterOf k = clusterOf core → clusterOf k / 2 = clusterOf core / 2)
    ∧ (clusterOf k / 2 = clusterOf core / 2 → dieOf k = dieOf core) ∧ (dieOf k = dieOf core → homeOf k = homeOf core) := by
  unfold clusterOf dieOf homeOf
  omega

theorem inHomeGroup_dieOf (core : Nat) : inHomeGroup core (dieOf core) = true := by
  unfold inHomeGroup homeOf dieOf
  simp only [Bool.or_eq_true, decide_eq_true_eq]
  omega

theorem strand_scopes_nest {a b : Scope} {chip ctx core launch c k l : Nat} (hbelow : Scope.below a b = true) (hown : c = ctx → k = core ∧ l = launch)
    (hholds : Scope.holds a chip ctx core launch (.strand c k l) = true) : Scope.holds b chip ctx core launch (.strand c k l) = true := by
  obtain ⟨hcluster, hrope, hdie, hhome⟩ := instances_nest k core
  cases a <;> cases b <;> simp [Scope.below] at hbelow <;> simp only [Scope.holds, Bool.and_eq_true, decide_eq_true_eq] at hholds ⊢ <;> omega

theorem scopesNest : ScopesNest := by
  intro a b chip ctx core launch ag hbelow hown hholds
  cases ag with
  | strand c k l => exact strand_scopes_nest hbelow (fun hc => hown k l (by rw [hc])) hholds
  | unit d =>
    have h := inHomeGroup_dieOf core
    cases a <;> cases b <;> simp_all [Scope.below, Scope.holds]
  | engine | host | peer => cases a <;> cases b <;> simp_all [Scope.below, Scope.holds]

/-- Settles O35: a request waits, leaves or sends invalidations before it performs, and instances of scopes nest. -/
theorem homesOrderRequests : Obligations.HomesOrderRequests :=
  ⟨requestsWaitForCopy, copiesInvalidatedFirst, peerRequestsLeave, silentSharerDropped, unitWritesTakeTurns, scopesNest⟩

end Sys2Proof.Machine

end

section

namespace Sys2Proof.Machine

open Sys2Proof.Claims

variable {s t : State}

/-! ### The heap side of the M-dies -/

theorem heap_setHeap (s : State) (j : Nat) (h : HeapHome) : (s.setHeap j h).heap j = h := by simp [State.heap]

theorem heap_setHeap_ne {i j : Nat} (h : HeapHome) (hij : i ≠ j) : (s.setHeap j h).heap i = s.heap i := by
  unfold State.heap
  rw [setHeap_heaps, List.find?_cons_of_neg (by simpa using Ne.symm hij), find?_filter_ne _ _ _ hij]

/-- What is done to every heap side alike, and nothing to one that is as after reset. -/
theorem heap_map {g : HeapHome → HeapHome} (hg : g HeapHome.reset = HeapHome.reset) (ht : t.heaps = s.heaps.map (fun h => (h.1, g h.2))) (j : Nat) :
    t.heap j = g (s.heap j) := by
  unfold State.heap
  rw [ht, List.find?_map]
  change (Option.map _ (Option.map _ (s.heaps.find? (fun t => t.1 = j)))).getD _ = _
  cases s.heaps.find? (fun t => t.1 = j) with
  | none => exact hg.symm
  | some h => rfl

/-! ### The end of a command -/

/-- Ending a command's work touches the cards that run and the dies' counts alone. -/
theorem endWork_eq (s : State) (d : Nat) (w : DoneWork) : s.endWork d w = { s with running := (s.endWork d w).running, sched := (s.endWork d w).sched } := by
  have hq (u : State) (j : Nat) : u.qcDec d j = { u with sched := (u.qcDec d j).sched } := by
    unfold State.qcDec State.jobUpd
    split <;> rfl
  unfold State.endWork
  rw [hq]
  split <;> rfl

/-- A command without a record is taken out, with its requests in flight. -/
theorem cmdDone_of_noWords {c : Cmd} (hw : c.words = []) (s : State) (err : Bool) : (s.cmdDone c err).mem = s.mem
    ∧ (s.cmdDone c err).cmds = s.cmds.filter (fun d => d.id ≠ c.id) ∧ (s.cmdDone c err).heaps = s.heaps ∧ (s.cmdDone c err).fab = s.fab := by
  unfold State.cmdDone State.doneAct
  simp only [hw, true_or, or_true, if_true]
  rw [endWork_eq]
  dsimp only
  split
  · exact ⟨rfl, rfl, rfl, rfl⟩
  · split <;> exact ⟨rfl, rfl, rfl, rfl⟩

/-! ### Relocations (R339 to R341, R348) -/

theorem relocationAccepted : RelocationAccepted := by
  intro s cmd c o hc hnext hbar
  have hexec : exec (.hpRelocateRun cmd) s = _ := exec_hpRelocateRun cmd s
  unfold execHpRelocateRun at hexec
  simp only [hc, hnext, hbar, Bool.not_true, Bool.false_eq_true, if_false] at hexec
  refine ⟨fun hhome => hexec.trans (if_pos hhome), fun hhome hcopy hlen => ?_⟩
  have hfits : ¬ (o.dest.copying = true ∨ 65536 ≤ (s.heap o.dest.home).fwd.length) := by simp [hcopy, hlen]
  rw [if_neg (not_not.mpr hhome), if_neg hfits] at hexec
  refine ⟨fun hp => hexec.trans (if_pos hp), fun hp hd => ?_, fun hp nh hd => ?_⟩
  all_goals rw [if_neg (not_not.mpr hp), hd] at hexec
  · exact hexec
  · refine ⟨_, ⟨o.dest.ha, refHa c.req.p1, o.size, nh, (s.heap o.dest.home).epoch, true, cmd, []⟩, hexec, ?_, rfl, rfl, rfl, rfl, rfl, rfl, rfl⟩
    have hheap := heap_setHeap s o.dest.home { s.heap o.dest.home with
      fwd := (s.heap o.dest.home).fwd ++ [⟨o.dest.ha, refHa c.req.p1, o.size, nh, (s.heap o.dest.home).epoch, true, cmd, []⟩] }
    change _ ∈ ((s.setHeap _ _).heap _).fwd
    rw [hheap]
    exact List.mem_append_right _ List.mem_cons_self

/-- What a step that leaves memory alone writes comes in no one's way. -/
theorem unitWrite_of_mem (h : t.mem = s.mem) (a : Agent) (event : String) : s.unitWrite t a event = .next t := by
  have hearly : s.earlyChanged t a = false := by simp [State.earlyChanged, h]
  unfold State.unitWrite
  rw [copiesChanged_of_mem h, hearly]
  rfl

theorem relocationFaults : RelocationFaults := by
  intro s cmd c home f e hreloc hspans hwait
  have hexec : exec (.relocationCopyFault cmd) s = _ := exec_relocationCopyFault cmd s
  unfold execRelocationCopyFault at hexec
  simp only [hreloc, hspans, hwait] at hexec
  refine ⟨_, hexec.trans (unitWrite_of_mem (by rfl) _ _), ?_, rfl, rfl⟩
  intro g hg
  change g ∈ ((s.setHeap home _).heap home).fwd at hg
  rw [heap_setHeap] at hg
  simpa using (List.mem_filter.mp hg).2

/-! ### The advance of the epoch (R342) -/

theorem epochStep_spec (s : State) (n : Nat) : (n < 4 → (s.epochStep n).heap (8 + n) = { s.heap (8 + n) with trans := true })
    ∧ (4 ≤ n → n < 8 → (s.epochStep n).heap (4 + n) = { s.heap (4 + n) with epoch := s.heapE + 1 })
    ∧ (n < 8 → (s.epochStep n).heapE = s.heapE ∧ ∀ j, j ≠ (if n < 4 then 8 + n else 4 + n) → (s.epochStep n).heap j = s.heap j)
    ∧ (∀ j, (s.epochStep 8).heap j = { s.heap j with fwd := (s.heap j).fwd.filter (fun f => f.epoch + 1 ≠ s.heapE) })
    ∧ (9 ≤ n → (s.epochStep n).heapE = s.heapE + 1 ∧ ∀ j, (s.epochStep n).heap j = { s.heap j with trans := false })
    ∧ (s.epochStep n).mem = s.mem ∧ (s.epochStep n).net = s.net := by
  have htold (h : n < 4) : s.epochStep n = s.setHeap (8 + n) { s.heap (8 + n) with trans := true } := if_pos h
  have hmoved (h4 : 4 ≤ n) (h8 : n < 8) : s.epochStep n = s.setHeap (4 + n) { s.heap (4 + n) with epoch := s.heapE + 1 } :=
    (if_neg (by omega)).trans (if_pos h8)
  refine ⟨fun h => ?_, fun h4 h8 => ?_, fun h => ?_, fun j => ?_, fun h => ?_, ?_⟩
  · rw [htold h, heap_setHeap]
  · rw [hmoved h4 h8, heap_setHeap]
  · by_cases h4 : n < 4
    · rw [htold h4, if_pos h4]
      exact ⟨rfl, fun j hj => heap_setHeap_ne _ hj⟩
    · rw [hmoved (by omega) h, if_neg h4]
      exact ⟨rfl, fun j hj => heap_setHeap_ne _ hj⟩
  · exact heap_map (g := fun h => { h with fwd := h.fwd.filter (fun f => f.epoch + 1 ≠ s.heapE) }) rfl rfl j
  · have hover : s.epochStep n = { s with heapE := s.heapE + 1, heaps := s.heaps.map (fun h => (h.1, { h.2 with trans := false })) } :=
      (if_neg (by omega)).trans ((if_neg (by omega)).trans (if_neg (by omega)))
    rw [hover]
    exact ⟨rfl, heap_map (g := fun h => { h with trans := false }) rfl rfl⟩
  · unfold State.epochStep
    repeat' split
    all_goals exact ⟨rfl, rfl⟩

theorem epochAdvances : EpochAdvances := by
  refine ⟨fun s cmd c hc hkind hphase hfirst hidle => ?_, epochStep_spec⟩
  have hexec : exec (.hpEpochRun cmd) s = _ := exec_hpEpochRun cmd s
  unfold execHpEpochRun at hexec
  have hcopying : (decide (c.aux.length = 0) && s.heaps.any (fun h => h.2.fwd.any (fun f => f.copying && decide (f.epoch + 1 = s.heapE)))) = false := by
    rw [Bool.and_eq_false_iff]
    by_cases h0 : c.aux = []
    · refine .inr (List.any_eq_false.mpr (fun h hh => ?_))
      rw [List.any_eq_true]
      rintro ⟨f, hf, hb⟩
      rw [Bool.and_eq_true, decide_eq_true_eq] at hb
      exact hidle h0 h hh f hf hb.1 hb.2
    · exact .inl (by simpa using h0)
  simp only [hc] at hexec
  rw [if_neg ?ready] at hexec
  case ready =>
    simp only [hkind, hphase, decide_true, Bool.and_self, Bool.not_true, hfirst, ne_eq, not_true_eq_false, decide_false, Bool.false_or, hcopying,
      Bool.false_eq_true, not_false_eq_true]
  exact ⟨fun hn => hexec.trans (if_pos hn), fun hn => hexec.trans (if_neg (by omega))⟩

/-! ### The copy of an object (R339, R340) -/

/-- Writing over a span touches memory and its poison alone. -/
theorem spanWrite_eq (ps : List (Nat × Nat)) (bs : List Byte) (s : State) :
    s.spanWrite ps bs = { s with mem := (s.spanWrite ps bs).mem, poison := (s.spanWrite ps bs).poison } := by
  induction ps generalizing s bs with
  | nil => rfl
  | cons p ps ih =>
    rw [State.spanWrite, ih]
    rfl

theorem redirect_heap (s : State) (home old nhome new j : Nat) : ∃ l, (s.redirect home old nhome new).heap j = { s.heap j with fwd := l } :=
  ⟨_, heap_map (g := fun h => { h with fwd := h.fwd.map (fun f =>
    if !f.copying && f.nhome = home && f.new = old then { f with nhome := nhome, new := new } else f) }) rfl rfl j⟩

theorem relocation_id {cmd home : Nat} {c : Cmd} {f : FwdEntry} (h : s.relocation cmd = some (c, home, f)) : c.id = cmd := by
  unfold State.relocation at h
  obtain ⟨d, hd, h⟩ := Option.bind_eq_some_iff.mp h
  have hid : d.id = cmd := by simpa using List.find?_some hd
  split at h
  · obtain ⟨g, -, h⟩ := Option.bind_eq_some_iff.mp h
    split at h
    · cases h
      exact hid
    · cases h
  · cases h

/-- The heap's side and memory once the bytes of an object have been copied. -/
def State.forwarded (s : State) (home : Nat) (f : FwdEntry) (a b : List (Nat × Nat)) : State :=
  let bs := a.flatMap (fun p => memReadN s.mem p.1 p.2)
  let s1 := s.spanWrite b (natLe 16 (headerNew (leNat (bs.take 16)) f.size) ++ bs.drop 16)
  let s2 := s1.spanWrite a (natLe 16 (headerOld (leNat (bs.take 16))))
  let s3 := s2.redirect home f.old f.nhome f.new
  let h := s3.heap home
  s3.setHeap home { h with done := min (h.done + 1) (2 ^ 32 - 1), fwd := h.fwd.map (fun g => if g.old = f.old then { g with copying := false, waiting := [] } else g) }

theorem forwarded_heap (s : State) (home : Nat) (f : FwdEntry) (a b : List (Nat × Nat)) :
    ((s.forwarded home f a b).heap home).done = min ((s.heap home).done + 1) (2 ^ 32 - 1)
    ∧ ∀ g ∈ ((s.forwarded home f a b).heap home).fwd, g.old = f.old → g.copying = false ∧ g.waiting = [] := by
  unfold State.forwarded
  dsimp only
  rw [heap_setHeap]
  refine ⟨?_, fun g hg ho => ?_⟩
  · obtain ⟨l, hl⟩ := redirect_heap ((s.spanWrite b _).spanWrite a _) home f.old f.nhome f.new home
    rw [hl, spanWrite_eq a, spanWrite_eq b]
    rfl
  · obtain ⟨g0, -, rfl⟩ := List.mem_map.mp hg
    split at ho
    · next h0 => rw [if_pos h0]; exact ⟨rfl, rfl⟩
    · next h0 => exact absurd ho h0

theorem forwarded_mem (s : State) (home : Nat) (f : FwdEntry) (a b : List (Nat × Nat)) : (s.forwarded home f a b).mem
    = ((s.spanWrite b (natLe 16 (headerNew (leNat ((a.flatMap (fun p => memReadN s.mem p.1 p.2)).take 16)) f.size)
        ++ (a.flatMap (fun p => memReadN s.mem p.1 p.2)).drop 16)).spanWrite a
      (natLe 16 (headerOld (leNat ((a.flatMap (fun p => memReadN s.mem p.1 p.2)).take 16))))).mem := rfl

theorem memReadN_add (l : List Host.Cell) (n k a : Nat) : memReadN l a (n + k) = memReadN l a n ++ memReadN l (a + n) k := by
  induction n generalizing a with
  | zero => simp [memReadN]
  | succ n ih => rw [Nat.add_right_comm, memReadN, ih, memReadN, List.cons_append, Nat.add_assoc, Nat.add_comm 1 n]

theorem memReadN_congr {l r : List Host.Cell} {a n : Nat} (h : ∀ k, a ≤ k → k < a + n → memRead l k = memRead r k) : memReadN l a n = memReadN r a n := by
  rw [memReadN_eq_map, memReadN_eq_map]
  refine List.map_congr_left (fun i hi => h _ (Nat.le_add_right a i) ?_)
  have := List.mem_range.mp hi
  omega

/-- Of two writes, the payload of the first stands where the second does not meet it. -/
theorem payload_of_stores (hcan : s.Canonical) {ka kb : Nat} (hdr payload old : List Byte) (hlen : old.length = hdr.length)
    (hmeet : ka + hdr.length + payload.length ≤ kb ∨ kb + hdr.length + payload.length ≤ ka) :
    memReadN ((s.store kb ((hdr ++ payload).map (fun b => (b, 255)))).store ka (old.map (fun b => (b, 255)))).mem (kb + hdr.length) payload.length = payload := by
  have hcan1 := store_canonical hcan kb ((hdr ++ payload).map (fun b => (b, 255)))
  have hout := sameOutside_store hcan1 ka (old.map (fun b => (b, 255)))
  have hread := memReadN_store hcan kb (hdr ++ payload)
  rw [List.length_append, memReadN_add] at hread
  obtain ⟨-, hpay⟩ := List.append_inj hread (length_memReadN _ _ _)
  refine Eq.trans (memReadN_congr (fun k hlo hhi => hout k ?_)) hpay
  rw [List.length_map, hlen]
  omega

theorem drop_memReadN (l : List Host.Cell) (n k a : Nat) : (memReadN l a (n + k)).drop n = memReadN l (a + n) k := by
  rw [memReadN_add, List.drop_left' (length_memReadN _ _ _)]

/-- The payload of an object in one piece is copied to a place in one piece that it does not meet. -/
theorem forwarded_payload (hcan : s.Canonical) (home : Nat) (f : FwdEntry) {ka kb : Nat} (hmeet : ka + 16 + f.size ≤ kb ∨ kb + 16 + f.size ≤ ka) :
    memReadN (s.forwarded home f [(ka, 16 + f.size)] [(kb, 16 + f.size)]).mem (kb + 16) f.size = memReadN s.mem (ka + 16) f.size := by
  rw [forwarded_mem]
  simp only [List.flatMap_cons, List.flatMap_nil, List.append_nil, State.spanWrite, drop_memReadN]
  generalize hnew : natLe 16 (headerNew _ f.size) = new
  generalize hold : natLe 16 (headerOld _) = old
  generalize hpay : memReadN s.mem (ka + 16) f.size = payload
  have hnewLen : new.length = 16 := by rw [← hnew, length_natLe]
  have holdLen : old.length = 16 := by rw [← hold, length_natLe]
  have hpayLen : payload.length = f.size := by rw [← hpay, length_memReadN]
  rw [List.take_of_length_le (l := new ++ payload) (by rw [List.length_append, hnewLen, hpayLen]),
    List.take_of_length_le (l := old) (by rw [holdLen]; exact Nat.le_add_right _ _)]
  have h := payload_of_stores hcan (ka := ka) (kb := kb) new payload old (holdLen.trans hnewLen.symm) (by rwa [hnewLen, hpayLen])
  rwa [hnewLen, hpayLen] at h

theorem relocationCopies : RelocationCopies := by
  intro s cmd c home f a b hcan halone hreloc hspans hwait hwords
  have hexec : exec (.relocationCopyDone cmd) s = _ := exec_relocationCopyDone cmd s
  unfold execRelocationCopyDone at hexec
  simp only [hreloc, hspans, hwait] at hexec
  change _ = s.unitWrite ((s.forwarded home f a b).cmdDone c false) _ _ at hexec
  obtain ⟨hmem, hcmds, hheaps, -⟩ := cmdDone_of_noWords hwords (s.forwarded home f a b) false
  obtain ⟨hdone, hfwd⟩ := forwarded_heap s home f a b
  have hheap : ((s.forwarded home f a b).cmdDone c false).heap home = (s.forwarded home f a b).heap home := by
    unfold State.heap
    rw [hheaps]
  have hfree : s.unitWrite ((s.forwarded home f a b).cmdDone c false) (.engine c.mdie c.ctx) "RELOCATION_COPY_DONE"
      = .next ((s.forwarded home f a b).cmdDone c false) :=
    (unitStep_unitWrite s _ _ _).1 ⟨by simp [State.copiesChanged, halone.1], by simp [State.earlyChanged, halone.2]⟩
  refine ⟨_, hexec.trans hfree, ?_, hheap ▸ hdone, hheap ▸ hfwd, fun ka kb ha hb hmeet => ?_⟩
  · rw [hcmds, relocation_id hreloc]
    intro d hd
    simpa using (List.mem_filter.mp hd).2
  · subst ha hb
    rw [hmem]
    exact forwarded_payload hcan home f hmeet

/-- Settles O36: a relocation is accepted, copied or given up, and the epoch advances in ten steps. -/
theorem relocationsRun : Obligations.RelocationsRun := ⟨relocationAccepted, relocationCopies, relocationFaults, epochAdvances⟩

end Sys2Proof.Machine

end

section

namespace Sys2Proof.Machine

open Sys2Proof.Claims

variable {s : State} {m cl n : Nat} {msg : Msg} {user : Bool} {x : Ctx}

/-! ### Clusters and their stage sets -/

theorem cluster_setCluster (s : State) (cl : Nat) (k : ClusterSt) : (s.setCluster cl k).cluster cl = k := by simp [State.cluster]

theorem set_setSet (k : ClusterSt) (n : Nat) (y : RtSet) : (k.setSet n y).set n = y := by simp [ClusterSt.set, ClusterSt.setSet]

/-- Setting a cluster to what it is, once it has been set, changes nothing. -/
theorem setCluster_setCluster (s : State) (cl : Nat) (k : ClusterSt) : (s.setCluster cl k).setCluster cl k = s.setCluster cl k := by
  unfold State.setCluster
  simp [List.filter_filter]

/-! ### Windows, statistics, drains and seeds (R242, R249, R250) -/

theorem windowCloses : WindowCloses := by
  intro s cl n hstate htwin hdue
  have hexec : exec (.routerWindowTimer cl n) s = _ := exec_routerWindowTimer cl n s
  unfold execRouterWindowTimer at hexec
  refine ⟨_, hexec.trans (if_pos ⟨hstate, htwin, hdue⟩), ?_⟩
  rw [cluster_setCluster, set_setSet]
  exact ⟨rfl, rfl, rfl⟩

theorem stageCloses : StageCloses := by
  intro g
  unfold RtStage.close
  by_cases hn : g.n = 0 <;> simp [hn]

theorem statisticsRead : StatisticsRead := by
  refine ⟨fun s m msg sel cl user x h => ?_, fun s m msg sel cl user x h => ?_⟩
  all_goals
    have hm : s.rtMsg m = _ := h
    rw [exec_routerCmdStat]
    unfold execRouterCmdStat
    rw [hm]
    rfl

theorem rtMsg_msg? {r : RtReq} (h : AtRouter s m msg r cl user x) : s.msg? m = some msg := by
  unfold AtRouter State.rtMsg at h
  obtain ⟨a, ha, h⟩ := Option.bind_eq_some_iff.mp h
  rw [ha]
  split at h
  · obtain ⟨y, -, h⟩ := Option.bind_eq_some_iff.mp h
    dsimp only at h
    split at h
    · cases h
      rfl
    · cases h
  · cases h

/-- Where no take waits, a set that becomes idle answers the drain alone. -/
theorem rtIdle_of_no_takes {k : ClusterSt} (hk : k.takes = []) (hm : s.msg? m = some msg) (left : Nat) :
    (s.setCluster cl k).rtIdle cl n left [m] = (s.setCluster cl k).answer msg (.val (some (BitVec.ofNat 64 left))) := by
  have hmsg : (s.setCluster cl k).msg? m = some msg := hm
  unfold State.rtIdle
  simp only [cluster_setCluster, hk, List.filter_nil, List.foldl_nil, List.foldl_cons]
  have hsame : ({ k with takes := [] } : ClusterSt) = k := by rw [← hk]
  rw [hsame, setCluster_setCluster, hmsg]

theorem setsDrained : SetsDrained := by
  intro s m msg n cl user x h hnew
  have hm : s.rtMsg m = _ := h
  have hexec : exec (.routerCmdDrain m) s = _ := exec_routerCmdDrain m s
  unfold execRouterCmdDrain at hexec
  rw [hm] at hexec
  dsimp only at hexec
  rw [if_neg (by simpa using hnew)] at hexec
  refine ⟨fun hidle => hexec.trans (if_pos hidle), fun hopen hnone => ?_, fun hopen hsome => ?_⟩
  all_goals rw [if_neg (by rw [hopen]; nofun)] at hexec
  · rw [if_pos ⟨hopen, hnone⟩] at hexec
    refine ⟨hexec, fun hk => hexec.trans (congrArg _ (rtIdle_of_no_takes ?_ (rtMsg_msg? h) _))⟩
    exact hk
  · exact hexec.trans (if_neg (fun hc => hsome hc.2))

theorem lotterySeeded : LotterySeeded := by
  intro s m msg v cl user x h
  have hm : s.rtMsg m = _ := h
  have hexec : exec (.routerCmdSeed m) s = _ := exec_routerCmdSeed m s
  unfold execRouterCmdSeed at hexec
  rw [hm] at hexec
  refine ⟨_, hexec, ?_, rfl, rfl⟩
  unfold State.rtSeed
  rw [cluster_setCluster]

/-- Settles O43: windows close by their timer, and statistics, drains and seeds act on their set as stated. -/
theorem routerWindowsClose : Obligations.RouterWindowsClose := ⟨windowCloses, stageCloses, statisticsRead, setsDrained, lotterySeeded⟩

end Sys2Proof.Machine

end

section

namespace Sys2Proof.Machine

open Sys2Proof.Claims

variable {s : State} {off : Nat} {v : Word} {r : DevReg}

/-! ### Register writes that have an event of their own (R4, R279, R393) -/

/-- A write that the host's earlier ones do not hold up acts on its register. -/
theorem regEvent_of_writable (h : Writable s off r) {p : DevReg → Bool} (hp : p r = true) (name : String) (v : Word) :
    regEvent name p off v s = .next (s.devPut off v) := by
  obtain ⟨rfl, -, hhost⟩ := h
  exact if_pos ⟨hp, by simpa using hhost⟩

/-! ### A core's slot table (R187) -/

/-- A fault of a matrix instruction, and the end of its pairing, touch strands and pair channels alone. -/
theorem pairRaise_eq (s : State) (c : Nat) (cause : Cause) (detail : Nat) : s.pairRaise c cause detail = { s with ctxs := (s.pairRaise c cause detail).ctxs } := by
  unfold State.pairRaise
  dsimp only
  repeat' split
  all_goals rfl

/-- `t` differs from `s` in its strands and pair channels alone. -/
def Raised (s t : State) : Prop := t = { s with ctxs := t.ctxs, pairs := t.pairs }

theorem Raised.trans {t u : State} (h : Raised s t) (k : Raised t u) : Raised s u := by
  unfold Raised at *
  rw [k, h]

theorem Raised.foldl {α : Type} {f : State → α → State} (hf : ∀ t a, Raised t (f t a)) (l : List α) (s : State) : Raised s (l.foldl f s) := by
  induction l generalizing s with
  | nil => rfl
  | cons a l ih => exact (hf s a).trans (ih (f s a))

theorem raised_pairRaise (s : State) (c : Nat) (cause : Cause) (detail : Nat) : Raised s (s.pairRaise c cause detail) := by
  unfold Raised
  rw [pairRaise_eq]

theorem raised_pairDrop (s : State) (c code : Nat) : Raised s (s.pairDrop c code) := by
  unfold State.pairDrop
  split
  · rfl
  · next p hp =>
    dsimp only
    split
    · have hfree : Raised s (s.freePair p.id) := rfl
      exact hfree.trans (Raised.foldl (fun t d => raised_pairRaise t _ _ _) _ _)
    · rfl

/-- A table that is due takes effect; the strands whose slots it grants nothing fault. -/
theorem raised_switchTable {n : Nat} (hdue : s.tableDue n = true) :
    Raised (s.setCore n { s.core n with mxslot := (s.core n).pendSlot, strict := (s.core n).pendStrict, pendAt := none }) (s.switchTable n) := by
  unfold State.switchTable
  rw [hdue]
  exact Raised.foldl (fun t x => (raised_pairRaise t _ _ _).trans (raised_pairDrop _ _ _)) _ _

theorem switchTable_of_not_due {n : Nat} (hdue : s.tableDue n = false) : s.switchTable n = s := by
  unfold State.switchTable
  rw [hdue]
  rfl

theorem switchTable_core {n : Nat} (hdue : s.tableDue n = true) :
    (s.switchTable n).core n = { s.core n with mxslot := (s.core n).pendSlot, strict := (s.core n).pendStrict, pendAt := none }
      ∧ (s.switchTable n).matrixAc n = s.matrixAc n := by
  have h := raised_switchTable hdue
  generalize s.switchTable n = t at h
  rw [h]
  exact ⟨core_setCore_self (s := s) _ _, rfl⟩

theorem devPut_mxslot {n : Nat} (h : Writable s off (.mxslot n)) (v : Word) : s.devPut off v = s.pendTable n (fun k => { k with pendSlot := tableStored v }) := by
  obtain ⟨hreg, hfirm, -⟩ := h
  unfold State.devPut
  simp [hreg, hfirm]

theorem devPut_mxcfg {n : Nat} (h : Writable s off (.mxcfg n)) (v : Word) : s.devPut off v = s.pendTable n (fun k => { k with pendStrict := v.toNat % 2 = 1 }) := by
  obtain ⟨hreg, hfirm, -⟩ := h
  unfold State.devPut
  simp [hreg, hfirm]

theorem pendTable_of_not_due {n : Nat} (hdue : s.tableDue n = false) (f : CoreSt → CoreSt) :
    s.pendTable n f = s.setCore n { f (s.core n) with pendAt := some (s.matrixAc n) } := by
  unfold State.pendTable
  rw [switchTable_of_not_due hdue]

/-- A register of a core's slot table. -/
def DevReg.isTable : DevReg → Bool
  | .mxslot _ | .mxcfg _ => true
  | _ => false

theorem mxslotWrite_of_writable (h : Writable s off r) (hr : DevReg.isTable r = true) (v : Word) : exec (.mxslotWrite off v) s = .next (s.devPut off v) :=
  (exec_mxslotWrite off v s).trans (regEvent_of_writable h (p := DevReg.isTable) hr "MXSLOT_WRITE" v)

theorem slotTableSwitches : SlotTableSwitches := by
  refine ⟨fun s off n v h hdue => ?_, fun s off n v h hdue => ?_, fun s off n v h hdue => ?_, fun s n hdue => if_pos hdue,
    fun s n t0 hpend hlate hidle => ?_⟩
  · refine ⟨_, mxslotWrite_of_writable h rfl v, ?_, ?_⟩
    all_goals rw [devPut_mxslot h, pendTable_of_not_due hdue]
    rw [core_setCore_self]
  · exact (mxslotWrite_of_writable h rfl v).trans (by rw [devPut_mxcfg h, pendTable_of_not_due hdue])
  · obtain ⟨hcore, hac⟩ := switchTable_core hdue
    refine ⟨_, mxslotWrite_of_writable h rfl v, ?_⟩
    rw [devPut_mxslot h]
    unfold State.pendTable
    simp only [core_setCore_self, hcore, hac, and_self]
  · have hdue : s.tableDue n = true := by simp [State.tableDue, hpend, hlate]
    have hexec : exec (.slotTableSwitch n) s = .next (s.switchTable n) := (exec_slotTableSwitch n s).trans (if_pos hdue)
    rw [hexec]
    unfold State.switchTable
    rw [hdue]
    dsimp only
    rw [List.filter_eq_nil_iff.mpr (fun x hx => ?_)]
    · rfl
    · simp only [Bool.and_eq_true, decide_eq_true_eq, not_and, Bool.not_eq_true]
      rintro ⟨⟨hcore, hwaits⟩, -⟩
      exfalso
      unfold State.waitsGrant at hwaits
      rcases hidle x hx hcore with hplace | hseq
      · simp [hplace] at hwaits
      · cases hcur : x.cur with
        | none => simp [hcur] at hwaits
        | some ex => simp [hcur, hseq ex hcur] at hwaits

/-! ### A die's reset (R377) -/

theorem tcDec_eq (s : State) (d j : Nat) : s.tcDec d j = { s with sched := (s.tcDec d j).sched } := by
  unfold State.tcDec State.jobUpd
  split <;> rfl

/-- Losing the contexts of a die leaves memory and the dies' registers. -/
theorem loseContexts_keeps (s : State) (d : Nat) : (s.loseContexts d).mem = s.mem ∧ (s.loseContexts d).dies = s.dies
    ∧ (s.loseContexts d).ctxs = s.ctxs.filter (fun x => dieOf x.core ≠ d) := by
  have hfold (l : List Msg) (f : State → Msg → State) (hf : ∀ t m, (f t m).mem = t.mem ∧ (f t m).dies = t.dies) (s : State) :
      (l.foldl f s).mem = s.mem ∧ (l.foldl f s).dies = s.dies := by
    induction l generalizing s with
    | nil => exact ⟨rfl, rfl⟩
    | cons m l ih => exact ⟨(ih _).1.trans (hf s m).1, (ih _).2.trans (hf s m).2⟩
  have hlost (t : State) (m : Msg) (f : State → Msg → State) (hf : f t m = t ∨ ∃ d j, f t m = t.tcDec d j) : (f t m).mem = t.mem ∧ (f t m).dies = t.dies := by
    rcases hf with h | ⟨d, j, h⟩
    · rw [h]
      exact ⟨rfl, rfl⟩
    · rw [h, tcDec_eq]
      exact ⟨rfl, rfl⟩
  unfold State.loseContexts
  extract_lets mine waiting keep lost
  have h := hfold (s.net.filter (fun m => (keep m).isNone)) lost (fun t m => hlost t m lost ?_) s
  · exact ⟨h.1, h.2, rfl⟩
  · simp only [lost]
    split
    · exact .inr ⟨_, _, rfl⟩
    · exact .inr ⟨_, _, rfl⟩
    · exact .inl rfl

theorem dieReset : DieReset := by
  intro s off d v h hd
  have hexec := regEvent_of_writable h (p := fun r => match r with | .drst _ => true | _ => false) rfl "DRST_WRITE" v
  have hput : s.devPut off v = if v.toNat % 2 = 1 then s.dieReset d 0 else s := by
    obtain ⟨hreg, hfirm, -⟩ := h
    unfold State.devPut
    simp [hreg, hfirm]
  refine ⟨fun hv => ?_, fun hv hrun => ?_⟩
  · exact hexec.trans (by rw [hput, if_neg (by omega)])
  · obtain ⟨hmem, -, hctxs⟩ := loseContexts_keeps s d
    rw [if_pos hv, State.dieReset, if_neg (by rw [hrun]; omega)] at hput
    rw [hput] at hexec
    refine ⟨_, hexec, ?_, ?_, ?_, ?_, hmem, ?_⟩
    · rw [die_setDie_self]
    · rw [die_setDie_self]
    · intro x hx
      change x ∈ (s.loseContexts d).ctxs at hx
      rw [hctxs] at hx
      simpa using (List.mem_filter.mp hx).2
    · intro x hx hne
      change x ∈ (s.loseContexts d).ctxs
      rw [hctxs]
      exact List.mem_filter.mpr ⟨hx, by simpa using hne⟩
    · rw [die_setDie_self]

/-! ### Translation entries (R383, R384) -/

theorem devPut_tlbcmd {j : Nat} (h : Writable s off (.tlbcmd j)) (hbusy : (s.tlb j).busy = none) (v : Word) :
    s.devPut off v = s.setTlb j (Tlb.command v.toNat (s.tlb j)) := by
  obtain ⟨hreg, hfirm, -⟩ := h
  unfold State.devPut State.tlbPut
  simp [hreg, hfirm, hbusy]

theorem write_of_accepted {t : Tlb} (h : tlbRefused t.va t.pa = false) : t.write.entry t.sel = (t.va, t.pa) ∧ t.write.err = false
    ∧ (∀ i, i ≠ t.sel → t.write.entry i = t.entry i) ∧ (t.write.busy.isSome = decide (natBit (t.entry t.sel).1.toNat 7 = 1)) := by
  unfold Tlb.write
  rw [h]
  refine ⟨by simp [Tlb.entry], rfl, fun i hi => ?_, ?_⟩
  · change Option.getD (Option.map _ (List.find? _ (_ :: _))) _ = _
    rw [List.find?_cons_of_neg (by simpa using Ne.symm hi), find?_filter_ne _ _ _ hi]
    rfl
  · by_cases hb : natBit (t.entry t.sel).1.toNat 7 = 1 <;> simp [hb]

/-- The V bit of an entry that is cleared. -/
theorem natBit_clear_valid (w : Word) : natBit (w &&& ~~~(128 : Word)).toNat 7 = 0 := by
  have h : (w &&& ~~~(128 : Word)).getLsbD 7 = false := by simp
  rw [BitVec.getLsbD, Nat.testBit, Nat.shiftRight_eq_div_pow] at h
  simpa [natBit] using h

theorem inval_clears (t : Tlb) (all : Bool) : (t.inval all).busy.isSome = true ∧ natBit ((t.inval all).entry t.sel).1.toNat 7 = 0
    ∧ (all = true → ∀ e ∈ (t.inval all).entries, natBit e.2.1.toNat 7 = 0) := by
  refine ⟨rfl, ?_, fun hall e he => ?_⟩
  · unfold Tlb.entry
    cases hf : (t.inval all).entries.find? (fun e => e.1 = t.sel) with
    | none => rfl
    | some e =>
      have hsel : e.1 = t.sel := by simpa using List.find?_some hf
      obtain ⟨d, -, rfl⟩ := List.mem_map.mp (List.mem_of_find?_eq_some hf)
      split at hsel
      · next h => simp only [if_pos h, Option.map_some, Option.getD_some, natBit_clear_valid]
      · next h => exact absurd (by simp [hsel]) h
  · obtain ⟨d, -, rfl⟩ := List.mem_map.mp he
    subst hall
    simp only [Bool.true_or, if_true, natBit_clear_valid]

theorem translationsCommanded : TranslationsCommanded := by
  intro s off j v h hbusy
  have hput := devPut_tlbcmd h hbusy v
  have hevent (op : Nat) (hop : natBits v.toNat 0 2 = op) (name : String) : regEvent name (tlbOp op v) off v s = .next (s.devPut off v) :=
    regEvent_of_writable h (by simp [tlbOp, hop]) name v
  refine ⟨fun hop hok => ?_, fun hop hbad => ?_, fun hop => ?_, fun hop => ?_⟩
  all_goals
    have hexec := hevent _ hop
    rw [hput, Tlb.command, hop] at hexec
  · refine ⟨_, (exec_tlbWrite off v s).trans (hexec "TLB_WRITE"), ?_⟩
    rw [tlb_setTlb_self]
    exact write_of_accepted hok
  · refine (exec_tlbWrite off v s).trans ((hexec "TLB_WRITE").trans ?_)
    simp only [Tlb.write, hbad, if_true]
  · exact (exec_tlbRead off v s).trans (hexec "TLB_READ")
  · refine ⟨_, (exec_tlbInval off v s).trans (hexec "TLB_INVAL"), ?_⟩
    rw [tlb_setTlb_self]
    obtain ⟨hb, hsel, hall⟩ := inval_clears (s.tlb j) (natBit v.toNat 2 = 1)
    exact ⟨hb, hsel, fun h2 => hall (decide_eq_true h2)⟩

theorem translationDrains : TranslationDrains := by
  intro s j b hb hnet hctxs
  rw [exec_tlbCmdDrain]
  unfold execTlbCmdDrain
  simp only [hb]
  refine if_neg ?_
  simp only [Bool.or_eq_true, List.any_eq_true, Bool.and_eq_true, Option.any_eq_true, not_or, not_exists, not_and, Bool.not_eq_true]
  refine ⟨fun m hm hr h hh => hnet m hm (by simpa using hr) h hh, fun x hx => ⟨fun ex hex h hh => hctxs x hx ex (.inl hex) h hh,
    fun ex hex h hh => hctxs x hx ex (.inr hex) h hh⟩⟩

/-- Settles O45: a reset die loses its contexts alone, a pending table waits for its round, and commands act on their entries. -/
theorem resetsAndTranslationsAct : Obligations.ResetsAndTranslationsAct := ⟨dieReset, slotTableSwitches, translationsCommanded, translationDrains⟩

end Sys2Proof.Machine

end

section

namespace Sys2Proof.Machine

open Sys2Proof.Claims

variable {s : State}

/-! ### Launch queues (R380) -/

theorem lq_setLq (s : State) (q : Nat) (x : LaunchQ) : (s.setLq q x).lq q = x := by simp [State.lq, State.setLq]

theorem lqAdvance_lq (s : State) (q : Nat) : (s.lqAdvance q).lq q = { s.lq q with head := ((s.lq q).head + 1) % 2 ^ 64 }
    ∧ (s.lqAdvance q).launches = s.launches ∧ (s.lqAdvance q).msix = s.msix ++ (if (s.lq q).irq then [16 + q] else []) := by
  have h := lq_setLq s q { s.lq q with head := ((s.lq q).head + 1) % 2 ^ 64 }
  unfold State.lqAdvance
  dsimp only
  split
  · exact ⟨h, rfl, rfl⟩
  · exact ⟨h, rfl, (List.append_nil _).symm⟩

/-- The launch that a packet becomes (R380). -/
def State.packetLaunch (s : State) (ws : List Word) : Launch :=
  { id := s.nextId, ptr := ws.getD 0 0, packet := ws.take 4, card := none, die := ((List.range 8).find? (fun d => natBit (wordAt ws 1) d = 1)).getD 0
    started := false, words := [], args := [], walks := [], placed := 0, retired := [], counted := [], err := false, signalled := false, code := [] }

theorem packetsTaken : PacketsTaken := by
  intro s q ws hturn hfirm hpacket
  have hexec : exec (.launchPacketTake q) s = _ := exec_launchPacketTake q s
  unfold execLaunchPacketTake at hexec
  dsimp only at hexec
  rw [if_neg ?turn, hpacket] at hexec
  case turn => simp only [hturn, hfirm, ne_eq, not_true_eq_false, Bool.not_true, Bool.false_eq_true, or_self, not_false_eq_true]
  dsimp only at hexec
  refine ⟨fun hok => ?_, fun hbad => ⟨_, hexec.trans (if_pos hbad)⟩⟩
  rw [hok, if_neg Bool.false_ne_true] at hexec
  obtain ⟨hlq, hlaunches, hmsix⟩ := lqAdvance_lq (State.setLq { s with
    xdie := { s.xdie with lqNext := (q + 1) % 64 }, launches := s.launches ++ [s.packetLaunch ws], nextId := s.nextId + 1 } q
      { s.lq q with busy := some s.nextId }) q
  rw [lq_setLq] at hlq hmsix
  refine ⟨_, s.packetLaunch ws, ?_, hexec, rfl, rfl, rfl, rfl, congrArg LaunchQ.head hlq, congrArg LaunchQ.busy hlq, hmsix⟩
  exact hlaunches ▸ List.mem_append_right _ List.mem_cons_self

/-! ### The host's accesses (R379, R386) -/

/-- Requests that are sent one by one lengthen the list of those in flight, and memory stands. -/
theorem foldl_send_keeps {α : Type} (src : Src) (cls : Nat) (body : α → Body) (l : List α) (s : State) :
    (l.foldl (fun t a => t.send src cls (body a)) s).net.length = s.net.length + l.length
    ∧ (l.foldl (fun t a => t.send src cls (body a)) s).mem = s.mem := by
  induction l generalizing s with
  | nil => exact ⟨rfl, rfl⟩
  | cons a l ih =>
    obtain ⟨hlen, hmem⟩ := ih (s.send src cls (body a))
    refine ⟨hlen.trans ?_, hmem⟩
    simp only [State.send, State.sendIn, List.length_append, List.length_cons, List.length_nil]
    omega

theorem length_partData (ps : List Part) (bs : List Byte) : (partData ps bs).length = ps.length := by
  induction ps generalizing bs with
  | nil => rfl
  | cons p ps ih => exact congrArg (· + 1) (ih _)

theorem hostAccesses : HostAccesses := by
  have hexec (s : State) (a : HostAccess) (h0 : 0 < a.bytes) (h8 : a.bytes ≤ 8) (hsize : a.off + a.bytes ≤ s.xdie.bar2Size) :
      exec (.hostBar2Access a) s = .next (match s.bar2Parts a.off a.bytes a.wdata.isNone a.wdata.isSome with
        | .error f => s.hostFault a.off f
        | .ok ps =>
          match a.wdata with
          | none => s
          | some v => (partData ps (natLe a.bytes v.toNat)).foldl (fun (t : State) d => t.send .host 15 (.store d.1.place d.2 none d.1.ptr)) s) :=
    (exec_hostBar2Access a s).trans (if_neg (by omega))
  refine ⟨fun s a v ps h0 h8 hsize hw hps => ?_, fun s a ps h0 h8 hsize hw hps => ?_, fun s a f h0 h8 hsize hps => ?_,
    fun s a ps hbytes halign hsize hfeat hps => ?_⟩
  · have h := hexec s a h0 h8 hsize
    simp only [hw, Option.isNone_some, Option.isSome_some, hps] at h
    obtain ⟨hlen, hmem⟩ := foldl_send_keeps .host 15 (fun d : Part × List (Byte × Byte) => .store d.1.place d.2 none d.1.ptr)
      (partData ps (natLe a.bytes v.toNat)) s
    exact ⟨_, h, hlen.trans (by rw [length_partData]), hmem⟩
  · have h := hexec s a h0 h8 hsize
    simp only [hw, Option.isNone_none, Option.isSome_none, hps] at h
    exact h
  · have h := hexec s a h0 h8 hsize
    simp only [hps] at h
    exact h
  · have h : exec (.hostAtomicop a) s = _ := (exec_hostAtomicop a s).trans (if_neg (by rw [hfeat]; omega))
    simp only [hps] at h
    obtain ⟨hlen, hmem⟩ := foldl_send_keeps .host 15
      (fun p : Part => .atomic 0 (hostAmo a.op) a.bytes p.place a.y.toNat a.z.toNat .host .rlx p.ptr) ps s
    exact ⟨_, h, hlen, hmem⟩

/-! ### Links, windows, power and firmware (R378, R386, R388, R393) -/

theorem hostLinkLost : HostLinkLost := by
  intro s
  refine ⟨_, exec_hostLinkDown s, ?_⟩
  split <;> exact ⟨rfl, rfl⟩

theorem bar2Resized : Bar2Resized := by
  intro s k hk hwide
  rw [exec_bar2Resize]
  refine if_pos ⟨List.any_eq_true.mpr ⟨k, List.mem_range.mpr hk, decide_eq_true rfl⟩, hwide.imp_left (fun h => ?_)⟩
  exact Nat.pow_le_pow_right (by decide) h

/-- A MUL that the power manager chooses lies between 4 and the island's MAX, and the island's count stands. -/
theorem setMul_bounds (k : Island) (now free : Nat) (h4 : 4 ≤ k.max) : let m := 4 + free % (k.max - 3)
    (k.setMul now m).max = k.max ∧ 4 ≤ (k.setMul now m).mul ∧ (k.setMul now m).mul ≤ k.max ∧ (k.setMul now m).count now = k.count now := by
  have hmod : free % (k.max - 3) < k.max - 3 := Nat.mod_lt _ (by omega)
  refine ⟨rfl, Nat.le_add_right _ _, ?_, ?_⟩
  · change 4 + free % (k.max - 3) ≤ k.max
    omega
  · simp [Island.count, Island.setMul]

theorem find?_map_range {α : Type} (f : Nat → α) {n i : Nat} (hi : i < n) :
    ((List.range n).map (fun i => (i, f i))).find? (fun t => t.1 = i) = some (i, f i) := by
  rw [List.find?_map]
  have h : (List.range n).find? ((fun t : Nat × α => decide (t.1 = i)) ∘ fun i => (i, f i)) = some i := by
    rw [List.find?_range_eq_some]
    refine ⟨by simp, List.mem_range.mpr hi, fun j hj => ?_⟩
    simpa using (Nat.ne_of_lt hj)
  rw [h]
  rfl

theorem powerManaged : PowerManaged := by
  intro s hdue hmax
  refine ⟨_, (exec_powerManagerTick s).trans (if_neg (by omega)), rfl, fun i hi => ?_⟩
  obtain ⟨hm, h4, hle, hcount⟩ := setMul_bounds (s.island i) s.now (Config.freeNat (s.free + i)) (hmax i hi).1
  have hisland (t : State) (ht : t.xdie.islands = (List.range 128).map (fun i =>
      (i, (s.island i).setMul s.now (4 + Config.freeNat (s.free + i) % ((s.island i).max - 3))))) :
      t.island i = (s.island i).setMul s.now (4 + Config.freeNat (s.free + i) % ((s.island i).max - 3)) := by
    unfold State.island at ht ⊢
    rw [ht, find?_map_range _ hi]
    rfl
  rw [State.ac16, hisland _ rfl]
  exact ⟨hm, h4, hle, hcount⟩

/-- A record of a die's fault queue leaves the X-die as it is. -/
theorem postRecord_xdie (s : State) (d : Nat) (rec : List Byte) : (s.postRecord d rec).xdie = s.xdie := by
  unfold State.postRecord
  dsimp only
  split
  · rfl
  · split
    · rfl
    · split
      · rfl
      · simp only [State.storePlace]
        split <;> rfl

theorem firmwareVerified : FirmwareVerified := by
  refine ⟨fun s => rfl, fun s => ⟨_, exec_hitalBoot false s, ?_, rfl⟩⟩
  change (State.packageRecord _ _ _ _ _ _ _).xdie.firmware = false
  unfold State.packageRecord
  rw [postRecord_xdie]

/-- Settles O47: packets, host accesses and power acts have their effects on the machine, and nothing else of it changes. -/
theorem hostSideActs : Obligations.HostSideActs := ⟨packetsTaken, hostAccesses, hostLinkLost, bar2Resized, powerManaged, firmwareVerified⟩

end Sys2Proof.Machine

end

section

namespace Sys2Proof.Machine

open Sys2Proof.Claims

/-! ### Applying a matrix instruction: loads, steps to come, and instructions that are skipped -/

section Apply

variable {s : State} {x : Ctx} {ex : Exec} {k : Nat} {i : Instr} {v : Operands}

/-- Pieces that can all be read now give their bytes (R196). -/
theorem mxFetch_of_checked {rs : List MxRegion} {ps : List Part} (hcheck : s.mxCheck x ex.user false rs = .ok ps)
    (hclear : s.mxClear x ex ps = true) (hheld : s.mxHeld x ps = false) (hbad : s.mxBad ps = none) (n : Nat) (rest : List MxRegion) :
    s.mxFetch x ex n rs rest = .ok (ps.flatMap (fun p => memReadN s.mem p.place.key p.n)) := by
  have hcheck' := hcheck
  unfold State.mxCheck at hcheck'
  dsimp only at hcheck'
  split at hcheck'
  case h_2 => cases hcheck'
  case h_1 hnone =>
    injection hcheck' with hps
    have hgood := List.filterMap_eq_nil_iff.mp hnone
    unfold State.mxFetch
    dsimp only
    rw [List.takeWhile_eq_self_iff.mpr ?good]
    case good =>
      intro a ha
      have h := hgood a ha
      cases a with
      | error f => cases h
      | ok p => rfl
    rw [hps, hclear, hheld, hbad, hcheck]
    rfl

theorem mxApply_ldt {a : TileArgs} {bs : List Byte} (hopen : wholeOpen (.ldt a) v = true) (hbs : s.mxFetch x ex k (tileRows a v) [] = .ok bs) :
    s.mxApply x ex k (.ldt a) v = some (withExec s x ((ex.setElems a.td.toNat a.pair (chunk (accW a.pair / 8) 1024 bs)).mxApplied k)) := by
  simp only [State.mxApply, skip_eq_not_wholeOpen, hopen, hbs]
  rfl

/-- A sequence begins where the slot table can grant a step (R187). -/
theorem mxBegin_of_slot (h : s.noSlot x.core x.slot = false) (q : MxSeq) :
    s.mxBegin x ex q = withExec s x { ex with mx := { ex.mx with seq := some q } } := by
  rw [State.mxBegin, h]
  rfl

theorem mxApply_opa {a : OpaArgs} (hpred : ∀ b t, v.p = some (b, t) → t.wide = true ∨ predOpen v.p 0 = true)
    (hslot : s.noSlot x.core x.slot = false) :
    s.mxApply x ex k (.opa a) v = some (withExec s x { ex with mx := { ex.mx with seq := some ⟨k, 0, 1, [], [], []⟩ } }) := by
  have hopen : (match v.p with | some (_, t) => !t.wide && !predOpen v.p 0 | none => false) = false := by
    cases hp : v.p with
    | none => rfl
    | some bt =>
      obtain ⟨b, t⟩ := bt
      have h := hpred b t hp
      rw [hp] at h
      rcases h with h | h <;> simp [h]
  show (if (match v.p with | some (_, t) => !t.wide && !predOpen v.p 0 | none => false) then _ else some (s.mxBegin x ex _)) = _
  rw [hopen, mxBegin_of_slot hslot]
  rfl

/-- A matrix instruction that acts as one whole and is skipped counts as applied (R17, R191). -/
theorem mxApply_of_skipped (hmatrix : isMatrix i = true) (hskip : wholeOpen i v = false) (hmvvt : ∀ a, i ≠ .mvvt a) (hmvtv : ∀ a, i ≠ .mvtv a)
    (hopa : ∀ a, i ≠ .opa a) : s.mxApply x ex k i v = some (withExec s x (ex.mxApplied k)) := by
  cases i
  case mvvt a => exact absurd rfl (hmvvt a)
  case mvtv a => exact absurd rfl (hmvtv a)
  case opa a => exact absurd rfl (hopa a)
  case tz | ldt | stt | scld | gemmT | gemmTPair | cholT | trsmT | syrkT | qrT =>
    simp only [State.mxApply, skip_eq_not_wholeOpen, hskip, Bool.not_false, if_true]
    rfl
  all_goals cases hmatrix

end Apply

theorem matrixApplied : MatrixApplied := by
  refine ⟨?tz, ?mvvt, ?mvtv, ?ldt, ?opa, ?skipped⟩
  case tz => exact fun s c k x ex a v hdue hopen => exec_matrixApply_of_due hdue (mxApply_tz s x ex hopen)
  case mvvt => exact fun s c k x ex a v hdue => exec_matrixApply_of_due hdue rfl
  case mvtv => exact fun s c k x ex a v hdue => exec_matrixApply_of_due hdue rfl
  case ldt =>
    rintro s c k x ex a v hdue hopen ps bs hcheck hclear hheld hbad rfl
    exact exec_matrixApply_of_due hdue (mxApply_ldt hopen (mxFetch_of_checked hcheck hclear hheld hbad k []))
  case opa => exact fun s c k x ex a v hdue hpred hslot => exec_matrixApply_of_due hdue (mxApply_opa hpred hslot)
  case skipped =>
    exact fun s c k x ex i v hdue hmatrix hskip hmvvt hmvtv hopa =>
      exec_matrixApply_of_due hdue (mxApply_of_skipped hmatrix hskip hmvvt hmvtv hopa)

/-! ### Steps (R194) -/

section Steps

variable {s : State} {c : Nat} {x : Ctx} {ex : Exec} {q : MxSeq} {i : Instr} {v : Operands}

/-- What the step of an instruction does to the machine. -/
def State.mxStepOf (s : State) (x : Ctx) (ex : Exec) (q : MxSeq) (v : Operands) : Instr → Option State
  | .opa o => s.stepPut x (s.opaStep x ex q o v)
  | .gemmT o => s.stepPut x (s.gemmStep x ex q o v none).1
  | .gemmTPair o => s.pairStep x ex q o v
  | .cholT o => s.stepPut x (s.solverStep x ex q (.cholT o) o)
  | .trsmT o => s.stepPut x (s.solverStep x ex q (.trsmT o) o)
  | .syrkT o => s.stepPut x (s.solverStep x ex q (.syrkT o) o)
  | .qrT o => s.stepPut x (s.solverStep x ex q (.qrT o) o)
  | _ => none

/-- A granted step is the step of its instruction. -/
theorem exec_matrixStep_of_granted {t : State} (h : GrantedStep s c x ex q i v) (hstep : s.mxStepOf x ex q v i = some t) :
    exec (.matrixStep c) s = .next t := by
  obtain ⟨⟨hctx, hactive, hcur⟩, hseq, hgranted, hinstr, hops⟩ := h
  have htry : s.mxStepTry x = s.mxStepOf x ex q v i := by
    simp only [State.mxStepTry, hcur, hseq, hinstr, hops, hactive, Option.bind_eq_bind, Option.bind_some, ne_eq, not_true_eq_false, if_false]
    cases i <;> rfl
  simp only [exec_matrixStep, execMatrixStep, hctx, hgranted, if_true, htry, hstep]

/-- A step that computes puts its execution back, whether it ends the sequence or faults. -/
theorem stepPut_of_done {r : StepRes} {e : Exec} (h : r = .bad e ∨ ∃ l, r = .ok e l) : s.stepPut x r = some (withExec s x e) := by
  rcases h with rfl | ⟨l, rfl⟩ <;> rfl

theorem mxResult_ok {r : StepOut} (htrap : r.trap = none) (td : Nat) (pair : Bool) :
    ex.mxResult q td pair (.ok r) = .ok (stepped ex q td pair r) (decide (q.step + 1 = q.total)) := by
  have hflags : (ex.setElems td pair r.els).mx.flags = ex.mx.flags := by
    unfold Exec.setElems
    split <;> rfl
  obtain ⟨els, fl, trap⟩ := r
  obtain rfl : trap = none := htrap
  unfold Exec.mxResult stepped
  dsimp only at hflags ⊢
  rw [hflags, Exec.mxNext]
  by_cases hlast : q.step + 1 = q.total
  · rw [if_pos (decide_eq_true hlast), if_pos hlast, decide_eq_true hlast]
  · rw [if_neg (by simpa using hlast), if_neg hlast, decide_eq_false hlast]

end Steps

theorem matrixSteps : MatrixSteps := by
  refine ⟨?opa, ?gemm, ?solver⟩
  case opa =>
    intro s c x ex q a v r hstep hr htrap
    have hres : s.opaStep x ex q a v = _ := (congrArg (ex.mxResult q a.td.toNat _) hr).trans (mxResult_ok htrap _ _)
    exact exec_matrixStep_of_granted hstep (stepPut_of_done (.inr ⟨_, hres⟩))
  case gemm => exact fun s c x ex q a v e hstep hr => exec_matrixStep_of_granted hstep (stepPut_of_done hr)
  case solver =>
    intro s c x ex q i a v e hstep hi hr
    have hof : s.mxStepOf x ex q v i = s.stepPut x (s.solverStep x ex q i a) := by
      rcases hi with rfl | rfl | rfl | rfl <;> rfl
    exact exec_matrixStep_of_granted hstep (hof.trans (stepPut_of_done hr))

/-! ### Unscaled outer products (R204, R205, R208) -/

section Products

variable {d : Desc} {s : State} {x : Ctx} {ex : Exec} {q : MxSeq} {v : Operands}

/-- With no condition enabled, a step raises none (R195). -/
theorem collectStep_trap (ds : Nat) (rs : List (Nat × Flags)) : (collectStep 0 ds rs).trap = none := by
  simp [collectStep, fpTrap_zero]

theorem sideVals_unscaled (hscl : d.scl = 0) (f base k b : Nat) (scale : Nat → Nat) (i : Nat) (lane : Option Nat) :
    sideVals d f base k b scale i lane = .ok (lane.map (laneVals f d.ftz k)) := by
  cases lane <;> simp [sideVals, hscl]

/-- An unscaled step with no condition enabled meets no fault. -/
theorem mxStep_unscaled (hscl : d.scl = 0) (ds : Nat) (neg : Bool) (scale : Nat → Nat) (k b : Nat) (as bs : List (Option Nat)) (acc : List Nat) :
    ∃ r, mxStep 0 d ds neg scale k b as bs acc = .ok r ∧ r.trap = none := by
  have hsides (f base : Nat) (l : List (Option Nat)) : l.zipIdx.mapM (fun p => sideVals d f base k b scale p.2 p.1)
      = .ok (l.zipIdx.map (fun p => p.1.map (laneVals f d.ftz k))) := by
    simp only [sideVals_unscaled hscl]
    exact List.mapM_pure
  unfold mxStep
  split
  · exact ⟨_, rfl, rfl⟩
  · rw [hsides, hsides, ok_bind, ok_bind]
    exact ⟨_, rfl, collectStep_trap ds _⟩

/-- With no condition enabled, a step of an unscaled product whose blocks are there completes with the elements of its outer product. -/
theorem gemmStep_unscaled {a : GemmArgs} {given : Option Nat} {av bv : Nat} (hfe : (ex.env x q.idx).fe = 0)
    (hd : Desc.ofWord ((ex.env x q.idx).d.getD a.ds.toNat 0) = d) (hscl : d.scl = 0)
    (hblocks : s.gemmBlocks x ex q a v given q.step = .ok (av, bv)) :
    ∃ r, mxStep 0 d a.ds.toNat false (ex.scaleAt x) ((mxPack d).getD 1) (q.step * (mxPack d).getD 1 / 32) ((unpackNat 64 av 32).map some)
        ((unpackNat 64 bv 32).map some) (s.tileElems x ex a.td.toNat (wideAcc d)) = .ok r ∧ r.trap = none
      ∧ s.gemmStep x ex q a v given = (.ok (stepped ex q a.td.toNat (wideAcc d) r) (decide (q.step + 1 = q.total)), some av) := by
  have hrun : runLen d ((mxPack d).getD 1) = 0 := by rw [runLen, hscl]; rfl
  obtain ⟨r, hr, htrap⟩ := mxStep_unscaled hscl a.ds.toNat false (ex.scaleAt x) ((mxPack d).getD 1) (q.step * (mxPack d).getD 1 / 32)
    ((unpackNat 64 av 32).map some) ((unpackNat 64 bv 32).map some) (s.tileElems x ex a.td.toNat (wideAcc d))
  refine ⟨r, hr, htrap, ?_⟩
  rw [wideAcc] at hr
  unfold State.gemmStep
  simp only [hd, hfe, hrun, ne_eq, not_true_eq_false, false_and, if_false, if_true, hblocks, hr, mxResult_ok htrap]
  rfl

end Products

theorem productSteps : ProductSteps := by
  intro s c x ex q a v av bv hstep hfe d k hscl hblocks
  obtain ⟨r, hr, htrap, hgemm⟩ := gemmStep_unscaled hfe rfl hscl hblocks
  exact ⟨r, hr, htrap, exec_matrixStep_of_granted hstep (stepPut_of_done (.inr ⟨_, congrArg Prod.fst hgemm⟩))⟩

end Sys2Proof.Machine

end

section

namespace Sys2Proof.Machine

open Sys2Proof.Claims

/-! ### Instructions that are passed over (R191) -/

/-- A bit is set once a member of the list has set it. -/
theorem getLsbD_foldl_or {α : Type} (f : α → Nat) {n : Nat} (hn : n < 64) : ∀ (l : List α) (w : BitVec 64),
    w.getLsbD n = true ∨ (∃ a ∈ l, f a = n) → (l.foldl (fun b a => b ||| BitVec.ofNat 64 (2 ^ f a)) w).getLsbD n = true
  | [], w, h => by simpa using h
  | a :: l, w, h => by
    refine getLsbD_foldl_or f hn l _ ?_
    rw [BitVec.getLsbD_or, Bool.or_eq_true]
    rcases h with hw | ⟨b, hb, hbn⟩
    · exact .inl (.inl hw)
    · rcases List.mem_cons.mp hb with rfl | hb
      · refine .inl (.inr ?_)
        rw [hbn, BitVec.getLsbD_ofNat, Nat.testBit_two_pow_self, Bool.and_true, decide_eq_true hn]
      · exact .inr ⟨b, hb, hbn⟩

/-- The matrix instructions that have not fired, nor been passed over before. -/
def Exec.unfiredMx (ex : Exec) : List (Nat × Instr) := ex.matrices.filter (fun t => !ex.done t.1 && !ex.mxPast t.1)

/-- The execution with every one of them passed over. -/
def Exec.passUnfired (ex : Exec) : Exec :=
  { ex with mx := { ex.mx with passed := ex.unfiredMx.foldl (fun b t => b ||| BitVec.ofNat 64 (2 ^ t.1)) ex.mx.passed } }

theorem mxPast_passUnfired {ex : Exec} {t : Nat × Instr} (hmem : t ∈ ex.matrices) (hlt : t.1 < 64) (hdone : ex.done t.1 = false) :
    ex.passUnfired.mxPast t.1 = true := by
  show (ex.mx.applied.getLsbD t.1 || (ex.unfiredMx.foldl _ ex.mx.passed).getLsbD t.1) = true
  rw [Bool.or_eq_true]
  cases hpast : ex.mxPast t.1 with
  | false => exact .inr (getLsbD_foldl_or Prod.fst hlt _ _ (.inr ⟨t, List.mem_filter.mpr ⟨hmem, by rw [hdone, hpast]; rfl⟩, rfl⟩))
  | true =>
    rw [Exec.mxPast, Bool.or_eq_true] at hpast
    exact hpast.imp_right fun h => getLsbD_foldl_or Prod.fst hlt _ _ (.inl h)

theorem matrixPassedOver : MatrixPassedOver := by
  rintro s c k x ex ⟨hctx, hactive, hcur⟩ hquiet hloads hseq hbusy hdue ⟨i, hk⟩ hdone hpast
  refine ⟨ex.passUnfired, ?_, fun t hmem hlt hdone => mxPast_passUnfired hmem hlt hdone, rfl, rfl, rfl⟩
  have hnodue : ex.matrices.all (fun t => !ex.mxDue t.1) = true := List.all_eq_true.mpr fun t ht => by rw [hdue t ht]; rfl
  have hready : (!ex.canFire && ex.loads.isEmpty && ex.mx.seq.isNone && ex.mxBusy && ex.matrices.all (fun t => !ex.mxDue t.1)) = true := by
    rw [hquiet, hloads, hseq, hbusy, hnodue]
    rfl
  have hwait : (ex.matrices.filter (fun t => !ex.done t.1 && !ex.mxPast t.1)).any (fun t => t.1 = k) = true :=
    List.any_eq_true.mpr ⟨(k, i), List.mem_filter.mpr ⟨hk, by rw [hdone, hpast]; rfl⟩, decide_eq_true rfl⟩
  rw [exec_matrixPassOver]
  unfold execMatrixPassOver
  rw [hctx]
  dsimp only
  rw [hcur]
  exact if_pos ⟨hactive, hready, hwait⟩

/-! ### Roped pairs: the timer, and the two sides' requests (R238, R239) -/

theorem pairTimerExpires : PairTimerExpires := by
  intro s ch p hp hstage hlate
  rw [exec_pairTimerExpire]
  unfold execPairTimerExpire
  rw [hp]
  exact if_pos ⟨hstage, hlate⟩

section Post

variable {s : State} {x : Ctx} {req : PairSide}

theorem setCtx_setCtx (s : State) {x y : Ctx} (h : y.id = x.id) : (s.setCtx x).setCtx y = s.setCtx y := by
  simp only [State.setCtx, List.map_map]
  congr 1
  refine List.map_congr_left fun z _ => ?_
  by_cases hz : z.id = x.id <;> simp [hz, h]

/-- The first side to post opens its channel. -/
theorem pairPost_alone (h : s.pair? (pairId x.core x.slot) = none) : s.pairPost x req
    = some (s.setPair ⟨pairId x.core x.slot, .half, [req], s.ac16 (matrixIsland x.core), [], [], req, []⟩) := by
  unfold State.pairPost
  dsimp only
  rw [h]

/-- A strand with a slot that the table can grant loses nothing as it asks for its first grant (R187). -/
theorem pairGrant_setPair {y : Ctx} {c : Nat} (hy : s.ctx? c = some y) (hslot : s.noSlot y.core y.slot = false) (p : PairCh) :
    (s.setPair p).pairGrant c = s.setPair p := by
  unfold State.pairGrant
  rw [show (s.setPair p).ctx? c = some y from hy]
  exact if_neg (Bool.eq_false_iff.mp (show (s.setPair p).noSlot y.core y.slot = false from hslot))

/-- Beside a matching request of the other side, the steps begin. -/
theorem pairPost_matching {p : PairCh} {side : PairSide} {y z : Ctx} (hp : s.pair? (pairId x.core x.slot) = some p) (hstage : p.stage = .half)
    (hparty : p.party = []) (hsides : p.sides = [side]) (hlead : side.lead ≠ req.lead) (hfits : side.fits req = true)
    (hy : s.ctx? side.ctx = some y) (hyslot : s.noSlot y.core y.slot = false) (hz : s.ctx? x.id = some z)
    (hzslot : s.noSlot z.core z.slot = false) :
    s.pairPost x req = some (s.setPair { p with stage := .run, sides := [side, req], blocks := [], ended := [], party := [] }) := by
  unfold State.pairPost
  simp [hp, hstage, hparty, hsides, hlead, hfits, pairGrant_setPair hy hyslot, pairGrant_setPair hz hzslot]

/-- The machine after a side's step: its part is over with its last step, and the second side's frees the channel. -/
def State.pairAfter (s : State) (p : PairCh) : State := if p.ended.length = 2 then s.freePair p.id else s.setPair p

/-- A step of an unscaled roped product that computes: the lead sends its block of A, and the follower takes the first that was sent. -/
theorem pairStep_of_ok {ex e : Exec} {q : MxSeq} {a : GemmArgs} {v : Operands} {p : PairCh} {d : Desc} {last : Bool} {av : Nat}
    (hp : s.pair? (pairId x.core x.slot) = some p) (hactive : s.pairActive p = true) (hd : Desc.ofWord (ex.img.d.getD a.ds.toNat 0) = d)
    (hscl : d.scl = 0) (hblocks : if x.isLead then p.blocks.length < 8 else (if x.isLead then none else p.blocks.head?.map (·.2)).isSome = true)
    (hgemm : s.gemmStep x ex q a v (if x.isLead then none else p.blocks.head?.map (·.2)) = (.ok e last, some av)) :
    s.pairStep x ex q a v = some ((withExec s x e).pairAfter { p with
      blocks := if x.isLead then p.blocks ++ [(q.step, av)] else p.blocks.drop 1, ended := if last then p.ended ++ [x.id] else p.ended }) := by
  have hrun : runLen d ((mxPack d).getD 1) = 0 := by rw [runLen, hscl]; rfl
  unfold State.pairStep
  rw [hp]
  cases hlead : x.isLead with
  | true =>
    simp only [hlead, if_true] at hblocks hgemm
    simp only [hd, hrun, hactive, hgemm, ne_eq, not_true_eq_false, decide_false, Bool.false_and, Bool.not_false, Bool.true_and,
      Bool.not_true, decide_eq_false (Nat.not_le.mpr hblocks), Bool.false_eq_true, if_false, if_true]
    rfl
  | false =>
    simp only [hlead, Bool.false_eq_true, if_false] at hblocks hgemm
    simp only [hd, hrun, hactive, hgemm, ne_eq, not_true_eq_false, decide_false, Bool.false_and, Bool.not_false, Bool.true_and,
      Bool.not_true, Option.isNone_eq_false_iff.mpr hblocks, Bool.and_false, Bool.false_eq_true, if_false]
    rfl

end Post

/-! ### From firing to application (R190, R191) -/

section Next

variable {i : Instr} {s : State} {st : Site} {o : Operands}

/-- A site of a pitch that is not speculative holds its strand as it stands, and what that strand runs. -/
theorem site_cur (hsite : s.site = some st) (hspec : st.f.spec = false) : s.ctx? st.f.c = some st.x ∧ st.x.cur = some st.ex := by
  have hfiring := firing_of_site hsite
  simp only [State.site, hfiring, hspec, Option.bind_eq_bind, Option.bind_some, Option.bind_eq_some_iff, Bool.false_eq_true, if_false] at hsite
  obtain ⟨x, hx, ex, hex, hst⟩ := hsite
  rw [← Option.some.inj hst]
  exact ⟨hx, hex⟩

/-- The machine once the pitch that belays next has an execution put back. -/
theorem put_cur (hspec : st.f.spec = false) (s : State) (e : Exec) : st.put s e = s.setCtx { st.x with cur := some e } := by
  rw [Site.put, Site.putCtx, hspec]
  rfl

theorem put_ctx? (hsite : s.site = some st) (hspec : st.f.spec = false) (e : Exec) :
    (st.put s e).ctx? st.f.c = some { st.x with cur := some e } := by
  have hctx := (site_cur hsite hspec).1
  rw [put_cur hspec]
  exact ctx?_setCtx hctx (show st.x.id = st.f.c from ctx?_id hctx)

theorem put_ctx?_ne (hspec : st.f.spec = false) (e : Exec) {c : Nat} (h : c ≠ st.x.id) : (st.put s e).ctx? c = s.ctx? c := by
  rw [put_cur hspec]
  exact ctx?_setCtx_ne s _ h

theorem operands_of_new (hreform : st.f.reform = false) {sl : Slots} (h : st.operands? sl = some o) :
    st.x.place = .active ∧ st.ex.operands st.f.idx sl = some o := by
  unfold Site.operands? at h
  rw [hreform] at h
  split at h
  · cases h
  · next hactive =>
    simp only [Bool.false_eq_true, if_false] at h
    split at h
    · cases h
    · exact ⟨not_not.mp hactive, h⟩

/-- The next matrix instruction is due once it has fired. -/
theorem due_of_next (h : NextMatrix i s st o) : DueMatrix (firedState s st) st.f.c st.f.idx (firedCtx st) (firedMx st) i o := by
  obtain ⟨⟨⟨hsite, -, hops, -⟩, hreform⟩, hspec, hidx, -, hinstr, hseq, hpast, hblocked, hbefore⟩ := h
  obtain ⟨hactive, hops⟩ := operands_of_new hreform hops
  refine ⟨⟨put_ctx? hsite hspec _, hactive, rfl⟩, ?due, hinstr, hops⟩
  case due =>
    have hfired : (firedMx st).fired.getLsbD st.f.idx = true := by
      show (st.ex.fired ||| BitVec.ofNat 64 (2 ^ st.f.idx)).getLsbD st.f.idx = true
      rw [BitVec.getLsbD_or, BitVec.getLsbD_ofNat, Nat.testBit_two_pow_self, decide_eq_true hidx, Bool.and_self, Bool.or_true]
    have hall : st.ex.matrices.all (fun t => decide (st.f.idx ≤ t.1) || st.ex.mxPast t.1) = true := by
      refine List.all_eq_true.mpr fun t ht => ?_
      rcases Nat.lt_or_ge t.1 st.f.idx with hlt | hge
      · rw [hbefore t ht hlt, Bool.or_true]
      · rw [decide_eq_true hge, Bool.true_or]
    show ((firedMx st).fired.getLsbD st.f.idx && !st.ex.mxPast st.f.idx && st.ex.mx.seq.isNone && !st.ex.mxBlocked st.f.idx
      && st.ex.matrices.all (fun t => decide (st.f.idx ≤ t.1) || st.ex.mxPast t.1)) = true
    rw [hfired, hpast, hseq, hblocked, hall]
    rfl

/-- What the next matrix instruction leaves when its check passes. -/
theorem fireMx_of_next (h : NextMatrix i s st o) {check : Site → Operands → Except Raw Unit} (hcheck : check st o = .ok ()) :
    fireMx i s check = .next (firedState s st) := by
  obtain ⟨⟨hfires, -⟩, -, -, -, -, -, hpast, -⟩ := h
  rw [Exec.mxPast, Bool.or_eq_false_iff] at hpast
  rw [fireMx, fire_of_fires hfires]
  simp only [hpast.2, hcheck, Bool.false_eq_true, if_false]
  rfl

/-- What gemm.t.pair accepts passes its check (R190, R204, R207). -/
theorem gemmFire_of_accepts {a : GemmArgs} (h : mxAccepts st o (.gemmTPair a) = some true) : gemmFire a st o = .ok () := by
  simp only [mxAccepts, Option.some.injEq, Bool.and_eq_true] at h
  obtain ⟨⟨⟨⟨hdesc, hwindow⟩, hp⟩, hl⟩, hr⟩ := h
  unfold gemmFire mxDesc mxWindow mxWhole
  rw [show descCheck (st.ex.env st.x st.f.idx) a.ds useTwo (fun d => (mxPack d).isSome && d.rm != 5 && mxScaleOk d true) = _ from
    descCheck_ok hdesc, ok_bind, need_of_true (by simpa only [Bool.and_eq_true] using hwindow), ok_bind, need_of_true (by rw [hp, hl, hr]; rfl)]

/-- The application of gemm.t.pair posts its side's request while its own strand waits for the grants. -/
theorem mxApply_gemmTPair {a : GemmArgs} {q : MxSeq} (hspec : st.f.spec = false) (hopen : wholeOpen (.gemmTPair a) o = true)
    (hq : (firedState s st).gemmSeq (firedCtx st) (firedMx st) st.f.idx a o (!st.x.isLead) = .ok q) :
    (firedState s st).mxApply (firedCtx st) (firedMx st) st.f.idx (.gemmTPair a) o
      = (st.put s (waiting st q)).pairPost (firedCtx st) (pairRequest st a) := by
  have hput : (firedState s st).setCtx { firedCtx st with cur := some (waiting st q) } = st.put s (waiting st q) := by
    rw [firedState, put_cur hspec, put_cur hspec, setCtx_setCtx]
    · rfl
    · rfl
  rw [← hput]
  simp only [State.mxApply, skip_eq_not_wholeOpen, hopen, show (firedCtx st).isLead = st.x.isLead from rfl, hq]
  rfl

end Next

theorem ropedProductsComplete : RopedProductsComplete := by
  refine ⟨?posts, ?steps⟩
  case posts =>
    intro s st o a q hnext hopen hq
    have ⟨⟨⟨hsite, _⟩, _⟩, hspec, _, haccepts, _⟩ := hnext
    have happly := mxApply_gemmTPair hspec hopen hq
    refine ⟨fireMx_of_next hnext (gemmFire_of_accepts haccepts), fun hnone => ?alone, fun p side y hp hstage hparty hsides hlead hfits hy hne
      hyslot hslot => ?beside⟩
    case alone => exact exec_matrixApply_of_due (due_of_next hnext) (happly.trans (pairPost_alone hnone))
    case beside =>
      have hside : side.ctx ≠ st.x.id := fun h => hne ((ctx?_id hy).trans h)
      have hyput : (st.put s (waiting st q)).ctx? side.ctx = some y := (put_ctx?_ne hspec _ hside).trans hy
      have hxput : (st.put s (waiting st q)).ctx? st.x.id = some { st.x with cur := some (waiting st q) } := by
        rw [ctx?_id (site_cur hsite hspec).1]
        exact put_ctx? hsite hspec _
      exact exec_matrixApply_of_due (due_of_next hnext) (happly.trans (pairPost_matching (x := firedCtx st) (req := pairRequest st a)
        hp hstage hparty hsides hlead hfits hyput hyslot hxput hslot))
  case steps =>
    intro s c x ex q a v p av bv hstep hfe hp hactive d k last given p1 hscl hsent hblocks
    obtain ⟨r, hr, htrap, hgemm⟩ := gemmStep_unscaled hfe rfl hscl hblocks
    exact ⟨r, hr, htrap, exec_matrixStep_of_granted hstep (pairStep_of_ok hp hactive rfl hscl hsent hgemm)⟩

/-- Settles O17: an application is what `mxApply` makes of its operands, a granted step is the step of its instruction, an unscaled step
without an enabled condition cannot fault, and a side of a pair posts to the channel of its position. -/
theorem matrixUnitApplies : Obligations.MatrixUnitApplies :=
  ⟨matrixApplied, matrixSteps, productSteps, ropedProductsComplete, matrixPassedOver, pairTimerExpires⟩

end Sys2Proof.Machine

end
